-- ==== Sys2Proof/Word.lean ====
section
/-! DEFINITION. The word types of the JV-2048 (R5, R7): what the manual treats as bits is a bit vector,
and nothing else is. -/

namespace Sys2Proof

/-- A byte of memory, scratchpad or a tile register. -/
abbrev Byte := BitVec 8

/-- A 32-bit register value (v, s and m registers, R7). -/
abbrev Word := BitVec 32

/-- A doubleword: a register pair, an instruction word or a clause header (R62, R66). -/
abbrev DWord := BitVec 64

/-- A 56-bit virtual address (R180). -/
abbrev Addr := BitVec 56

/-- Four mask bits of a slice: EXEC, a path mask or a k register (R7, R26). -/
abbrev Mask := BitVec 4

end Sys2Proof
end

