-- ==== Sys2Proof/Config.lean ====
section
/-! DEFINITION. What the manual leaves open (free values, without a body: nothing can be proved about
their value) and the fixed sizes of the part. -/

namespace Sys2Proof.Config

/-- Free 32-bit pattern number `n`: an UNDEFINED register result (R2, R51), or a value the manual does
not state. Log entry 3. -/
opaque freeWord : Nat → BitVec 32

/-- Free choice number `n`, wherever the manual lets the device take either of two values
(R84, R180). Log entry 4. -/
opaque freeBool : Nat → Bool

/-- Candidate result of FSIN, a function of the operand alone (R167). Log entry 5. -/
opaque sinCandidate : BitVec 32 → BitVec 32

/-- Candidate result of FCOS, a function of the operand alone (R167). Log entry 5. -/
opaque cosCandidate : BitVec 32 → BitVec 32

/-- Candidate result of FTANH, a function of the operand alone (R167). Log entry 5. -/
opaque tanhCandidate : BitVec 32 → BitVec 32

/-- A byte of a version that the collector has reclaimed, as a read whose snapshot selects it returns it: by address,
snapshot and the packets sent so far. Log entry 20. -/
opaque goneByte : Nat → Nat → Nat → BitVec 8

/-- The timestamp of such a version, as SNAP returns it. Log entry 20. -/
opaque goneStamp : Nat → Nat → Nat → Nat

/-- The verdict of SLH-DSA-SHAKE-256s and SHAKE256 over an image's header and body under a key (R370): the
manual names the algorithms and gives neither. The key of slot 0, in the Gazebo's read-only memory, is the
empty list. Log entry 6. -/
opaque imageSigned : List (BitVec 8) → List (BitVec 8) → Bool

/-- SHAKE256 with a 64-byte output (R370, R372). Log entry 6. -/
opaque shake256 : List (BitVec 8) → BitVec 512

/-- The Gazebo's signature over an evidence report (R372). Log entry 6. -/
opaque evidenceSignature : List (BitVec 8) → List (BitVec 8)

/-- What a device register is, as far as the manual gives its content: entry `entry` of a partition's multicast group table
(R331), TEST.INTERVAL (R365), the readiness summary (R369), a partition's CTX.RANGE (R378), a core's memory-mapped window
(R58), what Fjondan configures for the host (the mailbox, the evacuation enable, PF0's ranges, a VF's BAR2 window: R377, R379,
R380), the CXL windows and decoder ranges (R379), the device-grid coordinates of the system's assignment (R329) and the groups
whose reductions Fjondan designates a switch for (R333), or one that the manual only says lies there. -/
inductive DevReg
  | other
  | mcast (part entry : Nat)
  | testInterval
  | readiness
  | ctxRange (part : Nat)
  | window (cid : Nat)
  | mailbox
  | evacEnable
  | hostRange (n : Nat)
  | cxlWindow (n : Nat)
  | bar2 (part : Nat)
  | cxlRange (n : Nat)
  | coords
  | switchFold (group : Nat)
  deriving DecidableEq, Repr, Inhabited

/-- The device register at a physical address, and the byte of it there: the manual places none of them. Log entry 45. -/
opaque devReg : Nat → DevReg × Nat

/-- Logical columns and rows of the plane (R17). -/
def columns : Nat := 64

/-- Logical rows of the plane (R17). -/
def rows : Nat := 32

/-- Bytes of a core's scratchpad space (R176). -/
def scratchBytes : Nat := 393216

/-- First byte of the supervisor area (R176). -/
def supervisorBase : Nat := 376832

/-- Cycles of the settle window (R362). -/
def settleCycles : Nat := 128

/-- Package memory in the interleaved view: 180 GiB (R178). -/
def packageBytes : Nat := 180 * 1024 * 1024 * 1024

/-- Second-tier LPDDR: 3072 GB (R178). -/
def secondTierBytes : Nat := 3072 * 1000 * 1000 * 1000

end Sys2Proof.Config
end

