-- ==== Sys2Proof/Forms.lean ====
section
/-! DEFINITION. The operands and qualifiers of instructions, and what the part's other steps carry. -/

namespace Sys2Proof

/-- The special values of R71, in specifier order from 0x80 to 0x9E. -/
inductive Special
  | laneId | sliceId | groupId | teamX | teamY | twinId | clusterX | clusterY | clusterZ | coreX | coreY
  | gridX | gridY | gridZ | teamGroups | clusterW | clusterH | clockLo | clockHi | paramLo | paramHi
  | snapLo | snapHi | devX | devY | devZ | ctxId | launchId | planeOff | planeSize | scrSize
  deriving DecidableEq, Repr

/-- An operand specifier (R70). `m` stands for specifiers 0x00 to 0x0F in a matrix stream (R74). -/
inductive Opnd
  | v (n : BitVec 6)
  | s (n : BitVec 5)
  | k (n : BitVec 3)
  | t (n : BitVec 4)
  | a (n : BitVec 3)
  | sp (x : Special)
  | pos (n : BitVec 5)     -- inline integers 0 to 31
  | neg (n : BitVec 4)     -- inline integers -16 to -1: value n - 16
  | fp (n : BitVec 4)      -- inline FP32 constants (R72)
  | m (n : BitVec 4)
  deriving DecidableEq, Repr

/-- The fields every group-stream instruction carries: DIST, SIG and PM (R66, R67). -/
structure Ctl where
  dist : BitVec 3
  sig  : BitVec 4
  pm   : BitVec 3
  deriving DecidableEq, Repr

/-- Integer TYPE codes 0 to 7 (R75). -/
inductive IntTy | i8 | i16 | i32 | i64 | n8 | n16 | n32 | n64
  deriving DecidableEq, Repr

/-- Integer comparison COND codes 0 to 5 (R75). -/
inductive Cond | eq | ne | lt | le | gt | ge
  deriving DecidableEq, Repr

/-- Float operand format FTYPE (R75, R158). -/
inductive FTy | f32 | f16x2 | bf16x2
  deriving DecidableEq, Repr

/-- Rounding RND (R75, R144). -/
inductive Rnd | rne | rtz | rup | rdn
  deriving DecidableEq, Repr

/-- Float comparison FCOND codes 0 to 7 (R75, R163). -/
inductive FCond | eq | ne | lt | le | gt | ge | unord | ord
  deriving DecidableEq, Repr

/-- The operand modifiers of the first two float operands (R75, R159). -/
structure FMods where
  nega : Bool
  absa : Bool
  negb : Bool
  absb : Bool
  deriving DecidableEq, Repr

/-- Access size (R68). -/
inductive Size | b | h | w | d
  deriving DecidableEq, Repr

/-- Memory ORDER (R75). -/
inductive Order | rlx | acq | rel | acqrel | sc
  deriving DecidableEq, Repr

/-- Scope of an order, an acquire or a release (R75). -/
inductive Scope | team | cluster | device | system
  deriving DecidableEq, Repr

/-- Window direction DIR (R68). -/
inductive Dir | n | ne | e | se | s | sw | w | nw
  deriving DecidableEq, Repr

/-- SHFL MODE (R118). -/
inductive ShflMode | idx | up | down | xor
  deriving DecidableEq, Repr

/-- SHFL segment width (R118). -/
inductive Seg | w32 | w16 | w8 | w4
  deriving DecidableEq, Repr

/-- VOTE FORM (R119). -/
inductive VoteForm | any | all | uni
  deriving DecidableEq, Repr

/-- LANEID FORM (R121). -/
inductive LaneForm | id | rank | count | mask
  deriving DecidableEq, Repr

/-- CVT type codes 0 to 10 (R168). -/
inductive CvtTy | i8 | i16 | i32 | i64 | n8 | n16 | n32 | n64 | f32 | f16 | bf16
  deriving DecidableEq, Repr

/-- ICINV scope (R84). -/
inductive IcScope | core | cluster | context
  deriving DecidableEq, Repr

/-- TLBINV scope (R360). -/
inductive TlbScope | page | context | all
  deriving DecidableEq, Repr

/-- MDRAIN RSCOPE (R288). -/
inductive RScope | none | cluster | device | system
  deriving DecidableEq, Repr

/-- MDRAIN DEST (R288). -/
inductive DrainDest | scr | mem | net
  deriving DecidableEq, Repr

/-- Kind of a faulting access in a service request (R346). -/
inductive AccKind | read | write | fetch | launchRecord | tableWalk
  deriving DecidableEq, Repr

/-- One member's contribution to a collective as it reaches its reduction slot: the member's device
coordinates, its operator, axes, box, element size and count, and its elements (R266, R333). -/
structure Contribution where
  group : Nat
  tag   : Nat
  ctx   : Nat
  dev   : Nat × Nat × Nat
  rop   : Nat
  repl  : BitVec 3
  box   : BitVec 44
  tmo   : Nat
  es    : Size
  data  : List DWord
  /-- The member took reason 2, 3 or 6: it has no data (R267). -/
  fail  : Bool
  deriving DecidableEq, Repr

/-- What another device sends of a collective that is folded there: its key, and the result or the status (R333). -/
structure CollMsg where
  group : Nat
  tag   : Nat
  ctx   : Nat
  data  : List DWord
  status : Nat
  deriving DecidableEq, Repr

/-- A block of a copy: the next element of a command, or a packet that reaches its core (R249). -/
inductive BlkStep | element (cmd : Nat) | packet (pkt : Nat)
  deriving DecidableEq, Repr

/-- A contribution reaches an I/O die in a packet of this device, or comes from another device, for a collective that has
ended since (`late`) or has not (R333, R334). -/
inductive ContStep | packet (pkt : Nat) | remote (x : Contribution) (late : Bool)
  deriving DecidableEq, Repr

/-- The end of a collective reaches its command in a packet of this device, or comes from another device (R333). -/
inductive CollStep | packet (pkt : Nat) | remote (m : CollMsg)
  deriving DecidableEq, Repr

/-- What recovers from a strike: a core, or one matrix sequencer of it (R362, R363). -/
inductive Strike | core (cid : Nat) | seqr (cid q : Nat)
  deriving DecidableEq, Repr

/-- An array error at an address, which the check bits correct or do not (R364). -/
inductive ArrayError | corrected (pa : Nat) | uncorrectable (pa : Nat)
  deriving DecidableEq, Repr

/-- What PARTITION_CREATE installs (R373): Fjondan's choices for one partition. -/
structure PartitionSpec where
  number   : Nat
  x0       : Nat
  y0       : Nat
  w        : Nat
  h        : Nat
  priority : Nat
  sysCores : List Nat
  memory   : List (Nat × Nat)
  ctxLo    : Nat
  ctxHi    : Nat
  /-- The context each of whose tables translate the system cores' own accesses (R191). -/
  sysCtx   : Nat
  /-- Root table physical addresses by context (R180). -/
  roots    : List (Nat × Nat)
  keySlots : List Nat
  image    : List Byte
  entry    : Addr
  /-- log2 of the size of the VF's BAR2 window (R377). -/
  bar2Bits : Nat
  deriving DecidableEq, Repr

end Sys2Proof
end

