-- ==== Sys2Proof/Machine/Records.lean ====
section
/-! DEFINITION. The records that State is made of: slices, groups and teams, cores, sequencers, commands, versions,
launches, clusters, parks, partitions and contexts.

Sparse data is a list of (key, value) pairs. Ids: a compute core at logical (x, y) is `y * 64 + x`, system
core n is `2048 + n`; a team has a number of its own (system core n is team n), group g of team t is
`t * 32 + g`, slice i of a group is `gid * 8 + i`, lane l of a group is `gid * 32 + l`. A
timestamp is below 2^48 (R182). Cycles and identifiers are natural numbers; a program sees them at their architectural
width. -/

namespace Sys2Proof.Machine

/-- Sparse data by key: keys strictly rising. -/
abbrev Store (α : Type) := List (Nat × α)

/-- Bytes by address, in canonical form: addresses strictly rising and no entry 0, which is what an
unlisted address reads as (log entry 1). -/
abbrev Memory := List Host.Cell

/-! ### Slices, groups and teams -/

/-- Privilege levels (R335). -/
inductive Level | l0 | l1 | l2
  deriving DecidableEq, Repr

/-- Where a slice stands (R54): in a gang, waiting at REGANG, BLOCKED in BWAIT, BLOCKED in ACCALLOC, DONE. -/
inductive SliceSt | ganged | regangWait | blockedBwait | blockedAcc | done
  deriving DecidableEq, Repr

/-- A pending path: its program counter, path mask and execute mask (R32). -/
structure Pend where
  pc : Addr
  path : Mask
  exec : Mask
  deriving DecidableEq, Repr

/-- A split-stack entry (R32); `age` is the group's running-cycle count at which its ageing counter
restarted (R33). -/
structure Entry where
  join : Addr
  restore : Mask
  pend : Option Pend
  age : Nat
  deriving DecidableEq, Repr

/-- A slice's restart copy (R345). -/
structure Restart where
  pc : Addr
  ix : Nat
  exec : Mask
  path : Mask
  stack : List Entry
  /-- Number of the first operation issued from this point on (R345 step 1). -/
  op : Nat
  deriving DecidableEq, Repr

/-- A slice (R26): `pc` is a clause header address and `ix` the instruction index within that clause. -/
structure Slice where
  pc : Addr
  ix : Nat
  exec : Mask
  path : Mask
  exited : Mask
  /-- Split stack, top first, at most 16 entries (R32). -/
  stack : List Entry
  st : SliceSt
  /-- Lowest SLICE.ID of the gang the slice is in (R340). -/
  gang : Nat
  /-- Object (byte of the core's scratchpad space; none out of range) and target of a BWAIT (R231). -/
  waitObj : Option Nat
  waitTgt : Word
  /-- Running-cycle count of the group when the present wait began (R31, R235). -/
  waitFrom : Nat
  /-- Cycle at which the slice's gang last started a clause (R49). -/
  lastStart : Nat
  restart : Restart
  deriving DecidableEq, Repr

/-- A register in the sense of R51: EXEC is one. -/
inductive Reg
  | v (n : Nat)
  | s (n : Nat)
  | k (n : Nat)
  | exec
  deriving DecidableEq, Repr

/-- The outstanding-operation counters (R78). -/
inductive Ctr | loads | stores | copies | tiles
  deriving DecidableEq, Repr

/-- A register result that an instruction may not read at once (R51, R79), at lanes `places` of a v register
and slices `places` of any other. It is written at cycle `ready`, or later when there is none yet. With
`timed` it may be read from then on; without, only by an instruction whose clause, or an earlier one, waited
on the flag `sig` or on a limit of counter `ctr` that covers it. `after` counts the instructions issued on
that counter since. -/
structure Hazard where
  reg : Reg
  places : List Nat
  ready : Option Nat
  timed : Bool
  oid : Nat
  sig : Option Nat
  ctr : Option Ctr
  after : Nat
  deriving DecidableEq, Repr

/-- Atomic and reduction functions (R211). -/
inductive AOp | add | min | max | minn | maxn | and | or | xor | swap | cas | fadd
  deriving DecidableEq, Repr

/-- One access of an instruction: the lane (or slice) it serves, addresses, size, and the bytes it carries
(`cmp` is ATOM.CAS's comparand). -/
structure Access where
  lane : Nat
  va : Nat
  pa : Nat
  size : Nat
  data : List Byte
  cmp : List Byte
  /-- The device-grid members a multicast window names (R181). -/
  group : Option Nat
  deriving DecidableEq, Repr

/-- What a packet or access does at its home (R186, R194, R195, R209, R185). -/
inductive Act
  | load (sx : Bool)
  | stamp (newest : Bool)
  | tileIn (bank tile : Nat)
  | store
  | atomic (op : AOp)
  | reduce (op : AOp)
  /-- A read of an engine command (R196, R317). -/
  | fill
  deriving DecidableEq, Repr

/-- The member that a multicast write comes from, with the partition tag of its packet and the operator of a reduction (R214,
R321, R332). -/
structure Member where
  dev : Nat × Nat × Nat
  tag : Nat
  op : Option AOp
  deriving DecidableEq, Repr

/-- What remains of an operation, in order. -/
inductive Stage
  /-- Send these accesses. -/
  | send (act : Act) (l : List Access)
  /-- Wait until every packet sent is answered. -/
  | await
  /-- Start the release of R188 at a scope. -/
  | release (scope : Scope)
  /-- Wait until release `rid` is complete. -/
  | awaitRel (rid : Nat)
  /-- Wait until the scope's horizon reaches the operation's greatest version, or its greatest own
  timestamp under SC (R212). -/
  | horizon (scope : Scope) (sc : Bool)
  /-- Wait until the scope's horizon reaches the timestamp of the operation's release (R215). -/
  | horizonRel (scope : Scope)
  /-- The acquire of R189 at a scope. -/
  | acquire (scope : Scope)
  /-- Wait until the engine or the matrix sequencer has finished command `cmd`. -/
  | awaitCmd (cmd : Nat)
  /-- Wait until the result is given from elsewhere: a grant (R241), a stopped sequencer (R273). -/
  | awaitResult
  /-- Wait until every command of a sequencer is complete (R273). -/
  | awaitStream (seqr : Nat)
  /-- Wait until no cluster of these is being vacated (R353, R357). -/
  | awaitVacate (clusters : List Nat)
  /-- Wait until the kill of a context is complete (R357). -/
  | awaitKill (ctx : Nat)
  /-- Wait until these operations, by group and number, are performed (R360). -/
  | awaitOps (ops : List (Nat × Nat))
  deriving DecidableEq, Repr

/-- An instruction issued and not yet complete (R77 to R79). -/
structure Op where
  oid : Nat
  ctr : Option Ctr
  /-- Completion flag it holds busy (R50). -/
  sig : Option Nat
  slices : List Nat
  /-- Destination register and whether it is a pair, for a result that arrives later. -/
  dest : Option (Reg × Bool)
  /-- Destination registers, by place, that a later instruction writes, each with the cycle of that write: a landing up to
  it leaves the later result, one after it leaves the register UNDEFINED (R51). -/
  lost : List (Reg × Nat × Nat)
  /-- Results of earlier instructions to the same registers that are written at a cycle still to come (R51). -/
  olds : List Hazard
  /-- LDT: granules landed, each with the rank of the highest slice whose bytes it holds (R204). -/
  tops : List (Nat × Nat)
  /-- Packets sent and not yet answered. -/
  wait : Nat
  stages : List Stage
  /-- Later memory-class, plane and copy instructions of the group wait for it (R188, R215, R218). -/
  blocks : Bool
  /-- Greatest version timestamp read and greatest own timestamp, in the window of R182 (R212). -/
  vmax : Option Nat
  tmax : Option Nat
  /-- Timestamp of the operation's release. -/
  relTs : Nat
  /-- Complete, and waiting only for its turn at the counter (R78). -/
  done : Bool
  hdr : Addr
  ix : Nat
  deriving DecidableEq, Repr

/-- A registration entry (R224); `off` is a byte of the core's scratchpad space. -/
structure RegEntry where
  off : Nat
  reg : BitVec 32
  arrm : BitVec 32
  ph : Word
  deriving DecidableEq, Repr

/-- The recorded mask state of one slice at TXBEGIN (R216). -/
structure TxSlice where
  exec : Mask
  path : Mask
  stack : List Entry
  deriving DecidableEq, Repr

/-- An open transaction (R193, R216). -/
structure Tx where
  sx : Nat
  /-- S_x has been revoked for its age (R199). -/
  expired : Bool
  abort : Addr
  /-- Write set: bytes by physical address. -/
  writes : Store Byte
  full : Bool
  /-- The team's revocation count at TXBEGIN (R218). -/
  revs : Nat
  /-- The group's region-entry count at TXBEGIN (R220). -/
  regions : Nat
  slices : List TxSlice
  deriving DecidableEq, Repr

/-- A group trap's cause (R337) with what the frame records. -/
structure Cause where
  code : Nat
  reason : Nat
  info : Word
  addr : DWord
  fpc : Addr
  /-- Resume record of a stopped scroll (R256), as six doublewords. -/
  aux : List DWord
  deriving DecidableEq, Repr

/-- A group (R26, R55). -/
structure Group where
  /-- Group slot on the core (R339). -/
  slot : Nat
  level : Level
  /-- Frame slot in use: the group is in a handler (R339). -/
  frame : Option Nat
  /-- Bits [31:0] of the current frame's CAUSE doubleword (R336). -/
  causeLow : Word
  /-- A trap raised and not yet entered, for want of a frame slot (R339). -/
  trapWait : Option Cause
  /-- Completion flags busy until a cycle (R50); an operation's flag is in `ops`. -/
  timedFlags : List (Nat × Nat)
  /-- Operations outstanding, in issue order. -/
  ops : List Op
  hazards : List Hazard
  /-- Issue cycle and L of the group's last instruction (R49). -/
  lastC : Nat
  lastL : Nat
  /-- Cycle at which the group last started a clause, or yielded (R49, R130). -/
  lastStart : Nat
  regs : List RegEntry
  tx : Option Tx
  /-- TX.STATUS but for OPEN, which `tx` gives (R217). -/
  txStatus : Word
  /-- Running-cycle count at which the timer expires (R350). -/
  timer : Option Nat
  /-- Asynchronous traps pending (R338). -/
  asyncs : List Cause
  /-- Region entries (R216, R345). -/
  regions : Nat
  /-- Lanes, as LANE.IDs, of exits whose implicit drop is still to come, in order (R228). -/
  exits : List (BitVec 32)
  /-- Service faults of the group not yet answered (R344). -/
  faults : Nat
  /-- Gangs whose restart waits for what they issued after their restart point (R345 step 1). -/
  restarts : List (List Nat)
  /-- Packets produced before the group's last fence, release or barrier arrival (R326). -/
  fenceAt : Nat
  /-- Releases under way for instructions the core holds at issue: the first slice of the gang, and the release (R213,
  R358). -/
  pre : List (Nat × Nat)
  /-- Cycles counted while resident and not stalled, up to `cycFrom`; running when `cycRun`. -/
  cycAcc : Nat
  cycFrom : Nat
  cycRun : Bool
  deriving DecidableEq, Repr

/-- A service fault that a gang met and that no answer has ended (R344). -/
structure Stall where
  gid : Nat
  slices : List Nat
  va : Addr
  kind : AccKind
  ipc : Addr
  /-- Ring index once the request is appended. -/
  entry : Option Nat
  /-- The answer: RETRY, or TRAP (R346). -/
  retry : Option Bool
  deriving DecidableEq, Repr

/-- A blocked ACCALLOC (R241): its group, operation and gang, the first register of its pair, the count, and the
length of its clause. -/
structure AccReq where
  gid : Nat
  oid : Nat
  slices : List Nat
  dest : Nat
  count : Nat
  len : Nat
  deriving DecidableEq, Repr

/-- Life of a team (R56). -/
inductive TeamSt | running | suspended | finishing | done | killed
  deriving DecidableEq, Repr

/-- An armed trigger (R237 to R239). -/
structure Trigger where
  tid : Nat
  gid : Nat
  /-- Address of the TRIG. -/
  addr : Addr
  off : Nat
  phase : Word
  landed : Bool
  thresh : Nat
  word : DWord
  vals : List DWord
  deriving DecidableEq, Repr

/-- An accumulator tile saved with a team: its number in the team, its elements and its side values (R354). -/
structure SavedAcc where
  tile : Nat
  elems : List Word
  side : List (Word × Word)
  deriving DecidableEq, Repr

/-- What a vacated team has left in its save slot beyond its registers and slices (R274, R354): its scratchpad
allocation, the tile file with its outlier lists, the twin bank, its accumulator tiles, its triggers and the frames
of its groups in handlers, and the bytes that the slot's check covers, with the timestamp of their commit (none when the
slot could not be written). -/
structure Saved where
  slot : Nat
  check : Option (List Byte)
  ts : Option Nat
  scratch : List Byte
  file : List Byte
  lists : List (List DWord)
  bank : List Byte
  bankLists : List (List DWord)
  accs : List SavedAcc
  triggers : List Trigger
  frames : List (Nat × List Byte)
  deriving DecidableEq, Repr

/-- A team (R25, R26, R36). -/
structure Team where
  st : TeamSt
  core : Nat
  launch : Nat
  cluster : Nat
  ctx : Nat
  part : Nat
  tx : Nat
  ty : Nat
  twin : Nat
  /-- The other twin of a pair (R300). -/
  pair : Option Nat
  groups : Nat
  /-- Base of the scratchpad allocation, and its size in bytes (R36, R176). -/
  scrBase : Nat
  scrSize : Nat
  /-- Tile bank of t0 to t7 (R301). -/
  bank : Nat
  /-- Snapshot S(T) (R184). -/
  snap : Nat
  /-- Pending set: bytes by physical address, with the order in which they were performed (R184, R186). -/
  pending : Store (Byte × Nat)
  /-- Own-committed bytes with the timestamp of their commit and their order in T's view (R186). -/
  overlay : Store (Byte × Nat × Nat)
  revoked : Bool
  /-- Revocations so far (R199, R218). -/
  revs : Nat
  fpStatus : Word
  /-- Conditions FP.STATUS takes once their instructions' results are written, with the cycle of each (R160, R174). -/
  fpLate : List (Nat × Word)
  fpTrapen : Word
  scrStatus : Word
  /-- Held accumulator tiles: team tile number to physical tile (R240). -/
  acc : Store Nat
  /-- A blocked ACCALLOC (R241). -/
  accReq : Option AccReq
  /-- Cycle at which the cluster was first placed (R241). -/
  born : Nat
  /-- Matrix sequencer context (R36). -/
  seqr : Option Nat
  /-- PMON counters: instructions issued, clauses started, region restarts (R359). -/
  issued : Nat
  clauses : Nat
  restarts : Nat
  /-- State in a save slot while suspended (R354). -/
  saved : Option Saved
  deriving DecidableEq, Repr

/-! ### Cores -/

/-- A clause in an issue pipe (R49). -/
structure Run where
  gid : Nat
  slices : List Nat
  hdr : Addr
  /-- The clause's instruction doublewords as fetched (R83, R84). -/
  words : List DWord
  deriving DecidableEq, Repr

/-- What paces an issue pipe (R29, R49): the cycle from which its datapath lanes are free, and the instructions with
L = 0 it has retired in a row in cycle `cyc`. -/
structure Pace where
  free : Nat
  zeros : Nat
  cyc : Nat
  deriving DecidableEq, Repr

/-- A decompression table (R261): counts of each length and symbols. -/
structure Table where
  cnt : List Nat
  sym : List Byte
  deriving DecidableEq, Repr

/-- A table slot of a core (R262, R264): its generation, the generation loaded, and the table when the
loaded one is valid. -/
structure TSlot where
  gen : Nat
  loaded : Nat
  table : Option Table
  deriving DecidableEq, Repr

/-- A cached translation (R180). -/
structure TlbEntry where
  ctx : Nat
  va : Addr
  /-- Page size in address bits. -/
  bits : Nat
  entry : DWord
  deriving DecidableEq, Repr

/-- A core: a compute core or a system core (R11, R57). -/
structure Core where
  pipe0 : Option Run
  pipe1 : Option Run
  pace0 : Pace
  pace1 : Pace
  /-- Group slots last selected by each pipe (R49). -/
  rr0 : Nat
  rr1 : Nat
  /-- Group in each of the six frame slots (R339). -/
  frames : List (Option Nat)
  triggers : List Trigger
  tslot0 : TSlot
  tslot1 : TSlot
  tlb : List TlbEntry
  /-- Doublewords the instruction cache holds, by context (or 4096 and a sequencer) and physical address (R84). -/
  icache : List (Nat × Nat × DWord)
  /-- GSCHED.AGE (R336). -/
  age : Word
  /-- Context the core last held (R44, R61). -/
  lastCtx : Option Nat
  /-- Launches that had a team on the core, each with the cycle the team left (R367). -/
  hosted : List (Nat × Nat)
  /-- A reload for a context under way, and its first cycle (R58). -/
  reload : Option (Nat × Nat)
  /-- A park scheduler waits to clear the core for a context, since a cycle (R61). -/
  clearing : Option (Nat × Nat)
  /-- Parked by HALTCORE (R358). -/
  parked : Bool
  /-- Fenced or void: no core (R19). -/
  fenced : Bool
  /-- A system core held in reset, or halted (R343, R373). -/
  held : Bool
  /-- Under in-field test (R365). -/
  testing : Bool
  stalls : List Stall
  /-- Cycle at which the present stall began (R344). -/
  stallFrom : Option Nat
  /-- Context whose barrier updates are frozen (R235). -/
  frozen : Option Nat
  /-- Strike re-executions, and the cycles of the latest ones (R359, R363). -/
  strikes : Nat
  strikeLog : List Nat
  /-- SYS.CTXSEL, SYS.TRAPVEC, SYS.FRAMEBASE of a system core (R336). -/
  ctxsel : Word
  trapvec : DWord
  framebase : DWord
  /-- Frame slot of a system core in use, and the timestamp of the frame's commit (R343). -/
  sysFrame : Bool
  frameTs : Nat
  deriving DecidableEq, Repr

/-! ### The matrix sequencer -/

/-- STATE of SEQ.STATUS (R270). -/
inductive SeqSt | idle | running | waiting | faulted
  deriving DecidableEq, Repr

/-- A window's binding (R279): team tile number, ROWS and the drain multiplier g. -/
structure Binding where
  tile : Nat
  rows : Nat
  g : Word
  deriving DecidableEq, Repr

/-- A matrix sequencer context (R269). -/
structure Seqr where
  tid : Nat
  st : SeqSt
  pc : Addr
  ix : Nat
  /-- The clause being issued, as fetched. -/
  words : List DWord
  reason : Nat
  unpaired : Bool
  /-- Twin followed while unpaired (R305). -/
  followed : Nat
  /-- The latest meeting of each twin: object offset and target (R305, R307). -/
  meet0 : Option (Nat × Word)
  meet1 : Option (Nat × Word)
  /-- A SYSWR to UNPAIRED that acts at the next issue (R303). -/
  wantUnpair : Option Bool
  lastC : Nat
  /-- m registers not yet written, with the cycle each is ready (R269). -/
  mbusy : List (Nat × Nat)
  /-- MWAIT: object offset and target (R291). -/
  wait : Option (Word × Word)
  /-- Cycle from which the pair-timeout count runs (R305, R307). -/
  pairFrom : Option Nat
  /-- MPAIR holds the stream (R307). -/
  mpair : Bool
  /-- A fetch waits for a service answer: 0 before the request is appended, then its ring index plus 1 (R298). -/
  fault : Option Nat
  /-- MSTOP operation the clause boundary answers: its group and number, and the cycle from which the sequencer has it (R273,
  R362). -/
  stop : Option (Nat × Nat × Nat)
  deriving DecidableEq, Repr

/-- Outcome of a command that cannot go on (R250). -/
structure CmdErr where
  reason : Nat
  deriving DecidableEq, Repr

/-- The kinds of a command of OP 0x20 (R246). -/
inductive CmdKind | scroll | copy | copyx | dtload | decode
  deriving DecidableEq, Repr

/-- An engine command accepted and not ended (R248). -/
structure Cmd where
  kind : CmdKind
  gid : Nat
  tid : Nat
  /-- Operation that counts it; none for a fired trigger (R238). -/
  oid : Option Nat
  /-- Address of the issuing instruction (R250). -/
  addr : Addr
  /-- Cycle at which it was handed to its engine (R362). -/
  born : Nat
  /-- What its reads from elsewhere have brought and no step has used yet, by place (R317). -/
  got : List (Nat × List Byte)
  /-- Its landings have been made (R248 step 4). -/
  landed : Bool
  /-- COPYX: where the result's elements go, translated before its contribution (R250, R267). -/
  pas : List Nat
  /-- The records read at issue, as doublewords (R247). -/
  src : List DWord
  dst : List DWord
  /-- Its first access has been made (R249). -/
  started : Bool
  /-- Elements, symbols or steps done, and stream bits decoded (R263). -/
  pos : Nat
  bits : Nat
  /-- Spill base and blocks spilled (R252). -/
  spill : Nat
  spilled : Nat
  /-- Captured snapshot, and whether it has been revoked for its age (R196, R199). -/
  snap : Nat
  expired : Bool
  /-- Table slot and captured generation (R264). -/
  slot : Nat
  gen : Nat
  /-- Positions (x, y) of a scroll's blocks after the steps done (R252). -/
  blocks : List (Nat × Nat)
  /-- Privilege level at which its offsets are mapped (R176). -/
  level : Level
  /-- Last write performed. -/
  written : Bool
  err : Option CmdErr
  /-- Ring index of the service fault it waits for, once appended (R250). -/
  fault : Option (Addr × AccKind × Option Nat)
  /-- Release under way. -/
  rel : Option Nat
  status : Option Nat
  result : List Byte
  /-- COPYX: the member checks are made, and its contribution has been sent (R266, R267). -/
  joined : Bool
  sent : Bool
  deriving DecidableEq, Repr

/-! ### Versions -/

/-- An older version of a line (R183): its timestamp, its 64 bytes with the timestamp of each byte's latest commit, and
the launch that pins it (R200). -/
structure Version where
  ts : Nat
  bytes : List Byte
  stamps : List Nat
  pin : Option Nat
  deriving DecidableEq, Repr

/-! ### Launches, clusters, parks, partitions and contexts -/

/-- Life of a launch. -/
inductive LaunchSt | queued | reserving | dispatching | running | complete | killed
  deriving DecidableEq, Repr

/-- A launch accepted (R38 to R43): the record's 32 doublewords as read. -/
structure Launch where
  ident : Nat
  part : Nat
  ctx : Nat
  record : List DWord
  st : LaunchSt
  ready : Bool
  /-- Launch rectangle resolved at acceptance (R39): x0, y0, w, h. -/
  rect : Nat × Nat × Nat × Nat
  /-- Snapshot of SNAP = 2 and of SNAP = 1 (R184). -/
  snapIssuer : Nat
  snapDispatch : Nat
  /-- Cluster task blocks handed out (R42). -/
  handed : Nat
  /-- Clusters whose teams are all done. -/
  finished : Nat
  /-- Acceptance order. -/
  order : Nat
  nonReplay : Bool
  /-- Lines pinned (R200). -/
  pins : List Nat
  /-- Lines whose versions it committed, with the timestamps, for a rollback (R200). -/
  commits : List (Nat × Nat)
  /-- Submission ring index to report completion at (R378). -/
  notify : Option Nat
  /-- Exports: sequence number and cycle (R366, R367). -/
  exports : List (Nat × Nat)
  deriving DecidableEq, Repr

/-- Where a cluster stands (R44, R45). -/
inductive ClusterSt | unstarted | placed | suspended | done
  deriving DecidableEq, Repr

/-- A cluster, from task block to completion. -/
structure Cluster where
  launch : Nat
  cx : Nat
  cy : Nat
  cz : Nat
  st : ClusterSt
  part : Nat
  park : Nat
  /-- Logical origin while placed. -/
  x0 : Nat
  y0 : Nat
  /-- Arrival at the park, suspension, placement and first placement order or cycle. -/
  arrived : Nat
  suspended : Nat
  placed : Nat
  first : Nat
  teams : List Nat
  /-- Save slots of its teams while suspended (R354). -/
  slots : List Nat
  /-- Vacation under way, and its first cycle (R353). -/
  vacating : Option Nat
  /-- The suspended cluster placed on the rectangle this one frees (R52). -/
  heir : Option Nat
  deriving DecidableEq, Repr

/-- A park scheduler's state for one partition (R44 to R46). -/
structure Park where
  /-- Counts of other parks as last received (R46). -/
  view : Store Nat
  /-- Counts last published, by park, with the cycle sent (R46). -/
  sent : Store (Nat × Nat)
  /-- Steal request outstanding: its number (R327). -/
  asking : Option Nat
  reqn : Nat
  /-- No request before this cycle (R46). -/
  retryAt : Nat
  /-- Requests received and not yet served, in arrival order (R46). -/
  inbox : List (Nat × Nat)
  /-- Reply being received: blocks and launches that its head announced, and the descriptors of the blocks received so far
  (R328). -/
  reply : Option (Nat × Nat × List Nat)
  deriving DecidableEq, Repr

/-- A service-ring entry (R346). -/
structure RingEntry where
  va : Addr
  launch : Nat
  kind : Nat
  gslot : Nat
  cid : Nat
  ctx : Nat
  ipc : Addr
  /-- Cycle at which it was appended. -/
  since : Nat
  answered : Bool
  deriving DecidableEq, Repr

/-- A partition (R373) with its registers (R336), multicast table (R331) and submission ring (R378). -/
structure Part where
  live : Bool
  x0 : Nat
  y0 : Nat
  w : Nat
  h : Nat
  priority : Nat
  sysCores : List Nat
  memory : List (Nat × Nat)
  ctxLo : Nat
  ctxHi : Nat
  keySlots : List Nat
  /-- Rotation position: the park that received the last block (R42). -/
  lastPark : Option Nat
  nextLaunch : Nat
  /-- PARK.QUANTUM (R336). -/
  quantum : Word
  /-- FAULT.RINGBASE and FAULT.HEAD (R336). -/
  ringBase : DWord
  head : Nat
  /-- Entries appended, by ring index (R346). -/
  ring : Store RingEntry
  /-- Multicast group table entries (R331). -/
  mcast : Store (BitVec 128)
  /-- ENTRY of the partition's system image (R373). -/
  entry : Addr
  /-- Host view: BAR2 window open, log2 of its size, and the doorbell page (R377, R378). -/
  bar2 : Bool
  bar2Bits : Nat
  /-- Bytes of the VF's MSI-X table (R377). -/
  msix : Store Byte
  sqBase : DWord
  sqOrder : Word
  sqEn : Bool
  sqTail : Nat
  sqHead : Nat
  ctxRange : Word
  /-- Snapshot of the acquire after the latest doorbell (R378). -/
  sqSnap : Nat
  /-- Page fault on the record of the entry being taken: its address, and its ring index once appended (R378). -/
  sqFault : Option (Addr × Option Nat)
  /-- That fault was answered TRAP: the record counts as unreadable. -/
  sqRefused : Bool
  /-- Status words of entries released and not yet visible at SYSTEM scope: the timestamp, whether SQ.HEAD then advances, and
  the vectors then raised (R378). -/
  sqWords : List (Nat × Bool × List Nat)
  deriving DecidableEq, Repr

/-- A kill under way: what the fault record says of it (R351). -/
structure Kill where
  kind : Nat
  launch : Nat
  reason : Nat
  gslot : Nat
  cid : Nat
  body : List Byte
  deriving DecidableEq, Repr

/-- A context (R180, R336). -/
structure Context where
  /-- Physical address of the root table (R180). -/
  root : Nat
  part : Nat
  killed : Bool
  killing : Option Kill
  trapvec : DWord
  faultrec : DWord
  savebase : DWord
  saveslots : Word
  used : DWord
  /-- Service-fault stall cycles (R359). -/
  stallCycles : Nat
  /-- Save slots in use (R354). -/
  slots : List Nat
  deriving DecidableEq, Repr

/-! ### What a device ships (R374) -/

/-- Counters that name new things, never reused (the model's own fields). -/
structure Names where
  op : Nat
  pkt : Nat
  copy : Nat
  rel : Nat
  cmd : Nat
  team : Nat
  cluster : Nat
  launch : Nat
  seqr : Nat
  order : Nat
  deriving DecidableEq, Repr

/-- What an evacuating device ships to its receiver: the memories with every version, the Sundial, the launch queues, the
partition tables with their contexts and parks, the plane regions, and the suspended clusters with their teams, groups,
slices, registers, sequencers and kept commands (R374). -/
structure Shipment where
  /-- The sender's cycle count, to which the cycles below refer. -/
  clock : Nat
  names : Names
  mem : Memory
  lineTs : Store Nat
  byteTs : Store Nat
  orangery : Store (List Version)
  poison : List Nat
  launches : Store Launch
  clusters : Store Cluster
  parks : Store Park
  parts : Store Part
  ctxs : Store Context
  /-- Plane-region bytes, keyed as scratchpad bytes are, and their poisoned sectors. -/
  planes : Memory
  planePoison : List Nat
  teams : Store Team
  groups : Store Group
  slices : Store Slice
  vreg : Store Word
  sreg : Store Word
  kreg : Store Mask
  seqrs : Store Seqr
  mreg : Store Word
  wins : Store Binding
  cmds : Store Cmd
  /-- Fjondan's state: the keys enrolled, the windows and the ranges opened for the host. -/
  keys : Store (List Byte × Option Nat)
  windows : List (Nat × Nat × Bool)
  hostRanges : List (Nat × Nat)
  cxlRanges : List (Nat × Nat)
  deriving DecidableEq, Repr

end Sys2Proof.Machine
end

