-- ==== Sys2Proof/Syntax.lean ====
section
/-! DEFINITION. The ONE instruction type: a constructor for every row of spec/opcode_table.json. The table lists the
encoded instructions and, beside them, the part's other indivisible steps (spec/95_what_each_step_holds.md); those have no
encoding and carry what identifies them. -/

namespace Sys2Proof

/-- Every row of the opcode table. -/
inductive Instr
  -- OP 0x00: integer, RRR (R108 to R110)
  | add (c : Ctl) (ty : IntTy) (sat : Bool) (d a b : Opnd)
  | sub (c : Ctl) (ty : IntTy) (sat : Bool) (d a b : Opnd)
  | mul (c : Ctl) (ty : IntTy) (sat : Bool) (d a b : Opnd)
  | mulh (c : Ctl) (ty : IntTy) (d a b : Opnd)
  | mad (c : Ctl) (ty : IntTy) (sat : Bool) (d a b e : Opnd)
  | min (c : Ctl) (ty : IntTy) (d a b : Opnd)
  | max (c : Ctl) (ty : IntTy) (d a b : Opnd)
  | and (c : Ctl) (ty : IntTy) (d a b : Opnd)
  | or (c : Ctl) (ty : IntTy) (d a b : Opnd)
  | xor (c : Ctl) (ty : IntTy) (d a b : Opnd)
  | not (c : Ctl) (ty : IntTy) (d a : Opnd)
  | shl (c : Ctl) (ty : IntTy) (d a b : Opnd)
  | shr (c : Ctl) (ty : IntTy) (d a b : Opnd)
  | sar (c : Ctl) (ty : IntTy) (d a b : Opnd)
  | rol (c : Ctl) (ty : IntTy) (d a b : Opnd)
  | clz (c : Ctl) (ty : IntTy) (d a : Opnd)
  | popc (c : Ctl) (ty : IntTy) (d a : Opnd)
  | brev (c : Ctl) (ty : IntTy) (d a : Opnd)
  | bfe (c : Ctl) (ty : IntTy) (d a b : Opnd)
  | bfi (c : Ctl) (ty : IntTy) (d a b e : Opnd)
  | sel (c : Ctl) (ty : IntTy) (d a b e : Opnd)
  | addx (c : Ctl) (ty : IntTy) (d a b : Opnd)
  | subx (c : Ctl) (ty : IntTy) (d a b : Opnd)
  | mov (c : Ctl) (ty : IntTy) (d a : Opnd)
  | lea (c : Ctl) (ty : IntTy) (sh : BitVec 3) (d a b : Opnd)
  | leax (c : Ctl) (ty : IntTy) (sh : BitVec 3) (d a b e : Opnd)
  -- OP 0x01: integer immediate, RRI
  | addImm (c : Ctl) (ty : IntTy) (sat : Bool) (d a : Opnd) (imm : BitVec 18)
  | subImm (c : Ctl) (ty : IntTy) (sat : Bool) (d a : Opnd) (imm : BitVec 18)
  | mulImm (c : Ctl) (ty : IntTy) (sat : Bool) (d a : Opnd) (imm : BitVec 18)
  | minImm (c : Ctl) (ty : IntTy) (d a : Opnd) (imm : BitVec 18)
  | maxImm (c : Ctl) (ty : IntTy) (d a : Opnd) (imm : BitVec 18)
  | andImm (c : Ctl) (ty : IntTy) (d a : Opnd) (imm : BitVec 18)
  | orImm (c : Ctl) (ty : IntTy) (d a : Opnd) (imm : BitVec 18)
  | xorImm (c : Ctl) (ty : IntTy) (d a : Opnd) (imm : BitVec 18)
  | shlImm (c : Ctl) (ty : IntTy) (d a : Opnd) (imm : BitVec 18)
  | shrImm (c : Ctl) (ty : IntTy) (d a : Opnd) (imm : BitVec 18)
  | sarImm (c : Ctl) (ty : IntTy) (d a : Opnd) (imm : BitVec 18)
  | rolImm (c : Ctl) (ty : IntTy) (d a : Opnd) (imm : BitVec 18)
  | movImm (c : Ctl) (ty : IntTy) (d : Opnd) (imm : BitVec 18)
  | leaImm (c : Ctl) (sh : BitVec 3) (d a : Opnd) (imm : BitVec 18)
  -- OP 0x02: wide immediates (R112)
  | movw (c : Ctl) (d : Opnd) (imm : BitVec 32)
  | movwx (c : Ctl) (d : Opnd) (imm : BitVec 34)
  | addwx (c : Ctl) (d : Opnd) (imm : BitVec 34)
  | movwh (c : Ctl) (d : Opnd) (imm : BitVec 32)
  -- OP 0x03, 0x04: compare and mask (R113, R115)
  | cmp (c : Ctl) (ty : IntTy) (cond : Cond) (d a b : Opnd)
  | kand (c : Ctl) (d a b : Opnd)
  | kor (c : Ctl) (d a b : Opnd)
  | kxor (c : Ctl) (d a b : Opnd)
  | knot (c : Ctl) (d a : Opnd)
  | kmov (c : Ctl) (d a : Opnd)
  | execget (c : Ctl) (d : Opnd)
  | execset (c : Ctl) (a : Opnd)
  | ktest (c : Ctl) (d a b : Opnd)
  -- OP 0x05: lane exchange (R117 to R122)
  | shfl (c : Ctl) (mode : ShflMode) (seg : Seg) (d a b : Opnd)
  | ballot (c : Ctl) (d a : Opnd)
  | vote (c : Ctl) (form : VoteForm) (d a : Opnd)
  | psum (c : Ctl) (ty : IntTy) (sat exc : Bool) (d a : Opnd)
  | pmax (c : Ctl) (ty : IntTy) (exc : Bool) (d a : Opnd)
  | laneid (c : Ctl) (form : LaneForm) (d : Opnd)
  -- OP 0x06: float (R161 to R163)
  | fadd (c : Ctl) (ty : FTy) (rnd : Rnd) (sat : Bool) (md : FMods) (d a b : Opnd)
  | fsub (c : Ctl) (ty : FTy) (rnd : Rnd) (sat : Bool) (md : FMods) (d a b : Opnd)
  | fmul (c : Ctl) (ty : FTy) (rnd : Rnd) (sat : Bool) (md : FMods) (d a b : Opnd)
  | ffma (c : Ctl) (ty : FTy) (rnd : Rnd) (sat : Bool) (md : FMods) (negc : Bool) (d a b e : Opnd)
  | fmin (c : Ctl) (ty : FTy) (sat : Bool) (md : FMods) (d a b : Opnd)
  | fmax (c : Ctl) (ty : FTy) (sat : Bool) (md : FMods) (d a b : Opnd)
  | fcmp (c : Ctl) (cond : FCond) (md : FMods) (d a b : Opnd)
  -- OP 0x07: special functions (R165 to R167)
  | frcp (c : Ctl) (rnd : Rnd) (sat nega absa : Bool) (d a : Opnd)
  | frsq (c : Ctl) (rnd : Rnd) (sat nega absa : Bool) (d a : Opnd)
  | fexp2 (c : Ctl) (rnd : Rnd) (sat nega absa : Bool) (d a : Opnd)
  | flog2 (c : Ctl) (rnd : Rnd) (sat nega absa : Bool) (d a : Opnd)
  | fsin (c : Ctl) (sat nega absa : Bool) (d a : Opnd)
  | fcos (c : Ctl) (sat nega absa : Bool) (d a : Opnd)
  | ftanh (c : Ctl) (sat nega absa : Bool) (d a : Opnd)
  -- OP 0x08: conversion (R168 to R173)
  | cvt (c : Ctl) (dt st : CvtTy) (rnd : Rnd) (d a : Opnd)
  | pack (c : Ctl) (slot : BitVec 3) (d a : Opnd)
  | unpack (c : Ctl) (rnd : Rnd) (slot : BitVec 3) (d a : Opnd)
  -- OP 0x09, 0x0A: branch and flow (R123 to R132)
  | bra (c : Ctl) (off : BitVec 26)
  | brx (c : Ctl) (joff : BitVec 16) (off : BitVec 26)
  | call (c : Ctl) (d : Opnd) (off : BitVec 26)
  | braz (c : Ctl) (a : Opnd) (off : BitVec 26)
  | branz (c : Ctl) (a : Opnd) (off : BitVec 26)
  | join (c : Ctl)
  | regang (c : Ctl)
  | ret (c : Ctl) (a : Opnd)
  | jmpi (c : Ctl) (a : Opnd)
  | calli (c : Ctl) (d a : Opnd)
  | exit (c : Ctl)
  | yield (c : Ctl)
  | trap (c : Ctl) (a : Opnd)
  | nop (c : Ctl)
  -- OP 0x10: scratchpad and windows (R134 to R137)
  | lds (c : Ctl) (sz : Size) (sx : Bool) (d a : Opnd) (off : BitVec 11)
  | sts (c : Ctl) (sz : Size) (d a : Opnd) (off : BitVec 11)
  | ldw (c : Ctl) (sz : Size) (dir : Dir) (sx : Bool) (d a : Opnd) (off : BitVec 11)
  | stw (c : Ctl) (sz : Size) (dir : Dir) (d a : Opnd) (off : BitVec 11)
  | ldss (c : Ctl) (sz : Size) (sx : Bool) (d a : Opnd) (off : BitVec 11)
  | stss (c : Ctl) (sz : Size) (d a : Opnd) (off : BitVec 11)
  | ldws (c : Ctl) (sz : Size) (dir : Dir) (sx : Bool) (d a : Opnd) (off : BitVec 11)
  | stws (c : Ctl) (sz : Size) (dir : Dir) (d a : Opnd) (off : BitVec 11)
  -- OP 0x11, 0x12: global loads and stores (R201 to R210)
  | ld (c : Ctl) (sz : Size) (ord : Order) (scope : Scope) (sx : Bool) (d a : Opnd) (off : BitVec 11)
  | ldsc (c : Ctl) (sz : Size) (ord : Order) (scope : Scope) (sx : Bool) (d a : Opnd) (off : BitVec 11)
  | pref (c : Ctl) (sz : Size) (scope : Scope) (a : Opnd) (off : BitVec 11)
  | ldt (c : Ctl) (ord : Order) (scope : Scope) (d a b : Opnd) (off : BitVec 11)
  | snap (c : Ctl) (ord : Order) (scope : Scope) (newest : Bool) (d a : Opnd) (off : BitVec 11)
  | st (c : Ctl) (sz : Size) (ord : Order) (scope : Scope) (d a : Opnd) (off : BitVec 11)
  | stsc (c : Ctl) (sz : Size) (ord : Order) (scope : Scope) (d a : Opnd) (off : BitVec 11)
  | stt (c : Ctl) (ord : Order) (scope : Scope) (d a b : Opnd) (off : BitVec 11)
  -- OP 0x13: atomics (R211 to R213)
  | atomAdd (c : Ctl) (sz : Size) (ord : Order) (scope : Scope) (d a b : Opnd) (off : BitVec 11)
  | atomMin (c : Ctl) (sz : Size) (ord : Order) (scope : Scope) (d a b : Opnd) (off : BitVec 11)
  | atomMax (c : Ctl) (sz : Size) (ord : Order) (scope : Scope) (d a b : Opnd) (off : BitVec 11)
  | atomMinn (c : Ctl) (sz : Size) (ord : Order) (scope : Scope) (d a b : Opnd) (off : BitVec 11)
  | atomMaxn (c : Ctl) (sz : Size) (ord : Order) (scope : Scope) (d a b : Opnd) (off : BitVec 11)
  | atomAnd (c : Ctl) (sz : Size) (ord : Order) (scope : Scope) (d a b : Opnd) (off : BitVec 11)
  | atomOr (c : Ctl) (sz : Size) (ord : Order) (scope : Scope) (d a b : Opnd) (off : BitVec 11)
  | atomXor (c : Ctl) (sz : Size) (ord : Order) (scope : Scope) (d a b : Opnd) (off : BitVec 11)
  | atomSwap (c : Ctl) (sz : Size) (ord : Order) (scope : Scope) (d a b : Opnd) (off : BitVec 11)
  | atomCas (c : Ctl) (sz : Size) (ord : Order) (scope : Scope) (d a b : Opnd) (off : BitVec 11)
  | atomFadd (c : Ctl) (ord : Order) (scope : Scope) (d a b : Opnd) (off : BitVec 11)
  -- OP 0x14: reductions (R214)
  | redAdd (c : Ctl) (sz : Size) (ord : Order) (scope : Scope) (d a : Opnd) (off : BitVec 11)
  | redMin (c : Ctl) (sz : Size) (ord : Order) (scope : Scope) (d a : Opnd) (off : BitVec 11)
  | redMax (c : Ctl) (sz : Size) (ord : Order) (scope : Scope) (d a : Opnd) (off : BitVec 11)
  | redMinn (c : Ctl) (sz : Size) (ord : Order) (scope : Scope) (d a : Opnd) (off : BitVec 11)
  | redMaxn (c : Ctl) (sz : Size) (ord : Order) (scope : Scope) (d a : Opnd) (off : BitVec 11)
  | redAnd (c : Ctl) (sz : Size) (ord : Order) (scope : Scope) (d a : Opnd) (off : BitVec 11)
  | redOr (c : Ctl) (sz : Size) (ord : Order) (scope : Scope) (d a : Opnd) (off : BitVec 11)
  | redXor (c : Ctl) (sz : Size) (ord : Order) (scope : Scope) (d a : Opnd) (off : BitVec 11)
  | redFadd (c : Ctl) (ord : Order) (scope : Scope) (d a : Opnd) (off : BitVec 11)
  -- OP 0x15, 0x16: fences and transactions (R215 to R220)
  | fence (c : Ctl) (ord : Order) (scope : Scope)
  | txbegin (c : Ctl) (off : BitVec 26)
  | txcommit (c : Ctl) (scope : Scope)
  | txabort (c : Ctl) (b : Opnd)
  -- OP 0x17: barrier objects (R225 to R239)
  | binit (c : Ctl) (d a : Opnd) (off : BitVec 11)
  | breg (c : Ctl) (a : Opnd) (off : BitVec 11)
  | barr (c : Ctl) (d a : Opnd) (b : Option Opnd) (off : BitVec 11)
  | barrd (c : Ctl) (d a : Opnd) (off : BitVec 11)
  | bexp (c : Ctl) (d a : Opnd) (off : BitVec 11)
  | bwait (c : Ctl) (d a : Opnd) (off : BitVec 11)
  | btest (c : Ctl) (d a b : Opnd) (off : BitVec 11)
  | trig (c : Ctl) (d a b : Opnd) (off : BitVec 11)
  | implicitDrop (gid : Nat)
  | barrierWatchdogExpiry (gid : Nat) (slice : Nat)
  -- OP 0x33: accumulator allocation (R240 to R242)
  | accalloc (c : Ctl) (d a : Opnd)
  | accfree (c : Ctl) (a : Opnd)
  -- OP 0x20: plane and copy (R243 to R268)
  | scrl (c : Ctl) (d : Option Opnd) (a : Opnd)
  | scrlr (c : Ctl) (d : Option Opnd) (a : Opnd)
  | copy (c : Ctl) (a b : Opnd)
  | copyx (c : Ctl) (a b : Opnd)
  | dtload (c : Ctl) (acq : Bool) (scope : Scope) (slot : Bool) (a : Opnd)
  | copyDec (c : Ctl) (a b : Opnd)
  | planeq (c : Ctl) (d a : Opnd)
  | scrollStep (cmd : Nat)
  | engineCommandEnd (cmd : Nat)
  | dtloadTableWrite (cmd : Nat)
  | copyDecDecode (cmd : Nat)
  -- OP 0x30 to 0x32: the matrix stream (R269 to R314)
  | mshape (dist : BitVec 3) (d a b e : Opnd)
  | mldt (dist : BitVec 3) (d a b e : Opnd)
  | mzero (dist : BitVec 3) (d : Opnd)
  | mma (dist : BitVec 3) (sa sb : BitVec 3) (d a b : Opnd)
  | mmaPair (dist : BitVec 3) (sa sb : BitVec 3) (d a b : Opnd)
  | msoft (dist : BitVec 3) (mask : Bool) (slot : BitVec 3) (d a b e : Opnd)
  | mdrain (dist : BitVec 3) (rscope : RScope) (norm guide add : Bool) (dest : DrainDest) (slot : BitVec 3)
      (d a b e : Opnd)
  | mwait (dist : BitVec 3) (d a : Opnd)
  | marr (dist : BitVec 3) (d a b : Opnd)
  | msig (dist : BitVec 3) (mask : BitVec 3)
  | mend (dist : BitVec 3)
  | mpair (dist : BitVec 3)
  | mbra (dist : BitVec 3) (off : BitVec 26)
  | mloop (dist : BitVec 3) (a : Opnd) (off : BitVec 26)
  | mmov (dist : BitVec 3) (d : Opnd) (imm : BitVec 18)
  | mmovHi (dist : BitVec 3) (d : Opnd) (imm : BitVec 16)
  | madd (dist : BitVec 3) (d a : Opnd) (imm : BitVec 18)
  | mstart (c : Ctl) (d a b : Opnd)
  | mstop (c : Ctl) (d : Opnd)
  | matrixCommandComplete (cmd : Nat)
  | pairTimeout (seqr : Nat)
  | mpairTimeout (seqr : Nat)
  | seqStatusUnpair (seqr : Nat)
  | seqStatusRepair (seqr : Nat)
  -- OP 0x38: system (R357 to R360)
  | sysrd (c : Ctl) (d : Opnd) (num : BitVec 10)
  | syswr (c : Ctl) (num : BitVec 10) (a : Opnd)
  | launch (c : Ctl) (d a : Opnd)
  | vacate (c : Ctl) (d a b : Opnd)
  | rte (c : Ctl)
  | icinv (c : Ctl) (scope : IcScope)
  | dcflush (c : Ctl) (a b : Opnd)
  | ctxkill (c : Ctl) (d a : Opnd)
  | pmon (c : Ctl) (clr : Bool) (d a : Opnd)
  | tlbinv (c : Ctl) (scope : TlbScope) (a b : Option Opnd)
  | haltcore (c : Ctl) (halt : Bool) (d a : Opnd)
  | timerrd (c : Ctl) (d : Opnd)
  | timerset (c : Ctl) (a : Opnd)
  | timerclr (c : Ctl)
  | groupTimerExpiry (gid : Nat)
  -- launch units, park schedulers and cores (R41 to R61)
  | launchDispatch (part : Nat)
  | clusterPlace (part park : Nat)
  | parkCoreReload (part park cid : Nat)
  | teamDone (tid : Nat)
  | parkQuantumExpiry (part park : Nat)
  | parkIdleSteal (part park : Nat)
  | stealRetryTimeout (part park : Nat)
  | countUpdateSend (part src dst : Nat)
  | clauseStart (cid pipe : Nat)
  | clauseFetchDone (gid slice : Nat)
  | ageingSwitch (gid slice : Nat)
  | regangTimeout (gid : Nat)
  | trapEntry (gid : Nat)
  -- translation, service faults and kills (R180, R344 to R356)
  | serviceRequestAppend (part : Nat)
  | clusterVacate (cluster : Nat)
  | vacationCollectiveTimeout (cluster : Nat)
  | contextKill (ctx : Nat)
  | killComplete (ctx : Nat)
  -- versions, homes and the settle buffer (R182 to R200, R362 to R367)
  | orangeryRevoke (chan : Nat)
  | snapshotAgeRevoke (tid : Nat)
  | collectorReclaim (chan : Nat)
  | releaseCommit (rel : Nat)
  | settleBufferDrain (pkt : Nat)
  | escTimeout (pkt : Nat)
  | rowRemapRebuild (row : Nat)
  | testWindowStart
  | coreTestStart (cid : Nat)
  -- packets reaching their destination (R79, R183 to R195, R223, R249, R320)
  | rd (pkt : Nat)
  | wr (pkt : Nat)
  | cmt (pkt : Nat)
  | atom (pkt : Nat)
  | red (pkt : Nat)
  | win (pkt : Nat)
  | bar (pkt : Nat)
  | data (pkt : Nat)
  | ack (pkt : Nat)
  | blk (x : BlkStep)
  | sreq (pkt : Nat)
  | countUpdate (pkt : Nat)
  | srep (pkt : Nat)
  | ctrl (cid ctx off : Nat) (data : List Byte)
  | cont (x : ContStep)
  | cres (x : CollStep)
  | cstat (x : CollStep)
  | reductionSlotTimeout (slot : Nat)
  | evacuationDrained
  | evacuationDeadline
  | submissionEntryTake (part : Nat)
  | packResultWritten (op : Nat)
  -- what the environment decides on: power, faults, the host, Fjondan, other devices and supervisors
  | coreReloadRelease (cid : Nat)
  | translationWalkDone (cid ctx : Nat) (va : Addr) (kind : AccKind)
  | faultActRetry (part idx : Nat)
  | faultActTrap (part idx : Nat)
  | faultActKill (part idx : Nat)
  | strikeReport (x : Strike)
  | powerLimit (cycles : Nat)
  | arrayUncorrectableError (x : ArrayError)
  | homeChannelFailure (chan : Nat)
  | routerDeath (px py : Nat)
  | coreFieldFailure (x y : Nat)
  | coreTestDone (cid : Nat) (pass : Bool)
  | multicastWriteArrival (group : Nat) (src : Machine.Member) (pa : Nat) (bytes : List (Option Byte))
  | colPortDown (port : Nat)
  | busPowerApplied
  | mainPowerApplied
  | mainPowerRemoved
  | busPowerRemoved
  | imageVerifyDone (kind : Nat) (image : List Byte)
  | fjondanRunning
  | functionSelfTestDone (unitKind unitNo : Nat) (pass : Bool)
  | evacuationCommand (receiver : Nat × Nat × Nat) (accepted : Bool)
  | evacuationFailure
  | evacuationReceive (sundial : Nat) (coords : Nat × Nat × Nat) (shipped : Machine.Shipment)
  | evidenceRequest (nonce : List Byte) (part : Option Nat)
  | identityStoreRead (off count : Nat)
  | partitionCreate (p : PartitionSpec)
  | partitionDestroy (part : Nat)
  | sqTail (part : Nat) (tail : Word)
  | sqEn (part : Nat) (enable : Bool)
  | hostWrite (fn : Nat) (addr : Nat) (bytes : List (Option Byte))
  | hostRead (fn : Nat) (addr count : Nat)
  | fjondanMailbox (off : Nat) (bytes : List Byte)
  | conventionalReset
  | vfFunctionLevelReset (part : Nat)
  | pf0FunctionLevelReset
  | backInvalidationDone (ts : Nat)
  | farMemoryCompletion (ts : Nat)
  | receiverAcknowledgement
  | systemCoreRestart (n : Nat)
  | storedMinimumRaise (kind slot svn : Nat)
  | keySlotEnrolment (slot : Nat) (key : List Byte) (part : Option Nat)
  deriving DecidableEq, Repr

end Sys2Proof
end

