-- ==== Sys2Proof/WellFormed.lean ====
section
/-! DEFINITION. Which terms of `Instr` are instructions of the part: the operand kinds, the qualifier
values and the accepted ORDER sets of every entry (R67 to R81). A word whose term fails here raises the
illegal-instruction group trap, or is an illegal instruction of the sequencer (R80, R82). What depends on
the machine (VREGS, a system core, a register's value) is checked at issue, not here. Steps that have no
encoding are well formed. -/

namespace Sys2Proof

namespace Opnd

/-- A v register. -/
def isV : Opnd → Bool | .v _ => true | _ => false
/-- An s register. -/
def isS : Opnd → Bool | .s _ => true | _ => false
/-- A k register. -/
def isK : Opnd → Bool | .k _ => true | _ => false
/-- k1 to k7 (R113). -/
def isK17 : Opnd → Bool | .k n => n != 0 | _ => false
/-- A tile register. -/
def isT : Opnd → Bool | .t _ => true | _ => false
/-- An accumulator window. -/
def isA : Opnd → Bool | .a _ => true | _ => false
/-- A special value (R71). -/
def isSp : Opnd → Bool | .sp _ => true | _ => false
/-- An inline integer (R72). -/
def isInt : Opnd → Bool | .pos _ => true | .neg _ => true | _ => false
/-- An inline FP32 constant (R72). -/
def isFp : Opnd → Bool | .fp _ => true | _ => false
/-- An m register (R74). -/
def isM : Opnd → Bool | .m _ => true | _ => false
/-- The inline integer -1, specifier 0xEF (R282, R288). -/
def isMinus1 : Opnd → Bool | .neg n => n == 15 | _ => false
/-- An even v register. -/
def isEvenV : Opnd → Bool | .v n => !n.getLsbD 0 | _ => false
/-- An even s register. -/
def isEvenS : Opnd → Bool | .s n => !n.getLsbD 0 | _ => false
/-- An even m register (R286, R288). -/
def isEvenM : Opnd → Bool | .m n => !n.getLsbD 0 | _ => false
/-- A .LO special value, which a 64-bit position reads with its .HI half (R71). -/
def isLo : Opnd → Bool
  | .sp .clockLo => true | .sp .paramLo => true | .sp .snapLo => true | _ => false
/-- What puts an instruction of kind V into vector form: a v register or LANE.ID (R73). -/
def isLanes : Opnd → Bool | .v _ => true | .sp .laneId => true | _ => false

/-- An s register or an inline integer. -/
def isSI (o : Opnd) : Bool := o.isS || o.isInt
/-- An m register or an inline integer. -/
def isMI (o : Opnd) : Bool := o.isM || o.isInt
/-- A 32-bit destination (R107). -/
def dst32 (o : Opnd) : Bool := o.isV || o.isS
/-- A 64-bit destination: an even pair (R70). -/
def dst64 (o : Opnd) : Bool := o.isEvenV || o.isEvenS
/-- A 32-bit source of an integer instruction (R107). -/
def src32 (o : Opnd) : Bool := o.isV || o.isS || o.isSp || o.isInt
/-- A 64-bit source: an even pair, a .LO value or an inline integer (R70 to R72). -/
def src64 (o : Opnd) : Bool := o.isEvenV || o.isEvenS || o.isLo || o.isInt
/-- A source of a float instruction (R158). -/
def srcF (o : Opnd) : Bool := o.src32 || o.isFp
/-- A destination or source of `wide` width. -/
def dstW (wide : Bool) (o : Opnd) : Bool := if wide then o.dst64 else o.dst32
/-- A source of `wide` width. -/
def srcW (wide : Bool) (o : Opnd) : Bool := if wide then o.src64 else o.src32
/-- A v register, even when `wide`. -/
def vW (wide : Bool) (o : Opnd) : Bool := if wide then o.isEvenV else o.isV
/-- An s register, even when `wide`. -/
def sW (wide : Bool) (o : Opnd) : Bool := if wide then o.isEvenS else o.isS
/-- A global base address: an even v or s pair (R68). -/
def base (o : Opnd) : Bool := o.dst64

end Opnd

/-- A 64-bit integer TYPE (R106). -/
def IntTy.wide : IntTy → Bool | .i64 => true | .n64 => true | _ => false
/-- I32 or N32, the TYPEs of the address forms (R110). -/
def IntTy.is32 : IntTy → Bool | .i32 => true | .n32 => true | _ => false
/-- The TYPEs PSUM and PMAX accept (R120). -/
def IntTy.prefixTy (t : IntTy) : Bool := t.wide || t.is32
/-- SIZE D names a pair (R134, R201). -/
def Size.wide : Size → Bool | .d => true | _ => false
/-- SIZE B or H, which alone take EXT (R134, R201). -/
def Size.narrow : Size → Bool | .b => true | .h => true | _ => false
/-- SIZE W or D, the sizes of ATOM and RED (R201). -/
def Size.atomic : Size → Bool | .w => true | .d => true | _ => false
/-- The 64-bit CVT types (R168). -/
def CvtTy.wide : CvtTy → Bool | .i64 => true | .n64 => true | _ => false
/-- The integer CVT types (R168). -/
def CvtTy.isInt : CvtTy → Bool | .f32 => false | .f16 => false | .bf16 => false | _ => true

/-- ORDER accepted by loads (R76). -/
def Order.forLoad : Order → Bool | .rlx => true | .acq => true | _ => false
/-- ORDER accepted by stores and reductions (R76). -/
def Order.forStore : Order → Bool | .rlx => true | .rel => true | _ => false
/-- ORDER accepted by FENCE (R76). -/
def Order.forFence : Order → Bool | .rlx => false | _ => true

/-- SIG 12 to 14 are illegal (R67). -/
def Ctl.sigOk (c : Ctl) : Bool := c.sig.toNat < 12 || c.sig == 15

/-- SIG legal and PM 0: every instruction that is not in vector form (R67). -/
def Ctl.plain (c : Ctl) : Bool := c.sigOk && c.pm == 0

/-- The form rule of kind V (R67, R73) for operands `os`: vector form when any names a v register or
LANE.ID; then a destination s register is illegal, else PM must be 0. -/
def Ctl.kindV (c : Ctl) (os : List Opnd) (destS : Bool) : Bool :=
  c.sigOk && (if os.any Opnd.isLanes then !destS else c.pm == 0)

/-- Control registers SYSRD and SYSWR name, and whether each is 64 bits wide (R336). -/
def cregWide (n : BitVec 10) : Option Bool :=
  match n.toNat with
  | 0x000 | 0x001 | 0x002 | 0x003 | 0x004 | 0x010 | 0x011 => some false
  | 0x020 | 0x021 | 0x022 => some true
  | 0x023 => some false
  | 0x024 => some true
  | 0x030 | 0x031 | 0x040 => some false
  | 0x041 => some true
  | 0x042 | 0x043 => some false
  | 0x044 | 0x045 => some true
  | _ => none

/-- Operands of a two-source integer instruction (R107, R111). -/
def wfInt2 (c : Ctl) (ty : IntTy) (d a b : Opnd) : Bool :=
  d.dstW ty.wide && a.srcW ty.wide && b.srcW ty.wide && c.kindV [d, a, b] d.isS

/-- Operands of an integer instruction whose B is a 32-bit amount or descriptor (R108, R109). -/
def wfIntAmt (c : Ctl) (ty : IntTy) (d a b : Opnd) : Bool :=
  d.dstW ty.wide && a.srcW ty.wide && b.src32 && c.kindV [d, a, b] d.isS

/-- Operands of a one-source integer instruction. -/
def wfInt1 (c : Ctl) (ty : IntTy) (d a : Opnd) : Bool :=
  d.dstW ty.wide && a.srcW ty.wide && c.kindV [d, a] d.isS

/-- Operands of a two-source float instruction (R158). -/
def wfF2 (c : Ctl) (d a b : Opnd) : Bool :=
  d.dst32 && a.srcF && b.srcF && c.kindV [d, a, b] d.isS

/-- Operands of a special function (R165). -/
def wfF1 (c : Ctl) (d a : Opnd) : Bool := d.dst32 && a.srcF && c.kindV [d, a] d.isS

/-- A vector-form scratchpad or window load (R134). -/
def wfLds (c : Ctl) (sz : Size) (sx : Bool) (d a : Opnd) : Bool :=
  c.sigOk && d.vW sz.wide && a.isLanes && (!sx || sz.narrow)

/-- A vector-form scratchpad or window store (R134). -/
def wfSts (c : Ctl) (sz : Size) (d a : Opnd) : Bool :=
  c.sigOk && (d.vW sz.wide || d.sW sz.wide || d.isInt) && a.isLanes

/-- A slice-scalar scratchpad or window load (R134). -/
def wfLdss (c : Ctl) (sz : Size) (sx : Bool) (d a : Opnd) : Bool :=
  c.plain && d.sW sz.wide && a.isSI && (!sx || sz.narrow)

/-- A slice-scalar scratchpad or window store (R134). -/
def wfStss (c : Ctl) (sz : Size) (d a : Opnd) : Bool :=
  c.plain && (d.sW sz.wide || d.isInt) && a.isSI

/-- An ATOM form on integers (R201, R211). -/
def wfAtom (c : Ctl) (sz : Size) (d a b : Opnd) : Bool :=
  sz.atomic && d.dstW sz.wide && a.base && b.srcW sz.wide && c.kindV [d, a, b] d.isS

/-- A RED form on integers (R201, R214). -/
def wfRed (c : Ctl) (sz : Size) (ord : Order) (d a : Opnd) : Bool :=
  sz.atomic && ord.forStore && d.srcW sz.wide && a.base && c.kindV [d, a] false

/-- A mask instruction on k registers (R115). -/
def wfK2 (c : Ctl) (d a b : Opnd) : Bool := c.plain && d.isK17 && a.isK && b.isK

/-- Well-formedness of every term. PACK's A may be a v or s register, special or inline, as R170 lists its operands; R173's
list of illegal encodings, read by itself, would have only a v register (DESIGN CHOICE, log entry 77). -/
def Instr.wf : Instr → Bool
  | .add c ty _ d a b | .sub c ty _ d a b | .mul c ty _ d a b => wfInt2 c ty d a b
  | .mulh c ty d a b | .min c ty d a b | .max c ty d a b | .and c ty d a b | .or c ty d a b
  | .xor c ty d a b => wfInt2 c ty d a b
  | .mad c ty _ d a b e =>
    d.dstW ty.wide && a.srcW ty.wide && b.srcW ty.wide && e.srcW ty.wide && c.kindV [d, a, b, e] d.isS
  | .not c ty d a | .clz c ty d a | .popc c ty d a | .brev c ty d a => wfInt1 c ty d a
  | .shl c ty d a b | .shr c ty d a b | .sar c ty d a b | .rol c ty d a b | .bfe c ty d a b =>
    wfIntAmt c ty d a b
  | .bfi c ty d a b e =>
    d.dstW ty.wide && a.srcW ty.wide && b.srcW ty.wide && e.src32 && c.kindV [d, a, b, e] d.isS
  | .sel c ty d a b e =>
    d.dstW ty.wide && a.srcW ty.wide && b.srcW ty.wide && (e.isK || e.isS) && c.kindV [d, a, b] d.isS
  | .addx c ty d a b | .subx c ty d a b =>
    ty.is32 && d.dst64 && a.src64 && b.src32 && c.kindV [d, a, b] d.isS
  | .mov c ty d a => d.dstW ty.wide && (a.srcW ty.wide || (!ty.wide && a.isFp)) && c.kindV [d, a] d.isS
  | .lea c ty _ d a b => ty.is32 && d.dst64 && a.src64 && b.src32 && c.kindV [d, a, b] d.isS
  | .leax c ty _ d a b e =>
    ty.is32 && d.dst64 && a.src64 && b.src32 && e.src32 && c.kindV [d, a, b, e] d.isS
  | .addImm c ty _ d a _ | .subImm c ty _ d a _ | .mulImm c ty _ d a _ => wfInt1 c ty d a
  | .minImm c ty d a _ | .maxImm c ty d a _ | .andImm c ty d a _ | .orImm c ty d a _
  | .xorImm c ty d a _ | .shlImm c ty d a _ | .shrImm c ty d a _ | .sarImm c ty d a _
  | .rolImm c ty d a _ => wfInt1 c ty d a
  | .movImm c ty d _ => d.dstW ty.wide && c.kindV [d] d.isS
  | .leaImm c _ d a _ => d.dst64 && a.src64 && c.kindV [d, a] d.isS
  | .movw c d _ => d.dst32 && c.kindV [d] d.isS
  | .movwx c d _ | .addwx c d _ => d.dst64 && c.kindV [d] d.isS
  | .movwh c d _ => d.dst64 && c.kindV [d] d.isS
  | .cmp c ty _ d a b => d.isK17 && a.srcW ty.wide && b.srcW ty.wide && c.kindV [a, b] false
  | .kand c d a b | .kor c d a b | .kxor c d a b => wfK2 c d a b
  | .knot c d a => c.plain && d.isK17 && a.isK
  | .kmov c d a => c.plain && d.isK17 && (a.isK || a.isSI)
  | .execget c d => c.plain && (d.isK17 || d.isS)
  | .execset c a => c.plain && (a.isK || a.isSI)
  | .ktest c d a b => c.plain && d.isS && a.isK && b.isK
  | .shfl c _ _ d a b => c.sigOk && d.isV && a.src32 && b.src32
  | .ballot c d a => c.sigOk && d.isV && (a.isK || a.isV)
  | .vote c _ d a => c.sigOk && d.isK17 && a.isV
  | .psum c ty _ _ d a => c.sigOk && ty.prefixTy && d.vW ty.wide && a.srcW ty.wide
  | .pmax c ty _ d a => c.sigOk && ty.prefixTy && d.vW ty.wide && a.srcW ty.wide
  | .laneid c _ d => c.sigOk && d.isV
  | .fadd c _ _ _ _ d a b | .fsub c _ _ _ _ d a b | .fmul c _ _ _ _ d a b => wfF2 c d a b
  | .ffma c _ _ _ _ _ d a b e => d.dst32 && a.srcF && b.srcF && e.srcF && c.kindV [d, a, b, e] d.isS
  | .fmin c _ _ _ d a b | .fmax c _ _ _ d a b => wfF2 c d a b
  | .fcmp c _ _ d a b => d.isK17 && a.srcF && b.srcF && c.kindV [a, b] false
  | .frcp c _ _ _ _ d a | .frsq c _ _ _ _ d a | .fexp2 c _ _ _ _ d a | .flog2 c _ _ _ _ d a => wfF1 c d a
  | .fsin c _ _ _ d a | .fcos c _ _ _ d a | .ftanh c _ _ _ d a => wfF1 c d a
  | .cvt c dt sty rnd d a =>
    d.dstW dt.wide && (a.srcW sty.wide || (!sty.wide && a.isFp))
      && (!(dt.isInt && sty.isInt) || rnd == .rne) && c.kindV [d, a] d.isS
  | .pack c _ d a => c.sigOk && d.isEvenV && a.srcF
  | .unpack c _ _ d a => c.sigOk && d.isV && a.isEvenV
  | .bra c _ => c.plain
  | .brx c _ _ => c.sigOk
  | .call c d _ => c.plain && d.isEvenS
  | .braz c a _ | .branz c a _ => c.plain && a.isS
  | .join c | .regang c | .exit c | .yield c | .nop c => c.plain
  | .ret c a | .jmpi c a => c.plain && a.isEvenS
  | .calli c d a => c.plain && d.isEvenS && a.isEvenS
  | .trap c a => c.plain && a.isSI
  | .lds c sz sx d a _ | .ldw c sz _ sx d a _ => wfLds c sz sx d a
  | .sts c sz d a _ | .stw c sz _ d a _ => wfSts c sz d a
  | .ldss c sz sx d a _ | .ldws c sz _ sx d a _ => wfLdss c sz sx d a
  | .stss c sz d a _ | .stws c sz _ d a _ => wfStss c sz d a
  | .ld c sz ord _ sx d a _ => c.sigOk && ord.forLoad && d.vW sz.wide && a.base && (!sx || sz.narrow)
  | .ldsc c sz ord _ sx d a _ =>
    c.plain && ord.forLoad && d.sW sz.wide && a.isEvenS && (!sx || sz.narrow)
  | .pref c _ _ a _ => a.base && c.kindV [a] false
  | .ldt c ord _ d a b _ => c.plain && ord.forLoad && d.isT && a.isEvenS && b.isSI
  | .snap c ord _ _ d a _ => c.plain && ord.forLoad && d.isEvenS && a.isEvenS
  | .st c sz ord _ d a _ => c.sigOk && ord.forStore && d.vW sz.wide && a.base
  | .stsc c sz ord _ d a _ => c.plain && ord.forStore && (d.sW sz.wide || d.isInt) && a.isEvenS
  | .stt c ord _ d a b _ => c.plain && ord.forStore && d.isT && a.isEvenS && b.isSI
  | .atomAdd c sz _ _ d a b _ | .atomMin c sz _ _ d a b _ | .atomMax c sz _ _ d a b _
  | .atomMinn c sz _ _ d a b _ | .atomMaxn c sz _ _ d a b _ | .atomAnd c sz _ _ d a b _
  | .atomOr c sz _ _ d a b _ | .atomXor c sz _ _ d a b _ | .atomSwap c sz _ _ d a b _
  | .atomCas c sz _ _ d a b _ => wfAtom c sz d a b
  | .atomFadd c _ _ d a b _ => d.dst32 && a.base && b.srcF && c.kindV [d, a, b] d.isS
  | .redAdd c sz ord _ d a _ | .redMin c sz ord _ d a _ | .redMax c sz ord _ d a _
  | .redMinn c sz ord _ d a _ | .redMaxn c sz ord _ d a _ | .redAnd c sz ord _ d a _
  | .redOr c sz ord _ d a _ | .redXor c sz ord _ d a _ => wfRed c sz ord d a
  | .redFadd c ord _ d a _ => ord.forStore && d.srcF && a.base && c.kindV [d, a] false
  | .fence c ord _ => c.plain && ord.forFence
  | .txbegin c _ => c.plain
  | .txcommit c _ => c.plain
  | .txabort c b => c.plain && b.isSI
  | .binit c d a _ => c.plain && d.isSI && a.isSI
  | .breg c a _ => c.plain && a.isSI
  | .barr c d a b _ => c.plain && d.isS && a.isSI && b.all Opnd.isSI
  | .barrd c d a _ => c.plain && d.isS && a.isSI
  | .bexp c d a _ => c.plain && d.isSI && a.isSI
  | .bwait c d a _ => c.plain && d.isS && a.isSI
  | .btest c d a b _ => c.plain && d.isS && a.isSI && b.isSI
  | .trig c d a b _ => c.plain && d.isS && a.isEvenS && b.isSI
  | .accalloc c d a => c.plain && d.isEvenS && a.isSI
  | .accfree c a => c.plain && a.isEvenS
  | .scrl c d a | .scrlr c d a => c.plain && d.all Opnd.isEvenS && a.isSI
  | .copy c a b | .copyx c a b | .copyDec c a b => c.plain && a.isSI && b.isSI
  | .dtload c acq scope _ a => c.plain && a.isEvenS && (acq || scope == .team)
  | .planeq c d a => c.plain && d.isS && (match a with | .pos n => n.toNat ≤ 3 | _ => false)
  | .mshape _ d a b e => d.isA && a.isMI && b.isMI && (e.isM || e.isFp)
  | .mldt _ d a b e => d.isT && a.isM && b.isMI && (e.isM || e.isMinus1)
  | .mzero _ d => d.isA
  | .mma _ _ _ d a b | .mmaPair _ _ _ d a b => d.isA && a.isT && b.isT
  | .msoft _ _ _ d a b e => d.isT && a.isA && b.isA && e.isEvenM
  | .mdrain _ _ _ _ _ dest _ d a b e =>
    (if dest == .scr then d.isM else d.isEvenM) && a.isA && b.isMI && (e.isM || e.isMinus1)
  | .mwait _ d a => d.isM && a.isM
  | .marr _ d a b => d.isM && a.isM && b.isMI
  | .msig _ mask => mask != 0
  | .mend _ | .mpair _ | .mbra _ _ => true
  | .mloop _ a _ => a.isM
  | .mmov _ d _ | .mmovHi _ d _ => d.isM
  | .madd _ d a _ => d.isM && a.isM
  | .mstart c d a b => c.plain && d.isS && a.isEvenS && (match b with | .s n => n.toNat ≤ 24 | _ => false)
  | .mstop c d => c.plain && d.isEvenS
  | .sysrd c d num =>
    c.plain && (match cregWide num with | some w => d.sW w | none => false)
  | .syswr c num a =>
    c.plain && (match cregWide num with | some w => a.sW w || a.isInt | none => false)
  | .launch c d a => c.plain && d.isEvenS && a.isEvenS
  | .vacate c d a b => c.plain && d.isS && a.isS && b.isSI
  | .rte c | .icinv c _ | .timerclr c => c.plain
  | .dcflush c a b => c.plain && a.isEvenS && b.isSI
  | .ctxkill c d a => c.plain && d.isS && a.isS
  | .pmon c _ d a => c.plain && d.isEvenS && a.isSI
  | .tlbinv c scope a b =>
    c.plain && (match scope with
      | .page => (match a, b with | some a, some b => a.isEvenS && b.isS | _, _ => false)
      | .context => (match a, b with | none, some b => b.isS | _, _ => false)
      | .all => a.isNone && b.isNone)
  | .haltcore c _ d a => c.plain && d.isS && a.isS
  | .timerrd c d => c.plain && d.isS
  | .timerset c a => c.plain && a.isSI
  | .implicitDrop _ | .barrierWatchdogExpiry _ _ | .scrollStep _ | .engineCommandEnd _ | .dtloadTableWrite _
  | .copyDecDecode _ | .matrixCommandComplete _ | .pairTimeout _ | .mpairTimeout _ | .seqStatusUnpair _
  | .seqStatusRepair _ | .groupTimerExpiry _ | .launchDispatch _ | .clusterPlace _ _ | .parkCoreReload _ _ _
  | .ctrl _ _ _ _ | .coreReloadRelease _ | .teamDone _ | .parkQuantumExpiry _ _ | .parkIdleSteal _ _
  | .stealRetryTimeout _ _ | .countUpdateSend _ _ _ | .clauseStart _ _ | .clauseFetchDone _ _
  | .ageingSwitch _ _ | .regangTimeout _ | .trapEntry _ | .translationWalkDone _ _ _ _
  | .serviceRequestAppend _ | .faultActRetry _ _ | .faultActTrap _ _ | .faultActKill _ _ | .clusterVacate _
  | .vacationCollectiveTimeout _ | .contextKill _ | .killComplete _ | .orangeryRevoke _ | .snapshotAgeRevoke _
  | .collectorReclaim _ | .releaseCommit _ | .settleBufferDrain _ | .strikeReport _ | .powerLimit _
  | .arrayUncorrectableError _ | .homeChannelFailure _ | .routerDeath _ _ | .escTimeout _
  | .coreFieldFailure _ _ | .rowRemapRebuild _ | .testWindowStart | .coreTestStart _ | .coreTestDone _ _
  | .rd _ | .wr _ | .cmt _ | .atom _ | .red _ | .win _ | .bar _ | .data _ | .ack _ | .blk _ | .sreq _
  | .countUpdate _ | .srep _ | .cont _ | .cres _ | .cstat _ | .reductionSlotTimeout _
  | .multicastWriteArrival _ _ _ _ | .colPortDown _ | .busPowerApplied | .mainPowerApplied | .mainPowerRemoved
  | .busPowerRemoved | .imageVerifyDone _ _ | .fjondanRunning | .functionSelfTestDone _ _ _
  | .evacuationCommand _ _ | .evacuationDrained | .evacuationFailure | .evacuationDeadline
  | .evacuationReceive _ _ _ | .evidenceRequest _ _ | .identityStoreRead _ _ | .partitionCreate _
  | .partitionDestroy _ | .sqTail _ _ | .sqEn _ _ | .submissionEntryTake _ | .hostWrite _ _ _ | .hostRead _ _ _
  | .fjondanMailbox _ _ | .conventionalReset | .vfFunctionLevelReset _ | .pf0FunctionLevelReset
  | .packResultWritten _ | .backInvalidationDone _ | .farMemoryCompletion _ | .receiverAcknowledgement
  | .systemCoreRestart _ | .storedMinimumRaise _ _ _ | .keySlotEnrolment _ _ _ => true

end Sys2Proof
end

