-- ==== Sys2Proof/Decode.lean ====
section
/-! DEFINITION. Decoding and encoding (R62 to R82): fields of the instruction word and the clause header,
specifiers, qualifier codes, the decoder (total; it names why it rejects) and the encoder. -/

namespace Sys2Proof

/-! ### Qualifier codes (R75) -/

/-- TYPE code (R75). -/
def IntTy.code : IntTy → BitVec 3
  | .i8 => 0 | .i16 => 1 | .i32 => 2 | .i64 => 3 | .n8 => 4 | .n16 => 5 | .n32 => 6 | .n64 => 7
/-- TYPE of a code (R75). -/
def intTyOf (b : BitVec 3) : IntTy :=
  match b.toNat with
  | 0 => .i8 | 1 => .i16 | 2 => .i32 | 3 => .i64 | 4 => .n8 | 5 => .n16 | 6 => .n32 | _ => .n64
/-- COND code (R75). -/
def Cond.code : Cond → BitVec 3 | .eq => 0 | .ne => 1 | .lt => 2 | .le => 3 | .gt => 4 | .ge => 5
/-- COND of a code; 6 and 7 are illegal (R75). -/
def condOf (b : BitVec 3) : Option Cond :=
  match b.toNat with
  | 0 => some .eq | 1 => some .ne | 2 => some .lt | 3 => some .le | 4 => some .gt | 5 => some .ge | _ => none
/-- FTYPE code (R75). -/
def FTy.code : FTy → BitVec 2 | .f32 => 0 | .f16x2 => 1 | .bf16x2 => 2
/-- FTYPE of a code; 3 is illegal (R75). -/
def ftyOf (b : BitVec 2) : Option FTy :=
  match b.toNat with | 0 => some .f32 | 1 => some .f16x2 | 2 => some .bf16x2 | _ => none
/-- RND code (R75). -/
def Rnd.code : Rnd → BitVec 2 | .rne => 0 | .rtz => 1 | .rup => 2 | .rdn => 3
/-- RND of a code (R75). -/
def rndOf (b : BitVec 2) : Rnd := match b.toNat with | 0 => .rne | 1 => .rtz | 2 => .rup | _ => .rdn
/-- FCOND code (R75). -/
def FCond.code : FCond → BitVec 3
  | .eq => 0 | .ne => 1 | .lt => 2 | .le => 3 | .gt => 4 | .ge => 5 | .unord => 6 | .ord => 7
/-- FCOND of a code (R75). -/
def fcondOf (b : BitVec 3) : FCond :=
  match b.toNat with
  | 0 => .eq | 1 => .ne | 2 => .lt | 3 => .le | 4 => .gt | 5 => .ge | 6 => .unord | _ => .ord
/-- SIZE code (R68). -/
def Size.code : Size → BitVec 2 | .b => 0 | .h => 1 | .w => 2 | .d => 3
/-- SIZE of a code (R68). -/
def sizeOf2 (b : BitVec 2) : Size := match b.toNat with | 0 => .b | 1 => .h | 2 => .w | _ => .d
/-- ORDER code (R75). -/
def Order.code : Order → BitVec 3 | .rlx => 0 | .acq => 1 | .rel => 2 | .acqrel => 3 | .sc => 4
/-- ORDER of a code; 5 to 7 are illegal (R75). -/
def orderOf (b : BitVec 3) : Option Order :=
  match b.toNat with
  | 0 => some .rlx | 1 => some .acq | 2 => some .rel | 3 => some .acqrel | 4 => some .sc | _ => none
/-- SCOPE code (R75). -/
def Scope.code : Scope → BitVec 2 | .team => 0 | .cluster => 1 | .device => 2 | .system => 3
/-- SCOPE of a code (R75). -/
def scopeOf (b : BitVec 2) : Scope :=
  match b.toNat with | 0 => .team | 1 => .cluster | 2 => .device | _ => .system
/-- DIR code (R68). -/
def Dir.code : Dir → BitVec 3
  | .n => 0 | .ne => 1 | .e => 2 | .se => 3 | .s => 4 | .sw => 5 | .w => 6 | .nw => 7
/-- DIR of a code (R68). -/
def dirOf (b : BitVec 3) : Dir :=
  match b.toNat with
  | 0 => .n | 1 => .ne | 2 => .e | 3 => .se | 4 => .s | 5 => .sw | 6 => .w | _ => .nw
/-- SHFL MODE code (R118). -/
def ShflMode.code : ShflMode → BitVec 2 | .idx => 0 | .up => 1 | .down => 2 | .xor => 3
/-- SHFL MODE of a code (R118). -/
def shflModeOf (b : BitVec 2) : ShflMode :=
  match b.toNat with | 0 => .idx | 1 => .up | 2 => .down | _ => .xor
/-- SEG code (R118). -/
def Seg.code : Seg → BitVec 2 | .w32 => 0 | .w16 => 1 | .w8 => 2 | .w4 => 3
/-- SEG of a code (R118). -/
def segOf (b : BitVec 2) : Seg := match b.toNat with | 0 => .w32 | 1 => .w16 | 2 => .w8 | _ => .w4
/-- VOTE FORM code (R119). -/
def VoteForm.code : VoteForm → BitVec 2 | .any => 0 | .all => 1 | .uni => 2
/-- VOTE FORM of a code; 3 is illegal (R119). -/
def voteFormOf (b : BitVec 2) : Option VoteForm :=
  match b.toNat with | 0 => some .any | 1 => some .all | 2 => some .uni | _ => none
/-- LANEID FORM code (R121). -/
def LaneForm.code : LaneForm → BitVec 2 | .id => 0 | .rank => 1 | .count => 2 | .mask => 3
/-- LANEID FORM of a code (R121). -/
def laneFormOf (b : BitVec 2) : LaneForm :=
  match b.toNat with | 0 => .id | 1 => .rank | 2 => .count | _ => .mask
/-- CVT type code (R168). -/
def CvtTy.code : CvtTy → BitVec 4
  | .i8 => 0 | .i16 => 1 | .i32 => 2 | .i64 => 3 | .n8 => 4 | .n16 => 5 | .n32 => 6 | .n64 => 7
  | .f32 => 8 | .f16 => 9 | .bf16 => 10
/-- CVT type of a code; 11 to 15 are illegal (R168). -/
def cvtTyOf (b : BitVec 4) : Option CvtTy :=
  match b.toNat with
  | 0 => some .i8 | 1 => some .i16 | 2 => some .i32 | 3 => some .i64 | 4 => some .n8 | 5 => some .n16
  | 6 => some .n32 | 7 => some .n64 | 8 => some .f32 | 9 => some .f16 | 10 => some .bf16 | _ => none
/-- ICINV SCOPE code (R84). -/
def IcScope.code : IcScope → BitVec 2 | .core => 0 | .cluster => 1 | .context => 2
/-- ICINV SCOPE of a code; 3 is illegal (R84). -/
def icScopeOf (b : BitVec 2) : Option IcScope :=
  match b.toNat with | 0 => some .core | 1 => some .cluster | 2 => some .context | _ => none
/-- TLBINV SCOPE code (R360). -/
def TlbScope.code : TlbScope → BitVec 2 | .page => 0 | .context => 1 | .all => 2
/-- TLBINV SCOPE of a code; 3 is illegal (R360). -/
def tlbScopeOf (b : BitVec 2) : Option TlbScope :=
  match b.toNat with | 0 => some .page | 1 => some .context | 2 => some .all | _ => none
/-- RSCOPE code (R288). -/
def RScope.code : RScope → BitVec 2 | .none => 0 | .cluster => 1 | .device => 2 | .system => 3
/-- RSCOPE of a code (R288). -/
def rscopeOf (b : BitVec 2) : RScope :=
  match b.toNat with | 0 => .none | 1 => .cluster | 2 => .device | _ => .system
/-- DEST code (R288). -/
def DrainDest.code : DrainDest → BitVec 2 | .scr => 0 | .mem => 1 | .net => 2
/-- DEST of a code; 3 is illegal (R288). -/
def drainDestOf (b : BitVec 2) : Option DrainDest :=
  match b.toNat with | 0 => some .scr | 1 => some .mem | 2 => some .net | _ => none

/-! ### Specifiers (R70, R71, R74) -/

/-- The special values in specifier order, 0x80 first (R71). -/
def specials : List Special :=
  [.laneId, .sliceId, .groupId, .teamX, .teamY, .twinId, .clusterX, .clusterY, .clusterZ, .coreX, .coreY,
    .gridX, .gridY, .gridZ, .teamGroups, .clusterW, .clusterH, .clockLo, .clockHi, .paramLo, .paramHi,
    .snapLo, .snapHi, .devX, .devY, .devZ, .ctxId, .launchId, .planeOff, .planeSize, .scrSize]

/-- The specifier of a special value: 0x80 and its place in that order (R71). -/
def Special.code (x : Special) : BitVec 8 := BitVec.ofNat 8 (0x80 + specials.idxOf x)

/-- The specifier of an operand (R70, R74). -/
def Opnd.code : Opnd → BitVec 8
  | .v n => BitVec.ofNat 8 n.toNat
  | .s n => BitVec.ofNat 8 (0x40 + n.toNat)
  | .k n => BitVec.ofNat 8 (0x60 + n.toNat)
  | .t n => BitVec.ofNat 8 (0x68 + n.toNat)
  | .a n => BitVec.ofNat 8 (0x78 + n.toNat)
  | .sp x => x.code
  | .pos n => BitVec.ofNat 8 (0xC0 + n.toNat)
  | .neg n => BitVec.ofNat 8 (0xE0 + n.toNat)
  | .fp n => BitVec.ofNat 8 (0xF0 + n.toNat)
  | .m n => BitVec.ofNat 8 n.toNat

/-- The operand a specifier names in a group's stream; 0x9F to 0xBF are reserved (R70). -/
def opndOf (b : BitVec 8) : Option Opnd :=
  if b.toNat < 0x40 then some (.v (BitVec.ofNat 6 b.toNat))
  else if b.toNat < 0x60 then some (.s (BitVec.ofNat 5 (b.toNat - 0x40)))
  else if b.toNat < 0x68 then some (.k (BitVec.ofNat 3 (b.toNat - 0x60)))
  else if b.toNat < 0x78 then some (.t (BitVec.ofNat 4 (b.toNat - 0x68)))
  else if b.toNat < 0x80 then some (.a (BitVec.ofNat 3 (b.toNat - 0x78)))
  else if b.toNat < 0xC0 then (specials[b.toNat - 0x80]?).map .sp
  else if b.toNat < 0xE0 then some (.pos (BitVec.ofNat 5 (b.toNat - 0xC0)))
  else if b.toNat < 0xF0 then some (.neg (BitVec.ofNat 4 (b.toNat - 0xE0)))
  else some (.fp (BitVec.ofNat 4 (b.toNat - 0xF0)))

/-- The operand a specifier names in a matrix stream: 0x00 to 0x0F are m0 to m15, 0x10 to 0x67 are
illegal (R74). -/
def mopndOf (b : BitVec 8) : Option Opnd :=
  if b.toNat < 0x10 then some (.m (BitVec.ofNat 4 b.toNat))
  else if b.toNat < 0x68 then none
  else opndOf b

/-! ### The instruction word (R66) -/

/-- The fields of an instruction word (R66). -/
structure Raw where
  op : BitVec 6
  fn : BitVec 6
  dist : BitVec 3
  sig : BitVec 4
  pm : BitVec 3
  d : BitVec 8
  a : BitVec 8
  b : BitVec 8
  x : BitVec 18
  deriving DecidableEq, Repr

/-- The fields at their places in the word (R66). -/
def unpack (w : DWord) : Raw where
  op := w.extractLsb' 58 6
  fn := w.extractLsb' 52 6
  dist := w.extractLsb' 49 3
  sig := w.extractLsb' 45 4
  pm := w.extractLsb' 42 3
  d := w.extractLsb' 34 8
  a := w.extractLsb' 26 8
  b := w.extractLsb' 18 8
  x := w.extractLsb' 0 18

/-- The word of the fields (R66). -/
def pack (r : Raw) : DWord :=
  (r.op ++ r.fn ++ r.dist ++ r.sig ++ r.pm ++ r.d ++ r.a ++ r.b ++ r.x).cast (by decide)

namespace Raw

/-- C, X[17:10] (R68). -/
def c (r : Raw) : BitVec 8 := r.x.extractLsb' 10 8
/-- MOD, X[9:0] (R68). -/
def md (r : Raw) : BitVec 10 := r.x.extractLsb' 0 10
/-- The group-stream control fields. -/
def ctl (r : Raw) : Ctl := ⟨r.dist, r.sig, r.pm⟩
/-- SIZE, X[17:16] (R68). -/
def size (r : Raw) : Size := sizeOf2 (r.x.extractLsb' 16 2)
/-- ORDER, X[15:13] (R75). -/
def order (r : Raw) : Option Order := orderOf (r.x.extractLsb' 13 3)
/-- SCOPE, X[12:11] (R75). -/
def scope (r : Raw) : Scope := scopeOf (r.x.extractLsb' 11 2)
/-- DIR, X[13:11] (R68). -/
def dir (r : Raw) : Dir := dirOf (r.x.extractLsb' 11 3)
/-- OFF11, X[10:0] (R68). -/
def off11 (r : Raw) : BitVec 11 := r.x.extractLsb' 0 11
/-- OFF26 over B and X (R68). -/
def off26 (r : Raw) : BitVec 26 := r.b ++ r.x
/-- JOFF16 over D and A (R68). -/
def joff (r : Raw) : BitVec 16 := r.d ++ r.a
/-- IMM34 over A, B and X (R68). -/
def imm34 (r : Raw) : BitVec 34 := r.a ++ r.b ++ r.x
/-- IMM34[31:0]. -/
def imm32 (r : Raw) : BitVec 32 := r.imm34.extractLsb' 0 32
/-- TYPE under RRR, MOD[9:7] (R75). -/
def ty (r : Raw) : IntTy := intTyOf (r.md.extractLsb' 7 3)
/-- SAT under RRR, MOD[6] (R75). -/
def sat (r : Raw) : Bool := r.md.getLsbD 6
/-- SH under RRR, MOD[2:0] (R110). -/
def sh (r : Raw) : BitVec 3 := r.md.extractLsb' 0 3
/-- TYPE under RRI, QUAL[7:5] (R75). -/
def qty (r : Raw) : IntTy := intTyOf (r.b.extractLsb' 5 3)
/-- SAT under RRI, QUAL[4] (R75). -/
def qsat (r : Raw) : Bool := r.b.getLsbD 4
/-- SH under RRI, QUAL[2:0] (R110). -/
def qsh (r : Raw) : BitVec 3 := r.b.extractLsb' 0 3
/-- FTYPE, MOD[9:8] (R75). -/
def fty (r : Raw) : Option FTy := ftyOf (r.md.extractLsb' 8 2)
/-- RND, MOD[7:6] (R75). -/
def rnd (r : Raw) : Rnd := rndOf (r.md.extractLsb' 6 2)
/-- Float SAT, MOD[5] (R75). -/
def fsat (r : Raw) : Bool := r.md.getLsbD 5
/-- NEGA, ABSA, NEGB and ABSB, MOD[4:1] (R75). -/
def mods (r : Raw) : FMods := ⟨r.md.getLsbD 4, r.md.getLsbD 3, r.md.getLsbD 2, r.md.getLsbD 1⟩

end Raw

/-! ### Field builders -/

/-- X of RRR: C and MOD (R68). -/
def xC (c : BitVec 8) (md : BitVec 10) : BitVec 18 := c ++ md
/-- MOD of the integer family (R75). -/
def mdInt (ty : IntTy) (sat : Bool) (cond : BitVec 3) (low : BitVec 3) : BitVec 10 :=
  ty.code ++ BitVec.ofBool sat ++ cond ++ low
/-- QUAL of the immediate integer family (R75). -/
def qInt (ty : IntTy) (sat : Bool) (low : BitVec 4) : BitVec 8 := ty.code ++ BitVec.ofBool sat ++ low
/-- MOD of the float family (R75). -/
def mdF (ty : BitVec 2) (rnd : BitVec 2) (sat : Bool) (m : FMods) (negc : Bool) : BitVec 10 :=
  ty ++ rnd ++ BitVec.ofBool sat ++ BitVec.ofBool m.nega ++ BitVec.ofBool m.absa ++ BitVec.ofBool m.negb
    ++ BitVec.ofBool m.absb ++ BitVec.ofBool negc
/-- X of MEM-G (R68). -/
def xG (sz : Size) (ord : Order) (scope : Scope) (off : BitVec 11) : BitVec 18 :=
  sz.code ++ ord.code ++ scope.code ++ off
/-- X of MEM-S (R68). -/
def xS (sz : Size) (dir : Dir) (off : BitVec 11) : BitVec 18 := sz.code ++ (0 : BitVec 2) ++ dir.code ++ off
/-- A one-bit field in an otherwise zero byte (EXT, MODE). -/
def bit8 (b : Bool) : BitVec 8 := (0 : BitVec 7) ++ BitVec.ofBool b

/-- A word of a group's stream (R66). -/
def rawG (op fn : BitVec 6) (c : Ctl) (d a b : BitVec 8) (x : BitVec 18) : Raw :=
  ⟨op, fn, c.dist, c.sig, c.pm, d, a, b, x⟩
/-- A word of a matrix stream: SIG 15 and PM 0 (R74). -/
def rawM (op fn : BitVec 6) (dist : BitVec 3) (d a b : BitVec 8) (x : BitVec 18) : Raw :=
  ⟨op, fn, dist, 15, 0, d, a, b, x⟩
/-- A word in BR format (R68). -/
def rawBr (op fn : BitVec 6) (c : Ctl) (d a : BitVec 8) (off : BitVec 26) : Raw :=
  rawG op fn c d a (off.extractLsb' 18 8) (off.extractLsb' 0 18)
/-- A word in WIDE format (R68). -/
def rawWide (fn : BitVec 6) (c : Ctl) (d : BitVec 8) (imm : BitVec 34) : Raw :=
  rawG 0x02 fn c d (imm.extractLsb' 26 8) (imm.extractLsb' 18 8) (imm.extractLsb' 0 18)
/-- An RRR integer word. -/
def rawInt (fn : BitVec 6) (c : Ctl) (ty : IntTy) (sat : Bool) (d a b e : BitVec 8) (low : BitVec 3) : Raw :=
  rawG 0x00 fn c d a b (xC e (mdInt ty sat 0 low))
/-- An RRI integer word. -/
def rawImm (fn : BitVec 6) (c : Ctl) (ty : IntTy) (sat : Bool) (d a : BitVec 8) (low : BitVec 4)
    (imm : BitVec 18) : Raw :=
  rawG 0x01 fn c d a (qInt ty sat low) imm
/-- An RRR float word of OP 0x06. -/
def rawF (fn : BitVec 6) (c : Ctl) (ty : FTy) (rnd : Rnd) (sat : Bool) (m : FMods) (negc : Bool)
    (d a b e : BitVec 8) : Raw :=
  rawG 0x06 fn c d a b (xC e (mdF ty.code rnd.code sat m negc))
/-- A special-function word (R165). -/
def rawSf (fn : BitVec 6) (c : Ctl) (rnd : Rnd) (sat nega absa : Bool) (d a : BitVec 8) : Raw :=
  rawG 0x07 fn c d a 0 (xC 0 (mdF 0 rnd.code sat ⟨nega, absa, false, false⟩ false))
/-- A word with MOD alone beside its specifiers. -/
def rawX (op fn : BitVec 6) (c : Ctl) (d a b : BitVec 8) (md : BitVec 10) : Raw :=
  rawG op fn c d a b (xC 0 md)
/-- The specifier of an operand that may be left out (0). -/
def optCode (o : Option Opnd) : BitVec 8 := match o with | none => 0 | some o => o.code

/-- The fields of an instruction (R66 to R81); a step without an encoding has none. -/
def fieldsOf : Instr → Option Raw
  | .add c ty sat d a b => some (rawInt 0 c ty sat d.code a.code b.code 0 0)
  | .sub c ty sat d a b => some (rawInt 1 c ty sat d.code a.code b.code 0 0)
  | .mul c ty sat d a b => some (rawInt 2 c ty sat d.code a.code b.code 0 0)
  | .mulh c ty d a b => some (rawInt 3 c ty false d.code a.code b.code 0 0)
  | .mad c ty sat d a b e => some (rawInt 4 c ty sat d.code a.code b.code e.code 0)
  | .min c ty d a b => some (rawInt 5 c ty false d.code a.code b.code 0 0)
  | .max c ty d a b => some (rawInt 6 c ty false d.code a.code b.code 0 0)
  | .and c ty d a b => some (rawInt 7 c ty false d.code a.code b.code 0 0)
  | .or c ty d a b => some (rawInt 8 c ty false d.code a.code b.code 0 0)
  | .xor c ty d a b => some (rawInt 9 c ty false d.code a.code b.code 0 0)
  | .not c ty d a => some (rawInt 10 c ty false d.code a.code 0 0 0)
  | .shl c ty d a b => some (rawInt 11 c ty false d.code a.code b.code 0 0)
  | .shr c ty d a b => some (rawInt 12 c ty false d.code a.code b.code 0 0)
  | .sar c ty d a b => some (rawInt 13 c ty false d.code a.code b.code 0 0)
  | .rol c ty d a b => some (rawInt 14 c ty false d.code a.code b.code 0 0)
  | .clz c ty d a => some (rawInt 15 c ty false d.code a.code 0 0 0)
  | .popc c ty d a => some (rawInt 16 c ty false d.code a.code 0 0 0)
  | .brev c ty d a => some (rawInt 17 c ty false d.code a.code 0 0 0)
  | .bfe c ty d a b => some (rawInt 18 c ty false d.code a.code b.code 0 0)
  | .bfi c ty d a b e => some (rawInt 19 c ty false d.code a.code b.code e.code 0)
  | .sel c ty d a b e => some (rawInt 20 c ty false d.code a.code b.code e.code 0)
  | .addx c ty d a b => some (rawInt 21 c ty false d.code a.code b.code 0 0)
  | .subx c ty d a b => some (rawInt 22 c ty false d.code a.code b.code 0 0)
  | .mov c ty d a => some (rawInt 23 c ty false d.code a.code 0 0 0)
  | .lea c ty sh d a b => some (rawInt 24 c ty false d.code a.code b.code 0 sh)
  | .leax c ty sh d a b e => some (rawInt 25 c ty false d.code a.code b.code e.code sh)
  | .addImm c ty sat d a imm => some (rawImm 0 c ty sat d.code a.code 0 imm)
  | .subImm c ty sat d a imm => some (rawImm 1 c ty sat d.code a.code 0 imm)
  | .mulImm c ty sat d a imm => some (rawImm 2 c ty sat d.code a.code 0 imm)
  | .minImm c ty d a imm => some (rawImm 5 c ty false d.code a.code 0 imm)
  | .maxImm c ty d a imm => some (rawImm 6 c ty false d.code a.code 0 imm)
  | .andImm c ty d a imm => some (rawImm 7 c ty false d.code a.code 0 imm)
  | .orImm c ty d a imm => some (rawImm 8 c ty false d.code a.code 0 imm)
  | .xorImm c ty d a imm => some (rawImm 9 c ty false d.code a.code 0 imm)
  | .shlImm c ty d a imm => some (rawImm 11 c ty false d.code a.code 0 imm)
  | .shrImm c ty d a imm => some (rawImm 12 c ty false d.code a.code 0 imm)
  | .sarImm c ty d a imm => some (rawImm 13 c ty false d.code a.code 0 imm)
  | .rolImm c ty d a imm => some (rawImm 14 c ty false d.code a.code 0 imm)
  | .movImm c ty d imm => some (rawImm 23 c ty false d.code 0 0 imm)
  | .leaImm c sh d a imm => some (rawImm 24 c .i32 false d.code a.code ((0 : BitVec 1) ++ sh) imm)
  | .movw c d imm => some (rawWide 0 c d.code (imm.zeroExtend 34))
  | .movwx c d imm => some (rawWide 1 c d.code imm)
  | .addwx c d imm => some (rawWide 2 c d.code imm)
  | .movwh c d imm => some (rawWide 3 c d.code (imm.zeroExtend 34))
  | .cmp c ty cond d a b => some (rawG 0x03 0 c d.code a.code b.code (xC 0 (mdInt ty false cond.code 0)))
  | .kand c d a b => some (rawX 0x04 0 c d.code a.code b.code 0)
  | .kor c d a b => some (rawX 0x04 1 c d.code a.code b.code 0)
  | .kxor c d a b => some (rawX 0x04 2 c d.code a.code b.code 0)
  | .knot c d a => some (rawX 0x04 3 c d.code a.code 0 0)
  | .kmov c d a => some (rawX 0x04 4 c d.code a.code 0 0)
  | .execget c d => some (rawX 0x04 5 c d.code 0 0 0)
  | .execset c a => some (rawX 0x04 6 c 0 a.code 0 0)
  | .ktest c d a b => some (rawX 0x04 7 c d.code a.code b.code 0)
  | .shfl c mode seg d a b =>
    some (rawX 0x05 0 c d.code a.code b.code (mode.code ++ seg.code ++ (0 : BitVec 6)))
  | .ballot c d a => some (rawX 0x05 1 c d.code a.code 0 0)
  | .vote c form d a => some (rawX 0x05 2 c d.code a.code 0 ((0 : BitVec 8) ++ form.code))
  | .psum c ty sat exc d a =>
    some (rawX 0x05 3 c d.code a.code 0 (ty.code ++ BitVec.ofBool sat ++ (0 : BitVec 5) ++ BitVec.ofBool exc))
  | .pmax c ty exc d a =>
    some (rawX 0x05 4 c d.code a.code 0 (ty.code ++ (0 : BitVec 6) ++ BitVec.ofBool exc))
  | .laneid c form d => some (rawX 0x05 5 c d.code 0 0 ((0 : BitVec 8) ++ form.code))
  | .fadd c ty rnd sat md d a b => some (rawF 0 c ty rnd sat md false d.code a.code b.code 0)
  | .fsub c ty rnd sat md d a b => some (rawF 1 c ty rnd sat md false d.code a.code b.code 0)
  | .fmul c ty rnd sat md d a b => some (rawF 2 c ty rnd sat md false d.code a.code b.code 0)
  | .ffma c ty rnd sat md negc d a b e => some (rawF 3 c ty rnd sat md negc d.code a.code b.code e.code)
  | .fmin c ty sat md d a b => some (rawF 4 c ty .rne sat md false d.code a.code b.code 0)
  | .fmax c ty sat md d a b => some (rawF 5 c ty .rne sat md false d.code a.code b.code 0)
  | .fcmp c cond md d a b =>
    some (rawG 0x06 6 c d.code a.code b.code (xC 0 ((0 : BitVec 2) ++ cond.code ++ BitVec.ofBool md.nega ++ BitVec.ofBool md.absa ++ BitVec.ofBool md.negb ++ BitVec.ofBool md.absb ++ (0 : BitVec 1))))
  | .frcp c rnd sat nega absa d a => some (rawSf 0 c rnd sat nega absa d.code a.code)
  | .frsq c rnd sat nega absa d a => some (rawSf 1 c rnd sat nega absa d.code a.code)
  | .fexp2 c rnd sat nega absa d a => some (rawSf 2 c rnd sat nega absa d.code a.code)
  | .flog2 c rnd sat nega absa d a => some (rawSf 3 c rnd sat nega absa d.code a.code)
  | .fsin c sat nega absa d a => some (rawSf 4 c .rne sat nega absa d.code a.code)
  | .fcos c sat nega absa d a => some (rawSf 5 c .rne sat nega absa d.code a.code)
  | .ftanh c sat nega absa d a => some (rawSf 6 c .rne sat nega absa d.code a.code)
  | .cvt c dt sty rnd d a => some (rawX 0x08 0 c d.code a.code 0 (dt.code ++ sty.code ++ rnd.code))
  | .pack c slot d a => some (rawX 0x08 1 c d.code a.code 0 ((0 : BitVec 7) ++ slot))
  | .unpack c rnd slot d a => some (rawX 0x08 2 c d.code a.code 0 ((0 : BitVec 5) ++ rnd.code ++ slot))
  | .bra c off => some (rawBr 0x09 0 c 0 0 off)
  | .brx c joff off => some (rawBr 0x09 1 c (joff.extractLsb' 8 8) (joff.extractLsb' 0 8) off)
  | .call c d off => some (rawBr 0x09 2 c d.code 0 off)
  | .braz c a off => some (rawBr 0x09 3 c 0 a.code off)
  | .branz c a off => some (rawBr 0x09 4 c 0 a.code off)
  | .join c => some (rawX 0x0A 0 c 0 0 0 0)
  | .regang c => some (rawX 0x0A 1 c 0 0 0 0)
  | .ret c a => some (rawX 0x0A 2 c 0 a.code 0 0)
  | .jmpi c a => some (rawX 0x0A 3 c 0 a.code 0 0)
  | .calli c d a => some (rawX 0x0A 4 c d.code a.code 0 0)
  | .exit c => some (rawX 0x0A 5 c 0 0 0 0)
  | .yield c => some (rawX 0x0A 6 c 0 0 0 0)
  | .trap c a => some (rawX 0x0A 7 c 0 a.code 0 0)
  | .nop c => some (rawX 0x0A 8 c 0 0 0 0)
  | .lds c sz sx d a off => some (rawG 0x10 0 c d.code a.code (bit8 sx) (xS sz .n off))
  | .sts c sz d a off => some (rawG 0x10 1 c d.code a.code 0 (xS sz .n off))
  | .ldw c sz dir sx d a off => some (rawG 0x10 2 c d.code a.code (bit8 sx) (xS sz dir off))
  | .stw c sz dir d a off => some (rawG 0x10 3 c d.code a.code 0 (xS sz dir off))
  | .ldss c sz sx d a off => some (rawG 0x10 4 c d.code a.code (bit8 sx) (xS sz .n off))
  | .stss c sz d a off => some (rawG 0x10 5 c d.code a.code 0 (xS sz .n off))
  | .ldws c sz dir sx d a off => some (rawG 0x10 6 c d.code a.code (bit8 sx) (xS sz dir off))
  | .stws c sz dir d a off => some (rawG 0x10 7 c d.code a.code 0 (xS sz dir off))
  | .ld c sz ord scope sx d a off => some (rawG 0x11 0 c d.code a.code (bit8 sx) (xG sz ord scope off))
  | .ldsc c sz ord scope sx d a off => some (rawG 0x11 1 c d.code a.code (bit8 sx) (xG sz ord scope off))
  | .pref c sz scope a off => some (rawG 0x11 2 c 0 a.code 0 (xG sz .rlx scope off))
  | .ldt c ord scope d a b off => some (rawG 0x11 3 c d.code a.code b.code (xG .d ord scope off))
  | .snap c ord scope newest d a off =>
    some (rawG 0x11 4 c d.code a.code (bit8 newest) (xG .d ord scope off))
  | .st c sz ord scope d a off => some (rawG 0x12 0 c d.code a.code 0 (xG sz ord scope off))
  | .stsc c sz ord scope d a off => some (rawG 0x12 1 c d.code a.code 0 (xG sz ord scope off))
  | .stt c ord scope d a b off => some (rawG 0x12 2 c d.code a.code b.code (xG .d ord scope off))
  | .atomAdd c sz ord scope d a b off => some (rawG 0x13 0 c d.code a.code b.code (xG sz ord scope off))
  | .atomMin c sz ord scope d a b off => some (rawG 0x13 1 c d.code a.code b.code (xG sz ord scope off))
  | .atomMax c sz ord scope d a b off => some (rawG 0x13 2 c d.code a.code b.code (xG sz ord scope off))
  | .atomMinn c sz ord scope d a b off => some (rawG 0x13 3 c d.code a.code b.code (xG sz ord scope off))
  | .atomMaxn c sz ord scope d a b off => some (rawG 0x13 4 c d.code a.code b.code (xG sz ord scope off))
  | .atomAnd c sz ord scope d a b off => some (rawG 0x13 5 c d.code a.code b.code (xG sz ord scope off))
  | .atomOr c sz ord scope d a b off => some (rawG 0x13 6 c d.code a.code b.code (xG sz ord scope off))
  | .atomXor c sz ord scope d a b off => some (rawG 0x13 7 c d.code a.code b.code (xG sz ord scope off))
  | .atomSwap c sz ord scope d a b off => some (rawG 0x13 8 c d.code a.code b.code (xG sz ord scope off))
  | .atomCas c sz ord scope d a b off => some (rawG 0x13 9 c d.code a.code b.code (xG sz ord scope off))
  | .atomFadd c ord scope d a b off => some (rawG 0x13 10 c d.code a.code b.code (xG .w ord scope off))
  | .redAdd c sz ord scope d a off => some (rawG 0x14 0 c d.code a.code 0 (xG sz ord scope off))
  | .redMin c sz ord scope d a off => some (rawG 0x14 1 c d.code a.code 0 (xG sz ord scope off))
  | .redMax c sz ord scope d a off => some (rawG 0x14 2 c d.code a.code 0 (xG sz ord scope off))
  | .redMinn c sz ord scope d a off => some (rawG 0x14 3 c d.code a.code 0 (xG sz ord scope off))
  | .redMaxn c sz ord scope d a off => some (rawG 0x14 4 c d.code a.code 0 (xG sz ord scope off))
  | .redAnd c sz ord scope d a off => some (rawG 0x14 5 c d.code a.code 0 (xG sz ord scope off))
  | .redOr c sz ord scope d a off => some (rawG 0x14 6 c d.code a.code 0 (xG sz ord scope off))
  | .redXor c sz ord scope d a off => some (rawG 0x14 7 c d.code a.code 0 (xG sz ord scope off))
  | .redFadd c ord scope d a off => some (rawG 0x14 10 c d.code a.code 0 (xG .w ord scope off))
  | .fence c ord scope => some (rawG 0x15 0 c 0 0 0 (xG .b ord scope 0))
  | .txcommit c scope => some (rawG 0x15 1 c 0 0 0 (xG .b .rlx scope 0))
  | .txabort c b => some (rawG 0x15 2 c 0 0 b.code (xG .b .rlx .team 0))
  | .txbegin c off => some (rawBr 0x16 0 c 0 0 off)
  | .binit c d a off => some (rawG 0x17 0 c d.code a.code 0 (xS .d .n off))
  | .breg c a off => some (rawG 0x17 1 c 0 a.code 0 (xS .d .n off))
  | .barr c d a b off => some (rawG 0x17 2 c d.code a.code (optCode b) (xS .d .n off))
  | .barrd c d a off => some (rawG 0x17 3 c d.code a.code 0 (xS .d .n off))
  | .bexp c d a off => some (rawG 0x17 4 c d.code a.code 0 (xS .d .n off))
  | .bwait c d a off => some (rawG 0x17 5 c d.code a.code 0 (xS .d .n off))
  | .btest c d a b off => some (rawG 0x17 6 c d.code a.code b.code (xS .d .n off))
  | .trig c d a b off => some (rawG 0x17 7 c d.code a.code b.code (xS .d .n off))
  | .accalloc c d a => some (rawX 0x33 2 c d.code a.code 0 0)
  | .accfree c a => some (rawX 0x33 3 c 0 a.code 0 0)
  | .scrl c d a => some (rawX 0x20 0 c (optCode d) a.code 0 0)
  | .scrlr c d a => some (rawX 0x20 1 c (optCode d) a.code 0 0)
  | .copy c a b => some (rawX 0x20 2 c 0 a.code b.code 0)
  | .copyx c a b => some (rawX 0x20 3 c 0 a.code b.code 0)
  | .copyDec c a b => some (rawX 0x20 5 c 0 a.code b.code 0)
  | .dtload c acq scope slot a =>
    some (rawX 0x20 4 c 0 a.code 0 ((0 : BitVec 6) ++ BitVec.ofBool acq ++ scope.code ++ BitVec.ofBool slot))
  | .planeq c d a => some (rawX 0x20 6 c d.code a.code 0 0)
  | .mshape dist d a b e => some (rawM 0x30 0 dist d.code a.code b.code (xC e.code 0))
  | .mldt dist d a b e => some (rawM 0x30 1 dist d.code a.code b.code (xC e.code 0))
  | .mzero dist d => some (rawM 0x30 2 dist d.code 0 0 0)
  | .mma dist sa sb d a b =>
    some (rawM 0x30 3 dist d.code a.code b.code (xC 0 ((0 : BitVec 4) ++ sb ++ sa)))
  | .mmaPair dist sa sb d a b =>
    some (rawM 0x30 4 dist d.code a.code b.code (xC 0 ((0 : BitVec 4) ++ sb ++ sa)))
  | .msoft dist mask slot d a b e =>
    some (rawM 0x30 5 dist d.code a.code b.code (xC e.code ((0 : BitVec 6) ++ BitVec.ofBool mask ++ slot)))
  | .mdrain dist rscope norm guide add dest slot d a b e =>
    some (rawM 0x30 6 dist d.code a.code b.code (xC e.code (rscope.code ++ BitVec.ofBool norm ++ BitVec.ofBool guide ++ BitVec.ofBool add ++ dest.code ++ slot)))
  | .mwait dist d a => some (rawM 0x30 7 dist d.code a.code 0 0)
  | .marr dist d a b => some (rawM 0x30 8 dist d.code a.code b.code 0)
  | .msig dist mask => some (rawM 0x30 9 dist 0 0 0 (xC 0 ((0 : BitVec 7) ++ mask)))
  | .mend dist => some (rawM 0x30 10 dist 0 0 0 0)
  | .mpair dist => some (rawM 0x30 11 dist 0 0 0 0)
  | .mbra dist off => some (rawM 0x31 0 dist 0 0 (off.extractLsb' 18 8) (off.extractLsb' 0 18))
  | .mloop dist a off => some (rawM 0x31 1 dist 0 a.code (off.extractLsb' 18 8) (off.extractLsb' 0 18))
  | .mmov dist d imm => some (rawM 0x32 0 dist d.code 0 0x40 imm)
  | .mmovHi dist d imm => some (rawM 0x32 0 dist d.code 0 0x41 (imm.zeroExtend 18))
  | .madd dist d a imm => some (rawM 0x32 1 dist d.code a.code 0x40 imm)
  | .mstart c d a b => some (rawX 0x33 0 c d.code a.code b.code 0)
  | .mstop c d => some (rawX 0x33 1 c d.code 0 0 0)
  | .sysrd c d num => some (rawX 0x38 0 c d.code 0 0 num)
  | .syswr c num a => some (rawX 0x38 1 c 0 a.code 0 num)
  | .launch c d a => some (rawX 0x38 2 c d.code a.code 0 0)
  | .vacate c d a b => some (rawX 0x38 3 c d.code a.code b.code 0)
  | .rte c => some (rawX 0x38 4 c 0 0 0 0)
  | .icinv c scope => some (rawX 0x38 5 c 0 0 0 ((0 : BitVec 8) ++ scope.code))
  | .dcflush c a b => some (rawX 0x38 6 c 0 a.code b.code 0)
  | .ctxkill c d a => some (rawX 0x38 7 c d.code a.code 0 0)
  | .pmon c clr d a => some (rawX 0x38 8 c d.code a.code 0 ((0 : BitVec 9) ++ BitVec.ofBool clr))
  | .tlbinv c scope a b => some (rawX 0x38 9 c 0 (optCode a) (optCode b) ((0 : BitVec 8) ++ scope.code))
  | .haltcore c halt d a => some (rawX 0x38 10 c d.code a.code 0 ((0 : BitVec 9) ++ BitVec.ofBool halt))
  | .timerrd c d => some (rawX 0x38 11 c d.code 0 0 0)
  | .timerset c a => some (rawX 0x38 12 c 0 a.code 0 0)
  | .timerclr c => some (rawX 0x38 13 c 0 0 0 0)
  | .implicitDrop _ | .barrierWatchdogExpiry _ _ | .scrollStep _ | .engineCommandEnd _ | .dtloadTableWrite _
  | .copyDecDecode _ | .matrixCommandComplete _ | .pairTimeout _ | .mpairTimeout _ | .seqStatusUnpair _
  | .seqStatusRepair _ | .groupTimerExpiry _ | .launchDispatch _ | .clusterPlace _ _ | .parkCoreReload _ _ _
  | .ctrl _ _ _ _ | .coreReloadRelease _ | .teamDone _ | .parkQuantumExpiry _ _ | .parkIdleSteal _ _
  | .stealRetryTimeout _ _ | .countUpdateSend _ _ _ | .clauseStart _ _ | .clauseFetchDone _ _
  | .ageingSwitch _ _ | .regangTimeout _ | .trapEntry _ | .translationWalkDone _ _ _ _
  | .serviceRequestAppend _ | .faultActRetry _ _ | .faultActTrap _ _ | .faultActKill _ _ | .clusterVacate _
  | .vacationCollectiveTimeout _ | .contextKill _ | .killComplete _ | .orangeryRevoke _ | .snapshotAgeRevoke _
  | .collectorReclaim _ | .releaseCommit _ | .settleBufferDrain _ | .strikeReport _ | .powerLimit _
  | .arrayUncorrectableError _ | .homeChannelFailure _ | .routerDeath _ _ | .escTimeout _
  | .coreFieldFailure _ _ | .rowRemapRebuild _ | .testWindowStart | .coreTestStart _ | .coreTestDone _ _
  | .rd _ | .wr _ | .cmt _ | .atom _ | .red _ | .win _ | .bar _ | .data _ | .ack _ | .blk _ | .sreq _
  | .countUpdate _ | .srep _ | .cont _ | .cres _ | .cstat _ | .reductionSlotTimeout _
  | .multicastWriteArrival _ _ _ _ | .colPortDown _ | .busPowerApplied | .mainPowerApplied | .mainPowerRemoved
  | .busPowerRemoved | .imageVerifyDone _ _ | .fjondanRunning | .functionSelfTestDone _ _ _
  | .evacuationCommand _ _ | .evacuationDrained | .evacuationFailure | .evacuationDeadline
  | .evacuationReceive _ _ _ | .evidenceRequest _ _ | .identityStoreRead _ _ | .partitionCreate _
  | .partitionDestroy _ | .sqTail _ _ | .sqEn _ _ | .submissionEntryTake _ | .hostWrite _ _ _ | .hostRead _ _ _
  | .fjondanMailbox _ _ | .conventionalReset | .vfFunctionLevelReset _ | .pf0FunctionLevelReset
  | .packResultWritten _ | .backInvalidationDone _ | .farMemoryCompletion _ | .receiverAcknowledgement
  | .systemCoreRestart _ | .storedMinimumRaise _ _ _ | .keySlotEnrolment _ _ _ => none

/-- The encoder: the word of an instruction (R66). -/
def encode (i : Instr) : Option DWord := (fieldsOf i).map pack

/-! ### The opcode map (R81) -/

/-- The FN values R81 lists under each OP. -/
def assigned (op fn : Nat) : Bool :=
  match op with
  | 0x00 => fn ≤ 25
  | 0x01 => fn ≤ 2 || (5 ≤ fn && fn ≤ 9) || (11 ≤ fn && fn ≤ 14) || fn == 23 || fn == 24
  | 0x02 => fn ≤ 3
  | 0x03 => fn == 0
  | 0x04 => fn ≤ 7
  | 0x05 => fn ≤ 5
  | 0x06 => fn ≤ 6
  | 0x07 => fn ≤ 6
  | 0x08 => fn ≤ 2
  | 0x09 => fn ≤ 4
  | 0x0A => fn ≤ 8
  | 0x10 => fn ≤ 7
  | 0x11 => fn ≤ 4
  | 0x12 => fn ≤ 2
  | 0x13 => fn ≤ 10
  | 0x14 => fn ≤ 7 || fn == 10
  | 0x15 => fn ≤ 2
  | 0x16 => fn == 0
  | 0x17 => fn ≤ 7
  | 0x20 => fn ≤ 6
  | 0x30 => fn ≤ 11
  | 0x31 => fn ≤ 1
  | 0x32 => fn ≤ 1
  | 0x33 => fn ≤ 3
  | 0x38 => fn ≤ 13
  | _ => false

/-- The class range of an OP; 0x28 to 0x2F have none (R64). -/
def opClass (op : Nat) : Option Nat :=
  if op < 0x10 then some 0
  else if op < 0x20 then some 1
  else if op < 0x28 then some 2
  else if op < 0x30 then none
  else if op < 0x38 then some 3
  else some 4

/-- The instructions marked E in the opcode map (R81). -/
def endsClause (op fn : Nat) : Bool :=
  match op with
  | 0x09 => fn ≤ 4
  | 0x0A => fn ≤ 7
  | 0x15 => fn == 1 || fn == 2
  | 0x17 => fn == 5
  | 0x30 => fn == 10
  | 0x31 => fn ≤ 1
  | 0x38 => fn == 4
  | _ => false

/-- OP 0x30 to 0x32, fetched only by a matrix sequencer (R82). -/
def streamOp (op : Nat) : Bool := op == 0x30 || op == 0x31 || op == 0x32

/-! ### Candidates: what a word says if every unassigned bit is 0 -/

/-- One operand. -/
def o1 (x : BitVec 8) (k : Opnd → Instr) : Option Instr := (opndOf x).map k
/-- Two operands. -/
def o2 (x y : BitVec 8) (k : Opnd → Opnd → Instr) : Option Instr := (opndOf x).bind fun p => o1 y (k p)
/-- Three operands. -/
def o3 (x y z : BitVec 8) (k : Opnd → Opnd → Opnd → Instr) : Option Instr :=
  (opndOf x).bind fun p => o2 y z (k p)
/-- Four operands. -/
def o4 (x y z w : BitVec 8) (k : Opnd → Opnd → Opnd → Opnd → Instr) : Option Instr :=
  (opndOf x).bind fun p => o3 y z w (k p)
/-- An operand that 0 leaves out. -/
def optOpnd (x : BitVec 8) : Option (Option Opnd) := if x = 0 then some none else (opndOf x).map some
/-- One operand of a matrix stream. -/
def m1 (x : BitVec 8) (k : Opnd → Instr) : Option Instr := (mopndOf x).map k
/-- Two operands of a matrix stream. -/
def m2 (x y : BitVec 8) (k : Opnd → Opnd → Instr) : Option Instr := (mopndOf x).bind fun p => m1 y (k p)
/-- Three operands of a matrix stream. -/
def m3 (x y z : BitVec 8) (k : Opnd → Opnd → Opnd → Instr) : Option Instr :=
  (mopndOf x).bind fun p => m2 y z (k p)
/-- Four operands of a matrix stream. -/
def m4 (x y z w : BitVec 8) (k : Opnd → Opnd → Opnd → Opnd → Instr) : Option Instr :=
  (mopndOf x).bind fun p => m3 y z w (k p)

/-- OP 0x00 (R108). -/
def candInt (r : Raw) : Option Instr :=
  match r.fn.toNat with
  | 0 => o3 r.d r.a r.b (.add r.ctl r.ty r.sat)
  | 1 => o3 r.d r.a r.b (.sub r.ctl r.ty r.sat)
  | 2 => o3 r.d r.a r.b (.mul r.ctl r.ty r.sat)
  | 3 => o3 r.d r.a r.b (.mulh r.ctl r.ty)
  | 4 => o4 r.d r.a r.b r.c (.mad r.ctl r.ty r.sat)
  | 5 => o3 r.d r.a r.b (.min r.ctl r.ty)
  | 6 => o3 r.d r.a r.b (.max r.ctl r.ty)
  | 7 => o3 r.d r.a r.b (.and r.ctl r.ty)
  | 8 => o3 r.d r.a r.b (.or r.ctl r.ty)
  | 9 => o3 r.d r.a r.b (.xor r.ctl r.ty)
  | 10 => o2 r.d r.a (.not r.ctl r.ty)
  | 11 => o3 r.d r.a r.b (.shl r.ctl r.ty)
  | 12 => o3 r.d r.a r.b (.shr r.ctl r.ty)
  | 13 => o3 r.d r.a r.b (.sar r.ctl r.ty)
  | 14 => o3 r.d r.a r.b (.rol r.ctl r.ty)
  | 15 => o2 r.d r.a (.clz r.ctl r.ty)
  | 16 => o2 r.d r.a (.popc r.ctl r.ty)
  | 17 => o2 r.d r.a (.brev r.ctl r.ty)
  | 18 => o3 r.d r.a r.b (.bfe r.ctl r.ty)
  | 19 => o4 r.d r.a r.b r.c (.bfi r.ctl r.ty)
  | 20 => o4 r.d r.a r.b r.c (.sel r.ctl r.ty)
  | 21 => o3 r.d r.a r.b (.addx r.ctl r.ty)
  | 22 => o3 r.d r.a r.b (.subx r.ctl r.ty)
  | 23 => o2 r.d r.a (.mov r.ctl r.ty)
  | 24 => o3 r.d r.a r.b (.lea r.ctl r.ty r.sh)
  | 25 => o4 r.d r.a r.b r.c (.leax r.ctl r.ty r.sh)
  | _ => none

/-- OP 0x01 (R108). -/
def candImm (r : Raw) : Option Instr :=
  match r.fn.toNat with
  | 0 => o2 r.d r.a (fun d a => .addImm r.ctl r.qty r.qsat d a r.x)
  | 1 => o2 r.d r.a (fun d a => .subImm r.ctl r.qty r.qsat d a r.x)
  | 2 => o2 r.d r.a (fun d a => .mulImm r.ctl r.qty r.qsat d a r.x)
  | 5 => o2 r.d r.a (fun d a => .minImm r.ctl r.qty d a r.x)
  | 6 => o2 r.d r.a (fun d a => .maxImm r.ctl r.qty d a r.x)
  | 7 => o2 r.d r.a (fun d a => .andImm r.ctl r.qty d a r.x)
  | 8 => o2 r.d r.a (fun d a => .orImm r.ctl r.qty d a r.x)
  | 9 => o2 r.d r.a (fun d a => .xorImm r.ctl r.qty d a r.x)
  | 11 => o2 r.d r.a (fun d a => .shlImm r.ctl r.qty d a r.x)
  | 12 => o2 r.d r.a (fun d a => .shrImm r.ctl r.qty d a r.x)
  | 13 => o2 r.d r.a (fun d a => .sarImm r.ctl r.qty d a r.x)
  | 14 => o2 r.d r.a (fun d a => .rolImm r.ctl r.qty d a r.x)
  | 23 => o1 r.d (fun d => .movImm r.ctl r.qty d r.x)
  | 24 => o2 r.d r.a (fun d a => .leaImm r.ctl r.qsh d a r.x)
  | _ => none

/-- OP 0x02 (R112). -/
def candWide (r : Raw) : Option Instr :=
  match r.fn.toNat with
  | 0 => o1 r.d (fun d => .movw r.ctl d r.imm32)
  | 1 => o1 r.d (fun d => .movwx r.ctl d r.imm34)
  | 2 => o1 r.d (fun d => .addwx r.ctl d r.imm34)
  | 3 => o1 r.d (fun d => .movwh r.ctl d r.imm32)
  | _ => none

/-- OP 0x04 (R115). -/
def candMask (r : Raw) : Option Instr :=
  match r.fn.toNat with
  | 0 => o3 r.d r.a r.b (.kand r.ctl)
  | 1 => o3 r.d r.a r.b (.kor r.ctl)
  | 2 => o3 r.d r.a r.b (.kxor r.ctl)
  | 3 => o2 r.d r.a (.knot r.ctl)
  | 4 => o2 r.d r.a (.kmov r.ctl)
  | 5 => o1 r.d (.execget r.ctl)
  | 6 => o1 r.a (.execset r.ctl)
  | 7 => o3 r.d r.a r.b (.ktest r.ctl)
  | _ => none

/-- OP 0x05 (R117 to R122). -/
def candLane (r : Raw) : Option Instr :=
  match r.fn.toNat with
  | 0 => o3 r.d r.a r.b (.shfl r.ctl (shflModeOf (r.md.extractLsb' 8 2)) (segOf (r.md.extractLsb' 6 2)))
  | 1 => o2 r.d r.a (.ballot r.ctl)
  | 2 => (voteFormOf (r.md.extractLsb' 0 2)).bind fun f => o2 r.d r.a (.vote r.ctl f)
  | 3 => o2 r.d r.a (.psum r.ctl r.ty r.sat (r.md.getLsbD 0))
  | 4 => o2 r.d r.a (.pmax r.ctl r.ty (r.md.getLsbD 0))
  | 5 => o1 r.d (.laneid r.ctl (laneFormOf (r.md.extractLsb' 0 2)))
  | _ => none

/-- OP 0x06 (R161 to R164). -/
def candFloat (r : Raw) : Option Instr :=
  match r.fn.toNat with
  | 0 => r.fty.bind fun t => o3 r.d r.a r.b (.fadd r.ctl t r.rnd r.fsat r.mods)
  | 1 => r.fty.bind fun t => o3 r.d r.a r.b (.fsub r.ctl t r.rnd r.fsat r.mods)
  | 2 => r.fty.bind fun t => o3 r.d r.a r.b (.fmul r.ctl t r.rnd r.fsat r.mods)
  | 3 => r.fty.bind fun t => o4 r.d r.a r.b r.c (.ffma r.ctl t r.rnd r.fsat r.mods (r.md.getLsbD 0))
  | 4 => r.fty.bind fun t => o3 r.d r.a r.b (.fmin r.ctl t r.fsat r.mods)
  | 5 => r.fty.bind fun t => o3 r.d r.a r.b (.fmax r.ctl t r.fsat r.mods)
  | 6 => o3 r.d r.a r.b (.fcmp r.ctl (fcondOf (r.md.extractLsb' 5 3)) r.mods)
  | _ => none

/-- OP 0x07 (R165). -/
def candSpecial (r : Raw) : Option Instr :=
  match r.fn.toNat with
  | 0 => o2 r.d r.a (.frcp r.ctl r.rnd r.fsat (r.md.getLsbD 4) (r.md.getLsbD 3))
  | 1 => o2 r.d r.a (.frsq r.ctl r.rnd r.fsat (r.md.getLsbD 4) (r.md.getLsbD 3))
  | 2 => o2 r.d r.a (.fexp2 r.ctl r.rnd r.fsat (r.md.getLsbD 4) (r.md.getLsbD 3))
  | 3 => o2 r.d r.a (.flog2 r.ctl r.rnd r.fsat (r.md.getLsbD 4) (r.md.getLsbD 3))
  | 4 => o2 r.d r.a (.fsin r.ctl r.fsat (r.md.getLsbD 4) (r.md.getLsbD 3))
  | 5 => o2 r.d r.a (.fcos r.ctl r.fsat (r.md.getLsbD 4) (r.md.getLsbD 3))
  | 6 => o2 r.d r.a (.ftanh r.ctl r.fsat (r.md.getLsbD 4) (r.md.getLsbD 3))
  | _ => none

/-- OP 0x08 (R168, R170). -/
def candConv (r : Raw) : Option Instr :=
  match r.fn.toNat with
  | 0 => (cvtTyOf (r.md.extractLsb' 6 4)).bind fun dt => (cvtTyOf (r.md.extractLsb' 2 4)).bind fun st =>
      o2 r.d r.a (.cvt r.ctl dt st (rndOf (r.md.extractLsb' 0 2)))
  | 1 => o2 r.d r.a (.pack r.ctl (r.md.extractLsb' 0 3))
  | 2 => o2 r.d r.a (.unpack r.ctl (rndOf (r.md.extractLsb' 3 2)) (r.md.extractLsb' 0 3))
  | _ => none

/-- OP 0x09 (R124 to R127). -/
def candBranch (r : Raw) : Option Instr :=
  match r.fn.toNat with
  | 0 => some (.bra r.ctl r.off26)
  | 1 => some (.brx r.ctl r.joff r.off26)
  | 2 => o1 r.d (fun d => .call r.ctl d r.off26)
  | 3 => o1 r.a (fun a => .braz r.ctl a r.off26)
  | 4 => o1 r.a (fun a => .branz r.ctl a r.off26)
  | _ => none

/-- OP 0x0A (R126 to R132). -/
def candFlow (r : Raw) : Option Instr :=
  match r.fn.toNat with
  | 0 => some (.join r.ctl)
  | 1 => some (.regang r.ctl)
  | 2 => o1 r.a (.ret r.ctl)
  | 3 => o1 r.a (.jmpi r.ctl)
  | 4 => o2 r.d r.a (.calli r.ctl)
  | 5 => some (.exit r.ctl)
  | 6 => some (.yield r.ctl)
  | 7 => o1 r.a (.trap r.ctl)
  | 8 => some (.nop r.ctl)
  | _ => none

/-- OP 0x10 (R134). -/
def candScratch (r : Raw) : Option Instr :=
  let sx := r.b.getLsbD 0
  match r.fn.toNat with
  | 0 => o2 r.d r.a (fun d a => .lds r.ctl r.size sx d a r.off11)
  | 1 => o2 r.d r.a (fun d a => .sts r.ctl r.size d a r.off11)
  | 2 => o2 r.d r.a (fun d a => .ldw r.ctl r.size r.dir sx d a r.off11)
  | 3 => o2 r.d r.a (fun d a => .stw r.ctl r.size r.dir d a r.off11)
  | 4 => o2 r.d r.a (fun d a => .ldss r.ctl r.size sx d a r.off11)
  | 5 => o2 r.d r.a (fun d a => .stss r.ctl r.size d a r.off11)
  | 6 => o2 r.d r.a (fun d a => .ldws r.ctl r.size r.dir sx d a r.off11)
  | 7 => o2 r.d r.a (fun d a => .stws r.ctl r.size r.dir d a r.off11)
  | _ => none

/-- OP 0x11 (R201). -/
def candLoad (r : Raw) : Option Instr :=
  let sx := r.b.getLsbD 0
  r.order.bind fun ord =>
  match r.fn.toNat with
  | 0 => o2 r.d r.a (fun d a => .ld r.ctl r.size ord r.scope sx d a r.off11)
  | 1 => o2 r.d r.a (fun d a => .ldsc r.ctl r.size ord r.scope sx d a r.off11)
  | 2 => o1 r.a (fun a => .pref r.ctl r.size r.scope a r.off11)
  | 3 => o3 r.d r.a r.b (fun d a b => .ldt r.ctl ord r.scope d a b r.off11)
  | 4 => o2 r.d r.a (fun d a => .snap r.ctl ord r.scope sx d a r.off11)
  | _ => none

/-- OP 0x12 (R201). -/
def candStore (r : Raw) : Option Instr :=
  r.order.bind fun ord =>
  match r.fn.toNat with
  | 0 => o2 r.d r.a (fun d a => .st r.ctl r.size ord r.scope d a r.off11)
  | 1 => o2 r.d r.a (fun d a => .stsc r.ctl r.size ord r.scope d a r.off11)
  | 2 => o3 r.d r.a r.b (fun d a b => .stt r.ctl ord r.scope d a b r.off11)
  | _ => none

/-- OP 0x13 (R211). -/
def candAtom (r : Raw) : Option Instr :=
  r.order.bind fun ord =>
  match r.fn.toNat with
  | 0 => o3 r.d r.a r.b (fun d a b => .atomAdd r.ctl r.size ord r.scope d a b r.off11)
  | 1 => o3 r.d r.a r.b (fun d a b => .atomMin r.ctl r.size ord r.scope d a b r.off11)
  | 2 => o3 r.d r.a r.b (fun d a b => .atomMax r.ctl r.size ord r.scope d a b r.off11)
  | 3 => o3 r.d r.a r.b (fun d a b => .atomMinn r.ctl r.size ord r.scope d a b r.off11)
  | 4 => o3 r.d r.a r.b (fun d a b => .atomMaxn r.ctl r.size ord r.scope d a b r.off11)
  | 5 => o3 r.d r.a r.b (fun d a b => .atomAnd r.ctl r.size ord r.scope d a b r.off11)
  | 6 => o3 r.d r.a r.b (fun d a b => .atomOr r.ctl r.size ord r.scope d a b r.off11)
  | 7 => o3 r.d r.a r.b (fun d a b => .atomXor r.ctl r.size ord r.scope d a b r.off11)
  | 8 => o3 r.d r.a r.b (fun d a b => .atomSwap r.ctl r.size ord r.scope d a b r.off11)
  | 9 => o3 r.d r.a r.b (fun d a b => .atomCas r.ctl r.size ord r.scope d a b r.off11)
  | 10 => o3 r.d r.a r.b (fun d a b => .atomFadd r.ctl ord r.scope d a b r.off11)
  | _ => none

/-- OP 0x14 (R214). -/
def candRed (r : Raw) : Option Instr :=
  r.order.bind fun ord =>
  match r.fn.toNat with
  | 0 => o2 r.d r.a (fun d a => .redAdd r.ctl r.size ord r.scope d a r.off11)
  | 1 => o2 r.d r.a (fun d a => .redMin r.ctl r.size ord r.scope d a r.off11)
  | 2 => o2 r.d r.a (fun d a => .redMax r.ctl r.size ord r.scope d a r.off11)
  | 3 => o2 r.d r.a (fun d a => .redMinn r.ctl r.size ord r.scope d a r.off11)
  | 4 => o2 r.d r.a (fun d a => .redMaxn r.ctl r.size ord r.scope d a r.off11)
  | 5 => o2 r.d r.a (fun d a => .redAnd r.ctl r.size ord r.scope d a r.off11)
  | 6 => o2 r.d r.a (fun d a => .redOr r.ctl r.size ord r.scope d a r.off11)
  | 7 => o2 r.d r.a (fun d a => .redXor r.ctl r.size ord r.scope d a r.off11)
  | 10 => o2 r.d r.a (fun d a => .redFadd r.ctl ord r.scope d a r.off11)
  | _ => none

/-- OP 0x15 (R215 to R218). -/
def candFence (r : Raw) : Option Instr :=
  r.order.bind fun ord =>
  match r.fn.toNat with
  | 0 => some (.fence r.ctl ord r.scope)
  | 1 => some (.txcommit r.ctl r.scope)
  | 2 => o1 r.b (.txabort r.ctl)
  | _ => none

/-- OP 0x17 (R225). -/
def candBarrier (r : Raw) : Option Instr :=
  match r.fn.toNat with
  | 0 => o2 r.d r.a (fun d a => .binit r.ctl d a r.off11)
  | 1 => o1 r.a (fun a => .breg r.ctl a r.off11)
  | 2 => (optOpnd r.b).bind fun b => o2 r.d r.a (fun d a => .barr r.ctl d a b r.off11)
  | 3 => o2 r.d r.a (fun d a => .barrd r.ctl d a r.off11)
  | 4 => o2 r.d r.a (fun d a => .bexp r.ctl d a r.off11)
  | 5 => o2 r.d r.a (fun d a => .bwait r.ctl d a r.off11)
  | 6 => o3 r.d r.a r.b (fun d a b => .btest r.ctl d a b r.off11)
  | 7 => o3 r.d r.a r.b (fun d a b => .trig r.ctl d a b r.off11)
  | _ => none

/-- OP 0x20 (R246). -/
def candPlane (r : Raw) : Option Instr :=
  match r.fn.toNat with
  | 0 => (optOpnd r.d).bind fun d => o1 r.a (.scrl r.ctl d)
  | 1 => (optOpnd r.d).bind fun d => o1 r.a (.scrlr r.ctl d)
  | 2 => o2 r.a r.b (.copy r.ctl)
  | 3 => o2 r.a r.b (.copyx r.ctl)
  | 4 => o1 r.a (.dtload r.ctl (r.md.getLsbD 3) (scopeOf (r.md.extractLsb' 1 2)) (r.md.getLsbD 0))
  | 5 => o2 r.a r.b (.copyDec r.ctl)
  | 6 => o2 r.d r.a (.planeq r.ctl)
  | _ => none

/-- OP 0x30 (R279 to R294). -/
def candStream (r : Raw) : Option Instr :=
  match r.fn.toNat with
  | 0 => m4 r.d r.a r.b r.c (.mshape r.dist)
  | 1 => m4 r.d r.a r.b r.c (.mldt r.dist)
  | 2 => m1 r.d (.mzero r.dist)
  | 3 => m3 r.d r.a r.b (.mma r.dist (r.md.extractLsb' 0 3) (r.md.extractLsb' 3 3))
  | 4 => m3 r.d r.a r.b (.mmaPair r.dist (r.md.extractLsb' 0 3) (r.md.extractLsb' 3 3))
  | 5 => m4 r.d r.a r.b r.c (.msoft r.dist (r.md.getLsbD 3) (r.md.extractLsb' 0 3))
  | 6 => (drainDestOf (r.md.extractLsb' 3 2)).bind fun dest =>
      m4 r.d r.a r.b r.c (.mdrain r.dist (rscopeOf (r.md.extractLsb' 8 2)) (r.md.getLsbD 7) (r.md.getLsbD 6)
        (r.md.getLsbD 5) dest (r.md.extractLsb' 0 3))
  | 7 => m2 r.d r.a (.mwait r.dist)
  | 8 => m3 r.d r.a r.b (.marr r.dist)
  | 9 => some (.msig r.dist (r.md.extractLsb' 0 3))
  | 10 => some (.mend r.dist)
  | 11 => some (.mpair r.dist)
  | _ => none

/-- OP 0x31 (R276). -/
def candMbranch (r : Raw) : Option Instr :=
  match r.fn.toNat with
  | 0 => some (.mbra r.dist r.off26)
  | 1 => m1 r.a (fun a => .mloop r.dist a r.off26)
  | _ => none

/-- OP 0x32 (R275). -/
def candMscalar (r : Raw) : Option Instr :=
  match r.fn.toNat with
  | 0 =>
    if r.b.getLsbD 0 then m1 r.d (fun d => .mmovHi r.dist d (r.x.extractLsb' 0 16))
    else m1 r.d (fun d => .mmov r.dist d r.x)
  | 1 => m2 r.d r.a (fun d a => .madd r.dist d a r.x)
  | _ => none

/-- OP 0x33 (R240, R272, R273). -/
def candMctl (r : Raw) : Option Instr :=
  match r.fn.toNat with
  | 0 => o3 r.d r.a r.b (.mstart r.ctl)
  | 1 => o1 r.d (.mstop r.ctl)
  | 2 => o2 r.d r.a (.accalloc r.ctl)
  | 3 => o1 r.a (.accfree r.ctl)
  | _ => none

/-- OP 0x38 (R357). -/
def candSystem (r : Raw) : Option Instr :=
  match r.fn.toNat with
  | 0 => o1 r.d (fun d => .sysrd r.ctl d r.md)
  | 1 => o1 r.a (.syswr r.ctl r.md)
  | 2 => o2 r.d r.a (.launch r.ctl)
  | 3 => o3 r.d r.a r.b (.vacate r.ctl)
  | 4 => some (.rte r.ctl)
  | 5 => (icScopeOf (r.md.extractLsb' 0 2)).map (.icinv r.ctl)
  | 6 => o2 r.a r.b (.dcflush r.ctl)
  | 7 => o2 r.d r.a (.ctxkill r.ctl)
  | 8 => o2 r.d r.a (.pmon r.ctl (r.md.getLsbD 0))
  | 9 => (tlbScopeOf (r.md.extractLsb' 0 2)).bind fun sc => (optOpnd r.a).bind fun a =>
      (optOpnd r.b).map fun b => .tlbinv r.ctl sc a b
  | 10 => o2 r.d r.a (.haltcore r.ctl (r.md.getLsbD 0))
  | 11 => o1 r.d (.timerrd r.ctl)
  | 12 => o1 r.a (.timerset r.ctl)
  | 13 => some (.timerclr r.ctl)
  | _ => none

/-- The candidate of a word in a group's stream. -/
def candG (r : Raw) : Option Instr :=
  match r.op.toNat with
  | 0x00 => candInt r
  | 0x01 => candImm r
  | 0x02 => candWide r
  | 0x03 =>
    (condOf (r.md.extractLsb' 3 3)).bind fun cd => o3 r.d r.a r.b (.cmp r.ctl r.ty cd)
  | 0x04 => candMask r
  | 0x05 => candLane r
  | 0x06 => candFloat r
  | 0x07 => candSpecial r
  | 0x08 => candConv r
  | 0x09 => candBranch r
  | 0x0A => candFlow r
  | 0x10 => candScratch r
  | 0x11 => candLoad r
  | 0x12 => candStore r
  | 0x13 => candAtom r
  | 0x14 => candRed r
  | 0x15 => candFence r
  | 0x16 => some (.txbegin r.ctl r.off26)
  | 0x17 => candBarrier r
  | 0x20 => candPlane r
  | 0x33 => candMctl r
  | 0x38 => candSystem r
  | _ => none

/-- The candidate of a word in a matrix stream. -/
def candM (r : Raw) : Option Instr :=
  match r.op.toNat with
  | 0x30 => candStream r
  | 0x31 => candMbranch r
  | 0x32 => candMscalar r
  | _ => none

/-! ### The decoder -/

/-- Why a word is no instruction. Every one is the illegal-instruction group trap, or the sequencer's
illegal instruction (R80, R82). -/
inductive Reject
  /-- OP 0x30 to 0x32 in a group's stream, or any other OP in a matrix stream (R82). -/
  | wrongStream
  /-- An OP or FN that R81 does not list. -/
  | unassigned
  /-- A reserved qualifier value or a reserved specifier (R70, R74, R75). -/
  | reservedValue
  /-- A SIG, PM, operand kind, odd pair, TYPE, SAT or ORDER the entry does not accept (R67 to R76). -/
  | illFormed
  /-- A nonzero unassigned field (R69). -/
  | reservedBits
  deriving DecidableEq, Repr

/-- What a word decodes to. -/
inductive Decoded
  | ok (i : Instr)
  | rejected (why : Reject)
  deriving DecidableEq, Repr

/-- A candidate is the word's instruction when it is well formed and its own encoding gives back every
bit of the word (R69). -/
def accept (r : Raw) (o : Option Instr) : Decoded :=
  match o with
  | none => .rejected .reservedValue
  | some i =>
    if i.wf then (if fieldsOf i = some r then .ok i else .rejected .reservedBits) else .rejected .illFormed

/-- The instruction a word is in a group's stream (R66 to R82). -/
def decodeG (w : DWord) : Decoded :=
  let r := unpack w
  if streamOp r.op.toNat then .rejected .wrongStream
  else if !assigned r.op.toNat r.fn.toNat then .rejected .unassigned
  else accept r (candG r)

/-- The instruction a word is in a matrix stream (R74, R82). -/
def decodeM (w : DWord) : Decoded :=
  let r := unpack w
  if !streamOp r.op.toNat then .rejected .wrongStream
  else if !assigned r.op.toNat r.fn.toNat then .rejected .unassigned
  else accept r (candM r)

/-- The instruction of a word by the stream its OP belongs to. -/
def decodeWord (w : DWord) : Decoded := if streamOp (w.extractLsb' 58 6).toNat then decodeM w else decodeG w

/-- The doubleword of eight bytes, little-endian (R5). -/
def dwordOfBytes (b : List Byte) : Nat := b.foldr (fun x acc => x.toNat + 256 * acc) 0

/-- Eight little-endian bytes of a doubleword (R5). -/
def bytesOfDword (w : DWord) : List Byte :=
  (List.range 8).map fun i => w.extractLsb' (8 * i) 8

/-- The instruction at the head of a byte list, and the bytes after it; fewer than eight bytes hold none
(R63). -/
def decodeBytes (b : List Byte) : Option (Decoded × List Byte) :=
  if b.length < 8 then none else some (decodeWord (BitVec.ofNat 64 (dwordOfBytes (b.take 8))), b.drop 8)

/-- What the decoder reads from an instruction numbered as the opcode table numbers its bits: one
doubleword, bit 0 the least significant (R66), stored little-endian. -/
def decodeTableWord (nbits w : Nat) : Option Instr :=
  match decodeBytes (bytesOfDword (BitVec.ofNat 64 (w % 2 ^ nbits))) with
  | some (.ok i, _) => some i
  | _ => none

/-! ### The clause header (R62 to R65) -/

/-- The fields of a doubleword taken as a clause header (R62). -/
structure Header where
  sig4 : BitVec 4
  cls : BitVec 3
  count : BitVec 4
  waitf : BitVec 12
  ldlim : BitVec 6
  stlim : BitVec 6
  cplim : BitVec 6
  tllim : BitVec 6
  region : BitVec 1
  low : BitVec 16
  deriving DecidableEq, Repr

/-- The header fields of a doubleword (R62). -/
def headerOf (w : DWord) : Header where
  sig4 := w.extractLsb' 60 4
  cls := w.extractLsb' 57 3
  count := w.extractLsb' 53 4
  waitf := w.extractLsb' 41 12
  ldlim := w.extractLsb' 35 6
  stlim := w.extractLsb' 29 6
  cplim := w.extractLsb' 23 6
  tllim := w.extractLsb' 17 6
  region := w.extractLsb' 16 1
  low := w.extractLsb' 0 16

/-- The doubleword of header fields (R62). -/
def headerWord (h : Header) : DWord :=
  (h.sig4 ++ h.cls ++ h.count ++ h.waitf ++ h.ldlim ++ h.stlim ++ h.cplim ++ h.tllim ++ h.region ++ h.low).cast
    (by decide)

/-- Instructions of the clause: COUNT + 1 (R62). -/
def Header.instrs (h : Header) : Nat := h.count.toNat + 1

/-- OP and FN of an instruction word. -/
def opFn (w : DWord) : Nat × Nat := ((w.extractLsb' 58 6).toNat, (w.extractLsb' 52 6).toNat)

/-- The legality test of R64 on a fetched clause. -/
def clauseLegal (h : Header) (ws : List DWord) : Bool :=
  h.sig4 == 0xA && h.cls.toNat < 5 && h.low == 0
    && ws.all (fun w => opClass (opFn w).1 == some h.cls.toNat)
    && ws.dropLast.all (fun w => !endsClause (opFn w).1 (opFn w).2)

/-- The further header values a matrix sequencer requires (R65). -/
def streamHeaderOk (h : Header) : Bool :=
  h.cls == 3 && h.waitf == 0 && h.ldlim == 63 && h.stlim == 63 && h.cplim == 63 && h.tllim == 63
    && h.region == 0

end Sys2Proof
end

