-- ==== Sys2Proof/Machine/State.lean ====
section
/-! DEFINITION. The state of the JV-2048 as plain data, and the state right after reset.

The records it is made of are in Machine/Records.lean. -/

namespace Sys2Proof.Machine

/-- Classes of stream commands (R293). -/
inductive MClass | load | engine | drain
  deriving DecidableEq, Repr

/-- A stream command issued and not complete (R296). -/
structure MCmd where
  seqr : Nat
  tid : Nat
  /-- The other twin's team in a command both take part in (R308, R309). -/
  tid2 : Option Nat
  instr : Instr
  cls : MClass
  /-- Window bindings captured at issue for the operands that name windows. -/
  winD : Binding
  winA : Binding
  winB : Binding
  winU : Binding
  /-- m register values captured at issue for D, A, B and C. -/
  vals : List Word
  addr : Addr
  /-- Tile registers (bank, tile) and physical accumulator tiles it names. -/
  tiles : List (Nat × Nat)
  accs : List Nat
  /-- Effect performed; a drain then awaits its release. -/
  performed : Bool
  rel : Option Nat
  /-- Words a drain to memory has written so far; once performed, the bytes it lands. -/
  bytes : Nat
  fault : Option (Addr × Option Nat)
  /-- The command of the collective a NET drain takes part in, once it has contributed (R312). -/
  child : Option Nat
  /-- A NET drain's record as checked at issue, and the team it names its offsets in (R247, R311). -/
  net : List DWord
  lead : Nat
  /-- It was stopped in execution: it ends without release or landing, once what it has written is performed (R298). -/
  stopped : Bool
  deriving DecidableEq, Repr

/-! ### The fabric -/

/-- Progress of a release (R188). -/
inductive RelSt | waiting | committing | complete
  deriving DecidableEq, Repr

/-- What a device release does when it completes. -/
inductive RelFor
  | op (gid oid : Nat)
  | cmd (cmd : Nat)
  | mcmd (cmd : Nat)
  | teamDone (tid : Nat)
  | launchDone (launch : Nat)
  | device
  deriving DecidableEq, Repr

/-- A release at CLUSTER, DEVICE or SYSTEM scope (R188). -/
structure Release where
  tid : Nat
  gid : Option Nat
  scope : Scope
  st : RelSt
  ts : Nat
  /-- Release a transaction's write set in place of the pending set (R218). -/
  txOf : Option Nat
  purpose : RelFor
  deriving DecidableEq, Repr

/-- Outside coherence work outstanding for a commit (R187). -/
inductive Outside
  | backInvalidation
  | multicast (copy : Nat)
  | farMemory
  deriving DecidableEq, Repr

/-- Endpoints of the fabric (R319). -/
inductive Endpoint
  | core (n : Nat)
  | home (n : Nat)
  | park (n : Nat)
  | io (n : Nat)
  deriving DecidableEq, Repr

/-- Whose traffic a packet is, where no group's access sends it: an engine's command, or the matrix engine's (R317). -/
inductive EngRef | cmd (n : Nat) | mcmd (n : Nat)
  deriving DecidableEq, Repr

/-- What the checks of a packet say (R325); `untagged`: no two copies of its PTAG agree. -/
inductive PktErr | clean | corrected | uncorrectable | header | untagged
  deriving DecidableEq, Repr

/-- A copy of a multicast write for another member, not yet accepted there: the issuing team, the member, the write, the
timestamp of the release that published it, and whether it has left the device (R187, R332). -/
structure Copy where
  tid : Nat
  dev : Nat × Nat × Nat
  group : Nat
  pa : Nat
  op : Option AOp
  bytes : List Byte
  ts : Option Nat
  sent : Bool
  deriving DecidableEq, Repr

/-- A barrier update carried by a packet (R230, R248, R254). -/
structure BarUpd where
  off : Nat
  landed : Nat
  arrivals : Nat
  deriving DecidableEq, Repr

/-- What a packet carries (R320). -/
inductive Payload
  /-- A read; of a transaction, S_x and the write set's bytes of the line as they are at issue (R186, R193). -/
  | read (act : Act) (tx : Option (Nat × Store Byte))
  | write
  | commit (rel : Option Nat)
  | atomic (op : AOp) (cmp : List Byte)
  | reduce (op : AOp)
  /-- A window access, with whether its instruction is in vector form. -/
  | winLoad (sx vec : Bool)
  | winStore (vec : Bool)
  /-- A block an engine command writes at another core: the bytes that `lane` enables (R317). -/
  | block
  /-- Bytes of a plane region for an engine command that has asked for them (R317). -/
  | fill
  /-- Rows that a drain adds to memory as one update, with their addresses (R195). -/
  | rows (l : List (Nat × List Byte))
  /-- 256 bytes that go before a packet of more than 8 payload flits, with the TYPE of that (R316). -/
  | part (typ : Nat)
  | bar (u : BarUpd)
  | data (act : Act) (v t : Option Nat)
  | ack
  /-- A member has accepted a multicast copy (R187). -/
  | ackCopy (copy : Nat)
  | stealReq (park reqn : Nat)
  | countUpd (park count : Nat)
  /-- The head of a steal reply, one of its launches, and up to 16 of its blocks (R328). -/
  | stealRep (reqn n m : Nat)
  | stealLaunch
  | stealBlocks
  /-- A doubleword that a system core writes through a core's window, for an incoming context (R58). -/
  | ctrl (incoming off : Nat)
  /-- A contribution of command `cmd` of this device (R333). -/
  | contribution (cmd : Nat) (x : Contribution)
  | collResult (cmd : Nat) (status : Nat)
  | collStatus (cmd : Nat) (status : Nat)
  deriving DecidableEq, Repr

/-- A packet in a core's settle buffer or on the fabric (R319, R362). -/
structure Packet where
  src : Endpoint
  dst : Endpoint
  vc : Nat
  seq : Nat
  ctx : Nat
  /-- Partition tag; 31 is Fjondan's own traffic (R321). -/
  ptag : Nat
  tid : Nat
  gid : Nat
  oid : Nat
  /-- Lane or slice served; for a commit or a block, the mask of the bytes it writes; for an engine's read, the place it is
  of. -/
  lane : Nat
  pa : Nat
  size : Nat
  bytes : List Byte
  ts : Nat
  load : Payload
  /-- Multicast window it goes through (R181). -/
  group : Option Nat
  /-- The engine command it is of. -/
  cmd : Option EngRef
  /-- Privilege level of the access, for a device register (R178). -/
  level : Level
  /-- Cycle at which it was produced. It has not been injected while `held`, and stands in the injection queue once
  `queued` (R326, R362). -/
  born : Nat
  held : Bool
  queued : Bool
  /-- Packets produced before the last fence, release or barrier arrival of its group (R326). -/
  fence : Nat
  /-- Times it was overtaken at injection (R326). -/
  overtaken : Nat
  /-- Travelling on ESC (R324), and the cycle at which it became the head of its stream. -/
  esc : Bool
  since : Nat
  /-- Bits changed on the wire: of the header, of the copies of PTAG, and of the payload with its check bits (R321). -/
  flips : List Nat
  deriving DecidableEq, Repr

/-- A reduction slot (R333). -/
structure RSlot where
  key : Nat × Nat × Nat
  since : Nat
  tmo : Nat
  /-- Contributions received. -/
  got : List Contribution
  deriving DecidableEq, Repr

/-! ### The module -/

/-- Module states (R368), in the order of the readiness summary (R369). -/
inductive ModState | off | standby | verify | boot | held | service | evacuating | unlatch
  deriving DecidableEq, Repr

/-- A PACK whose results are not written yet (R171): by LANE.ID, the pair it receives. -/
structure PackRes where
  gid : Nat
  oid : Nat
  results : List (Nat × DWord)
  deriving DecidableEq, Repr

/-- What the outside sees happen: interrupts, reports and responses, latest first (R376 to R380, R325,
R372, R374). -/
inductive Out
  | irq (fn vector : Nat)
  | report (what : String)
  | hostData (bytes : List Byte)
  | refused (fn addr : Nat)
  | evidence (bytes : List Byte)
  | identity (bytes : List Byte)
  | mailbox (bytes : List Byte)
  | devWrite (pa : Nat) (bytes : List Byte)
  /-- Packets for another device, after their outer flit (R330). -/
  | multicast (outer copy group tag : Nat) (pa : Nat) (op : Option AOp) (bytes : List Byte)
  | contribution (outer : Nat) (x : Contribution)
  | collective (outer : Nat) (m : CollMsg)
  /-- A contribution for a switch on the path (R333). -/
  | toSwitch (x : Contribution)
  /-- Route withdrawal on a col port (R374). -/
  | withdraw (port : Nat)
  /-- The readiness summary on the management bus (R369). -/
  | readiness (summary : Nat)
  | shipment (sundial : Nat) (coords : Nat × Nat × Nat) (x : Shipment)
  deriving DecidableEq, Repr

/-- A row remap table that is to be rebuilt once its moving positions are empty (R19, R20): the row, the failed
physical column, the new table, the reserves left, and the partition that gives up column `col`. -/
structure Rebuild where
  row : Nat
  failed : Nat
  table : List (Option Nat)
  reserves : List Nat
  shrink : Option Nat
  col : Nat
  deriving DecidableEq, Repr

/-- The module, the Gazebo and Fjondan as far as the manual gives them state (R13, R17, R19, R365 to R380). -/
structure Dev where
  st : ModState
  /-- Images verified since power-on: kind, partition, digest, SVN (R372). -/
  images : List (Nat × Option Nat × List Byte × Nat)
  /-- Stored minimum SVN by kind * 8 + slot (R370). -/
  minima : Store Nat
  /-- Keys in slots 1 to 7 and the partition each is assigned to (R370). -/
  keys : Store (List Byte × Option Nat)
  /-- Row remap tables of the configuration image, where they are not columns 0 to 63 in order: what is active at manufacture
  (R17, R21). -/
  made : Store (List (Option Nat))
  /-- Row remap tables where they differ from columns 0 to 63 in order: 64 entries, none = UNBACKED (R17). -/
  remap : Store (List (Option Nat))
  /-- Reserve positions left in a row, where they differ from manufacture (R19). -/
  reserves : Store (List Nat)
  /-- Physical positions whose router is dead (R324). -/
  deadRouters : List (Nat × Nat)
  /-- Channels retired, and channels that failed since power-on (R364). -/
  retired : List Nat
  failedChans : List Nat
  /-- Functions ready: channels, parks and col ports that passed their self-test (R369). -/
  chansReady : List Nat
  parksReady : List Nat
  colsReady : List Nat
  /-- Units that failed their self-test: kind and number (R369). -/
  unitsFailed : List (Nat × Nat)
  /-- Device-grid coordinates (R329). -/
  coords : Nat × Nat × Nat
  /-- Configured CXL windows: base, size, host memory? (R379). -/
  windows : List (Nat × Nat × Bool)
  /-- PF0 window ranges opened by Fjondan, and the ranges of the CXL decoders (R379). -/
  hostRanges : List (Nat × Nat)
  cxlRanges : List (Nat × Nat)
  /-- Configuration space where it differs from its reset values: by function number * 4096 and byte (R376, R380). -/
  config : Store Byte
  /-- Multicast groups whose reductions are folded in a switch (R333). -/
  switchFolds : List Nat
  /-- Detour entries: the router that has the entry, and the dead router it leads round (R324). -/
  detours : List ((Nat × Nat) × (Nat × Nat))
  /-- Evacuation command enabled for the host, and the mailbox (R377). -/
  evacEnabled : Bool
  mailbox : Store Byte
  /-- Bytes of PF0's MSI-X table (R377). -/
  msix : Store Byte
  /-- Evacuation: receiver, first cycle, acknowledged, routes withdrawn (R374). -/
  evac : Option ((Nat × Nat × Nat) × Nat × Bool × Bool)
  unlatchOk : Bool
  /-- Identity store: 256 bytes by offset (R371). -/
  identity : Store Byte
  /-- Fault store: fences, shrinks and retirements recorded (R21, R364). -/
  faultLog : List (Nat × Nat × Nat)
  /-- Corrected fabric errors (R325), and the Gazebo's log of corrected array errors (R364). -/
  corrected : Nat
  errorLog : List Nat
  /-- In-field test: park under test, cores left, window numbers, next start and TEST.INTERVAL (R365). -/
  testPark : Nat
  testLeft : List Nat
  testWindows : Store Nat
  testNext : Nat
  testInterval : Nat
  testFailed : Bool
  testStart : Store Nat
  /-- Entries of KIND 6 that went to Fjondan's log (R367). -/
  taintLog : List (List Byte)
  /-- What waits for a ready port of its bundle: the device it goes to, the team whose export it is, and what it is (R366,
  R369). -/
  ports : List ((Nat × Nat × Nat) × Option Nat × Out)
  /-- Cycle at which the present core's turn, then its test, began (R365). -/
  testFrom : Nat
  /-- Power-limit inserted cycles as the counter has them (R24, R359), and all of them: CLOCK counts them, and no
  duration of the machine does (R382). -/
  powerCycles : Nat
  inserted : Nat
  /-- Row remap tables to be rebuilt (R19, R20). -/
  rebuilds : List Rebuild
  /-- Lines the host may cache (R379). -/
  hostCached : List Nat
  /-- PACK results not yet written (R171). -/
  packs : List PackRes
  deriving DecidableEq, Repr

/-- Which agent the instruction being executed belongs to: a gang in an issue pipe, or a matrix
sequencer. The step sets it (the model's own field). -/
inductive Issuer
  | none
  | gang (cid pipe gid : Nat) (slices : List Nat) (hdr : Addr) (ix len : Nat)
  | seqr (n : Nat)
  deriving DecidableEq, Repr

/-- The machine. -/
structure State where
  /-- v registers, key lane * 64 + number (R26). -/
  vreg : Store Word
  /-- s registers, key slice * 32 + number (R26). -/
  sreg : Store Word
  /-- k registers, key slice * 8 + number; k0 is not stored (R26, R27). -/
  kreg : Store Mask
  slices : Store Slice
  groups : Store Group
  teams : Store Team
  cores : Store Core
  /-- Translation caches of the die regions, by die (R180). -/
  dies : Store (List TlbEntry)
  seqrs : Store Seqr
  /-- m registers, key sequencer * 16 + number (R269). -/
  mreg : Store Word
  /-- Window bindings, key (sequencer * 2 + twin) * 8 + window (R279, R302). -/
  wins : Store Binding
  /-- Scratchpad bytes, key core * 2^19 + byte (R176). -/
  scratch : Memory
  /-- Tile register bytes, key (bank * 16 + tile) * 2048 + byte (R277, R301). -/
  tiles : Memory
  /-- Outlier lists, key bank * 16 + tile (R278). -/
  tileLists : Store (List DWord)
  /-- Accumulator elements not +0, key (core * 64 + tile) * 1024 + row * 32 + column (R279). -/
  acc : Store Word
  /-- MAX and SUM of a row, key (core * 64 + tile) * 32 + row (R279). -/
  side : Store (Word × Word)
  /-- Newest version of every line, by physical address (R178, R183). -/
  mem : Memory
  /-- Timestamp of a line's newest version, by line (R183). -/
  lineTs : Store Nat
  /-- Timestamp of the latest commit of a byte (R192, R193). -/
  byteTs : Store Nat
  /-- Older versions by line, newest first (R183). -/
  orangery : Store (List Version)
  /-- Poisoned 32-byte sectors (R364). -/
  poison : List Nat
  /-- Poisoned 32-byte sectors of scratchpads, by key / 32 (R364). -/
  scrPoison : List Nat
  /-- Poisoned sectors of the other arrays: tiles, accumulators, register files and instruction caches (R364). -/
  arrPoison : List Nat
  /-- Own-scratchpad writes still in the settle buffer: key of the first byte, length, and the cycle they leave it (R362). -/
  settling : List (Nat × Nat × Nat)
  packets : Store Packet
  /-- Homes raising back-pressure (R326). -/
  pressure : List Nat
  /-- Next sequence number by source, destination and class (R322). -/
  seqnos : List (Endpoint × Endpoint × Nat × Nat)
  rels : Store Release
  /-- Outside coherence work outstanding, by timestamp (R187). -/
  outside : List (Nat × Outside)
  /-- Multicast copies not yet accepted at their members (R187, R332). -/
  copies : Store Copy
  /-- Cycles since which a channel lacks Orangery space (R198). -/
  lacking : Store Nat
  cmds : Store Cmd
  mcmds : Store MCmd
  launches : Store Launch
  clusters : Store Cluster
  /-- Park schedulers, key partition * 128 + park (R44). -/
  parks : Store Park
  parts : Store Part
  ctxs : Store Context
  rslots : Store RSlot
  dev : Dev
  out : List Out
  /-- CLOCK (R71). -/
  clock : Nat
  /-- The Sundial (R182). -/
  sundial : Nat
  names : Names
  cur : Issuer
  /-- Steps the environment has decided come next, first of all (the model's own field). -/
  agenda : List Instr
  /-- Whose turn it is when nothing is on the agenda (the model's own field). -/
  turn : Nat
  /-- Index of the next free value (the model's own field). -/
  free : Nat
  deriving DecidableEq, Repr

/-- Why a step can stop. -/
inductive Fault
  /-- An instruction of a stream is executed while no gang and no sequencer is its issuer, or the issuer it
  names does not exist: `exec` raises it, a step never does. Safe: no run of the part reaches it. -/
  | noIssuer
  deriving DecidableEq, Repr

/-- Why a step has no meaning. -/
inductive Refusal
  /-- An instruction the model gives no meaning: `exec` raises it. Safe: nothing can be proved of it. -/
  | notModelled (mnemonic : String)
  deriving DecidableEq, Repr

/-- The module right after reset: OFF, nothing placed, every line one version with timestamp 0 (R182, R368).
What the manual gives no reset value reads 0 (log entries 1 and 2). -/
def State.reset : State where
  clock := 0
  vreg := []
  sreg := []
  kreg := []
  cur := .none
  slices := []
  groups := []
  teams := []
  sundial := 0
  cores := []
  dies := []
  seqrs := []
  mreg := []
  wins := []
  turn := 0
  scratch := []
  tiles := []
  tileLists := []
  acc := []
  side := []
  free := 0
  mem := []
  lineTs := []
  byteTs := []
  orangery := []
  names := ⟨1, 0, 0, 0, 0, 16, 1, 1, 0, 0⟩
  poison := []
  scrPoison := []
  arrPoison := []
  settling := []
  dev :=
    { st := .off, images := [], minima := [], keys := [], made := [], remap := [], reserves := [], deadRouters := [],
      retired := [], failedChans := [], chansReady := [], parksReady := [], colsReady := [],
      unitsFailed := [], coords := (0, 0, 0), windows := [], hostRanges := [], cxlRanges := [], config := [], switchFolds := [], detours := [], evacEnabled := false,
      mailbox := [], msix := [], evac := none, unlatchOk := false, identity := [], faultLog := [], corrected := 0, errorLog := [],
      testPark := 0, testLeft := [], testWindows := [], testNext := 2 ^ 30, testInterval := 2 ^ 30,
      testFailed := false, testStart := [], taintLog := [], ports := [], testFrom := 0, powerCycles := 0, inserted := 0,
      rebuilds := [], hostCached := [], packs := [] }
  packets := []
  pressure := []
  seqnos := []
  rels := []
  outside := []
  copies := []
  lacking := []
  out := []
  agenda := []
  cmds := []
  mcmds := []
  launches := []
  clusters := []
  parks := []
  parts := []
  ctxs := []
  rslots := []

end Sys2Proof.Machine
end

