-- ==== Sys2Proof/Machine/Wire.lean ====
section
/-! DEFINITION. Packets as they stand on a link: the header flit, its check, the copies of the partition tag, the check bits
of the payload, and the outer flit between devices (R316 to R321, R325, R327, R328, R330). -/

namespace Sys2Proof.Machine

/-! ### The header flit (R319, R320) -/

/-- Kind and number of an endpoint: a compute core by its logical position, a home by its channel, a park by its index,
and an I/O endpoint by its unit. A system core stands on an I/O die; its unit number here is its id (DESIGN CHOICE, log
entry 79). -/
def Endpoint.code : Endpoint → Nat × Nat
  | .core n => if n < 2048 then (0, n) else (3, n)
  | .home n => (1, n)
  | .park n => (2, n)
  | .io n => (3, n)

/-- TYPE of a packet (R320). -/
def Payload.typ : Payload → Nat
  | .read .. => 0
  | .write => 1
  | .commit _ => 2
  | .atomic .. => 3
  | .reduce _ => 4
  | .winLoad .. => 5
  | .winStore _ => 5
  | .bar _ => 6
  | .data .. => 7
  | .ack => 8
  | .ackCopy _ => 8
  | .block => 9
  | .fill => 9
  | .rows _ => 4
  | .part t => t
  | .stealReq .. => 10
  | .countUpd .. => 10
  | .stealRep .. => 11
  | .stealLaunch => 11
  | .stealBlocks => 11
  | .contribution .. => 12
  | .collResult .. => 13
  | .collStatus .. => 14
  | .ctrl .. => 15

/-- Bytes of a size. -/
def Size.bytes : Size → Nat | .b => 1 | .h => 2 | .w => 4 | .d => 8

/-- What a packet of the model carries as payload, as bytes: the formats of R327 and R328, else what it carries. -/
def Packet.content (p : Packet) : List Byte :=
  match p.load with
  | .read .. => []
  | .winLoad .. => []
  | .ack => []
  | .ackCopy _ => []
  | .collStatus .. => []
  | .bar _ => List.replicate 8 0
  | .stealReq .. => List.replicate 32 0
  | .countUpd .. => List.replicate 32 0
  | .stealRep .. => List.replicate 32 0
  | .contribution _ c => c.data.flatMap fun d => (bytesOfDword d).take (Size.bytes c.es)
  | .rows l => l.flatMap Prod.snd
  | .atomic _ cmp => p.bytes ++ cmp
  | _ => p.bytes

/-- Packets of 256 payload bytes that go before this one, which then carries the rest (R316). -/
def Packet.lead (p : Packet) : Nat := (p.content.length - 1) / 256

/-- Bytes of payload of a packet itself. -/
def Packet.payloadBytes (p : Packet) : Nat := p.content.length - 256 * p.lead

/-- A packet and those that go before it in its stream, in order (R316). -/
def Packet.split (p : Packet) : List Packet :=
  (List.range p.lead).map (fun i => { p with load := .part p.load.typ, bytes := (p.content.drop (256 * i)).take 256 }) ++ [p]

/-- LEN: payload flits of 32 bytes, at most 8. -/
def Packet.len (p : Packet) : Nat := (p.payloadBytes + 31) / 32

/-- ADDR, as TYPE assigns: of SREQ and SREP its low two bits tell the formats apart (R327, R328). -/
def Packet.addr (p : Packet) : Nat :=
  match p.load with
  | .stealReq .. => 0
  | .countUpd .. => 1
  | .stealRep .. => 0
  | .stealLaunch => 1
  | .stealBlocks => 2
  | .bar u => u.off
  | .ctrl _ off => off
  | _ => p.pa

/-- MASK: byte enables of the first payload flit. -/
def Packet.mask (p : Packet) : Nat :=
  match p.load with
  | .commit _ => p.lane % 2 ^ 32
  | .block => p.lane % 2 ^ 32
  | _ => (2 ^ Nat.min 32 p.payloadBytes - 1) * 2 ^ (if p.payloadBytes ≤ 16 then p.addr % 16 else 0) % 2 ^ 32

/-- Header bits [239:0] (R319). -/
def Packet.headerLow (p : Packet) : Nat :=
  let put (hi lo x : Nat) : Nat := x % 2 ^ (hi + 1 - lo) * 2 ^ lo
  put 239 224 p.seq + put 223 212 p.ctx + put 211 209 p.vc + put 208 205 p.len + put 204 199 p.load.typ
    + put 198 197 p.dst.code.1 + put 196 181 p.dst.code.2 + put 180 179 p.src.code.1 + put 178 163 p.src.code.2
    + put 162 107 p.addr + put 106 59 p.ts + put 58 27 p.mask

/-- One bit into the CRC-16 with generator x^16 + x^12 + x^5 + 1 (R321). -/
def crcBit (c : Nat) (b : Bool) : Nat :=
  let d := 2 * c % 2 ^ 16
  if c.testBit 15 != b then d ^^^ 0x1021 else d

/-- HCHK of header bits [239:0], taken from bit 239 down; initial value 0xFFFF, no final inversion (R321). -/
def hchk (low : Nat) : Nat := (List.range 240).reverse.foldl (fun c i => crcBit c (low.testBit i)) 0xFFFF

/-- The whole header flit (R319). -/
def Packet.header (p : Packet) : Nat := hchk p.headerLow * 2 ^ 240 + p.headerLow

/-! ### The outer flit (R330) -/

/-- Coordinates of a device as the outer flit has them: x above y above z. -/
def devCode (p : Nat × Nat × Nat) : Nat := p.1 % 2 ^ 8 * 2 ^ 14 + p.2.1 % 2 ^ 7 * 2 ^ 7 + p.2.2 % 2 ^ 7

/-- The outer flit of a packet between devices: HOPS, SDEV and DDEV. -/
def outerFlit (hops : Nat) (src dst : Nat × Nat × Nat) : Nat := hops % 2 ^ 8 * 2 ^ 56 + devCode src * 2 ^ 34 + devCode dst

/-- The way round a ring of `n` from `a` to `b`: the shorter, the positive one on a tie (R330). -/
def ringWay (n a b : Nat) : Nat := if (b + n - a) % n ≤ n / 2 then 0 else 1

/-- Hops on a ring of `n`, the shorter way. -/
def ringHops (n a b : Nat) : Nat := Nat.min ((b + n - a) % n) ((a + n - b) % n)

/-- Device hops from one device to another: x, then y, then z (R330). -/
def hopsTo (a b : Nat × Nat × Nat) : Nat := ringHops 256 a.1 b.1 + ringHops 128 a.2.1 b.2.1 + ringHops 128 a.2.2 b.2.2

/-- A packet that has taken 255 device hops is discarded on its way, as a header error (R330). -/
def tooFar (a b : Nat × Nat × Nat) : Bool := 255 ≤ hopsTo a b

/-! ### What the checks say (R321, R325) -/

/-- Bits of a packet on the wire, as `flips` names them: the header's and the 15 of its three copies of PTAG, then of each
payload flit 266, its 10 check bits among them, and 15 of its own copies of PTAG (R321). -/
def Packet.wireBits (p : Packet) : Nat := 271 + 281 * p.len

/-- A number with some of its bits changed: those that `flips` names from bit `lo` on, `n` of them. -/
def flipped (flips : List Nat) (lo n x : Nat) : Nat :=
  flips.foldl (fun y b => if lo ≤ b && b < lo + n then y ^^^ 2 ^ (b - lo) else y) x

/-- A received header is one a router lets pass: HCHK matches, VC, LEN and TYPE are in range, and ADDR[1:0] of an SREQ is
0 or 1 (R319 to R321, R327). -/
def headerOk (h : Nat) : Bool :=
  let f (lo n : Nat) : Nat := h / 2 ^ lo % 2 ^ n
  hchk (f 0 240) == f 240 16 && f 209 3 ≤ 4 && f 205 4 ≤ 8 && f 199 6 < 16 && !(f 199 6 == 10 && 2 ≤ f 107 2)

/-- The tag that the majority of the copies of PTAG from a bit on names, as received; none when no two are equal (R325). -/
def Packet.tagAt (p : Packet) (lo : Nat) : Option Nat :=
  let copy (i : Nat) : Nat := flipped p.flips (lo + 5 * i) 5 p.ptag
  if copy 0 = copy 1 || copy 0 = copy 2 then some (copy 0) else if copy 1 = copy 2 then some (copy 1) else none

/-- The tag that the header flit's copies name. -/
def Packet.tag (p : Packet) : Option Nat := p.tagAt 256

/-- Of some flit no two copies of PTAG are equal (R325). -/
def Packet.untagged (p : Packet) : Bool := p.tag.isNone || (List.range p.len).any fun i => (p.tagAt (271 + 281 * i + 266)).isNone

/-- Bits changed in each payload flit. -/
def Packet.flitFlips (p : Packet) : List Nat :=
  (List.range p.len).map fun i => (p.flips.filter fun b => 271 + 281 * i ≤ b && b < 271 + 281 * i + 266).length

/-- Payload flits in which a router corrects a bit (R321). -/
def Packet.fixes (p : Packet) : Nat := (p.flitFlips.filter fun n => n = 1).length

/-- What the checks of a packet say. An error of the header that its check does not see, and one of three or more bits in
a flit, stand as the model says: without effect, and uncorrectable (DESIGN CHOICE, log entry 79). -/
def Packet.err (p : Packet) : PktErr :=
  if p.flips.isEmpty then .clean
  else if p.untagged then .untagged
  else if !headerOk (flipped p.flips 0 256 p.header) then .header
  else if p.flitFlips.any fun n => 2 ≤ n then .uncorrectable
  else if p.fixes = 0 then .clean
  else .corrected

end Sys2Proof.Machine
end

