-- ==== Sys2Proof/Machine/Ops.lean ====
section
/-! DEFINITION. The named operations: sparse stores, bytes, versions of memory, translation, registers, gangs,
and taking and leaving a group trap. -/

namespace Sys2Proof.Machine

/-! ### Stores -/

/-- The value at key `k`. -/
def sget {α : Type} (m : Store α) (k : Nat) : Option α :=
  match m with
  | [] => none
  | (a, v) :: t => if a = k then some v else sget t k

/-- The value at key `k`, or `d`. -/
def sgetD {α : Type} (m : Store α) (k : Nat) (d : α) : α := (sget m k).getD d

/-- Set the value at key `k`, keys rising. -/
def sput {α : Type} (m : Store α) (k : Nat) (x : α) : Store α :=
  match m with
  | [] => [(k, x)]
  | (a, v) :: t => if k < a then (k, x) :: (a, v) :: t else if k = a then (k, x) :: t else (a, v) :: sput t k x

/-- Remove key `k`. -/
def sdel {α : Type} (m : Store α) (k : Nat) : Store α := m.filter fun p => p.1 != k

/-- Change the value at key `k`, if there is one. -/
def smod {α : Type} (m : Store α) (k : Nat) (f : α → α) : Store α := m.map fun p => if p.1 = k then (p.1, f p.2) else p

/-- Set the value at key `k`, storing nothing for the default `d`. -/
def sputD {α : Type} [DecidableEq α] (d : α) (m : Store α) (k : Nat) (x : α) : Store α :=
  if x = d then sdel m k else sput m k x

/-- The values of a store. -/
def svals {α : Type} (m : Store α) : List α := m.map Prod.snd

/-- The keys of a store. -/
def skeys {α : Type} (m : Store α) : List Nat := m.map Prod.fst

/-- The keys whose values meet `p`. -/
def skeysWhere {α : Type} (m : Store α) (p : α → Bool) : List Nat := (m.filter fun q => p q.2).map Prod.fst

/-- Keys of a store strictly rise. -/
abbrev Rising {α : Type} (m : Store α) : Prop := m.Pairwise fun p q => p.1 < q.1

/-! ### Bytes -/

/-- The byte at an address; an unlisted one reads 0 (log entry 1). -/
def mread (m : Memory) (a : Nat) : Byte := sgetD m a 0

/-- Write a byte, keeping the canonical form. -/
def mwrite (m : Memory) (a : Nat) (b : Byte) : Memory := sputD 0 m a b

/-- Write bytes at rising addresses. -/
def mwrites (m : Memory) (a : Nat) (bs : List Byte) : Memory :=
  match bs with
  | [] => m
  | b :: t => mwrites (mwrite m a b) (a + 1) t

/-- `n` bytes from an address. -/
def mreads (m : Memory) (a n : Nat) : List Byte := (List.range n).map fun i => mread m (a + i)

/-- The canonical form of memory: addresses strictly rising, no byte 0. -/
abbrev Memory.wf (m : Memory) : Prop := Rising m ∧ ∀ p ∈ m, p.2 ≠ 0

/-- Little-endian bytes of a number (R5). -/
def leBytes (n v : Nat) : List Byte := (List.range n).map fun i => BitVec.ofNat 8 (v / 2 ^ (8 * i))

/-- The number of little-endian bytes (R5). -/
def leNat (bs : List Byte) : Nat := dwordOfBytes bs

/-- Doublewords of bytes. -/
def dwords (n : Nat) (bs : List Byte) : List DWord :=
  (List.range n).map fun i => BitVec.ofNat 64 (leNat ((bs.drop (8 * i)).take 8))

/-- Bytes of doublewords. -/
def bytesOf (ds : List DWord) : List Byte := ds.flatMap bytesOfDword

/-- The bit field of `len` bits from bit `lo`. -/
def fld (x lo len : Nat) : Nat := x / 2 ^ lo % 2 ^ len

/-- The bit field of a doubleword. -/
def dfld (x : DWord) (lo len : Nat) : Nat := fld x.toNat lo len

/-- Two's-complement reading of `n` bits. -/
def sextN (n x : Nat) : Int := if x % 2 ^ n < 2 ^ (n - 1) then (x % 2 ^ n : Nat) else (x % 2 ^ n : Nat) - (2 ^ n : Nat)

/-- An integer taken modulo 2^n. -/
def wrapN (n : Nat) (x : Int) : Nat := (x % (2 ^ n : Nat)).toNat

/-- The lanes of a mask. -/
def lanesOf (m : Mask) : List Nat := (List.range 4).filter fun i => m.getLsbD i

/-- Clear in `m` the lanes of `e`. -/
def less (m e : Mask) : Mask := m &&& ~~~e

/-! ### Ids -/

/-- Group g of team t. -/
def gidOf (tid g : Nat) : Nat := tid * 32 + g
/-- The team of a group. -/
def tidOf (gid : Nat) : Nat := gid / 32
/-- GROUP.ID of a group. -/
def groupNo (gid : Nat) : Nat := gid % 32
/-- Slice i of a group. -/
def sidOf (gid i : Nat) : Nat := gid * 8 + i
/-- Lane l of a group. -/
def lidOf (gid l : Nat) : Nat := gid * 32 + l
/-- A compute core at a logical position. -/
def cidOf (x y : Nat) : Nat := y * 64 + x
/-- First id of the system cores. -/
def sysBase : Nat := 2048
/-- A system core. -/
def isSys (cid : Nat) : Bool := sysBase ≤ cid

/-! ### Default records -/

/-- An empty table slot. -/
def TSlot.empty : TSlot := ⟨0, 0, none⟩

/-- A core that has held nothing. (DESIGN CHOICE, log entry 2) -/
def Core.fresh : Core :=
  { pipe0 := none, pipe1 := none, pace0 := ⟨0, 0, 0⟩, pace1 := ⟨0, 0, 0⟩, rr0 := 31, rr1 := 31, frames := [none, none, none, none, none, none],
    triggers := [], tslot0 := TSlot.empty, tslot1 := TSlot.empty, tlb := [], icache := [], age := 0,
    lastCtx := none, hosted := [], reload := none, clearing := none, parked := false, fenced := false, held := false, testing := false,
    stalls := [], stallFrom := none, frozen := none, strikes := 0, strikeLog := [],
    ctxsel := 0, trapvec := 0, framebase := 0, sysFrame := false, frameTs := 0 }

/-- A partition of which nothing is known. (DESIGN CHOICE, log entry 2) -/
def Part.none : Part :=
  { live := false, x0 := 0, y0 := 0, w := 0, h := 0, priority := 0, sysCores := [], memory := [], ctxLo := 0,
    ctxHi := 0, keySlots := [], lastPark := .none, nextLaunch := 0, quantum := 0, ringBase := 0, head := 0,
    ring := [], mcast := [], entry := 0, bar2 := false, bar2Bits := 0, msix := [], sqBase := 0, sqOrder := 0, sqEn := false, sqTail := 0,
    sqHead := 0, ctxRange := 0, sqSnap := 0, sqFault := .none, sqRefused := false, sqWords := [] }

/-- A context of which nothing is known. (DESIGN CHOICE, log entry 2) -/
def Context.none : Context :=
  { root := 0, part := 0, killed := false, killing := .none, trapvec := 0, faultrec := 0, savebase := 0,
    saveslots := 0, used := 0, stallCycles := 0, slots := [] }

/-- A park scheduler that has published and received nothing. (DESIGN CHOICE, log entry 2) -/
def Park.idle : Park := { view := [], sent := [], asking := none, reqn := 0, retryAt := 0, inbox := [], reply := none }

/-- A slice at a team's start (R27). -/
def Slice.start (entry : Addr) : Slice :=
  { pc := entry, ix := 0, exec := 15, path := 15, exited := 0, stack := [], st := .ganged, gang := 0,
    waitObj := none, waitTgt := 0, waitFrom := 0, lastStart := 0,
    restart := { pc := entry, ix := 0, exec := 15, path := 15, stack := [], op := 0 } }

/-- A group at its team's start (R27). It has not started a clause, and counts as having waited since cycle 0 (DESIGN
CHOICE, log entry 70). (DESIGN CHOICE, log entry 2; DEDUCED, log entry 8) -/
def Group.start (slot : Nat) (level : Level) (clock : Nat) : Group :=
  { slot := slot, level := level, frame := none, causeLow := 0, trapWait := none, timedFlags := [], ops := [],
    hazards := [], lastC := 0, lastL := 0, lastStart := 0, regs := [], tx := none, txStatus := 0,
    timer := none, asyncs := [], regions := 1, exits := [], faults := 0, restarts := [], fenceAt := 0, pre := [], cycAcc := 0, cycFrom := clock, cycRun := true }

/-- A slice that does not exist: done, every lane exited. -/
def Slice.absent : Slice := { Slice.start 0 with exec := 0, path := 0, exited := 15, st := .done }

/-- A group that does not exist. -/
def Group.absent : Group := Group.start 0 .l0 0

/-- A team that does not exist. -/
def Team.absent : Team :=
  { st := .done, core := 0, launch := 0, cluster := 0, ctx := 0, part := 0, tx := 0, ty := 0, twin := 0,
    pair := none, groups := 0, scrBase := 0, scrSize := 0, bank := 0, snap := 0, pending := [], overlay := [],
    revoked := false, revs := 0, fpStatus := 0, fpLate := [], fpTrapen := 0, scrStatus := 0, acc := [], accReq := none,
    born := 0, seqr := none, issued := 0, clauses := 0, restarts := 0, saved := none }

/-- FP.STATUS of a team as it stands at a cycle: with the conditions of every instruction whose result is written by
then (R160, R174). -/
def Team.fpAt (t : Team) (c : Nat) : Word :=
  t.fpLate.foldl (fun w p => if p.1 ≤ c then w ||| p.2 else w) t.fpStatus

/-- Conditions that FP.STATUS takes at cycle `at_`; what it has taken by now is folded in (R160). -/
def Team.raise (t : Team) (now at_ : Nat) (conds : Word) : Team :=
  { t with fpStatus := t.fpAt now, fpLate := t.fpLate.filter (fun p => now < p.1) ++ [(at_, conds)] }

/-- A launch that does not exist: an all-zero record. -/
def Launch.absent : Launch :=
  { ident := 0, part := 0, ctx := 0, record := List.replicate 32 0, st := .complete, ready := false,
    rect := (0, 0, 0, 0), snapIssuer := 0, snapDispatch := 0, handed := 0, finished := 0, order := 0,
    nonReplay := false, pins := [], commits := [], notify := none, exports := [] }

/-- A cluster that does not exist. -/
def Cluster.absent : Cluster :=
  { launch := 0, cx := 0, cy := 0, cz := 0, st := .done, part := 0, park := 0, x0 := 0, y0 := 0, arrived := 0,
    suspended := 0, placed := 0, first := 0, teams := [], slots := [], vacating := none, heir := none }

/-- A sequencer context that does not exist. (DESIGN CHOICE, log entry 2) -/
def Seqr.idleFor (tid : Nat) : Seqr :=
  { tid := tid, st := .idle, pc := 0, ix := 0, words := [], reason := 0, unpaired := false, followed := 0,
    meet0 := none, meet1 := none, wantUnpair := none, lastC := 0, mbusy := [], wait := none, pairFrom := none,
    mpair := false, fault := none, stop := none }

/-- The binding MSTART gives window n (R272, R279). (DESIGN CHOICE, log entry 2) -/
def Binding.start (n : Nat) : Binding := ⟨n, 32, 0x3F800000⟩

namespace State

/-! ### Reading records -/

/-- Slice i of a group. -/
def slice (s : State) (gid i : Nat) : Slice := sgetD s.slices (sidOf gid i) Slice.absent
/-- A group. -/
def group (s : State) (gid : Nat) : Group := sgetD s.groups gid Group.absent
/-- A team. -/
def team (s : State) (tid : Nat) : Team := sgetD s.teams tid Team.absent
/-- A core. -/
def core (s : State) (cid : Nat) : Core := sgetD s.cores cid Core.fresh
/-- A partition. -/
def part (s : State) (p : Nat) : Part := sgetD s.parts p Part.none
/-- A context. -/
def ctx (s : State) (c : Nat) : Context := sgetD s.ctxs c Context.none
/-- A launch. -/
def launch (s : State) (l : Nat) : Launch := sgetD s.launches l Launch.absent
/-- A cluster. -/
def cluster (s : State) (c : Nat) : Cluster := sgetD s.clusters c Cluster.absent
/-- A sequencer context. -/
def seqr (s : State) (q : Nat) : Seqr := sgetD s.seqrs q (Seqr.idleFor 0)
/-- A park scheduler of a partition. -/
def park (s : State) (p k : Nat) : Park := sgetD s.parks (p * 128 + k) Park.idle

/-! ### Changing records -/

/-- Change a slice. -/
def modSlice (s : State) (gid i : Nat) (f : Slice → Slice) : State :=
  { s with slices := sput s.slices (sidOf gid i) (f (s.slice gid i)) }
/-- Change a group. -/
def modGroup (s : State) (gid : Nat) (f : Group → Group) : State :=
  { s with groups := sput s.groups gid (f (s.group gid)) }
/-- Change a team. -/
def modTeam (s : State) (tid : Nat) (f : Team → Team) : State :=
  { s with teams := sput s.teams tid (f (s.team tid)) }
/-- Change a core. -/
def modCore (s : State) (cid : Nat) (f : Core → Core) : State :=
  { s with cores := sput s.cores cid (f (s.core cid)) }
/-- Change a partition. -/
def modPart (s : State) (p : Nat) (f : Part → Part) : State :=
  { s with parts := sput s.parts p (f (s.part p)) }
/-- Change a context. -/
def modCtx (s : State) (c : Nat) (f : Context → Context) : State :=
  { s with ctxs := sput s.ctxs c (f (s.ctx c)) }
/-- Change a launch. -/
def modLaunch (s : State) (l : Nat) (f : Launch → Launch) : State :=
  { s with launches := sput s.launches l (f (s.launch l)) }
/-- Change a cluster. -/
def modCluster (s : State) (c : Nat) (f : Cluster → Cluster) : State :=
  { s with clusters := sput s.clusters c (f (s.cluster c)) }
/-- Change a sequencer context. -/
def modSeqr (s : State) (q : Nat) (f : Seqr → Seqr) : State :=
  { s with seqrs := sput s.seqrs q (f (s.seqr q)) }
/-- Change a park scheduler. -/
def modPark (s : State) (p k : Nat) (f : Park → Park) : State :=
  { s with parks := sput s.parks (p * 128 + k) (f (s.park p k)) }
/-- Change the slices `is` of a group. -/
def modSlices (s : State) (gid : Nat) (is : List Nat) (f : Slice → Slice) : State :=
  is.foldl (fun s i => s.modSlice gid i f) s
/-- Change the module. -/
def modDev (s : State) (f : Dev → Dev) : State := { s with dev := f s.dev }
/-- Report something to the outside. -/
def emit (s : State) (o : Out) : State := { s with out := o :: s.out }

/-! ### Registers -/

/-- A v register of a lane (R26). -/
def rdV (s : State) (gid lane n : Nat) : Word := sgetD s.vreg (lidOf gid lane * 64 + n) 0
/-- Write a v register of a lane. -/
def wrV (s : State) (gid lane n : Nat) (x : Word) : State :=
  { s with vreg := sputD 0 s.vreg (lidOf gid lane * 64 + n) x }
/-- An s register of a slice (R26). -/
def rdS (s : State) (gid i n : Nat) : Word := sgetD s.sreg (sidOf gid i * 32 + n) 0
/-- Write an s register of a slice. -/
def wrS (s : State) (gid i n : Nat) (x : Word) : State :=
  { s with sreg := sputD 0 s.sreg (sidOf gid i * 32 + n) x }
/-- A k register of a slice; k0 reads all ones (R27). -/
def rdK (s : State) (gid i n : Nat) : Mask := if n = 0 then 15 else sgetD s.kreg (sidOf gid i * 8 + n) 0
/-- Write a k register of a slice; k0 is never written (R113, R115). -/
def wrK (s : State) (gid i n : Nat) (x : Mask) : State :=
  if n = 0 then s else { s with kreg := sputD 0 s.kreg (sidOf gid i * 8 + n) x }
/-- An m register of a sequencer (R269). -/
def rdM (s : State) (q n : Nat) : Word := sgetD s.mreg (q * 16 + n) 0
/-- Write an m register. -/
def wrM (s : State) (q n : Nat) (x : Word) : State := { s with mreg := sputD 0 s.mreg (q * 16 + n) x }
/-- The pair of an even v register. -/
def rdV64 (s : State) (gid lane n : Nat) : DWord := s.rdV gid lane (n + 1) ++ s.rdV gid lane n
/-- The pair of an even s register. -/
def rdS64 (s : State) (gid i n : Nat) : DWord := s.rdS gid i (n + 1) ++ s.rdS gid i n
/-- Write the pair of an even v register. -/
def wrV64 (s : State) (gid lane n : Nat) (x : DWord) : State :=
  (s.wrV gid lane n (x.extractLsb' 0 32)).wrV gid lane (n + 1) (x.extractLsb' 32 32)
/-- Write the pair of an even s register. -/
def wrS64 (s : State) (gid i n : Nat) (x : DWord) : State :=
  (s.wrS gid i n (x.extractLsb' 0 32)).wrS gid i (n + 1) (x.extractLsb' 32 32)
/-- Write s register n, or its pair, in slices `is`. -/
def wrSlices (s : State) (gid : Nat) (is : List Nat) (n : Nat) (x : Word) : State :=
  is.foldl (fun s i => s.wrS gid i n x) s
/-- Write the pair of s register n in slices `is`. -/
def wrSlices64 (s : State) (gid : Nat) (is : List Nat) (n : Nat) (x : DWord) : State :=
  is.foldl (fun s i => s.wrS64 gid i n x) s

/-! ### Free values -/

/-- The next free word, and the state that has used it. (DESIGN CHOICE, log entry 3) -/
def freeWord (s : State) : Word × State := (Config.freeWord s.free, { s with free := s.free + 1 })
/-- The next free choice, and the state that has used it. (DESIGN CHOICE, log entry 4) -/
def freeBool (s : State) : Bool × State := (Config.freeBool s.free, { s with free := s.free + 1 })

/-! ### Groups, lanes and gangs -/

/-- Live lanes of a slice (R26). -/
def live (s : State) (gid i : Nat) : Mask := ~~~(s.slice gid i).exited
/-- Slices of a group: 8, or 1 on a system core (R26, R57). -/
def sliceNos (s : State) (gid : Nat) : List Nat :=
  if isSys (s.team (tidOf gid)).core then [0] else List.range 8
/-- Slices of a group that are not done. -/
def liveSlices (s : State) (gid : Nat) : List Nat := (s.sliceNos gid).filter fun i => (s.slice gid i).st != .done
/-- Groups of a team. -/
def teamGroups (s : State) (tid : Nat) : List Nat := (List.range (s.team tid).groups).map (gidOf tid)
/-- A group all of whose slices are done (R26). -/
def groupDone (s : State) (gid : Nat) : Bool := (s.liveSlices gid).isEmpty
/-- Teams on a core. -/
def teamsOn (s : State) (cid : Nat) : List Nat :=
  skeysWhere s.teams fun t => t.core == cid && (t.st == .running || t.st == .finishing)
/-- Groups on a core. -/
def groupsOn (s : State) (cid : Nat) : List Nat := (s.teamsOn cid).flatMap s.teamGroups
/-- Logical position of a core. -/
def corePos (cid : Nat) : Nat × Nat := if isSys cid then (0, 0) else (cid % 64, cid / 64)
/-- Park of a core (R15). -/
def parkOf (cid : Nat) : Nat := 16 * (cid / 64 / 4) + cid % 64 / 4

/-- CLOCK: every core cycle since reset, those that power limiting inserts among them (R24, R71). -/
def now (s : State) : Nat := s.clock + s.dev.inserted

/-- Running cycles of a group: resident and not stalled (R33, R235, R350). -/
def cycles (s : State) (gid : Nat) : Nat :=
  let g := s.group gid
  if g.cycRun then g.cycAcc + (s.clock - g.cycFrom) else g.cycAcc
/-- Stop a group's running-cycle count. -/
def stopCycles (s : State) (gid : Nat) : State :=
  let n := s.cycles gid
  s.modGroup gid fun g => { g with cycAcc := n, cycRun := false }
/-- Start a group's running-cycle count. -/
def startCycles (s : State) (gid : Nat) : State :=
  let n := s.cycles gid
  let c := s.clock
  s.modGroup gid fun g => { g with cycAcc := n, cycFrom := c, cycRun := true }

/-- Put slices into one gang (R30, R31). -/
def formGang (s : State) (gid : Nat) (is : List Nat) : State :=
  let n := is.foldl Nat.min 7
  s.modSlices gid is fun x => { x with gang := n }

/-- Split slices that are ganged by program counter and index, one gang each (R30, R31). -/
def formByPc (s : State) (gid : Nat) (is : List Nat) : State :=
  is.foldl (fun s i =>
    let x := s.slice gid i
    let same := is.filter fun j => (s.slice gid j).pc == x.pc && (s.slice gid j).ix == x.ix
    s.modSlice gid i fun y => { y with gang := same.foldl Nat.min 7 }) s

/-- The slices of a gang that can issue. -/
def gangOf (s : State) (gid n : Nat) : List Nat :=
  (s.sliceNos gid).filter fun i => (s.slice gid i).st == .ganged && (s.slice gid i).gang == n

/-- Take a clause out of the pipes if its gang is of group `gid`. -/
def dropRuns (s : State) (cid gid : Nat) : State :=
  s.modCore cid fun c =>
    { c with
      pipe0 := if c.pipe0.any (·.gid == gid) then none else c.pipe0
      pipe1 := if c.pipe1.any (·.gid == gid) then none else c.pipe1 }

/-- The value of an outstanding-operation counter (R78). -/
def counter (s : State) (gid : Nat) (k : Ctr) : Nat := ((s.group gid).ops.filter fun o => o.ctr == some k).length

/-- A completion flag is busy (R50). -/
def flagBusy (s : State) (gid f : Nat) : Bool :=
  (s.group gid).timedFlags.any (fun p => p.1 == f && s.clock < p.2)
    || (s.group gid).ops.any (fun o => o.sig == some f && !o.done)

/-- The busy flags as a mask. -/
def busyMask (s : State) (gid : Nat) : Nat :=
  (List.range 12).foldl (fun a f => if s.flagBusy gid f then a + 2 ^ f else a) 0

/-- Record a slice's restart copy; operation `n` is the first issued from there (R345). -/
def saveRestart (n : Nat) (x : Slice) : Slice :=
  { x with restart := { pc := x.pc, ix := x.ix, exec := x.exec, path := x.path, stack := x.stack, op := n } }

/-- A region entry of a gang (R345). -/
def regionEntry (s : State) (gid : Nat) (is : List Nat) : State :=
  (s.modSlices gid is (saveRestart s.names.op)).modGroup gid fun g => { g with regions := g.regions + 1 }

/-- End every wait of a group's slices in BLOCKED or REGANG-WAIT (R341). -/
def leaveWaits (s : State) (gid : Nat) (is : List Nat) : State :=
  s.modSlices gid is fun x => if x.st == .done then x else { x with st := .ganged }

/-! ### Physical addresses (R178, R179) -/

end State

/-- First address of the direct views, of the second tier, of the CXL windows and of the device registers. -/
def directBase : Nat := 2 ^ 40
/-- First second-tier address (R178). -/
def tier2Base : Nat := 2 ^ 42
/-- First CXL window address (R178). -/
def cxlBase : Nat := 2 ^ 44
/-- First device register address (R178). -/
def devRegBase : Nat := 2 ^ 51

/-- The interleaved address of a channel's byte (R179). -/
def interleave (chan off : Nat) : Nat :=
  (off / 4096 * 4 + chan / 512) * 2 ^ 21 + chan % 512 * 4096 + off % 4096

/-- One name for each storage byte: a direct view's address becomes the interleaved one (R179). -/
def canonPa (pa : Nat) : Nat :=
  if directBase ≤ pa && pa < directBase + 2048 * 2 ^ 27 && (pa - directBase) % 2 ^ 27 < 90 * 2 ^ 20 then
    interleave ((pa - directBase) / 2 ^ 27) ((pa - directBase) % 2 ^ 27)
  else pa

/-- The home of a physical address: its channel (R179). -/
def homeOf (pa : Nat) : Nat :=
  let a := canonPa pa
  let o := if cxlBase ≤ a then a - cxlBase else if tier2Base ≤ a then a - tier2Base else a
  512 * (o / 2 ^ 21 % 4) + o / 4096 % 512

/-- Timestamps compare within a window (R182): a is at or before b. -/
def tsLe (a b : Nat) : Bool := (b + (2 ^ 48 - a % 2 ^ 48)) % 2 ^ 48 < 2 ^ 47
/-- The later of two timestamps. -/
def tsMax (a b : Nat) : Nat := if tsLe a b then b else a
/-- The earlier of two timestamps. -/
def tsMin (a b : Nat) : Nat := if tsLe a b then a else b
/-- Timestamp `a` lies `n` or more behind `b`. -/
def tsBehind (n a b : Nat) : Bool := n ≤ (b + (2 ^ 48 - a % 2 ^ 48)) % 2 ^ 48 && tsLe a b

namespace State

/-- An address behind which there is storage (R178, R364). -/
def backed (s : State) (pa : Nat) : Bool :=
  let a := canonPa pa
  if a < Config.packageBytes then !(s.dev.retired.contains (homeOf a))
  else if tier2Base ≤ a && a < tier2Base + Config.secondTierBytes then true
  else if cxlBase ≤ a && a < devRegBase then s.dev.windows.any fun w => w.1 ≤ a && a < w.1 + w.2.1
  else devRegBase ≤ a && a < 2 ^ 52

/-! ### Versions (R182, R183) -/

/-- Take the next timestamp (R182). -/
def takeTs (s : State) : Nat × State :=
  let n := (s.sundial + 1) % 2 ^ 48
  (n, { s with sundial := n })

/-- Timestamp of a line's newest version. -/
def lineStamp (s : State) (pa : Nat) : Nat := sgetD s.lineTs (canonPa pa / 64) 0

/-- The newest byte at a physical address. -/
def newest (s : State) (pa : Nat) : Byte := mread s.mem (canonPa pa)

/-- `n` newest bytes. -/
def newests (s : State) (pa n : Nat) : List Byte := (List.range n).map fun i => s.newest (pa + i)

/-- The little-endian doubleword of the newest bytes. -/
def newest64 (s : State) (pa : Nat) : DWord := BitVec.ofNat 64 (leNat (s.newests pa 8))

/-- What a snapshot selects of a line: the newest version, an older one, or none that is still kept. -/
def selectAt (s : State) (S pa : Nat) : Option (Nat × Option (List Byte)) :=
  if tsLe (s.lineStamp pa) S then some (s.lineStamp pa, none)
  else ((sgetD s.orangery (canonPa pa / 64) []).find? fun v => tsLe v.ts S).map fun v => (v.ts, some v.bytes)

/-- Timestamp of the version of a line that a snapshot selects (R186). Where the collector has reclaimed it, the
stamp is free (DESIGN CHOICE, log entry 20). -/
def versionAt (s : State) (S pa : Nat) : Nat :=
  (s.selectAt S pa).elim (Config.goneStamp S pa s.names.pkt % 2 ^ 48) Prod.fst

/-- The byte a snapshot selects among installed versions (R186 step 3); a free byte where the version it selects has
been reclaimed (R197). (DESIGN CHOICE, log entry 20) -/
def byteAt (s : State) (S pa : Nat) : Byte :=
  match s.selectAt S pa with
  | some (_, none) => s.newest pa
  | some (_, some bs) => bs.getD (canonPa pa % 64) 0
  | none => Config.goneByte S pa s.names.pkt

/-- Move a line's newest version to the Orangery, pinned by `pin` (R183, R200), but where it is itself of timestamp `ts`: a
commit's sectors of one line are one version (R319). -/
def retireLine (s : State) (ts line : Nat) (pin : Option Nat) : State :=
  if sgetD s.lineTs line 0 = ts then s else
  let v : Version :=
    { ts := sgetD s.lineTs line 0, bytes := mreads s.mem (line * 64) 64
      stamps := (List.range 64).map fun i => sgetD s.byteTs (line * 64 + i) 0, pin := pin }
  { s with orangery := sput s.orangery line (v :: sgetD s.orangery line []) }

/-- The distinct 64-byte lines of rising physical addresses. -/
def linesOf (l : Store Byte) : List Nat := ((skeys l).map fun a => canonPa a / 64).eraseDups

/-- Commit bytes as versions with timestamp `ts` (R183): each line's newest version is replaced, and a
sector all of whose bytes are written loses its poison (R364). -/
def commitAt (s : State) (ts : Nat) (pin : Option Nat) (l : Store Byte) : State :=
  let ls := linesOf l
  let s := ls.foldl (fun s line => s.retireLine ts line pin) s
  let s := { s with lineTs := ls.foldl (fun m line => sput m line ts) s.lineTs }
  let s :=
    { s with
      mem := l.foldl (fun m (p : Nat × Byte) => mwrite m (canonPa p.1) p.2) s.mem
      byteTs := l.foldl (fun m (p : Nat × Byte) => sput m (canonPa p.1) ts) s.byteTs }
  { s with
    poison := s.poison.filter fun sec =>
      !((List.range 32).all fun i => (skeys l).any fun a => canonPa a == sec * 32 + i) }

/-- Bytes at rising addresses from `pa`. -/
def cellsAt (pa : Nat) (bs : List Byte) : Store Byte :=
  (List.range bs.length).map fun i => (pa + i, bs.getD i 0)

/-! ### Horizons (R187) -/

/-- The least timestamp in a list, less one; `d` of none. -/
def floorTs (d : Nat) (l : List Nat) : Nat := l.foldl (fun a t => tsMin a ((t + (2 ^ 48 - 1)) % 2 ^ 48)) d

/-- H_dev: every commit at or below it is installed. -/
def hDev (s : State) : Nat := floorTs s.sundial ((svals s.rels).filterMap fun r =>
  if r.st == .committing then some r.ts else none)

/-- The cluster a team belongs to, for CLUSTER scope; a system core has none (R191). -/
def scopeCluster (s : State) (tid : Nat) : Option Nat :=
  if isSys (s.team tid).core then none else some (s.team tid).cluster

/-- Every commit of a release has left its core's settle buffer: a CLUSTER release is then in the cluster's commit stage
(R187, R362). -/
def staged (s : State) (rel : Nat) : Bool := (svals s.packets).all fun p => !(p.held && p.load == .commit (some rel))

/-- H_cl of the cluster of a team: its own CLUSTER releases count once staged. -/
def hCl (s : State) (tid : Nat) : Nat :=
  match s.scopeCluster tid with
  | none => s.hDev
  | some c => floorTs s.sundial (s.rels.filterMap fun e =>
      if e.2.st == .committing && !(e.2.scope == .cluster && s.scopeCluster e.2.tid == some c && s.staged e.1) then some e.2.ts
      else none)

/-- H_sys: also behind the outside coherence work outstanding. -/
def hSys (s : State) : Nat := floorTs s.hDev (s.outside.map Prod.fst)

/-- The scope a team's release or acquire acts at: CLUSTER is DEVICE on a system core (R191). -/
def scopeOf (s : State) (tid : Nat) (scope : Scope) : Scope :=
  if scope == .cluster && isSys (s.team tid).core then .device else scope

/-- The horizon of a scope for a team (R187). -/
def horizon (s : State) (tid : Nat) : Scope → Nat
  | .team => s.sundial
  | .cluster => s.hCl tid
  | .device => s.hDev
  | .system => s.hSys

/-- The acquire of R189 at a scope; at DEVICE or SYSTEM scope it clears a revocation (R199). -/
def acquire (s : State) (tid : Nat) (scope : Scope) : State :=
  match s.scopeOf tid scope with
  | .team => s
  | scope =>
    let h := s.horizon tid scope
    s.modTeam tid fun t =>
      let clear := t.revoked && (scope == .device || scope == .system)
      let n := if clear then h else tsMax t.snap h
      { t with snap := n, revoked := t.revoked && !clear, overlay := t.overlay.filter fun p => !(tsLe p.2.2.1 n) }

/-! ### What a team reads (R186) -/

/-- The staged commits a team of a CLUSTER release's cluster sees before they are installed (R187). -/
def stagedByte (s : State) (tid S pa : Nat) : Option (Nat × Byte) :=
  (svals s.packets).foldl (fun best p =>
    match p.load with
    | .commit (some r) =>
      match sget s.rels r with
      | some rel =>
        let a := canonPa pa
        if !p.held && rel.scope == .cluster && (s.scopeCluster tid).isSome && s.scopeCluster rel.tid == s.scopeCluster tid
            && tsLe p.ts S && p.pa ≤ a && a < p.pa + p.size && p.lane.testBit (a - p.pa) then
          match best with
          | some (t, _) => if !(tsLe p.ts t) then some (p.ts, p.bytes.getD (a - p.pa) 0) else best
          | none => some (p.ts, p.bytes.getD (a - p.pa) 0)
        else best
      | none => best
    | _ => best) none

/-- Step 3 of R186: the byte at a snapshot. -/
def snapByte (s : State) (tid S pa : Nat) : Byte :=
  match s.stagedByte tid S pa with
  | some (t, b) => if (s.selectAt S pa).any fun v => tsLe t v.1 then s.byteAt S pa else b
  | none => s.byteAt S pa

/-- Timestamp of the version that step 3 of R186 selects of a line: a staged commit's, where one reaches the line. -/
def lineAt (s : State) (tid S pa : Nat) : Nat :=
  (List.range 64).foldl (fun t i =>
    match s.stagedByte tid S (canonPa pa / 64 * 64 + i) with
    | some (c, _) => tsMax t c
    | none => t) (s.versionAt S pa)

/-- Step 2 of R186: the team's latest pending or own-committed byte. -/
def ownByte (s : State) (tid S pa : Nat) : Option Byte :=
  let a := canonPa pa
  match sget (s.team tid).pending a, sget (s.team tid).overlay a with
  | some (b, n), some (b', ts, n') => if !(tsLe ts S) && n < n' then some b' else some b
  | some (b, _), none => some b
  | none, some (b', ts, _) => if tsLe ts S then none else some b'
  | none, none => none

/-- A byte as a group of team `tid` reads it, with what its transaction holds; an engine and the device have none
(R186, R196). (DEDUCED, log entry 14) -/
def teamByte (s : State) (tid : Nat) (tx : Option (Nat × Store Byte)) (S pa : Nat) : Byte :=
  match tx.bind fun t => sget t.2 (canonPa pa) with
  | some b => b
  | none => (s.ownByte tid S pa).getD (s.snapByte tid S pa)

/-- The snapshot of a read: S_x inside a transaction (R193). (DEDUCED, log entry 14) -/
def readSnap (s : State) (tid : Nat) (tx : Option (Nat × Store Byte)) : Nat :=
  match tx with
  | some t => t.1
  | none => (s.team tid).snap

/-- Add bytes to a team's pending set, performed in its view now (R185). -/
def addPending (s : State) (tid pa : Nat) (bs : List Byte) : State :=
  let n := s.names.order
  let s := { s with names := { s.names with order := n + 1 } }
  s.modTeam tid fun t =>
    { t with pending := (cellsAt pa bs).foldl (fun m p => sput m (canonPa p.1) (p.2, n)) t.pending }

/-! ### Translation (R180) -/

end State

/-- Outcome of a page-table walk; `poison` is a poisoned entry it would have used (R364), and `wait` one whose home is not
ready (R369). -/
inductive Walk
  | fault
  | wait
  | poison (pa : Nat)
  | leaf (entry : DWord) (bits : Nat)
  deriving DecidableEq, Repr

/-- Outcome of translating an access. -/
inductive Tr
  | ok (pa : Nat) (group : Option Nat)
  | wait
  | page
  | perm
  | unbacked
  | badGroup
  | poison (pa : Nat)
  deriving DecidableEq, Repr

/-- What an access needs of its page. -/
structure Need where
  read : Bool
  write : Bool
  exec : Bool
  deriving DecidableEq, Repr

namespace State

/-- Some byte of a range is poisoned; a failed channel poisons every line it owns (R364). -/
def poisoned (s : State) (pa n : Nat) : Bool :=
  (List.range n).any fun i => s.poison.contains (canonPa (pa + i) / 32) || s.dev.failedChans.contains (homeOf (pa + i))

/-- One level of the walk and the levels below it: index bits from `lo`, `len` of them, and whether a leaf and a table
are valid there. A table page that is unbacked holds no valid entry, and an entry that is no MCAST entry names no group
(DESIGN CHOICE, log entry 68). -/
def walkFrom (s : State) (base va : Nat) : List (Nat × Nat × Bool × Bool) → Walk
  | [] => .fault
  | (lo, len, leafOk, tableOk) :: rest =>
    let a := base + 8 * fld va lo len
    let e := s.newest64 a
    let kind := dfld e 1 2
    let pa := dfld e 16 36 * 2 ^ 16
    if !s.backed a then .fault
    else if s.poisoned a 8 then .poison a
    else if dfld e 0 1 = 0 || kind = 3 || dfld e 63 1 = 1 || dfld e 7 9 != 0 || (kind != 2 && dfld e 52 11 != 0) then
      .fault
    else if kind = 0 then (if tableOk then walkFrom s pa va rest else .fault)
    else if leafOk && pa % 2 ^ lo = 0 then .leaf e lo
    else .fault

/-- The walk of R180: root VA[55:39], then VA[38:30], VA[29:21] and VA[20:16]. -/
def walk (s : State) (root va : Nat) : Walk :=
  s.walkFrom root va
    [(39, 17, false, true), (30, 9, true, true), (21, 9, true, true), (16, 5, true, false)]

/-- The homes of these addresses are ready (R369). -/
def homesReady (s : State) (l : List Nat) : Bool := l.all fun a => devRegBase ≤ canonPa a || s.dev.chansReady.contains (homeOf a)

/-- Every table entry that the walk of an address reads has a home that is ready (R180, R369). -/
def readsReady (s : State) (base va : Nat) : List Nat → Bool
  | [] => true
  | lo :: rest =>
    let a := base + 8 * fld va lo (if lo = 39 then 17 else if lo = 16 then 5 else 9)
    let e := s.newest64 a
    s.homesReady [a] && (dfld e 0 1 = 0 || dfld e 1 2 != 0 || readsReady s (dfld e 16 36 * 2 ^ 16) va rest)

/-- The walk of an address can be made (R369). -/
def tablesReady (s : State) (root va : Nat) : Bool := s.readsReady root va [39, 30, 21, 16]

/-- The die region of a core's translation cache: its compute die, or its I/O die (R10, R180). The manual places system
cores 0 and 1 on I/O die 0; that 2 to 7 lie there too, and 8 to 15 on I/O die 1, is a choice (DESIGN CHOICE, log
entry 69). -/
def dieOf (s : State) (cid : Nat) : Nat :=
  if isSys cid then 8 + (cid - sysBase) / 8
  else
    let px := ((sgetD s.dev.remap (cid / 64) ((List.range 64).map some)).getD (cid % 64) none).getD (cid % 64)
    4 * (cid / 64 / 16) + px / 17

/-- Cached entries that cover an address of a context. -/
def cachedIn (l : List TlbEntry) (ctx va : Nat) : List TlbEntry :=
  l.filter fun e => e.ctx == ctx && e.va.toNat / 2 ^ e.bits == va / 2 ^ e.bits

/-- Put a translation into the caches a core's walk fills (R180). -/
def fillTlb (s : State) (cid ctx va : Nat) (e : DWord) (bits : Nat) : State :=
  let t : TlbEntry := { ctx := ctx, va := BitVec.ofNat 56 (va / 2 ^ bits * 2 ^ bits), bits := bits, entry := e }
  let die := s.dieOf cid
  let s := s.modCore cid fun c => if c.tlb.contains t then c else { c with tlb := t :: c.tlb }
  if (sgetD s.dies die []).contains t then s else { s with dies := sput s.dies die (t :: sgetD s.dies die []) }

/-- A free choice among the elements of a list; none stands for what is outside it. (DESIGN CHOICE, log entry 4) -/
def pickFree {α : Type} (s : State) : List α → Option α × State
  | [] => (none, s)
  | x :: l =>
    let (b, s) := s.freeBool
    if b then (some x, s) else s.pickFree l

/-- The leaf an access uses: the walk's, or any that the core's or its die region's cache still holds, chosen freely for
each access (R180). (DESIGN CHOICE, log entry 4; DEDUCED, log entry 57) -/
def lookup (s : State) (cid ctx va : Nat) : Walk × State :=
  let root := (s.ctx ctx).root
  let w := if s.tablesReady root va then s.walk root va else .wait
  let held := (cachedIn (s.core cid).tlb ctx va ++ cachedIn (sgetD s.dies (s.dieOf cid) []) ctx va).eraseDups
  let (e, s) := s.pickFree (held.filter fun e => .leaf e.entry e.bits != w)
  match e, w with
  | some e, _ => (.leaf e.entry e.bits, s)
  | none, .leaf x n => (w, s.fillTlb cid ctx va x n)
  | none, _ => (w, s)

/-- The context whose tables translate a team's accesses: a system core's own (R191). -/
def tableCtx (s : State) (tid : Nat) : Nat := (s.team tid).ctx

/-- Judge a leaf for an access at a privilege level (R178, R180, R181, R331, R335). -/
def judge (s : State) (part : Nat) (level : Level) (need : Need) (va : Nat) (e : DWord) (bits : Nat) : Tr :=
  let pa := dfld e 16 36 * 2 ^ 16 + va % 2 ^ bits
  if (need.read && dfld e 3 1 = 0) || (need.write && dfld e 4 1 = 0) || (need.exec && dfld e 5 1 = 0)
      || (dfld e 6 1 = 1 && level == .l0) then .perm
  else if !s.backed pa then .unbacked
  else if devRegBase ≤ canonPa pa && level == .l0 then .perm
  else if dfld e 1 2 = 2 then
    let g := dfld e 52 11
    if ((sgetD (s.part part).mcast g 0).getLsbD 127) then .ok pa (some g) else .badGroup
  else .ok pa none

/-- Translate an access of a team on a core. -/
def translate (s : State) (cid tid : Nat) (level : Level) (need : Need) (va : Nat) : Tr × State :=
  let (w, s) := s.lookup cid (s.tableCtx tid) (va % 2 ^ 56)
  match w with
  | .fault => (.page, s)
  | .wait => (.wait, s)
  | .poison pa => (.poison pa, s)
  | .leaf e bits => (s.judge (s.team tid).part level need (va % 2 ^ 56) e bits, s)

/-- Translate an access of the device itself in a context, with supervisor rights (R346, R351, R354).
(DEDUCED, log entry 58) -/
def translateDev (s : State) (ctx va : Nat) : Option Nat :=
  match s.walk (s.ctx ctx).root (va % 2 ^ 56) with
  | .fault => none
  | .wait => none
  | .poison _ => none
  | .leaf e bits =>
    let pa := dfld e 16 36 * 2 ^ 16 + va % 2 ^ bits
    if s.backed pa && dfld e 4 1 = 1 then some pa else none

end State

/-! ### Packets -/

/-- The endpoint that serves an address: its home, or an I/O die for a device register (R178). -/
def homeEnd (pa : Nat) : Endpoint := if devRegBase ≤ canonPa pa then .io 0 else .home (homeOf pa)

/-- A packet with the fields a sender fills, the rest at rest. -/
def Packet.plain (src dst : Endpoint) (vc : Nat) (load : Payload) : Packet :=
  { src := src, dst := dst, vc := vc, seq := 0, ctx := 0xFFF, ptag := 31, tid := 0, gid := 0, oid := 0,
    lane := 0, pa := 0, size := 0, bytes := [], ts := 0, load := load, group := none, cmd := none, level := .l0, born := 0
    held := false, queued := false, fence := 0, overtaken := 0, esc := false, since := 0, flips := [] }

/-- Two byte ranges overlap. -/
def overlaps (a n b m : Nat) : Bool := a < b + m && b < a + n

namespace State

/-- The next sequence number of a stream, and the state that has used it (R322). -/
def nextSeq (s : State) (src dst : Endpoint) (vc : Nat) : Nat × State :=
  match s.seqnos.find? fun q => q.1 == src && q.2.1 == dst && q.2.2.1 == vc with
  | some q =>
    (q.2.2.2, { s with seqnos := s.seqnos.map fun r => if r.1 == src && r.2.1 == dst && r.2.2.1 == vc then (src, dst, vc, q.2.2.2 + 1) else r })
  | none => (0, { s with seqnos := (src, dst, vc, 1) :: s.seqnos })

/-- REQ packets in flight to an endpoint. -/
def inFlightTo (s : State) (e : Endpoint) : Nat :=
  ((svals s.packets).filter fun p => !p.held && p.dst == e && p.vc == 0).length

/-- Raise or lower a home's back-pressure (R326). -/
def pressurize (s : State) (e : Endpoint) : State :=
  match e with
  | .home h =>
    let n := s.inFlightTo e
    if 48 < n && !s.pressure.contains h then { s with pressure := h :: s.pressure }
    else if n < 32 then { s with pressure := s.pressure.filter fun x => x != h }
    else s
  | _ => s

/-- A home raises back-pressure (R326). (DEDUCED, log entry 60) -/
def pressured (s : State) (e : Endpoint) : Bool := match e with | .home h => s.pressure.contains h | _ => false

/-! ### Killing a context (R351, R352) -/

/-- Ask for a context to be killed; the first cause stands, and a killed context is killed no more (R352).
Nothing of the context issues from now on; CONTEXT_KILL does the rest. (DEDUCED, log entry 35) -/
def requestKill (s : State) (c : Nat) (k : Kill) : State :=
  s.modCtx c fun x => if x.killed || x.killing.isSome then x else { x with killing := some k }

/-- Bring a partition down: every context of it is killed and its system cores are held in reset (R325). -/
def bringDown (s : State) (p : Nat) : State :=
  let cs := skeysWhere s.ctxs fun c => c.part == p
  let s := cs.foldl (fun s c => s.requestKill c { kind := 6, launch := 0, reason := 0, gslot := 0, cid := 0, body := [] }) s
  let s := (s.part p).sysCores.foldl (fun s n => s.modCore (sysBase + n) fun k => { k with held := true }) s
  s.emit (.report "Gazebo: partition brought down")

/-- A header error of a partition's traffic; of Fjondan's own nothing but a report (R325). -/
def headerError (s : State) (tag : Nat) : State :=
  if tag = 31 then s.emit (.report "Fjondan: fabric header error") else s.bringDown tag

/-! ### Routes (R323, R324) -/

/-- A destination core or park lies inside the partition that a tag names; homes and I/O endpoints always do (R323). -/
def inReach (s : State) (tag : Nat) (e : Endpoint) : Bool :=
  match sget s.parts tag, e with
  | some p, .core n =>
    if isSys n then p.sysCores.contains (n - sysBase)
    else p.x0 ≤ n % 64 && n % 64 < p.x0 + p.w && p.y0 ≤ n / 64 && n / 64 < p.y0 + p.h
  | some p, .park k => overlaps (4 * (k % 16)) 4 p.x0 p.w && overlaps (4 * (k / 16)) 4 p.y0 p.h
  | _, _ => true

/-- The remap table of a row (R17): every column backed by its own position where it is as at manufacture. -/
def rowTable (s : State) (row : Nat) : List (Option Nat) := sgetD s.dev.remap row ((List.range 64).map some)

/-- Physical position of an endpoint: a core's by its row's remap table, a home's by its channel; a park's is that of its
first core, and an I/O endpoint or system core has none in the array (R17, R178, R323). (DESIGN CHOICE, log entry 79) -/
def physOf (s : State) (e : Endpoint) : Option (Nat × Nat) :=
  let column (x y : Nat) : Option (Nat × Nat) := ((s.rowTable y).getD x none).map fun p => (p, y)
  let made (x y : Nat) : Option (Nat × Nat) :=
    ((sgetD s.dev.made y ((List.range 64).map some)).getD x none).map fun p => (p, y)
  match e with
  | .core n => if isSys n then none else column (n % 64) (n / 64)
  | .home c => made (c % 64) (c / 64)
  | .park k => column (4 * (k % 16)) (4 * (k / 16))
  | .io _ => none

/-- Dead routers that the dimension-order route, along the source's row and then along the destination's column, reaches past
its source (R323, R324). -/
def deadOn (s : State) (src dst : Endpoint) : List (Nat × Nat) :=
  match s.physOf src, s.physOf dst with
  | some a, some b =>
    let between (x y z : Nat) : Bool := Nat.min x y ≤ z && z ≤ Nat.max x y
    s.dev.deadRouters.filter fun d =>
      d != a && ((d.2 = a.2 && between a.1 b.1 d.1) || (d.1 = b.1 && between a.2 b.2 d.2))
  | _, _ => []

/-- The route reaches a dead router. -/
def routeDead (s : State) (src dst : Endpoint) : Bool := !(s.deadOn src dst).isEmpty

/-- Detour entries lead round every dead router of the route (R324). -/
def ledRound (s : State) (src dst : Endpoint) : Bool := (s.deadOn src dst).all fun d => s.dev.detours.any fun e => e.2 == d

/-- The router of an endpoint is dead: it forwards nothing, and nothing is sent to it (R324). -/
def atDead (s : State) (e : Endpoint) : Bool := (s.physOf e).any s.dev.deadRouters.contains

/-- Put packet `k` on the fabric: it takes its sequence number (R322), and goes on ESC where its route meets a dead router
(R324). One whose source has a dead router stays where it is. One for a core or park outside its partition is discarded, as a header error of the partition (R323).
(DEDUCED, log entry 60) -/
def inject (s : State) (k : Nat) : State :=
  match sget s.packets k with
  | none => s
  | some p =>
    if !s.inReach p.ptag p.dst then { s with packets := sdel s.packets k }.headerError p.ptag
    else if s.atDead p.src then s
    else
      let (n, s) := s.nextSeq p.src p.dst p.vc
      let q := { p with seq := n, held := false, queued := false, since := s.clock, esc := s.routeDead p.src p.dst }
      ({ s with packets := sput s.packets k q }).pressurize p.dst

/-- Send a packet that no settle buffer holds (a home's, a park's or the device's), after what goes before it in its stream
(R316).
(DEDUCED, log entry 59) -/
def sendNow (s : State) (p : Packet) : State :=
  p.split.foldl (fun s p =>
    let k := s.names.pkt
    let s := { s with names := { s.names with pkt := k + 1 }
                      packets := sput s.packets k { p with born := s.clock, held := true, queued := true } }
    s.inject k) s

/-- A commit to the line of an address is on its way to its home (R183). -/
def lineBusy (s : State) (pa : Nat) : Bool :=
  (svals s.packets).any fun p => (match p.load with | .commit _ => true | _ => false) && canonPa p.pa / 64 == canonPa pa / 64

/-- Outside coherence work that a commit of these bytes leaves: a host copy to be invalidated, far memory to be
written (R187, R379). -/
def noteOutside (s : State) (ts : Nat) (l : Store Byte) : State :=
  let ls := linesOf l
  let held := ls.filter s.dev.hostCached.contains
  let far := (skeys l).any fun a => cxlBase ≤ canonPa a && canonPa a < devRegBase
  let s := if held.isEmpty then s else
    ({ s with outside := s.outside ++ held.map fun _ => (ts, Outside.backInvalidation) }).modDev fun d =>
      { d with hostCached := d.hostCached.filter fun x => !held.contains x }
  if far then { s with outside := s.outside ++ [(ts, .farMemory)] } else s

/-! ### Space in the Orangery (R12, R197, R198) -/

/-- Lines a channel's Orangery holds: 6 MiB of 64 bytes (R12). (DEDUCED, log entry 54) -/
def orangeryLines : Nat := 98304

/-- Lines of pending bytes held at a channel. -/
def pendingLines (s : State) (chan : Nat) : Nat :=
  s.teams.foldl (fun n e => n + ((skeys e.2.pending).filterMap fun a => if homeOf a = chan then some (a / 64) else none).eraseDups.length) 0

/-- Older versions kept in a channel. -/
def oldLines (s : State) (chan : Nat) : Nat :=
  s.orangery.foldl (fun n e => if homeOf (e.1 * 64) = chan then n + e.2.length else n) 0

/-- The channel lacks space for one more line. (DEDUCED, log entry 54) -/
def orangeryFull (s : State) (chan : Nat) : Bool := orangeryLines ≤ s.pendingLines chan + s.oldLines chan

/-- A commit or store waits for space in the Orangery; the wait is noted (R198). (DEDUCED, log entry 54) -/
def spaceWait (s : State) (pa : Nat) : Option State :=
  let c := homeOf pa
  if s.orangeryFull c then some { s with lacking := if (sget s.lacking c).isSome then s.lacking else sput s.lacking c s.clock }
  else none

/-- The channel has had space. -/
def spaceFound (s : State) (pa : Nat) : State := { s with lacking := sdel s.lacking (homeOf pa) }

/-- The distinct 32-byte sectors of physical addresses, in order. -/
def sectorsOf (l : Store Byte) : List Nat := ((skeys l).map fun a => canonPa a / 32).eraseDups

/-- The bytes of a sector as a commit packet carries them: the mask and one payload flit (R319). -/
def sectorMask (l : Store Byte) (sec : Nat) : Nat × List Byte :=
  let own := l.filter fun c => c.1 / 32 == sec
  (own.foldl (fun m c => m + 2 ^ (c.1 % 32)) 0, (List.range 32).map fun i => (sget own (sec * 32 + i)).getD 0)

/-- Commit bytes for the device itself, under a context tag and for a partition: at once when no commit to their lines is on its way and
their homes are ready and have space, else by commits of its own (R183, R187, R198, R369). (DEDUCED, log entry 53) -/
def deviceCommit (s : State) (tag part : Nat) (l : Store Byte) : Nat × State :=
  let (ts, s) := s.takeTs
  let l := l.foldl (fun m p => sput m (canonPa p.1) p.2) []
  if s.homesReady (skeys l) && (skeys l).all fun a => !s.lineBusy a && !s.orangeryFull (homeOf a) then (ts, (s.noteOutside ts l).commitAt ts none l)
  else
    let k := s.names.rel
    let s := { s with names := { s.names with rel := k + 1 }
                      rels := sput s.rels k { tid := 0, gid := none, scope := .device, st := .committing, ts := ts, txOf := none, purpose := .device } }
    (ts, (sectorsOf l).foldl (fun s sec =>
      let m := sectorMask l sec
      s.sendNow { Packet.plain (.io 0) (homeEnd (sec * 32)) 0 (.commit (some k)) with
        ctx := tag, ptag := part, pa := sec * 32, size := 32, bytes := m.2, lane := m.1, ts := ts }) s)

/-- A context consumes an uncorrectable error that no team of it met: it is killed with KIND 4 (R351, R364). (DESIGN
CHOICE, log entry 91) -/
def consumeCtx (s : State) (c pa : Nat) : State :=
  s.requestKill c { kind := 4, launch := 0, reason := 0, gslot := 0, cid := 0, body := bytesOfDword (BitVec.ofNat 64 pa) }

/-- The poisoned table entry, if any, that a walk of an address would use (R364). -/
def poisonedWalk (s : State) (ctx va : Nat) : Option Nat :=
  match s.walk (s.ctx ctx).root (va % 2 ^ 56) with
  | .poison pa => some pa
  | _ => none

/-- Write bytes at a virtual address of a context for the device, under a context tag: the timestamp of their commit, none
when some byte cannot be written; a poisoned table entry is consumed by the context (R364). (DEDUCED, log entry 58) -/
def deviceWriteVa (s : State) (ctx tag va : Nat) (bs : List Byte) : Option Nat × State :=
  let pas := (List.range bs.length).map fun i => s.translateDev ctx (va + i)
  if pas.all Option.isSome then
    let (ts, s) := s.deviceCommit tag (s.ctx ctx).part ((List.range bs.length).map fun i => ((pas.getD i none).getD 0, bs.getD i 0))
    (some ts, s)
  else
    match (List.range bs.length).findSome? fun i => s.poisonedWalk ctx (va + i) with
    | some pa => (none, s.consumeCtx ctx pa)
    | none => (none, s)

/-! ### Scratchpad (R176) -/

/-- Key of a scratchpad byte. -/
def scrKey (cid off : Nat) : Nat := cid * 2 ^ 19 + off
/-- Bytes of a core's scratchpad space. -/
def scrBytes (s : State) (cid off n : Nat) : List Byte := mreads s.scratch (scrKey cid off) n
/-- Write bytes of a core's scratchpad space. -/
def scrWrite (s : State) (cid off : Nat) (bs : List Byte) : State :=
  let k := scrKey cid off
  { s with
    scratch := mwrites s.scratch k bs
    scrPoison := s.scrPoison.filter fun x => !(k ≤ 32 * x && 32 * x + 32 ≤ k + bs.length) }
/-- Some byte of a scratchpad range is poisoned (R364). -/
def scrPoisoned (s : State) (cid off n : Nat) : Bool :=
  s.scrPoison.any fun x => scrKey cid off < 32 * x + 32 && 32 * x < scrKey cid off + n

end State

/-! ### Poison in the other arrays (R364) -/

/-- Array address of a tile register byte. (DESIGN CHOICE, log entry 31) -/
def tileArr (key : Nat) : Nat := 2 ^ 53 + key
/-- Array address of an accumulator element. (DESIGN CHOICE, log entry 31) -/
def accArr (key : Nat) : Nat := 2 ^ 54 + 4 * key
/-- Array address of an m register. (DESIGN CHOICE, log entry 31) -/
def mArr (q n : Nat) : Nat := 2 ^ 58 + 64 * q + 4 * n
/-- Array address of a byte in a core's instruction cache. (DESIGN CHOICE, log entry 31) -/
def icacheArr (cid pa : Nat) : Nat := 2 ^ 59 + cid * 2 ^ 52 + pa
/-- Array address of a register at a lane or slice: a sector is a v register in eight lanes, an s register in eight
slices, or the k registers of a group. (DESIGN CHOICE, log entry 31) -/
def regArr (gid : Nat) (r : Reg) (p : Nat) : Nat :=
  match r with
  | .v n => 2 ^ 55 + ((gid * 4 + p / 8) * 64 + n) * 32 + 4 * (p % 8)
  | .s n => 2 ^ 56 + (gid * 32 + n) * 32 + 4 * p
  | .k _ => 2 ^ 57 + gid * 32
  | .exec => 0

namespace State

/-- Some byte of an array is poisoned (R364). -/
def arrPoisoned (s : State) (a n : Nat) : Bool := s.arrPoison.any fun x => a < 32 * x + 32 && 32 * x < a + n

/-- A write of array bytes clears the poison of the sectors it replaces whole (R364). -/
def arrClear (s : State) (a n : Nat) : State :=
  { s with arrPoison := s.arrPoison.filter fun x => !(a ≤ 32 * x && 32 * x + 32 ≤ a + n) }

/-- A tile register byte is poisoned. -/
def tilePoisoned (s : State) (key n : Nat) : Bool := s.arrPoisoned (tileArr key) n

/-- Write tile register bytes. -/
def tileStore (s : State) (key : Nat) (bs : List Byte) : State :=
  ({ s with tiles := mwrites s.tiles key bs }).arrClear (tileArr key) bs.length

end State

/-! ### Group traps (R337 to R343, R349) -/

/-- The CAUSE doubleword (R339). -/
def causeDword (slot : Nat) (c : Cause) : DWord :=
  BitVec.ofNat 64 (c.info.toNat * 2 ^ 32 + slot % 32 * 2 ^ 16 + c.reason % 256 * 2 ^ 8 + c.code % 256)

/-- The two doublewords of a split-stack entry in a slice record (R340). -/
def entryDwords (e : Entry) : List DWord :=
  match e.pend with
  | none => [BitVec.ofNat 64 (e.restore.toNat * 2 ^ 56 + e.join.toNat), 0]
  | some p =>
    [BitVec.ofNat 64 (p.path.toNat * 2 ^ 60 + e.restore.toNat * 2 ^ 56 + e.join.toNat),
      BitVec.ofNat 64 (2 ^ 63 + p.exec.toNat * 2 ^ 59 + p.pc.toNat)]

/-- The state code of a slice record (R340). -/
def stCode : SliceSt → Nat
  | .ganged => 0 | .regangWait => 1 | .blockedBwait => 2 | .blockedAcc => 2 | .done => 3

/-- A slice record: 36 doublewords (R340). -/
def sliceRecord (x : Slice) : List DWord :=
  [BitVec.ofNat 64 (x.ix % 16 * 2 ^ 56 + x.pc.toNat),
    BitVec.ofNat 64 (stCode x.st * 2 ^ 20 + x.gang % 8 * 2 ^ 17 + x.stack.length % 32 * 2 ^ 12
      + x.exited.toNat * 2 ^ 8 + x.path.toNat * 2 ^ 4 + x.exec.toNat), 0, 0]
    ++ (x.stack.reverse.flatMap entryDwords) ++ List.replicate (32 - 2 * x.stack.length) 0

namespace State

/-- The frame's first 16 doublewords (R339). -/
def frameHead (s : State) (gid : Nat) (c : Cause) : List DWord :=
  let g := s.group gid
  let open1 := if g.tx.isSome then 1 else 0
  [causeDword g.slot c, BitVec.ofNat 64 c.fpc.toNat, c.addr,
    BitVec.ofNat 64 (open1 * 2 ^ 36 + s.counter gid .tiles * 2 ^ 30 + s.counter gid .copies * 2 ^ 24
      + s.counter gid .stores * 2 ^ 18 + s.counter gid .loads * 2 ^ 12 + s.busyMask gid), 0, 0, 0, 0]
    ++ (c.aux ++ List.replicate (6 - c.aux.length) 0) ++ [0, 0]

/-- A trap frame up to the handler scratch, which the device never writes (R339). -/
def frameBytes (s : State) (gid : Nat) (c : Cause) : List Byte :=
  bytesOf (s.frameHead gid c ++ (s.sliceNos gid).flatMap fun i => sliceRecord (s.slice gid i))

/-- Byte of the scratchpad at which a frame slot lies (R339). -/
def frameAt (slot : Nat) : Nat := Config.supervisorBase + slot * 2560

/-- A slice of the group waits to be restarted (R345). -/
def restarting (s : State) (gid i : Nat) : Bool := (s.group gid).restarts.any fun l => l.contains i

/-- Something a gang issued after its restart point is still to complete (R345 step 1). (DEDUCED, log entry 65) -/
def restartOpen (s : State) (gid : Nat) (is : List Nat) : Bool :=
  (s.group gid).ops.any fun o =>
    !o.done && is.any fun i => o.slices.contains i && (s.slice gid i).restart.op ≤ o.oid

/-- A gang takes its restart copies (R345 steps 2 and 3); a transaction opened after that point is closed (R220). -/
def restartNow (s : State) (gid : Nat) (is : List Nat) : State :=
  let s := s.modGroup gid fun g =>
    { g with
      restarts := g.restarts.filter fun l => l != is
      pre := g.pre.filter fun p => !is.contains p.1
      tx := g.tx.filter fun t => t.regions != g.regions }
  let s := s.modSlices gid is fun x =>
    { x with pc := x.restart.pc, ix := x.restart.ix, exec := x.restart.exec, path := x.restart.path
             stack := x.restart.stack }
  (s.formByPc gid is).modTeam (tidOf gid) fun t => { t with restarts := t.restarts + 1 }

/-- Restart the gangs of a group whose later instructions are complete (R345 step 1). -/
def tryRestarts (s : State) (gid : Nat) : State :=
  (s.group gid).restarts.foldl (fun s is => if s.restartOpen gid is then s else s.restartNow gid is) s

/-- Restart a gang at its region once what it issued since is complete (R345). (DEDUCED, log entry 65) -/
def restart (s : State) (gid : Nat) (is : List Nat) : State :=
  (s.modGroup gid fun g => { g with restarts := g.restarts ++ [is] }).tryRestarts gid

/-- A group's blocked ACCALLOC ends without a result: it will be executed again (R338, R341). -/
def dropAccReq (s : State) (gid : Nat) : State :=
  match (s.team (tidOf gid)).accReq with
  | some r =>
    if r.gid = gid then
      (s.modTeam (tidOf gid) fun t => { t with accReq := none }).modGroup gid fun g =>
        { g with
          ops := g.ops.filter fun o => o.oid != r.oid
          hazards := g.hazards.filter fun h => h.oid != r.oid || h.ready.isSome }
    else s
  | none => s

/-- Every live slice enters the handler in one gang (R341 step 4). -/
def enterHandler (s : State) (gid : Nat) (vec : Addr) : State :=
  let is := s.liveSlices gid
  let s := s.modSlices gid is fun x =>
    { x with stack := [], exec := ~~~x.exited, path := ~~~x.exited, pc := vec, ix := 0, st := .ganged, waitObj := none }
  let s := (s.formGang gid is).modGroup gid fun g => { g with pre := [] }
  (s.regionEntry gid is).dropAccReq gid

/-- Enter a group trap on a compute core in a frame slot (R341). -/
def enterFrame (s : State) (gid slot : Nat) (c : Cause) : State :=
  let t := s.team (tidOf gid)
  let s := (s.group gid).restarts.foldl (fun s is => s.restartNow gid is) s
  let frame := s.frameBytes gid c
  let s := s.scrWrite t.core (frameAt slot) frame
  let vec := (s.ctx t.ctx).trapvec
  let s := s.dropRuns t.core gid
  if vec.extractLsb' 0 56 = 0 then
    s.requestKill t.ctx
      { kind := 9, launch := (s.launch t.launch).ident, reason := c.reason, gslot := (s.group gid).slot,
        cid := t.core, body := s.scrBytes t.core (frameAt slot) 2560 }
  else
    let s := s.modCore t.core fun k => { k with frames := k.frames.set slot (some gid) }
    let s := s.modGroup gid fun g =>
      { g with frame := some slot, level := .l1, trapWait := none
               causeLow := (causeDword g.slot c).extractLsb' 0 32 }
    s.enterHandler gid (vec.extractLsb' 0 56)

/-- Halt a system core (R343); a supervisor's halt goes to Fjondan, Fjondan's to the Gazebo. -/
def haltSys (s : State) (cid : Nat) : State :=
  (s.modCore cid fun c => { c with held := true, pipe0 := none, pipe1 := none }).emit
    (.report (if cid - sysBase < 2 then "Gazebo: Fjondan system core halted" else "Fjondan: system core halted"))

/-- Enter a group trap on a system core (R343). -/
def enterSys (s : State) (gid : Nat) (c : Cause) : State :=
  let t := s.team (tidOf gid)
  let k := s.core t.core
  if k.sysFrame || k.trapvec.extractLsb' 0 56 = 0 then s.haltSys t.core
  else
    match s.deviceWriteVa t.ctx t.ctx (k.framebase.extractLsb' 0 56).toNat (s.frameBytes gid c) with
    | (none, s) => s.haltSys t.core
    | (some ts, s) =>
      let s := s.dropRuns t.core gid
      let s := s.modCore t.core fun k => { k with sysFrame := true, frameTs := ts }
      let s := s.modGroup gid fun g =>
        { g with trapWait := none, causeLow := (causeDword g.slot c).extractLsb' 0 32 }
      s.enterHandler gid (k.trapvec.extractLsb' 0 56)

/-- The lowest free frame slot of a core (R339). (DEDUCED, log entry 22) -/
def freeSlot (s : State) (cid : Nat) : Option Nat :=
  (List.range 6).find? fun i => ((s.core cid).frames.getD i (some 0)).isNone

/-- Take a group trap (R341): on a system core as R343 states; in a handler it is a double trap, which kills
the context (R342); with no free frame slot the group waits (R339). The trapping gang's slices already stand
at the resumption point of R337. (DEDUCED, log entry 22) -/
def takeTrap (s : State) (gid : Nat) (c : Cause) : State :=
  let t := s.team (tidOf gid)
  let g := s.group gid
  if isSys t.core then s.enterSys gid c
  else
    match g.frame with
    | some slot =>
      (s.dropRuns t.core gid).requestKill t.ctx
        { kind := 2, launch := (s.launch t.launch).ident, reason := c.reason, gslot := g.slot, cid := t.core,
          body := s.scrBytes t.core (frameAt slot) 2560 ++ bytesOfDword (causeDword g.slot c) }
    | none =>
      match s.freeSlot t.core with
      | some slot => s.enterFrame gid slot c
      | none => (s.dropRuns t.core gid).modGroup gid fun g => { g with trapWait := some c }

/-! ### Return (R349) -/

/-- Stand the slices `is` of a gang at a clause header and index. -/
def standAt (s : State) (gid : Nat) (is : List Nat) (pc : Addr) (ix : Nat) : State :=
  s.modSlices gid is fun x => { x with pc := pc, ix := ix }

end State

/-- The split-stack entry of two record doublewords (R340). -/
def entryOf (lo hi : DWord) (age : Nat) : Entry where
  join := lo.extractLsb' 0 56
  restore := lo.extractLsb' 56 4
  pend :=
    if hi.getLsbD 63 then
      some { pc := hi.extractLsb' 0 56, path := lo.extractLsb' 60 4, exec := hi.extractLsb' 59 4 }
    else none
  age := age

/-- A slice record is one RTE accepts for a slice with live lanes `lv` (R349 step 2). -/
def recordOk (r : List DWord) (lv : Mask) : Bool :=
  let d0 := r.getD 0 0
  let d1 := r.getD 1 0
  let depth := dfld d1 12 5
  let inside (m : Mask) : Bool := less m lv == 0
  let es := (List.range depth).map fun e => (r.getD (4 + 2 * e) 0, r.getD (5 + 2 * e) 0)
  dfld d0 60 4 == 0 && dfld d1 22 42 == 0 && r.getD 2 0 == 0 && r.getD 3 0 == 0 && depth ≤ 16
    && dfld d1 20 2 != 3 && dfld d0 0 3 == 0
    && inside (d1.extractLsb' 4 4) && inside (d1.extractLsb' 0 4)
    && es.all fun (lo, hi) =>
      dfld hi 56 3 == 0 && dfld lo 0 3 == 0 && dfld hi 0 3 == 0 && inside (lo.extractLsb' 60 4)
        && inside (lo.extractLsb' 56 4) && less (hi.extractLsb' 59 4) (lo.extractLsb' 60 4) == 0

/-- The slice a record restores (R349 step 3); a recorded wait is executed again from its instruction. -/
def restoreSlice (x : Slice) (r : List DWord) (age : Nat) : Slice :=
  let d0 := r.getD 0 0
  let d1 := r.getD 1 0
  { x with
    pc := d0.extractLsb' 0 56
    ix := dfld d0 56 4
    exec := d1.extractLsb' 0 4
    path := d1.extractLsb' 4 4
    stack := ((List.range (dfld d1 12 5)).map fun e => entryOf (r.getD (4 + 2 * e) 0) (r.getD (5 + 2 * e) 0) age).reverse
    st := .ganged
    gang := dfld d1 17 3 }

namespace State

/-- Bring a group back from its handler by the slice records of a frame, whose 2560 bytes are `body` (R349 steps 2 to
5, R351). -/
def returnFrom (s : State) (gid : Nat) (frame : List DWord) (body : List Byte) : State :=
  let t := s.team (tidOf gid)
  let is := s.liveSlices gid
  let rec1 (i : Nat) : List DWord := (frame.drop (16 + 36 * i)).take 36
  let age := s.cycles gid
  if is.all fun i => recordOk (rec1 i) (s.live gid i) then
    let s := is.foldl (fun s i => s.modSlice gid i fun x => restoreSlice x (rec1 i) age) s
    let key (s : State) (i : Nat) := ((s.slice gid i).gang, (s.slice gid i).pc, (s.slice gid i).ix)
    let gangs := is.map fun i => (i, (is.filter fun j => key s j == key s i).foldl Nat.min 7)
    let s := gangs.foldl (fun s p => s.modSlice gid p.1 fun x => { x with gang := p.2 }) s
    let s := s.regionEntry gid is
    if isSys t.core then
      (s.modCore t.core fun k => { k with sysFrame := false }).modGroup gid fun g => { g with causeLow := 0 }
    else
      let slot := (s.group gid).frame.getD 0
      let s := s.modCore t.core fun k => { k with frames := k.frames.set slot none }
      s.modGroup gid fun g => { g with frame := none, level := .l0, causeLow := 0 }
  else
    s.requestKill t.ctx
      { kind := 2, launch := (s.launch t.launch).ident, reason := 0, gslot := (s.group gid).slot, cid := t.core,
        body := body ++ List.replicate 8 0 }

end State

end Sys2Proof.Machine
end

