-- ==== Sys2Proof/Machine/Operands.lean ====
section
/-! DEFINITION. Operands: the issuing gang, special values, reading and writing operands of every kind, the
lanes an instruction acts on, and the address forms of R68. -/

namespace Sys2Proof.Machine

/-- The gang whose instruction is at issue. -/
structure Iss where
  cid : Nat
  pipe : Nat
  gid : Nat
  slices : List Nat
  hdr : Addr
  ix : Nat
  len : Nat
  deriving DecidableEq, Repr

namespace Iss

/-- The issuing team. -/
def tid (i : Iss) : Nat := tidOf i.gid
/-- The gang's slice of lowest SLICE.ID. -/
def lead (i : Iss) : Nat := i.slices.headD 0
/-- Address of the instruction (R63). -/
def addr (i : Iss) : Addr := i.hdr + BitVec.ofNat 56 (8 + 8 * i.ix)
/-- The fall-through address of a clause-ending instruction (R63, R123). -/
def fall (i : Iss) : Addr := i.hdr + BitVec.ofNat 56 (8 + 8 * i.len)
/-- The issuer is a system core. -/
def sys (i : Iss) : Bool := isSys i.cid

end Iss

/-- A launch record's doubleword at a byte offset (R38). -/
def Launch.dw (l : Launch) (off : Nat) : DWord := l.record.getD (off / 8) 0
/-- A field of the record's SHAPE doubleword (R39). -/
def Launch.shape (l : Launch) (lo len : Nat) : Nat := dfld (l.dw 0x18) lo len
/-- A field of POLICY (R39). -/
def Launch.policy (l : Launch) (lo len : Nat) : Nat := dfld (l.dw 0x38) lo len
/-- A field of PLANE (R39). -/
def Launch.plane (l : Launch) (lo len : Nat) : Nat := dfld (l.dw 0x20) lo len
/-- Groups of a team: GRPS + 1. -/
def Launch.groups (l : Launch) : Nat := l.shape 6 5 + 1
/-- v registers VREGS declares (R39). -/
def Launch.vregs (l : Launch) : Nat := 16 * (l.shape 11 2 + 1)
/-- The slice ageing threshold in cycles (R33). -/
def Launch.ageLimit (l : Launch) : Nat := if l.policy 8 6 = 0 then 4096 else 2 ^ l.policy 8 6
/-- The barrier watchdog in cycles (R39). -/
def Launch.wdogLimit (l : Launch) : Nat := if l.policy 2 6 = 0 then 2 ^ 24 else 2 ^ l.policy 2 6
/-- The twin pair timeout in cycles (R305). -/
def Launch.pairLimit (l : Launch) : Nat := if l.policy 14 10 = 0 then 8192 else l.policy 14 10 * 64
/-- A format slot (R148). -/
def Launch.slot (l : Launch) (n : BitVec 3) : DWord := l.dw (0x80 + 8 * n.toNat)

namespace State

/-- The issuing gang, when `cur` names one that exists. -/
def issOf (s : State) : Option Iss :=
  match s.cur with
  | .gang cid pipe gid slices hdr ix len =>
    if (sget s.groups gid).isSome then some ⟨cid, pipe, gid, slices, hdr, ix, len⟩ else none
  | _ => none

/-- The launch of a team. -/
def launchOf (s : State) (tid : Nat) : Launch := s.launch (s.team tid).launch
/-- v registers of a team; a system core has 64 (R39, R57). -/
def vregsOf (s : State) (tid : Nat) : Nat := if isSys (s.team tid).core then 64 else (s.launchOf tid).vregs
/-- Format slot n of a team's grid (R150). -/
def slotOf (s : State) (tid : Nat) (n : BitVec 3) : DWord := (s.launchOf tid).slot n

/-- A special value for a lane of a slice (R71). No launch started a system core: LAUNCH.PARAM and LAUNCH.ID read 0 there,
which the manual does not state (DESIGN CHOICE, log entry 71). -/
def special (s : State) (gid i lane : Nat) (x : Special) : Word :=
  let t := s.team (tidOf gid)
  let l := s.launch t.launch
  let c := s.cluster t.cluster
  let sys := isSys t.core
  let w (n : Nat) : Word := BitVec.ofNat 32 n
  let notSys (n : Nat) : Word := if sys then 0 else w n
  match x with
  | .laneId => w (4 * i + lane)
  | .sliceId => notSys i
  | .groupId => notSys (groupNo gid)
  | .teamX => notSys t.tx
  | .teamY => notSys t.ty
  | .twinId => notSys t.twin
  | .clusterX => notSys c.cx
  | .clusterY => notSys c.cy
  | .clusterZ => notSys c.cz
  | .coreX => notSys (corePos t.core).1
  | .coreY => notSys (corePos t.core).2
  | .gridX => notSys (dfld (l.dw 0x10) 0 16)
  | .gridY => notSys (dfld (l.dw 0x10) 16 16)
  | .gridZ => notSys (dfld (l.dw 0x10) 32 8)
  | .teamGroups => notSys t.groups
  | .clusterW => notSys (l.shape 0 3)
  | .clusterH => notSys (l.shape 3 3)
  | .clockLo => w s.now
  | .clockHi => w (s.now / 2 ^ 32)
  | .paramLo => w (l.dw 0x08).toNat
  | .paramHi => w ((l.dw 0x08).toNat / 2 ^ 32)
  | .snapLo => w (t.snap % 2 ^ 48)
  | .snapHi => w (t.snap % 2 ^ 48 / 2 ^ 32)
  | .devX => w s.dev.coords.1
  | .devY => w s.dev.coords.2.1
  | .devZ => w s.dev.coords.2.2
  | .ctxId => w (t.ctx % 4096)
  | .launchId => w l.ident
  | .planeOff => notSys (l.plane 32 14 * 32)
  | .planeSize => notSys (l.plane 46 14 * 32)
  | .scrSize => notSys t.scrSize

end State

/-- The inline FP32 constants of R72. -/
def fpConst (n : BitVec 4) : Word :=
  [0x00000000, 0x3F000000, 0x3F800000, 0x40000000, 0x40800000, 0x41000000, 0x3E800000, 0x3E000000,
    0xBF000000, 0xBF800000, 0xC0000000, 0xC0800000, 0x3F317218, 0x3FB8AA3B, 0x40490FDB, 0x3F3504F3].getD n.toNat 0

namespace State

/-- A 32-bit operand of a lane of a slice (R70 to R72, R106); a k register reads as its mask. -/
def rd32 (s : State) (gid i lane : Nat) : Opnd → Word
  | .v n => s.rdV gid (4 * i + lane) n.toNat
  | .s n => s.rdS gid i n.toNat
  | .k n => BitVec.ofNat 32 (s.rdK gid i n.toNat).toNat
  | .sp x => s.special gid i lane x
  | .pos n => BitVec.ofNat 32 n.toNat
  | .neg n => BitVec.ofInt 32 ((n.toNat : Int) - 16)
  | .fp n => fpConst n
  | .t _ => 0
  | .a _ => 0
  | .m _ => 0

/-- A 64-bit operand: a pair, a .LO and .HI pair, or a sign-extended inline integer (R71, R72). -/
def rd64 (s : State) (gid i lane : Nat) : Opnd → DWord
  | .v n => s.rdV64 gid (4 * i + lane) n.toNat
  | .s n => s.rdS64 gid i n.toNat
  | .sp .clockLo => s.special gid i lane .clockHi ++ s.special gid i lane .clockLo
  | .sp .paramLo => s.special gid i lane .paramHi ++ s.special gid i lane .paramLo
  | .sp .snapLo => s.special gid i lane .snapHi ++ s.special gid i lane .snapLo
  | o => (s.rd32 gid i lane o).signExtend 64

/-- An operand of either width, as a doubleword (32-bit ones zero-extended). -/
def rdW (s : State) (wide : Bool) (gid i lane : Nat) (o : Opnd) : DWord :=
  if wide then s.rd64 gid i lane o else (s.rd32 gid i lane o).zeroExtend 64

/-- Write a 32-bit destination of a lane of a slice: a v register per lane, an s register per slice, a k
register's four bits. -/
def wr32 (s : State) (gid i lane : Nat) (o : Opnd) (x : Word) : State :=
  match o with
  | .v n => s.wrV gid (4 * i + lane) n.toNat x
  | .s n => s.wrS gid i n.toNat x
  | .k n => s.wrK gid i n.toNat (x.extractLsb' 0 4)
  | _ => s

/-- Write a 64-bit destination pair. -/
def wr64 (s : State) (gid i lane : Nat) (o : Opnd) (x : DWord) : State :=
  match o with
  | .v n => s.wrV64 gid (4 * i + lane) n.toNat x
  | .s n => s.wrS64 gid i n.toNat x
  | _ => s

/-- Write a destination of either width. -/
def wrW (s : State) (wide : Bool) (gid i lane : Nat) (o : Opnd) (x : DWord) : State :=
  if wide then s.wr64 gid i lane o x else s.wr32 gid i lane o (x.extractLsb' 0 32)

/-- Set bit (lane) of a k register of a slice (R113). -/
def wrKbit (s : State) (gid i lane : Nat) (o : Opnd) (b : Bool) : State :=
  match o with
  | .k n =>
    let m := s.rdK gid i n.toNat
    let bit : Mask := BitVec.ofNat 4 (2 ^ lane)
    s.wrK gid i n.toNat (if b then m ||| bit else m &&& ~~~bit)
  | _ => s

/-- Set all four bits of a k register of a slice (R113). -/
def wrKall (s : State) (gid i : Nat) (o : Opnd) (b : Bool) : State :=
  match o with
  | .k n => s.wrK gid i n.toNat (if b then 15 else 0)
  | _ => s

/-! ### Lanes (R28, R117) -/

/-- Enabled lanes of a slice: EXEC and the predicate (R28). -/
def enabled (s : State) (gid i : Nat) (pm : BitVec 3) : Mask := (s.slice gid i).exec &&& s.rdK gid i pm.toNat

/-- ACTIVE: the enabled lanes of the gang as (slice, lane in slice), in ascending LANE.ID order.
(DEDUCED, log entry 55) -/
def active (s : State) (gid : Nat) (is : List Nat) (pm : BitVec 3) : List (Nat × Nat) :=
  is.flatMap fun i => (lanesOf (s.enabled gid i pm)).map fun l => (i, l)

/-- L of a vector instruction: the most lanes enabled in a slice (R29). -/
def vecL (s : State) (gid : Nat) (is : List Nat) (pm : BitVec 3) : Nat :=
  is.foldl (fun a i => Nat.max a (lanesOf (s.enabled gid i pm)).length) 0

/-- Where an instruction acts: the active lanes in vector form, each slice once otherwise (R73, R106).
(DEDUCED, log entry 55) -/
def targets (s : State) (iss : Iss) (vec : Bool) (pm : BitVec 3) : List (Nat × Nat) :=
  if vec then s.active iss.gid iss.slices pm else iss.slices.map fun i => (i, 0)

end State

/-- The signed OFF11 scaled by a size (R68). -/
def offBytes (off : BitVec 11) (size : Nat) : Int := off.toInt * size

/-- The effective address of MEM-G: (base + sext(OFF11) × size) mod 2^56 (R68, R203). -/
def effAddr (base : DWord) (off : BitVec 11) (size : Nat) : Nat :=
  wrapN 56 ((base.toNat : Int) + offBytes off size)

/-- The scratchpad offset of MEM-S: (A + sext(OFF11) × size) mod 2^32, aligned down (R135). -/
def effOff (a : Word) (off : BitVec 11) (size : Nat) : Nat :=
  let o := wrapN 32 ((a.toNat : Int) + offBytes off size)
  o - o % size

/-- A direct branch target: (H + 8 × sext(OFF26)) mod 2^56 (R68). -/
def target26 (hdr : Addr) (off : BitVec 26) : Addr := hdr + off.signExtend 56 * 8
/-- BRX's join: (H + 8 × sext(JOFF16)) mod 2^56 (R125). -/
def target16 (hdr : Addr) (off : BitVec 16) : Addr := hdr + off.signExtend 56 * 8

/-- The least power of two at or above a size, from `fuel` doublings of `z` (R176). -/
def pow2Above (z a : Nat) : Nat → Nat
  | 0 => z
  | n + 1 => if a ≤ z then z else pow2Above (2 * z) a n

/-- A region's byte for an offset: q = o mod Z, in range when below the size (R176). -/
def wrapOff (o a : Nat) : Option Nat :=
  let q := o % pow2Above 1 a 32
  if q < a then some q else none

namespace State

/-- The byte of the core's scratchpad space that an offset of a team names at a privilege level (R176); none
when it is out of range. -/
def mapOff (s : State) (tid : Nat) (level : Level) (o : Nat) : Option Nat :=
  let t := s.team tid
  let l := s.launch t.launch
  match fld o 30 2 with
  | 2 => (wrapOff (o % 2 ^ 30) (l.plane 46 14 * 32)).map fun q => l.plane 32 14 * 32 + q
  | 3 => if level == .l0 then none else some (Config.supervisorBase + o % 16384)
  | _ => (wrapOff (o % 2 ^ 31) t.scrSize).map fun q => t.scrBase + q

/-- Set WRAPOUT of a team (R176). -/
def wrapOut (s : State) (tid : Nat) : State := s.modTeam tid fun t => { t with scrStatus := t.scrStatus ||| 2 }
/-- Set WINOUT of a team (R137). -/
def winOut (s : State) (tid : Nat) : State := s.modTeam tid fun t => { t with scrStatus := t.scrStatus ||| 1 }

end State

end Sys2Proof.Machine
end

