-- ==== Sys2Proof/Machine/Float.lean ====
section
/-! DEFINITION. Number formats: exact extended reals, Round, the float helpers of R141 to R173, block floating
point, and the functions of R166 and R167. -/

namespace Sys2Proof.Machine

/-- An extended real (R144): NaN, an infinity, or a signed rational `num / den`; a zero keeps its sign. -/
inductive XR
  | nan
  | inf (neg : Bool)
  | fin (neg : Bool) (num den : Nat)
  deriving DecidableEq, Repr

/-- A binary interchange format: exponent and fraction bits (R141). -/
structure Fmt where
  eb : Nat
  fb : Nat
  deriving DecidableEq, Repr

/-- FP32 (R141). -/
def Fmt.f32 : Fmt := ⟨8, 23⟩
/-- FP16 (R141). -/
def Fmt.f16 : Fmt := ⟨5, 10⟩
/-- BF16 (R141). -/
def Fmt.bf16 : Fmt := ⟨8, 7⟩
/-- Exponent bias (R141). -/
def Fmt.bias (F : Fmt) : Nat := 2 ^ (F.eb - 1) - 1
/-- Bits of a pattern. -/
def Fmt.bits (F : Fmt) : Nat := 1 + F.eb + F.fb
/-- The canonical NaN (R141). -/
def Fmt.nan (F : Fmt) : Nat := (2 ^ F.eb - 1) * 2 ^ F.fb + 2 ^ (F.fb - 1)
/-- Pattern of an infinity. -/
def Fmt.infBits (F : Fmt) (neg : Bool) : Nat := (if neg then 2 ^ (F.eb + F.fb) else 0) + (2 ^ F.eb - 1) * 2 ^ F.fb
/-- Pattern of the largest finite value (R141). -/
def Fmt.maxBits (F : Fmt) (neg : Bool) : Nat := F.infBits neg - 1

/-- n × 2^e as a rational. -/
def XR.ofScaled (neg : Bool) (n : Nat) (e : Int) : XR :=
  if 0 ≤ e then .fin neg (n * 2 ^ e.toNat) 1 else .fin neg n (2 ^ (-e).toNat)

/-- The value of a pattern (R141). -/
def fpVal (F : Fmt) (x : Nat) : XR :=
  let neg := x / 2 ^ (F.eb + F.fb) % 2 = 1
  let e := x / 2 ^ F.fb % 2 ^ F.eb
  let f := x % 2 ^ F.fb
  if e = 2 ^ F.eb - 1 then (if f = 0 then .inf neg else .nan)
  else if e = 0 then .ofScaled neg f (1 - (F.bias : Int) - F.fb)
  else .ofScaled neg (2 ^ F.fb + f) ((e : Int) - F.bias - F.fb)

/-- The conditions NX, UF, OF, DZ and NV as bits of FP.STATUS (R160). -/
def NX : Nat := 1
/-- Underflow (R144). -/
def UF : Nat := 2
/-- Overflow (R144). -/
def OF : Nat := 4
/-- Division by zero (R160). -/
def DZ : Nat := 8
/-- Invalid operation (R160). -/
def NV : Nat := 16

/-- ⌊log2 (num / den)⌋ of a positive rational. -/
def log2Q (num den : Nat) : Int :=
  let d : Int := (Nat.log2 num : Int) - Nat.log2 den
  let ge := if 0 ≤ d then den * 2 ^ d.toNat ≤ num else den ≤ num * 2 ^ (-d).toNat
  if ge then d else d - 1

/-- Which of two neighbouring multiples a mode picks: true for the larger magnitude (R144). `c` compares the
remainder with one half. -/
def roundsUp (mode : Rnd) (neg : Bool) (odd : Bool) (c : Ordering) : Bool :=
  match mode with
  | .rne => c == .gt || (c == .eq && odd)
  | .rtz => false
  | .rup => !neg
  | .rdn => neg

/-- num / den rounded to an integer magnitude, and whether it is exact (R144, R145). -/
def roundNat (mode : Rnd) (neg : Bool) (num den : Nat) : Nat × Bool :=
  let n := num / den
  let r := num % den
  if r = 0 then (n, true)
  else (if roundsUp mode neg (n % 2 == 1) (compare (2 * r) den) then n + 1 else n, false)

/-- Rnd(x, INT, mode) of a finite rational (R145). -/
def roundInt (mode : Rnd) (neg : Bool) (num den : Nat) : Int × Bool :=
  let (n, ex) := roundNat mode neg num den
  ((if neg then -(n : Int) else n), ex)

/-- Round(x, F, mode): the pattern and the conditions (R144). -/
def round (F : Fmt) (mode : Rnd) (x : XR) : Nat × Nat :=
  match x with
  | .nan => (F.nan, 0)
  | .inf neg => (F.infBits neg, 0)
  | .fin neg num den =>
    let sgn := if neg then 2 ^ (F.eb + F.fb) else 0
    if num = 0 then (sgn, 0)
    else
      let qmin : Int := 1 - (F.bias : Int) - F.fb
      let q := max (log2Q num den - F.fb) qmin
      let (n, exact) := if 0 ≤ q then roundNat mode neg num (den * 2 ^ q.toNat)
        else roundNat mode neg (num * 2 ^ (-q).toNat) den
      let nx := if exact then 0 else NX
      if n < 2 ^ F.fb then (sgn + n, if exact then 0 else NX + UF)
      else
        let (n, q) := if n = 2 ^ (F.fb + 1) then (2 ^ F.fb, q + 1) else (n, q)
        let e := (q + F.fb + F.bias).toNat
        if 2 ^ F.eb - 1 ≤ e then
          let toInf := match mode with | .rne => true | .rtz => false | .rup => !neg | .rdn => neg
          (if toInf then F.infBits neg else F.maxBits neg, NX + OF)
        else (sgn + e * 2 ^ F.fb + (n - 2 ^ F.fb), nx)

/-! ### Exact arithmetic on extended reals -/

namespace XR

/-- Negation. -/
def neg : XR → XR
  | .nan => .nan
  | .inf s => .inf (!s)
  | .fin s n d => .fin (!s) n d

/-- A NaN. -/
def isNan : XR → Bool | .nan => true | _ => false
/-- An infinity. -/
def isInf : XR → Bool | .inf _ => true | _ => false
/-- A zero. -/
def isZero : XR → Bool | .fin _ n _ => n == 0 | _ => false
/-- The sign. -/
def sign : XR → Bool | .nan => false | .inf s => s | .fin s _ _ => s

/-- The exact sum; an exact zero is −0 only of two −0, or under RDN of addends that are not both −0 (R161). -/
def add (mode : Rnd) (a b : XR) : XR :=
  match a, b with
  | .nan, _ => .nan
  | _, .nan => .nan
  | .inf s, .inf t => if s = t then .inf s else .nan
  | .inf s, _ => .inf s
  | _, .inf t => .inf t
  | .fin s n d, .fin t m e =>
    let x : Int := (if s then -(n * e : Nat) else (n * e : Nat))
    let y : Int := (if t then -(m * d : Nat) else (m * d : Nat))
    let z := x + y
    if z = 0 then .fin ((n = 0 && m = 0 && s && t) || mode == .rdn) 0 1
    else .fin (z < 0) z.natAbs (d * e)

/-- The exact product; 0 × Inf is NaN. -/
def mul (a b : XR) : XR :=
  match a, b with
  | .nan, _ => .nan
  | _, .nan => .nan
  | .inf s, .inf t => .inf (s != t)
  | .inf s, .fin t m _ => if m = 0 then .nan else .inf (s != t)
  | .fin s n _, .inf t => if n = 0 then .nan else .inf (s != t)
  | .fin s n d, .fin t m e => .fin (s != t) (n * m) (d * e)

/-- The exact quotient of R152. -/
def div (a b : XR) : XR :=
  match a, b with
  | .nan, _ => .nan
  | _, .nan => .nan
  | .inf _, .inf _ => .nan
  | .inf s, .fin t _ _ => .inf (s != t)
  | .fin s _ _, .inf t => .fin (s != t) 0 1
  | .fin s n d, .fin t m e => if m = 0 then (if n = 0 then .nan else .inf (s != t)) else .fin (s != t) (n * e) (d * m)

/-- a < b of two that are not NaN, zeros equal. -/
def lt (a b : XR) : Bool :=
  match a, b with
  | .inf s, .inf t => s && !t
  | .inf s, _ => s
  | _, .inf t => !t
  | .fin s n d, .fin t m e =>
    let x : Int := (if s then -(n * e : Nat) else (n * e : Nat))
    let y : Int := (if t then -(m * d : Nat) else (m * d : Nat))
    x < y
  | _, _ => false

/-- An integer. -/
def ofInt (i : Int) : XR := .fin (i < 0) i.natAbs 1

end XR

/-! ### Elements, modifiers and clamping (R158, R159) -/

end Sys2Proof.Machine

namespace Sys2Proof

open Machine

/-- The format of FTYPE (R158). -/
def FTy.fmt : FTy → Fmt | .f32 => .f32 | .f16x2 => .f16 | .bf16x2 => .bf16

end Sys2Proof

namespace Sys2Proof.Machine

/-- The modifiers ABS then NEG on a pattern (R159). -/
def modBits (F : Fmt) (ng ab : Bool) (x : Nat) : Nat :=
  let top := 2 ^ (F.eb + F.fb)
  let y := if ab then x % top else x
  if ng then (if top ≤ y then y - top else y + top) else y

/-- Clamp01 on a rounded pattern (R159). -/
def clamp01 (F : Fmt) (x : Nat) : Nat :=
  let one := F.bias * 2 ^ F.fb
  match fpVal F x with
  | .nan => 0
  | .inf neg => if neg then 0 else one
  | .fin neg n _ => if neg || n = 0 then 0 else if one ≤ x then one else x

/-- SAT of a rounded pattern (R159). -/
def fsat (F : Fmt) (sat : Bool) (x : Nat) : Nat := if sat then clamp01 F x else x

/-- A register's elements of FTYPE, low first (R142, R158). -/
def elems (ty : FTy) (x : Word) : List Nat :=
  match ty with
  | .f32 => [x.toNat]
  | _ => [x.toNat % 2 ^ 16, x.toNat / 2 ^ 16]

/-- A register of elements. -/
def ofElems (ty : FTy) (l : List Nat) : Word :=
  match ty with
  | .f32 => BitVec.ofNat 32 (l.getD 0 0)
  | _ => BitVec.ofNat 32 (l.getD 0 0 % 2 ^ 16 + l.getD 1 0 % 2 ^ 16 * 2 ^ 16)

/-- A float operand's register value: in a packed format an FP32 constant is converted and placed in both
halves (R72). -/
def fconv (ty : FTy) (o : Opnd) (x : Word) : Word :=
  match ty, o with
  | .f32, _ => x
  | _, .fp _ =>
    let e := (round ty.fmt .rne (fpVal .f32 x.toNat)).1
    ofElems ty [e, e]
  | _, _ => x

/-! ### Arithmetic (R161 to R163) -/

/-- 0 × Inf of two that are not NaN. -/
def zeroInf (a b : XR) : Bool := (a.isZero && b.isInf) || (a.isInf && b.isZero)
/-- Infinities of opposite signs. -/
def oppInf (a b : XR) : Bool := a.isInf && b.isInf && a.sign != b.sign

/-- a + b rounded: pattern and conditions (R161). -/
def faddE (F : Fmt) (mode : Rnd) (a b : Nat) : Nat × Nat :=
  let x := fpVal F a
  let y := fpVal F b
  let r := round F mode (x.add mode y)
  (r.1, r.2 ||| (if oppInf x y then NV else 0))

/-- a × b rounded: pattern and conditions (R161). -/
def fmulE (F : Fmt) (mode : Rnd) (a b : Nat) : Nat × Nat :=
  let x := fpVal F a
  let y := fpVal F b
  let r := round F mode (x.mul y)
  (r.1, r.2 ||| (if zeroInf x y then NV else 0))

/-- a × b + c rounded once: pattern and conditions (R161). -/
def ffmaE (F : Fmt) (mode : Rnd) (a b c : Nat) : Nat × Nat :=
  let x := fpVal F a
  let y := fpVal F b
  let z := fpVal F c
  if zeroInf x y then (F.nan, NV)
  else
    let p := x.mul y
    let r := round F mode (p.add mode z)
    (r.1, r.2 ||| (if oppInf p z then NV else 0))

/-- The negative of a pattern. -/
def fnegE (F : Fmt) (a : Nat) : Nat := modBits F true false a

/-- a < b counting −0 < +0, of two that are not NaN (R162). -/
def ltTotal (a b : XR) : Bool := a.lt b || (a.isZero && b.isZero && a.sign && !b.sign)

/-- FMIN and FMAX of an element (R162). -/
def fminmaxE (F : Fmt) (greater : Bool) (a b : Nat) : Nat :=
  let x := fpVal F a
  let y := fpVal F b
  if x.isNan && y.isNan then F.nan
  else if x.isNan then b
  else if y.isNan then a
  else if greater then (if ltTotal x y then b else a) else (if ltTotal y x then b else a)

/-- FCMP of two FP32 patterns (R163). -/
def fcmpE (cond : FCond) (a b : Nat) : Bool :=
  let x := fpVal .f32 a
  let y := fpVal .f32 b
  let un := x.isNan || y.isNan
  let eq := !un && !x.lt y && !y.lt x
  match cond with
  | .eq => eq
  | .ne => !eq
  | .lt => !un && x.lt y
  | .le => !un && !y.lt x
  | .gt => !un && y.lt x
  | .ge => !un && !x.lt y
  | .unord => un
  | .ord => !un

/-! ### Fixed-point evaluation of the special functions

A real is held as an integer in units of 2^−256 (2^−640 for the reduction of a large angle); every series is
cut where its terms vanish, which leaves an error below 2^−240. -/

/-- One in units of 2^−256. -/
def one256 : Nat := 2 ^ 256

/-- Σ z^(2k+1) / (2k+1) or with alternating signs, from term `t` = z^(2k+1), in units of 1/u. -/
def atanSeries (alt : Bool) (u z2 : Nat) (t k : Nat) : Nat → Int
  | 0 => 0
  | n + 1 =>
    let x : Int := (t / (2 * k + 1) : Nat)
    (if alt && k % 2 == 1 then -x else x) + atanSeries alt u z2 (t * z2 / u) (k + 1) n

/-- ln 2 = 2 atanh(1/3) in units of 2^−256. -/
def ln2Fix : Nat := (2 * atanSeries false one256 (one256 / 9) (one256 / 3) 0 100).toNat

/-- π = 16 atan(1/5) − 4 atan(1/239) in units of 2^−640. -/
def piFix : Nat :=
  let u := 2 ^ 640
  (16 * atanSeries true u (u / 25) (u / 5) 0 150 - 4 * atanSeries true u (u / 57121) (u / 239) 0 50).toNat

/-- Σ y^k / k! from term `t` at k, in units of 2^−256. -/
def expSeries (y : Nat) (t k : Nat) : Nat → Nat
  | 0 => 0
  | n + 1 => t + expSeries y (t * y / one256 / (k + 1)) (k + 1) n

/-- e^y for 0 ≤ y < 1 in units of 2^−256. -/
def expFix (y : Nat) : Nat := expSeries y one256 0 80

/-- Alternating Σ of every second term of the exponential series: the sine's or the cosine's. -/
def trigSeries (y2 : Nat) (t k : Nat) : Nat → Int
  | 0 => 0
  | n + 1 => (t : Int) - trigSeries y2 (t * y2 / one256 / ((k + 1) * (k + 2))) (k + 2) n

/-- Integer square root, digit by digit from bit `b`. -/
def isqrtAux (n : Nat) (r : Nat) : Nat → Nat
  | 0 => r
  | b + 1 => let c := r + 2 ^ b; isqrtAux n (if c * c ≤ n then c else r) b

/-- ⌊√n⌋ of a number below 2^516. -/
def isqrt (n : Nat) : Nat := if n = 0 then 0 else isqrtAux n 0 258

/-- 2^(r / 2^k) of the low `k` bits of `r`, at most 4 units of 2^−256 too small: each bit doubles or not, and a root halves
the exponent. -/
def exp2Frac (r : Nat) : Nat → Nat
  | 0 => one256
  | k + 1 => isqrt ((if r.testBit k then 2 else 1) * exp2Frac r k * one256)

/-- 2^a of a finite a, in units of a power of two, that is no integer (R166). -/
def exp2X (neg : Bool) (num den : Nat) : XR :=
  let n := num / den
  -- a = n + r / den, or −(n + 1) + (den − r) / den
  let (e, r) : Int × Nat := if neg then (-(n : Int) - 1, den - num % den) else ((n : Int), num % den)
  .ofScaled false (2 * exp2Frac r (Nat.log2 den) + 1) (e - 257)

/-- The first `k` bits of log2 of a number from 1 to 2 in units of 2^−1024, and what is left of it: each square doubles the
logarithm. -/
def log2Bits (m : Nat) : Nat → Nat × Nat
  | 0 => (0, m)
  | k + 1 =>
    let (b, x) := log2Bits m k
    let y := x * x / 2 ^ 1024
    if 2 ^ 1025 ≤ y then (2 * b + 1, y / 2) else (2 * b, y)

/-- log2 of a positive rational that is no power of two (R166). -/
def log2X (num den : Nat) : XR :=
  let e := log2Q num den
  let m := if 0 ≤ e then num * 2 ^ 1024 / (den * 2 ^ e.toNat) else num * 2 ^ (-e).toNat * 2 ^ 1024 / den
  let v : Int := e * 2 ^ 201 + 2 * (log2Bits m 200).1 + 1
  .fin (v < 0) v.natAbs (2 ^ 201)

/-- 1/√(num/den): exact where it is, else a value strictly between the same neighbours (R166). -/
def rsqrtX (num den : Nat) : XR :=
  let n := num * den * 2 ^ 512
  let r := isqrtAux n 0 (Nat.log2 n / 2 + 1)
  if r * r = n then .fin false r (num * 2 ^ 256) else .fin false (2 * r + 1) (num * 2 ^ 257)

/-- sin and cos of a rational, in units of 2^−256: exact reduction by multiples of π/2 (R167). -/
def sincosFix (neg : Bool) (num den : Nat) : Int × Int :=
  let a : Int := (if neg then -((num * 2 ^ 640 / den : Nat) : Int) else ((num * 2 ^ 640 / den : Nat) : Int))
  let h : Int := ((piFix / 2 : Nat) : Int)
  let n := (a + h / 2) / h
  let r := a - n * h
  let m := r.natAbs / 2 ^ 384
  let y2 := m * m / one256
  let sn := trigSeries y2 m 1 60
  let sn := if r < 0 then -sn else sn
  let cs := trigSeries y2 one256 0 60
  match (n % 4).toNat with
  | 0 => (sn, cs)
  | 1 => (cs, -sn)
  | 2 => (-sn, -cs)
  | _ => (-cs, sn)

/-- tanh of a rational of magnitude below 10, in units of 2^−256. -/
def tanhFix (neg : Bool) (num den : Nat) : Int :=
  let y := 2 * num * one256 / den
  let e := expFix (y % ln2Fix) * 2 ^ (y / ln2Fix)
  let v : Int := (((e - one256) * one256 / (e + one256) : Nat) : Int)
  if neg then -v else v

/-- R167's bound: |r − f| at most the greater of 2 units in the last place of f and 2^−24, and |r| ≤ 1. `f` is
in units of 2^−256. (DEDUCED, log entry 5) -/
def within (r : Nat) (f : Int) : Bool :=
  match fpVal .f32 r with
  | .fin s n d =>
    let x : Int := (if s then -((n * one256 / d : Nat) : Int) else ((n * one256 / d : Nat) : Int))
    let ulp := if f = 0 then 0 else 2 ^ (Nat.log2 f.natAbs - 23)
    (x - f).natAbs ≤ Nat.max (2 * ulp) (2 ^ 232) && x.natAbs ≤ one256
  | _ => false

/-- The candidate when it meets the bound, else f rounded to nearest (R167, log entry 5). -/
def chosen (cand : Word) (f : Int) : Nat :=
  if within cand.toNat f then cand.toNat else (round .f32 .rne (.fin (f < 0) f.natAbs one256)).1

/-- FRCP (R166). -/
def frcpE (mode : Rnd) (a : Nat) : Nat × Nat :=
  match fpVal .f32 a with
  | .nan => (Fmt.f32.nan, 0)
  | .inf s => round .f32 mode (.fin s 0 1)
  | .fin s n d => if n = 0 then (Fmt.f32.infBits s, DZ) else round .f32 mode (.fin s d n)

/-- FRSQ (R166). -/
def frsqE (mode : Rnd) (a : Nat) : Nat × Nat :=
  match fpVal .f32 a with
  | .nan => (Fmt.f32.nan, 0)
  | .inf s => if s then (Fmt.f32.nan, NV) else (0, 0)
  | .fin s n d =>
    if n = 0 then (Fmt.f32.infBits s, DZ)
    else if s then (Fmt.f32.nan, NV)
    else round .f32 mode (rsqrtX n d)

/-- FEXP2 (R166); far outside the range of FP32 the value is any beyond it, with the same rounding. -/
def fexp2E (mode : Rnd) (a : Nat) : Nat × Nat :=
  match fpVal .f32 a with
  | .nan => (Fmt.f32.nan, 0)
  | .inf s => if s then (0, 0) else (Fmt.f32.infBits false, 0)
  | .fin s n d =>
    if 512 * d ≤ n then round .f32 mode (.ofScaled false 1 (if s then -512 else 512))
    else if n % d = 0 then round .f32 mode (.ofScaled false 1 (if s then -((n / d : Nat) : Int) else (n / d : Nat)))
    else round .f32 mode (exp2X s n d)

/-- FLOG2 (R166). -/
def flog2E (mode : Rnd) (a : Nat) : Nat × Nat :=
  match fpVal .f32 a with
  | .nan => (Fmt.f32.nan, 0)
  | .inf s => if s then (Fmt.f32.nan, NV) else (Fmt.f32.infBits false, 0)
  | .fin s n d =>
    if n = 0 then (Fmt.f32.infBits true, DZ)
    else if s then (Fmt.f32.nan, NV)
    else
      let e := log2Q n d
      let pow2 := if 0 ≤ e then n = d * 2 ^ e.toNat else n * 2 ^ (-e).toNat = d
      if pow2 then round .f32 mode (.fin (e < 0) e.natAbs 1) else round .f32 mode (log2X n d)

/-- A magnitude below 2^−12 (R167). -/
def tiny (n d : Nat) : Bool := n * 4096 < d

/-- FSIN (R167). (DEDUCED, log entry 5) -/
def fsinE (a : Nat) : Nat × Nat :=
  match fpVal .f32 a with
  | .nan => (Fmt.f32.nan, 0)
  | .inf _ => (Fmt.f32.nan, NV)
  | .fin s n d =>
    if n = 0 then (a, 0)
    else if tiny n d then (a, NX)
    else (chosen (Config.sinCandidate (BitVec.ofNat 32 a)) (sincosFix s n d).1, NX)

/-- FCOS (R167). (DEDUCED, log entry 5) -/
def fcosE (a : Nat) : Nat × Nat :=
  match fpVal .f32 a with
  | .nan => (Fmt.f32.nan, 0)
  | .inf _ => (Fmt.f32.nan, NV)
  | .fin s n d =>
    if n = 0 then (0x3F800000, 0)
    else if tiny n d then (0x3F800000, NX)
    else (chosen (Config.cosCandidate (BitVec.ofNat 32 a)) (sincosFix s n d).2, NX)

/-- FTANH (R167). (DEDUCED, log entry 5) -/
def ftanhE (a : Nat) : Nat × Nat :=
  let one (s : Bool) : Nat := if s then 0xBF800000 else 0x3F800000
  match fpVal .f32 a with
  | .nan => (Fmt.f32.nan, 0)
  | .inf s => (one s, 0)
  | .fin s n d =>
    if n = 0 then (a, 0)
    else if tiny n d then (a, NX)
    else if 10 * d ≤ n then (one s, NX)
    else (chosen (Config.tanhCandidate (BitVec.ofNat 32 a)) (tanhFix s n d), NX)

/-! ### Conversion (R168, R169) -/

end Sys2Proof.Machine

namespace Sys2Proof

open Machine

/-- Width of an integer type (R140). -/
def IntTy.bits : IntTy → Nat | .i8 => 8 | .i16 => 16 | .i32 => 32 | .i64 => 64 | .n8 => 8 | .n16 => 16 | .n32 => 32 | .n64 => 64
/-- A signed type. -/
def IntTy.signed : IntTy → Bool | .i8 => true | .i16 => true | .i32 => true | .i64 => true | _ => false
/-- MIN_T (R140). -/
def IntTy.lo (t : IntTy) : Int := if t.signed then -(2 ^ (t.bits - 1) : Nat) else 0
/-- MAX_T (R140). -/
def IntTy.hi (t : IntTy) : Int := if t.signed then (2 ^ (t.bits - 1) : Nat) - 1 else (2 ^ t.bits : Nat) - 1
/-- Sat(r, T) (R140). -/
def IntTy.sat (t : IntTy) (r : Int) : Int := min (max r t.lo) t.hi
/-- Rd of a doubleword whose low bits hold the operand (R106). -/
def IntTy.rd (t : IntTy) (x : DWord) : Int :=
  if t.signed then sextN t.bits x.toNat else ((x.toNat % 2 ^ t.bits : Nat) : Int)
/-- Wr: r mod 2^n, extended to 32 bits, or filling the pair (R106). -/
def IntTy.wr (t : IntTy) (r : Int) : DWord :=
  if t.wide then BitVec.ofInt 64 r
  else if t.signed then (BitVec.ofInt 32 (sextN t.bits (wrapN t.bits r))).zeroExtend 64
  else BitVec.ofNat 64 (wrapN t.bits r)

/-- The integer type of a CVT code. -/
def CvtTy.int : CvtTy → Option IntTy
  | .i8 => some .i8 | .i16 => some .i16 | .i32 => some .i32 | .i64 => some .i64
  | .n8 => some .n8 | .n16 => some .n16 | .n32 => some .n32 | .n64 => some .n64
  | _ => none
/-- The float format of a CVT code. -/
def CvtTy.fmt : CvtTy → Fmt | .f16 => .f16 | .bf16 => .bf16 | _ => .f32

end Sys2Proof

namespace Sys2Proof.Machine

/-- CVT: the result as Wr writes it, and the conditions (R169). -/
def cvtE (dt st : CvtTy) (mode : Rnd) (x : DWord) : DWord × Nat :=
  match st.int, dt.int with
  | some t, some u => (u.wr (u.sat (t.rd x)), 0)
  | some t, none =>
    let r := round dt.fmt mode (.ofInt (t.rd x))
    (BitVec.ofNat 64 r.1, r.2)
  | none, none =>
    let r := round dt.fmt mode (fpVal st.fmt (x.toNat % 2 ^ st.fmt.bits))
    (BitVec.ofNat 64 r.1, r.2)
  | none, some u =>
    match fpVal st.fmt (x.toNat % 2 ^ st.fmt.bits) with
    | .nan => (u.wr 0, NV)
    | .inf s => (u.wr (if s then u.lo else u.hi), NV)
    | .fin s n d =>
      let (q, ex) := roundInt mode s n d
      (u.wr (u.sat q), if q < u.lo || u.hi < q then NV else if ex then 0 else NX)

/-! ### Format slots and block floating point (R146 to R154) -/

/-- KIND of a slot (R148). -/
def slotKind (s : DWord) : Nat := dfld s 0 3
/-- Block size n (R148). -/
def slotN (s : DWord) : Nat := if dfld s 3 1 = 1 then 32 else 16
/-- Mantissa width w (R148). -/
def slotW (s : DWord) : Nat := dfld s 8 4
/-- OUTQ (R148). -/
def slotQ (s : DWord) : Nat := dfld s 12 2
/-- BADJ (R148). -/
def slotBadj (s : DWord) : Int := sextN 6 (dfld s 14 6)
/-- SCALE as a value (R148). -/
def slotScale (s : DWord) : XR := fpVal .f16 (dfld s 48 16)
/-- The element format of a slot that is not BFP (R148). -/
def slotFmt (s : DWord) : Fmt := if slotKind s = 2 then .f16 else if slotKind s = 3 then .bf16 else .f32
/-- Bytes of an element of a slot that is not BFP. -/
def slotBytes (s : DWord) : Nat := if slotKind s = 4 then 4 else 2
/-- M, the bytes of a block's codes (R147). -/
def blockM (n w : Nat) : Nat := n * w / 8
/-- P, the bytes of a block record (R147). -/
def blockP (n w : Nat) : Nat := 4 * ((blockM n w + 1 + 3) / 4)

/-- DecodeBFP of a code and a shared exponent (R146). -/
def decodeCode (w : Nat) (badj : Int) (e code : Nat) : XR :=
  let c := sextN w code
  if e = 0 then .fin false 0 1
  else if e = 255 then
    (if c = (2 ^ (w - 1) : Nat) - 1 then .inf false else if c = -(2 ^ (w - 1) : Nat) then .inf true else .nan)
  else
    .ofScaled (c < 0) c.natAbs ((e : Int) - 127 - badj - (w - 1 : Nat))

/-- Code i of a record (R147). -/
def recCode (w : Nat) (r : List Byte) (i : Nat) : Nat := fld (leNat r) (i * w) w

/-- DecodeBFP(block, i) of a record under a slot (R146). -/
def decodeBfp (slot : DWord) (r : List Byte) (i : Nat) : XR :=
  let w := slotW slot
  decodeCode w (slotBadj slot) (r.getD (blockM (slotN slot) w) 0).toNat (recCode w (r.take (blockM (slotN slot) w)) i)

/-- A packed block: the shared exponent, the codes, and the outliers (index, FP32 pattern) (R153). -/
structure Packed where
  e : Nat
  codes : List Int
  outliers : List (Nat × Nat)
  deriving DecidableEq, Repr

/-- |y| of a finite value as a fraction. -/
def absQ : XR → Nat × Nat | .fin _ n d => (n, d) | _ => (0, 1)

/-- Rnd(y × 2^(w−1−e), INT, mode) of a finite value (R153). -/
def scaledInt (mode : Rnd) (w : Nat) (y : XR) (e : Int) : Int :=
  match y with
  | .fin s n d =>
    let k : Int := (w - 1 : Nat) - e
    if 0 ≤ k then (roundInt mode s (n * 2 ^ k.toNat) d).1 else (roundInt mode s n (d * 2 ^ (-k).toNat)).1
  | _ => 0

/-- fits(i, e) (R153). -/
def fits (mode : Rnd) (w : Nat) (y : XR) (e : Int) : Bool :=
  let r := scaledInt mode w y e
  decide (-((2 ^ (w - 1) : Nat) : Int) ≤ r) && decide (r ≤ ((2 ^ (w - 1) : Nat) : Int) - 1)

/-- |y i| > |y j|, or equal with i lower: the order in which Q takes elements (R153). -/
def before (ys : List XR) (i j : Nat) : Bool :=
  let (a, b) := absQ (ys.getD i .nan)
  let (c, d) := absQ (ys.getD j .nan)
  c * b < a * d || (c * b = a * d && i < j)

/-- The least e from `e` in `n` tries at which every element of S fits, or the last (R153). -/
def leastExp (mode : Rnd) (w : Nat) (ss : List XR) (e : Int) : Nat → Int
  | 0 => e
  | n + 1 => if ss.all fun y => fits mode w y e then e else leastExp mode w ss (e + 1) n

/-- PackBlock (R153). -/
def packBlock (mode : Rnd) (slot : DWord) (xs : List XR) : Packed :=
  let w := slotW slot
  let sc := slotScale slot
  let ys := xs.map fun x => x.div sc
  if ys.any fun y => y.isNan || y.isInf then
    { e := 255
      codes := ys.map fun y =>
        match y with
        | .inf false => (2 ^ (w - 1) : Nat) - 1
        | .inf true => -(2 ^ (w - 1) : Nat)
        | _ => 0
      outliers := [] }
  else if ys.all XR.isZero then { e := 0, codes := ys.map fun _ => 0, outliers := [] }
  else
    let idx := List.range ys.length
    let nz := idx.filter fun i => !(ys.getD i .nan).isZero
    let inQ (i : Nat) : Bool := nz.contains i && (nz.filter fun j => before ys j i).length < slotQ slot
    let s0 := (idx.filter fun i => !inQ i).map fun i => ys.getD i .nan
    let ss := if s0.all XR.isZero then ys else s0
    let elo : Int := 1 - 127 - slotBadj slot
    let e := leastExp mode w ss elo 253
    { e := (e + 127 + slotBadj slot).toNat
      codes := ys.map fun y => if fits mode w y e then scaledInt mode w y e else 0
      outliers := (idx.filter fun i => !fits mode w (ys.getD i .nan) e).map fun i =>
        (i, (round .f32 mode (ys.getD i .nan)).1) }

/-- The block record of R147. -/
def recordBytes (slot : DWord) (p : Packed) : List Byte :=
  let w := slotW slot
  let n := slotN slot
  let m := blockM n w
  let field := (List.range n).foldl (fun acc i => acc + wrapN w (p.codes.getD i 0) * 2 ^ (i * w)) 0
  leBytes m field ++ [BitVec.ofNat 8 p.e] ++ List.replicate (blockP n w - m - 1) 0

end Sys2Proof.Machine
end

