-- ==== Sys2Proof/Machine/Fabric.lean ====
section
/-! DEFINITION. Packets and operations: the settle buffer and injection (R326, R362), delivery in SEQ order
(R322), the results of operations, and what an operation still has to do (R78, R79, R188, R205, R212, R215). -/

namespace Sys2Proof.Machine

/-! ### Atomic functions (R211) -/

/-- op(old, b) of R211 on `n` bits; for CAS, `b` is the new value and `cmp` the comparand. None: no new value. -/
def aopNew (op : AOp) (n old b cmp : Nat) : Option Nat :=
  match op with
  | .add => some ((old + b) % 2 ^ n)
  | .min => some (if sextN n b < sextN n old then b else old)
  | .max => some (if sextN n old < sextN n b then b else old)
  | .minn => some (Nat.min old b)
  | .maxn => some (Nat.max old b)
  | .and => some (old &&& b)
  | .or => some (old ||| b)
  | .xor => some (old ^^^ b)
  | .swap => some b
  | .cas => if old = cmp then some b else none
  | .fadd => some (faddE .f32 .rne old b).1

/-! ### Packets -/

/-- It changes nothing outside its core (R362). -/
def Packet.isRead (p : Packet) : Bool := match p.load with | .read .. => true | .winLoad .. => true | _ => false

/-- It is a window access (R137). -/
def Packet.isWin (p : Packet) : Bool := match p.load with | .winLoad .. => true | .winStore .. => true | _ => false

/-- Two packets touch a common byte of one place; a stamp looks at its whole line (R185, R209). -/
def crosses (p q : Packet) : Bool :=
  let span (p : Packet) : Nat × Nat :=
    match p.load with
    | .read (.stamp _) _ => (canonPa p.pa / 64 * 64, 64)
    | _ => (canonPa p.pa, p.size)
  p.dst == q.dst && overlaps (span p).1 (span p).2 (span q).1 (span q).2

/-- Two packets of one group that keep their issue order: accesses to a common byte, and window accesses to one
neighbour (R138, R185, R221). -/
def inOrder (p q : Packet) : Bool := p.gid == q.gid && (crosses p q || (p.isWin && q.isWin && p.dst == q.dst))

namespace State

/-- Packets of the same source, older than `k`, that have not been injected. -/
def olderHeld (s : State) (k : Nat) (q : Packet) : Store Packet :=
  s.packets.filter fun e => e.1 < k && e.2.held && e.2.src == q.src

/-- Packets in a core's injection queue. -/
def queueOf (s : State) (src : Endpoint) : Nat := ((svals s.packets).filter fun p => p.queued && p.src == src).length

/-- A packet may enter its core's injection queue of 32 entries (R326, R362): a read at once unless it waits for a store
of its bytes in the settle buffer or for an older access that keeps its order; any other once it is 128 cycles old, in
the order of the buffer. (DEDUCED, log entries 10 and 60) -/
def mayQueue (s : State) (k : Nat) (q : Packet) : Bool :=
  let waiting := (s.olderHeld k q).filter fun e => !e.2.queued
  q.held && !q.queued && s.queueOf q.src < 32 &&
    if q.isRead then waiting.all fun e => !((!e.2.isRead && crosses e.2 q) || inOrder e.2 q)
    else q.born + Config.settleCycles ≤ s.clock && waiting.all fun e => e.2.isRead && !(crosses e.2 q) && !(inOrder e.2 q)

/-- Request `q` may be injected before the older request `e` of its queue (R326). (DEDUCED, log entry 60) -/
def mayOvertake (s : State) (q : Packet) (e : Nat × Packet) : Bool :=
  s.pressured e.2.dst && !s.pressured q.dst && canonPa e.2.pa / 64 != canonPa q.pa / 64 && e.2.overtaken < 15
    && q.fence ≤ e.1

/-- A packet of the injection queue may be injected (R326). (DEDUCED, log entry 60) -/
def mayInject (s : State) (k : Nat) (q : Packet) : Bool :=
  q.held && q.queued && !s.pressured q.dst && ((s.olderHeld k q).filter fun e => e.2.queued).all (s.mayOvertake q)

/-- Packet `k` enters the injection queue. -/
def toQueue (s : State) (k : Nat) : State := { s with packets := smod s.packets k fun q => { q with queued := true } }

/-- Inject packet `k`: those of its queue that it overtakes count it (R326). -/
def leaveQueue (s : State) (k : Nat) (q : Packet) : State :=
  let bump (e : Nat × Packet) : Nat × Packet :=
    if e.1 < k && e.2.queued && e.2.src == q.src then (e.1, { e.2 with overtaken := e.2.overtaken + 1 }) else e
  ({ s with packets := s.packets.map bump }).inject k

/-- A packet not yet injected goes as far as it can by itself: a read into the queue, the head of the queue onto the
fabric. -/
def pumpOne (s : State) (k : Nat) : State :=
  match sget s.packets k with
  | none => s
  | some q =>
    let go := q.isRead && s.mayQueue k q
    let s := if go then s.toQueue k else s
    let q := if go then { q with queued := true } else q
    if s.mayInject k q then s.leaveQueue k q else s

/-- Every packet not yet injected goes as far as it can, oldest first. -/
def pump (s : State) : State := (skeysWhere s.packets Packet.held).foldl pumpOne s

/-- Produce a packet, and what goes before it in its stream (R316): one that changes state outside the core is held in the
settle buffer for 128 cycles, a read leaves at once (R326, R362). -/
def produce (s : State) (p : Packet) : State :=
  let enter (s : State) (p : Packet) : State :=
    let k := s.names.pkt
    { s with names := { s.names with pkt := k + 1 }
             packets := sput s.packets k
               { p with born := s.clock, held := true, queued := false, fence := Nat.max p.fence (s.group p.gid).fenceAt } }
  (p.split.foldl enter s).pump

/-- A packet of the settle buffer may leave it now (R362). -/
def canDrain (s : State) (k : Nat) : Bool := (sget s.packets k).any fun q => s.mayQueue k q

/-- A packet leaves the settle buffer (R326, R362). -/
def drain (s : State) (k : Nat) : State := (s.toQueue k).pump

/-- A fence, a release or a barrier arrival of a group stands between its packets so far and those to come (R326). -/
def fenceNow (s : State) (gid : Nat) : State :=
  let k := s.names.pkt
  s.modGroup gid fun g => { g with fenceAt := k }

/-- The packet `k` when it is the next its destination delivers: the least SEQ of its stream (R322). Nothing reaches a
destination whose router is dead, and a packet on ESC follows the detour entries round the dead routers it meets (R324). -/
def deliverable (s : State) (k : Nat) : Option Packet :=
  match sget s.packets k with
  | none => none
  | some p =>
    if !p.held && !s.atDead p.dst && (!p.esc || s.ledRound p.src p.dst) && (svals s.packets).all fun q =>
        !(!q.held && q.src == p.src && q.dst == p.dst && q.vc == p.vc) || p.seq ≤ q.seq then some p
    else none

/-- The head of a stream has come to the front now (R324). -/
def frontNow (s : State) (p : Packet) : State :=
  let c := s.clock
  { s with packets := s.packets.map fun e =>
      if e.2.src == p.src && e.2.dst == p.dst && e.2.vc == p.vc && (s.deliverable e.1).isSome then (e.1, { e.2 with since := c }) else e }

/-- Take a delivered packet off the fabric. -/
def take (s : State) (k : Nat) (p : Packet) : State :=
  ((({ s with packets := sdel s.packets k }).frontNow p).pressurize p.dst).pump

/-! ### Operations -/

/-- An operation of a group. -/
def opOf (s : State) (gid oid : Nat) : Option Op := (s.group gid).ops.find? fun o => o.oid == oid

/-- Change an operation. -/
def modOp (s : State) (gid oid : Nat) (f : Op → Op) : State :=
  s.modGroup gid fun g => { g with ops := g.ops.map fun o => if o.oid == oid then f o else o }

end State

/-- The registers a result goes to, each with the word of it that it receives. -/
def destWords (d : Reg × Bool) (x : DWord) : List (Reg × Word) :=
  let lo := x.extractLsb' 0 32
  let hi := x.extractLsb' 32 32
  match d with
  | (.v n, w) => (.v n, lo) :: if w then [(.v (n + 1), hi)] else []
  | (.s n, w) => (.s n, lo) :: if w then [(.s (n + 1), hi)] else []
  | _ => []

namespace State

/-- A hazard touches a register at some of these places. -/
def touches (h : Hazard) (r : Reg) (ps : List Nat) : Bool := h.reg == r && h.places.any ps.contains

/-- Later instructions write these registers of an operation's result, by place, at these cycles (R51). -/
def lose (s : State) (gid oid : Nat) (l : List (Reg × Nat × Nat)) : State :=
  s.modOp gid oid fun o => { o with lost := o.lost ++ l }

/-- Write one register at a place: a lane for a v register, a slice for an s register. -/
def wrReg (s : State) (gid p : Nat) (r : Reg) (x : Word) : State :=
  match r with
  | .v n => s.wrV gid p n x
  | .s n => s.wrS gid p n x
  | _ => s

/-- Write an UNDEFINED value to one register at a place (R2). -/
def freeReg (s : State) (gid p : Nat) (r : Reg) : State :=
  let (w, s) := s.freeWord
  s.wrReg gid p r w

/-- The last cycle at which a later instruction writes a register of an operation's result at a place. -/
def lostAt (o : Op) (r : Reg) (p : Nat) : Option Nat :=
  ((o.lost.filter fun x => x.1 == r && x.2.1 == p).map fun x => x.2.2).max?

/-- Write one register of an arriving result at a place (R51): a later instruction's result that is written by then stays
if it is written no earlier, else the register is UNDEFINED; and it is UNDEFINED where an earlier instruction's is still
to be written at a known cycle. A result still to come with none is noted as overtaken. -/
def landWord (s : State) (gid p : Nat) (o : Op) (r : Reg) (x : Word) : State :=
  match lostAt o r p with
  | some t => if s.clock ≤ t then s else s.freeReg gid p r
  | none =>
    let open_ := (s.group gid).hazards.filter fun h => h.ready.isNone && h.oid < o.oid && touches h r [p]
    let s := open_.foldl (fun s h => s.lose gid h.oid [(r, p, s.clock)]) s
    if o.olds.any fun h => touches h r [p] && h.ready.any fun t => s.clock < t then s.freeReg gid p r
    else s.wrReg gid p r x

/-- Write the arriving result of an operation at a place (R51). -/
def land (s : State) (gid oid at_ : Nat) (x : DWord) : State :=
  match s.opOf gid oid with
  | none => s
  | some o => ((o.dest.map fun d => destWords d x).getD []).foldl (fun s w => s.landWord gid at_ o w.1 w.2) s

end State

/-- The bytes of a load as the destination receives them (R136, R206). -/
def loadVal (size : Nat) (sx : Bool) (bs : List Byte) : DWord :=
  let n := leNat bs
  if size = 8 then BitVec.ofNat 64 n
  else if sx && size < 4 then (BitVec.ofInt 32 (sextN (8 * size) n)).zeroExtend 64
  else BitVec.ofNat 64 n

namespace State

/-- A packet of an access of group `gid`; an atomic's carries the Sundial as it stands at issue (R319). (DEDUCED, log entries
13 and 59; DESIGN CHOICE, log entry 79) -/
def accessPacket (s : State) (gid oid : Nat) (a : Access) (load : Payload) : Packet :=
  let t := s.team (tidOf gid)
  { Packet.plain (.core t.core) (homeEnd a.pa) 0 load with
    ctx := t.ctx, ptag := t.part, tid := tidOf gid, gid := gid, oid := oid, lane := a.lane, pa := a.pa, size := a.size
    bytes := a.data, group := a.group, level := (s.group gid).level
    ts := match load with | .atomic .. => s.sundial | _ => 0 }

end State

/-- STATE of the readiness summary (R369). -/
def stateCode : ModState → Nat
  | .off => 0 | .standby => 1 | .verify => 2 | .boot => 3 | .held => 4 | .service => 5 | .evacuating => 6 | .unlatch => 7

namespace State

/-! ### Device registers (R178) -/

/-- The readiness summary (R369). -/
def readiness (s : State) : Nat :=
  let d := s.dev
  let cols := (List.range 18).foldl (fun a p => if d.colsReady.contains p then a + 2 ^ p else a) 0
  stateCode d.st * 2 ^ 60 + d.chansReady.length * 2 ^ 36 + d.parksReady.length * 2 ^ 28 + cols * 2 ^ 10

/-- Put the bytes that a write enables into a page of bytes. -/
def putBytes (m : Store Byte) (off : Nat) (bytes : List (Option Byte)) : Store Byte :=
  (List.range bytes.length).foldl (fun m i => match bytes.getD i none with | some b => sputD 0 m (off + i) b | none => m) m

/-- Where the readiness summary has changed, the Gazebo reports it on the bus, and PF0 has an interrupt (R369, R380). -/
def tellReady (old s : State) : State :=
  if s.readiness = old.readiness then s else (s.emit (.readiness s.readiness)).emit (.irq 0 1)

/-- Change entry `n` of a list, made longer with `d` where it is too short. -/
def setAt {α : Type} (l : List α) (d : α) (n : Nat) (x : α) : List α := (l ++ List.replicate (n + 1 - l.length) d).set n x

/-- Bytes of a device register whose content the manual gives, with layouts of the model's where it gives none. (DESIGN
CHOICE, log entry 45) -/
def regBytes (s : State) : Config.DevReg → List Byte
  | .mcast p n => leBytes 16 (sgetD (s.part p).mcast n 0).toNat
  | .testInterval => leBytes 8 s.dev.testInterval
  | .readiness => leBytes 8 s.readiness
  | .ctxRange p => leBytes 4 (s.part p).ctxRange.toNat
  | .mailbox => (List.range 4096).map fun i => sgetD s.dev.mailbox i 0
  | .evacEnable => leBytes 4 (if s.dev.evacEnabled then 1 else 0)
  | .hostRange n => leBytes 8 (s.dev.hostRanges.getD n (0, 0)).1 ++ leBytes 8 (s.dev.hostRanges.getD n (0, 0)).2
  | .cxlWindow n =>
    let w := s.dev.windows.getD n (0, 0, false)
    leBytes 8 w.1 ++ leBytes 8 w.2.1 ++ leBytes 8 (if w.2.2 then 1 else 0)
  | .bar2 p => leBytes 4 ((if (s.part p).bar2 then 1 else 0) + (s.part p).bar2Bits * 2 ^ 8)
  | .cxlRange n => leBytes 8 (s.dev.cxlRanges.getD n (0, 0)).1 ++ leBytes 8 (s.dev.cxlRanges.getD n (0, 0)).2
  | .coords => leBytes 8 (devCode s.dev.coords)
  | .switchFold g => leBytes 4 (if s.dev.switchFolds.contains g then 1 else 0)
  | _ => []

/-- Write bytes at byte `off` of a device register, at a privilege level and for the writer's partition: Fjondan writes the
multicast tables, TEST.INTERVAL, what it configures for the host, the system's assignment of coordinates and the groups folded
in a switch, and its message in the mailbox raises an interrupt; a supervisor writes its own partition's CTX.RANGE; reserved
bits stay 0 (R3, R329, R331, R333, R365, R369, R377 to R380). -/
def regWrite (s : State) (level : Level) (part : Nat) (r : Config.DevReg) (off : Nat) (bytes : List Byte) : State :=
  let old := s.regBytes r
  let x := leNat (old.take off ++ bytes ++ old.drop (off + bytes.length))
  match r with
  | .mcast p n =>
    let keep := 2 ^ 127 + (2 ^ 12 - 1) * 2 ^ 99 + (2 ^ 22 - 1) * 2 ^ 64 + (2 ^ 44 - 1)
    if level == .l2 && n < 2048 then s.modPart p fun q => { q with mcast := sput q.mcast n (BitVec.ofNat 128 (x &&& keep)) } else s
  | .testInterval => if level == .l2 then s.modDev fun d => { d with testInterval := x % 2 ^ 64 } else s
  | .ctxRange p =>
    if level == .l2 || (level == .l1 && part = p) then s.modPart p fun q => { q with ctxRange := BitVec.ofNat 32 (x &&& 0x0FFF0FFF) } else s
  | .mailbox =>
    if level == .l2 then
      (s.modDev fun d => { d with mailbox := putBytes d.mailbox off ((bytes.take (4096 - off)).map some) }).emit (.irq 0 0)
    else s
  | .evacEnable => if level == .l2 then s.modDev fun d => { d with evacEnabled := x % 2 = 1 } else s
  | .hostRange n =>
    if level == .l2 then s.modDev fun d => { d with hostRanges := setAt d.hostRanges (0, 0) n (x % 2 ^ 64, x / 2 ^ 64 % 2 ^ 64) } else s
  | .cxlWindow n =>
    if level == .l2 && n < 16 then
      s.modDev fun d => { d with windows := setAt d.windows (0, 0, false) n (x % 2 ^ 64, x / 2 ^ 64 % 2 ^ 64, x / 2 ^ 128 % 2 = 1) }
    else s
  | .bar2 p =>
    let bits := x / 2 ^ 8 % 2 ^ 8
    if level == .l2 && (s.part p).live && 30 ≤ bits && bits ≤ 44 then
      s.modPart p fun q => { q with bar2 := x % 2 = 1, bar2Bits := bits }
    else s
  | .cxlRange n =>
    if level == .l2 then s.modDev fun d => { d with cxlRanges := setAt d.cxlRanges (0, 0) n (x % 2 ^ 64, x / 2 ^ 64 % 2 ^ 64) } else s
  | .coords =>
    if level == .l2 then s.modDev fun d => { d with coords := (x / 2 ^ 14 % 2 ^ 8, x / 2 ^ 7 % 2 ^ 7, x % 2 ^ 7) } else s
  | .switchFold g =>
    if level == .l2 then
      s.modDev fun d => { d with switchFolds := (d.switchFolds.filter fun n => n != g) ++ if x % 2 = 1 then [g] else [] }
    else s
  | _ => s

/-- Free bytes, at most 32. (DESIGN CHOICE, log entry 3) -/
def freeBytes (s : State) (n : Nat) : List Byte × State :=
  let (x, s) := s.freeWord
  let (y, s) := s.freeWord
  let b := bytesOf [y ++ x]
  ((b ++ b ++ b ++ b).take n, s)

/-- The bytes of a device register at an address, as a read of `n` of them returns them: free ones where the manual gives
none (R178). (DESIGN CHOICE, log entry 45) -/
def regRead (s : State) (pa n : Nat) : List Byte × State :=
  let r := Config.devReg (canonPa pa)
  let known := ((s.regBytes r.1).drop r.2).take n
  if known.length = n then (known, s) else s.freeBytes n

/-- A write of bytes at a device register's address: of a register the manual does not describe it is what the outside sees
(R178). (DESIGN CHOICE, log entry 45) -/
def regStore (s : State) (level : Level) (part pa : Nat) (bytes : List Byte) : State :=
  let r := Config.devReg (canonPa pa)
  match r.1 with
  | .other => s.emit (.devWrite pa bytes)
  | k => s.regWrite level part k r.2 bytes

/-- A store through a core's window by a system core, for the context that SYS.CTXSEL names: the core and the byte of its
window (R58, R320). (DEDUCED, log entry 40) -/
def windowOf (s : State) (gid : Nat) (act : Act) (pa : Nat) : Option (Nat × Nat) :=
  match act, Config.devReg (canonPa pa) with
  | .store, (.window cid, off) => if devRegBase ≤ canonPa pa && isSys (s.team (tidOf gid)).core then some (cid, off) else none
  | _, _ => none

/-- What the open transaction of a group, if any, holds of the line of an address: S_x and its bytes (R186, R193).
(DEDUCED, log entry 13) -/
def txBytes (s : State) (gid pa : Nat) : Option (Nat × Store Byte) :=
  (s.group gid).tx.map fun t => (t.sx, t.writes.filter fun e => e.1 / 64 == canonPa pa / 64)

/-- Send one access; a packet through a core's window goes to that core (R58, R317). (DEDUCED, log entry 59) -/
def sendAccess (s : State) (gid oid : Nat) (act : Act) (a : Access) : State :=
  let load : Payload :=
    match act with
    | .load _ => .read act (s.txBytes gid a.pa)
    | .stamp _ => .read act (s.txBytes gid a.pa)
    | .tileIn _ _ => .read act (s.txBytes gid a.pa)
    | .fill => .read act (s.txBytes gid a.pa)
    | .store => .write
    | .atomic op => .atomic op a.cmp
    | .reduce op => .reduce op
  let p := s.accessPacket gid oid a load
  let p :=
    match s.windowOf gid act a.pa with
    | some (cid, off) =>
      { p with dst := .core cid, load := .ctrl ((s.core (s.team (tidOf gid)).core).ctxsel.toNat % 2 ^ 12) off }
    | none => p
  (s.produce p).modOp gid oid fun o => { o with wait := o.wait + 1 }

end State

/-! ### Multicast windows (R181, R331, R332) -/

/-- The box of a collective record or of a multicast group: ox, oy, oz and the extents less one (R265). -/
def boxOf (d : Nat) : (Nat × Nat × Nat) × (Nat × Nat × Nat) :=
  ((fld d 0 8, fld d 16 7, fld d 30 7), (fld d 8 8, fld d 23 7, fld d 37 7))

/-- Device coordinates lie in a multicast group's member set (R331). -/
def isMember (e : BitVec 128) (p : Nat × Nat × Nat) : Bool :=
  let n := e.toNat
  let b := boxOf (fld n 0 44)
  let ax (o x step md p : Nat) : Bool := (List.range (x + 1)).any fun i => (o + i * step) % md = p
  ax b.1.1 b.2.1 (fld n 64 8) 256 p.1 && ax b.1.2.1 b.2.2.1 (fld n 72 7) 128 p.2.1
    && ax b.1.2.2 b.2.2.2 (fld n 79 7) 128 p.2.2

/-- Direction in which a packet leaves a device for another: 0 +x, 1 −x, 2 +y, 3 −y, 4 +z, 5 −z (R329, R330). -/
def towards (a b : Nat × Nat × Nat) : Nat :=
  if a.1 != b.1 then ringWay 256 a.1 b.1
  else if a.2.1 != b.2.1 then 2 + ringWay 128 a.2.1 b.2.1
  else 4 + ringWay 128 a.2.2 b.2.2

/-- The members of a multicast group (R331). -/
def membersOf (e : BitVec 128) : List (Nat × Nat × Nat) :=
  let n := e.toNat
  let b := boxOf (fld n 0 44)
  let ax (o x step md : Nat) : List Nat := ((List.range (x + 1)).map fun i => (o + i * step) % md).eraseDups
  (ax b.1.2.2 b.2.2.2 (fld n 79 7) 128).flatMap fun z => (ax b.1.2.1 b.2.2.1 (fld n 72 7) 128).flatMap fun y =>
    (ax b.1.1 b.2.1 (fld n 64 8) 256).map fun x => (x, y, z)

namespace State

/-- A launch makes an export, with its sequence number (R366). -/
def noteEsn (s : State) (tid esn : Nat) : State :=
  let t := s.team tid
  if isSys t.core then s else s.modLaunch t.launch fun L => { L with exports := L.exports ++ [(esn, s.clock)] }

/-- Some col port of the bundle towards a device is up (R329, R369). -/
def bundleUp (s : State) (d : Nat × Nat × Nat) : Bool :=
  let k := towards s.dev.coords d
  [3 * k, 3 * k + 1, 3 * k + 2].any s.dev.colsReady.contains

/-- Something leaves the device: where it is an export of a team, with a sequence number taken now (R366). -/
def leave (s : State) (team : Option Nat) (o : Out) : State :=
  match team with
  | some tid =>
    let (esn, s) := s.takeTs
    (s.noteEsn tid esn).emit o
  | none => s.emit o

/-- Something leaves for another device, or waits for a ready port of its bundle (R369). -/
def sendOut (s : State) (d : Nat × Nat × Nat) (team : Option Nat) (o : Out) : State :=
  if s.bundleUp d then s.leave team o else s.modDev fun v => { v with ports := v.ports ++ [(d, team, o)] }

/-- The outer flit of a packet that leaves this device for another (R330). -/
def outer (s : State) (d : Nat × Nat × Nat) : Nat := outerFlit 0 s.dev.coords d

/-- A copy leaves the device once a port of its bundle is up: an export; its acceptance at the member comes back as an
acknowledgement, but of one that takes 255 hops none comes (R187, R330, R332, R366). (DESIGN CHOICE, log entry 63) -/
def sendCopy (s : State) (k : Nat) : State :=
  match sget s.copies k with
  | some c =>
    if c.sent || !s.bundleUp c.dev then s
    else
      let t := s.team c.tid
      let s := { s with copies := sput s.copies k { c with sent := true } }
      let s := s.leave (some c.tid) (.multicast (s.outer c.dev) k c.group t.part c.pa c.op c.bytes)
      if tooFar s.dev.coords c.dev then s
      else s.sendNow { Packet.plain (.io 0) (.core t.core) 1 (.ackCopy k) with ctx := t.ctx, ptag := t.part, tid := c.tid }
  | none => s

/-- Enter a copy for member `d`. -/
def addCopy (s : State) (c : Copy) : State :=
  let k := s.names.copy
  ({ s with names := { s.names with copy := k + 1 }, copies := sput s.copies k c }).sendCopy k

/-- A store or reduction through a multicast window goes to every other member, once each (R181, R332). -/
def sendCopies (s : State) (tid : Nat) (group : Option Nat) (pa : Nat) (op : Option AOp) (bytes : List Byte) : State :=
  match group with
  | none => s
  | some g =>
    let e := sgetD (s.part (s.team tid).part).mcast g 0
    ((membersOf e).filter fun d => d != s.dev.coords).foldl (fun s d => s.addCopy ⟨tid, d, g, pa, op, bytes, none, false⟩) s

/-- A port has become ready: what waited for it leaves, in order (R369). -/
def flushPorts (s : State) : State :=
  let go := s.dev.ports.filter fun p => s.bundleUp p.1
  let s := s.modDev fun v => { v with ports := v.ports.filter fun p => !s.bundleUp p.1 }
  let s := go.foldl (fun s p => s.leave p.2.1 p.2.2) s
  (skeys s.copies).foldl sendCopy s

/-! ### Commits (R187, R188, R193, R200) -/

/-- Open a release of a team (R188). (DEDUCED, log entry 30) -/
def openRelease (s : State) (tid : Nat) (gid : Option Nat) (scope : Scope) (purpose : RelFor) : Nat × State :=
  let k := s.names.rel
  (k, { s with names := { s.names with rel := k + 1 }
               rels := sput s.rels k { tid := tid, gid := gid, scope := s.scopeOf tid scope, st := .waiting, ts := 0, txOf := none, purpose := purpose } })

/-- The launch runs in rollback mode (R200). -/
def rollsBack (L : Launch) : Bool := dfld (L.record.getD 7 0) 32 32 != 0 && !L.nonReplay

/-- A launch becomes non-replayable: its pins are released (R200). -/
def dropPins (s : State) (lid : Nat) : State :=
  let s := s.modLaunch lid fun L => { L with nonReplay := true, pins := [] }
  { s with orangery := s.orangery.map fun e =>
      (e.1, e.2.map fun v => if v.pin == some lid then { v with pin := none } else v) }

/-- A SYSTEM-scope release of a launch (R200, R366). -/
def noteExport (s : State) (tid ts : Nat) : State :=
  let s := s.noteEsn tid ts
  if rollsBack (s.launch (s.team tid).launch) then s.dropPins (s.team tid).launch else s

/-- Install bytes of a team as versions at `ts`; the first commit of a rollback launch to a line pins the version
it replaces, and too many pins end its rollback (R183, R200). -/
def commitTeam (s : State) (tid ts : Nat) (l : Store Byte) : State :=
  let s := s.noteOutside ts l
  let lid := (s.team tid).launch
  let L := s.launch lid
  if rollsBack L then
    let ls := linesOf l
    let fresh := ls.filter fun x => !L.pins.contains x
    let isFresh := fun (p : Nat × Byte) => fresh.contains (canonPa p.1 / 64)
    let s := s.commitAt ts (some lid) (l.filter isFresh)
    let s := s.commitAt ts none (l.filter fun p => !isFresh p)
    let pins := L.pins ++ fresh
    let s := s.modLaunch lid fun L => { L with pins := pins, commits := (L.commits ++ ls.map fun x => (x, ts)).eraseDups }
    if dfld (L.record.getD 7 0) 32 32 < pins.length then s.dropPins lid else s
  else s.commitAt ts none l

/-- Bytes a team has committed at `ts` stay in its view while its snapshot is older (R186). -/
def toOverlay (s : State) (tid ts : Nat) (l : Store (Byte × Nat)) : State :=
  s.modTeam tid fun t =>
    if tsLe ts t.snap then t
    else { t with overlay := l.foldl (fun m (p : Nat × Byte × Nat) => sput m p.1 (p.2.1, ts, p.2.2)) t.overlay }

/-- Apply a reduction at its home: the newest version is changed in place, without a timestamp (R195). -/
def redAt (s : State) (pa n : Nat) (op : AOp) (b : Nat) : State :=
  match aopNew op (8 * n) (leNat (s.newests pa n)) b 0 with
  | some x => { s with mem := (cellsAt pa (leBytes n x)).foldl (fun m (p : Nat × Byte) => mwrite m (canonPa p.1) p.2) s.mem }
  | none => s

/-- The multicast copies a team has sent become outside work of its release at `ts` (R187). -/
def copiesOut (s : State) (tid ts : Nat) : State :=
  let ks := skeysWhere s.copies fun c => c.tid == tid && c.ts.isNone
  { s with
    outside := s.outside ++ ks.map fun k => (ts, Outside.multicast k)
    copies := s.copies.map fun e => if ks.contains e.1 then (e.1, { e.2 with ts := some ts }) else e }

/-- A release takes its timestamp and the whole pending set: the timestamp, the bytes and the state (R187, R188 steps 3
and 4, R366). -/
def takePending (s : State) (tid : Nat) (scope : Scope) : Nat × Store Byte × State :=
  let (ts, s) := s.takeTs
  let t := s.team tid
  let s := s.toOverlay tid ts t.pending
  let s := (s.modTeam tid fun t => { t with pending := [] }).copiesOut tid ts
  (ts, t.pending.map fun p => (p.1, p.2.1), if scope == .system then s.noteExport tid ts else s)

/-- An earlier commit to the same line is still on its way: versions of a line are installed in timestamp order.
(DEDUCED, log entry 53) -/
def earlierCommit (s : State) (p : Packet) : Bool :=
  (svals s.packets).any fun q =>
    (match q.load with | .commit _ => true | _ => false) && q.pa / 64 == p.pa / 64 && !tsLe p.ts q.ts

/-- The bytes a commit writes. -/
def commitCells (p : Packet) : Store Byte :=
  ((List.range p.size).filter fun i => p.lane.testBit i).map fun i => (p.pa + i, p.bytes.getD i 0)

/-- A release all of whose commits are installed is complete; one nobody waits for is forgotten. -/
def relInstalled (s : State) (r : Nat) : State :=
  if (svals s.packets).any fun q => q.load == .commit (some r) then s
  else
    match sget s.rels r with
    | some x => { s with rels := if x.purpose == .device then sdel s.rels r else sput s.rels r { x with st := .complete } }
    | none => s

/-- The commit packets of a release: one for each sector it writes, through the core's settle buffer; none of
them overtakes what stands before the release (R188, R319, R326, R362). -/
def sendCommits (s : State) (tid rel ts : Nat) (l : Store Byte) : State :=
  let t := s.team tid
  (sectorsOf l).foldl (fun s sec =>
    let m := sectorMask l sec
    s.produce
      { Packet.plain (.core t.core) (homeEnd (sec * 32)) 0 (.commit (some rel)) with
        ctx := t.ctx, ptag := t.part, tid := tid, pa := sec * 32, size := 32, bytes := m.2, lane := m.1, ts := ts, fence := s.names.pkt }) s

/-- An atomic of the core is on its way to a home that a commit of these bytes would write: the commit takes its
timestamp after it, so that versions of a line are installed in timestamp order (R183, R322). -/
def atomicAhead (s : State) (tid : Nat) (l : List Nat) : Bool :=
  let homes := (l.map homeOf).eraseDups
  (svals s.packets).any fun p =>
    p.src == .core (s.team tid).core && (match p.load with | .atomic _ _ => true | _ => false) && homes.contains (homeOf p.pa)

/-- Every version the team has observed is visible at a scope (R188 step 2). -/
def seenAt (s : State) (tid : Nat) (scope : Scope) : Bool := scope == .team || tsLe (s.team tid).snap (s.horizon tid scope)

/-- An operation that R188 waits for: an access, or a fence or commit still under way; engine commands are not
waited for (R215). -/
def isAccess (o : Op) : Bool := match o.ctr with | some .copies => false | some _ => true | none => o.blocks

/-- Every memory access the group issued before operation `oid` is performed (R188 step 1). -/
def earlierDone (s : State) (gid oid : Nat) : Bool :=
  (s.group gid).ops.all fun o => oid ≤ o.oid || o.done || !isAccess o

/-- Every memory access the group issued is performed. (DEDUCED, log entry 16) -/
def allPerformed (s : State) (gid : Nat) : Bool := (s.group gid).ops.all fun o => o.done || !isAccess o

/-- A release is complete: visible at its scope (R187, R188): for its own cluster once its commits have left the core's
settle buffer, installed, or at SYSTEM scope coherent with the outside. -/
def relDone (s : State) (k : Nat) : Bool :=
  match sget s.rels k with
  | some r =>
    (r.st == .complete || (r.st == .committing && r.scope == .cluster && (s.scopeCluster r.tid).isSome && s.staged k))
      && (r.scope != .system || tsLe r.ts s.hSys)
  | none => true

/-- Nobody waits for a release any more; one still being installed goes on by itself (R188). -/
def forgetRel (s : State) (k : Nat) : State :=
  match sget s.rels k with
  | some r =>
    if r.st == .complete then { s with rels := sdel s.rels k }
    else { s with rels := sput s.rels k { r with purpose := .device } }
  | none => s
/-- Timestamp of a release. -/
def relTs (s : State) (k : Nat) : Nat := match sget s.rels k with | some r => r.ts | none => 0

/-- A command of an engine or of a matrix sequencer is still to end. -/
def cmdOpen (s : State) (k : Nat) : Bool := (sget s.cmds k).isSome || (sget s.mcmds k).isSome

/-- Perform the stages of an operation as far as they go. -/
def runStages (s : State) (gid oid : Nat) : Nat → State
  | 0 => s
  | n + 1 =>
    match s.opOf gid oid with
    | none => s
    | some o =>
      let pop (s : State) : State := s.modOp gid oid fun o => { o with stages := o.stages.drop 1 }
      let tid := tidOf gid
      match o.stages with
      | [] => s
      | .send act l :: _ => runStages (pop (l.foldl (fun s a => s.sendAccess gid oid act a) s)) gid oid n
      | .await :: _ => if o.wait = 0 then runStages (pop s) gid oid n else s
      | .release scope :: rest =>
        if !s.earlierDone gid oid then s
        else if scope == .team then runStages (pop (s.fenceNow gid)) gid oid n
        else
          let (k, s) := (s.fenceNow gid).openRelease tid (some gid) scope (.op gid oid)
          s.modOp gid oid fun o => { o with stages := .awaitRel k :: rest }
      | .awaitRel k :: _ =>
        if s.relDone k then
          let c := s.relTs k
          runStages (pop ((s.forgetRel k).modOp gid oid fun o => { o with relTs := c })) gid oid n
        else s
      | .horizon scope sc :: _ =>
        let need := if sc && o.tmax.isSome then o.tmax else o.vmax
        if scope == .team || need.all fun t => tsLe t (s.horizon tid scope) then runStages (pop s) gid oid n else s
      | .horizonRel scope :: _ =>
        if scope == .team || tsLe o.relTs (s.horizon tid scope) then runStages (pop s) gid oid n else s
      | .acquire scope :: _ => runStages (pop (s.acquire tid scope)) gid oid n
      | .awaitCmd k :: _ => if s.cmdOpen k then s else runStages (pop s) gid oid n
      | .awaitResult :: _ => s
      | .awaitStream q :: _ =>
        if s.mcmds.any fun e => e.2.seqr == q then s else runStages (pop s) gid oid n
      | .awaitVacate l :: _ =>
        if l.any fun c => (s.cluster c).vacating.isSome then s else runStages (pop s) gid oid n
      | .awaitKill c :: _ => if (s.ctx c).killing.isNone then runStages (pop s) gid oid n else s
      | .awaitOps l :: _ =>
        if l.any fun p => (s.opOf p.1 p.2).any fun o => !o.done then s else runStages (pop s) gid oid n

/-- Take places out of a hazard; none when none is left. -/
def cutPlaces (h : Hazard) (gone : Nat → Bool) : Option Hazard :=
  let ps := h.places.filter fun p => !gone p
  if ps.isEmpty then none else some { h with places := ps }

/-- A group's hazards once operation `o` has written its result at cycle `c`: nothing is left of it where a later
instruction's is written no earlier, nor of an earlier one that it has replaced (R51). -/
def resultDue (o : Op) (c : Nat) (hs : List Hazard) : List Hazard :=
  let own := hs.filter fun h => h.oid == o.oid && h.ready.isNone
  hs.filterMap fun h =>
    if own.contains h then cutPlaces { h with ready := some c } fun p => (lostAt o h.reg p).any fun t => c ≤ t
    else if h.oid < o.oid && h.ready.any (· ≤ c) then cutPlaces h fun p => own.any fun n => n.reg == h.reg && n.places.contains p
    else some h

/-- Note an operation that has nothing left to do as done: its flag clears and its result is written (R50). -/
def finishOp (s : State) (gid oid : Nat) : State :=
  match s.opOf gid oid with
  | some o =>
    if o.stages.isEmpty && o.wait = 0 && !o.done then
      let c := s.clock
      (s.modOp gid oid fun o => { o with done := true }).modGroup gid fun g =>
        { g with hazards := resultDue o c g.hazards }
    else s
  | none => s

end State

/-- Operations left when done ones are counted in issue order (R78). -/
def retired (ops : List Op) : List Op :=
  ops.filter fun o => !(o.done && (o.ctr.isNone || ops.all fun q => !(q.ctr == o.ctr && q.oid < o.oid && !q.done)))

namespace State

/-- Settle one group's operations. -/
def settleGroup (s : State) (gid : Nat) : State :=
  let s := ((s.group gid).ops.map Op.oid).foldl (fun s oid => (s.runStages gid oid 16).finishOp gid oid) s
  let s := s.tryRestarts gid
  if (s.group gid).ops.all fun o => !o.done then s
  else s.modGroup gid fun g => { g with ops := retired g.ops }

/-- Settle every group's operations: what an event may have let go on. -/
def settle (s : State) : State :=
  (skeysWhere s.groups fun g => !g.ops.isEmpty).foldl (fun s gid => s.settleGroup gid) s

/-- One answer has come for an operation. -/
def answered (s : State) (gid oid : Nat) : State := s.modOp gid oid fun o => { o with wait := o.wait - 1 }

end State

end Sys2Proof.Machine
end

