-- ==== Sys2Proof/Machine/Teams.lean ====
section
/-! DEFINITION. Teams and their resources: how a team leaves a core, and what an uncorrectable error does to a
launch (R190, R200, R242, R339). -/

namespace Sys2Proof.Machine

/-! ### Accumulator tiles (R240 to R242) -/

namespace State

/-- What a team's age compares by (R241). -/
def accAge (s : State) (tid : Nat) : List Nat :=
  let t := s.team tid
  let c := s.cluster t.cluster
  [t.born, (s.launch t.launch).ident, c.cz, c.cy, c.cx, t.ty, t.tx, t.twin]

/-- Physical tiles of a core that no team holds. -/
def accFree (s : State) (cid : Nat) : List Nat :=
  let used := (s.teamsOn cid).flatMap fun t => svals (s.team t).acc
  (List.range 64).filter fun p => !used.contains p

/-- First key of a physical accumulator tile's elements, and of its rows. -/
def accKey (cid p : Nat) : Nat := (cid * 64 + p) * 1024
/-- First key of a tile's side values. -/
def sideKey (cid p : Nat) : Nat := (cid * 64 + p) * 32

/-- Make a tile read +0 in every element, MAX −Inf and SUM +0 (R279, R281). -/
def clearTile (s : State) (cid p : Nat) : State :=
  { s with
    acc := s.acc.filter fun e => e.1 / 1024 != cid * 64 + p
    side := (List.range 32).foldl (fun m r => sput m (sideKey cid p + r) ((0xFF800000 : Word), (0 : Word))) s.side
    arrPoison := s.arrPoison.filter fun x => !(accArr (accKey cid p) ≤ 32 * x && 32 * x + 32 ≤ accArr (accKey cid p) + 4096) }

/-- Grant `n` tiles to a team: the lowest tile numbers it does not hold, and their mask (R241). -/
def grantTiles (s : State) (tid n : Nat) : DWord × State :=
  let t := s.team tid
  let nums := ((List.range 64).filter fun k => (sget t.acc k).isNone).take n
  let phys := (s.accFree t.core).take n
  let s := phys.foldl (fun s p => s.clearTile t.core p) s
  let s := s.modTeam tid fun t => { t with acc := (nums.zip phys).foldl (fun m (p : Nat × Nat) => sput m p.1 p.2) t.acc }
  (BitVec.ofNat 64 (nums.foldl (fun a k => a + 2 ^ k) 0), s)

/-- A blocked request ends with a mask: the pair is written, the flag clears, and the slices leave BLOCKED in the
gang they had, at the next instruction (R241, R345). -/
def endAcc (s : State) (tid : Nat) (r : AccReq) (x : DWord) : State :=
  let s := s.modTeam tid fun t => { t with accReq := none }
  let s := s.wrSlices64 r.gid r.slices r.dest x
  let s := s.modSlices r.gid r.slices fun y =>
    let y := { y with st := .ganged }
    if y.ix + 1 < r.len then { y with ix := y.ix + 1 } else { y with pc := y.pc + BitVec.ofNat 56 (8 + 8 * r.len), ix := 0 }
  let s := s.regionEntry r.gid r.slices
  (s.modOp r.gid r.oid fun o => { o with stages := [] }).settleGroup r.gid

/-- The blocked request of a core is granted once its tiles are free (R241). -/
def accGrant (s : State) (cid : Nat) : State :=
  match (s.teamsOn cid).findSome? fun t => (s.team t).accReq.map fun r => (t, r) with
  | some (t, r) =>
    if r.count ≤ (s.accFree cid).length then
      let (x, s) := s.grantTiles t r.count
      s.endAcc t r x
    else s
  | none => s

/-- A team releases tiles; a blocked request may then be granted (R242). -/
def freeTiles (s : State) (tid : Nat) (nums : List Nat) : State :=
  (s.modTeam tid fun t => { t with acc := t.acc.filter fun e => !nums.contains e.1 }).accGrant (s.team tid).core

end State

/-! ### Leaving a core -/

/-- A key of a store whose entries of `width` keys belong to group `gid` lies in team `tid`. -/
def keyOfTeam (tid perGroup key : Nat) : Bool := key / (32 * perGroup) = tid

/-- Drop a clause of a team from a pipe. -/
def dropPipe (tid : Nat) (r : Option Run) : Option Run := if r.any fun x => tidOf x.gid == tid then none else r

namespace State

/-- Forget the registers, groups and slices of a team: 2048 v, 256 s and 64 k keys a group. -/
def eraseTeam (s : State) (tid : Nat) : State :=
  { s with
    vreg := s.vreg.filter fun e => !keyOfTeam tid 2048 e.1
    sreg := s.sreg.filter fun e => !keyOfTeam tid 256 e.1
    kreg := s.kreg.filter fun e => !keyOfTeam tid 64 e.1
    slices := s.slices.filter fun e => !keyOfTeam tid 8 e.1
    groups := s.groups.filter fun e => !keyOfTeam tid 1 e.1 }

/-- The second twin of a pair gives its twin bank back to the scratchpad it lies in (R301). -/
def storeBank (s : State) (tid : Nat) : State :=
  let t := s.team tid
  if t.twin = 1 && t.pair.isSome && (t.st == .running || t.st == .finishing) then
    s.scrWrite t.core (t.scrBase + t.scrSize) (mreads s.tiles (t.bank * 16 * 2048) 16384)
  else s

/-- Take a team off its core: pipes, frame slots, triggers, stalls and accumulator tiles are given up, and a stalled
core that stalled for it alone goes on (R239, R242, R339, R352). -/
def leaveCore (s : State) (tid : Nat) : State :=
  let cid := (s.team tid).core
  let s := s.storeBank tid
  let note := ((s.team tid).launch, s.clock)
  let here := (s.team tid).st == .running || (s.team tid).st == .finishing
  let s := s.modCore cid fun k =>
    { k with
      hosted := if here then note :: k.hosted.filter fun h => h.1 != note.1 else k.hosted
      pipe0 := dropPipe tid k.pipe0
      pipe1 := dropPipe tid k.pipe1
      frames := k.frames.map fun f => f.bind fun g => if tidOf g = tid then none else some g
      triggers := k.triggers.filter fun t => t.tid != tid
      stalls := k.stalls.filter fun x => tidOf x.gid != tid }
  let s := s.modTeam tid fun t => { t with acc := [], accReq := none }
  s.accGrant cid

/-- Commands of a team end without effect, and releases of it that have taken no timestamp; copies of its writes that have not
left the device go nowhere (R190, R274). -/
def purgeTeam (s : State) (tid : Nat) : State :=
  { s with
    cmds := s.cmds.filter fun e => e.2.tid != tid
    mcmds := s.mcmds.filter fun e => e.2.tid != tid
    copies := s.copies.filter fun e => e.2.tid != tid || e.2.sent || e.2.ts.isSome
    rels := s.rels.filterMap fun e =>
      if e.2.tid != tid then some e
      else if e.2.st == .committing then some (e.1, { e.2 with purpose := .device })
      else none }

/-- A team is gone: killed, its pending set and transactions lost (R56, R190). -/
def killTeam (s : State) (tid : Nat) : State :=
  let q := (s.team tid).seqr
  let s := ((s.leaveCore tid).purgeTeam tid).eraseTeam tid
  let s := s.modTeam tid fun t => { t with st := .killed, pending := [], overlay := [], seqr := none }
  match q with
  | some q => { s with seqrs := sdel s.seqrs q, mreg := s.mreg.filter fun e => e.1 / 16 != q, wins := s.wins.filter fun e => e.1 / 16 != q }
  | none => s

/-- Teams of a launch that are not done. -/
def teamsOf (s : State) (lid : Nat) : List Nat :=
  skeysWhere s.teams fun t => t.launch == lid && t.st != .done && t.st != .killed && !isSys t.core

/-! ### Rollback (R200) -/

/-- Of a version pinned before a launch's first commit, and the bytes and timestamps `w` of a later state of the line:
each byte that the launch committed at one of `ts` is the pinned version's (R200 step 3). -/
def unBytes (ts : List Nat) (v : Version) (w : List Byte × List Nat) : List Byte × List Nat :=
  let pick {α : Type} (d : α) (a b : List α) : List α :=
    (List.range 64).map fun i => if ts.contains (w.2.getD i 0) then a.getD i d else b.getD i d
  (pick 0 v.bytes w.1, pick 0 v.stamps w.2)

/-- An older version once a launch's commits at `ts` are removed: the launch's own go, but one that another launch has
pinned stays for that launch, without the removed bytes (R200). (DEDUCED, log entry 72) -/
def unVersion (lid : Nat) (ts : List Nat) (v w : Version) : Option Version :=
  if ts.contains w.ts then
    if w.pin.any fun l => l != lid then
      let u := unBytes ts v (w.bytes, w.stamps)
      some { w with ts := v.ts, bytes := u.1, stamps := u.2 }
    else none
  else some (if w.pin == some lid then { w with pin := none } else w)

/-- A line after the launch's versions are removed (R200). -/
def unLine (s : State) (lid line : Nat) (ts : List Nat) : State :=
  let old := sgetD s.orangery line []
  match old.reverse.find? fun v => v.pin == some lid with
  | none => s
  | some v =>
    let at_ := (List.range 64).map fun i => line * 64 + i
    let u := unBytes ts v (mreads s.mem (line * 64) 64, at_.map fun a => sgetD s.byteTs a 0)
    let s := { s with
      mem := mwrites s.mem (line * 64) u.1
      byteTs := (at_.zip u.2).foldl (fun m (p : Nat × Nat) => sputD 0 m p.1 p.2) s.byteTs }
    let keep := old.filterMap (unVersion lid ts v)
    if ts.contains (sgetD s.lineTs line 0) then
      match keep.find? fun w => w.pin.isNone with
      | some w => { s with lineTs := sput s.lineTs line w.ts, orangery := sput s.orangery line (keep.erase w) }
      | none => { s with lineTs := sput s.lineTs line v.ts, orangery := sput s.orangery line keep }
    else { s with orangery := sput s.orangery line keep }

/-- The commits of a launch that are on their way go no further (R200 step 2). -/
def dropCommits (s : State) (lid : Nat) : State :=
  let own (tid : Nat) : Bool := !isSys (s.team tid).core && (s.team tid).launch == lid
  { s with
    packets := s.packets.filter fun e => !((match e.2.load with | .commit _ => true | _ => false) && own e.2.tid)
    rels := s.rels.filter fun e => !own e.2.tid }

/-- Roll a replayable launch back: its teams are killed, its versions removed, and it is queued again at the head
of its priority (R200). -/
def rollback (s : State) (lid : Nat) : State :=
  let L := s.launch lid
  let s := ((s.teamsOf lid).foldl (fun s t => s.killTeam t) s).dropCommits lid
  let s := L.pins.foldl (fun s line => s.unLine lid line ((L.commits.filter fun c => c.1 == line).map Prod.snd)) s
  let s := { s with clusters := s.clusters.filter fun e => e.2.launch != lid
                    launches := s.launches.map fun (e : Nat × Launch) => (e.1, { e.2 with order := e.2.order + 1 }) }
  s.modLaunch lid fun L => { L with st := .queued, ready := true, handed := 0, finished := 0, order := 0, pins := [], commits := [] }

/-- A team consumes an uncorrectable error at a physical address (R200, R364). -/
def consume (s : State) (tid pa : Nat) : State :=
  let t := s.team tid
  if !isSys t.core && rollsBack (s.launch t.launch) then s.rollback t.launch
  else
    s.requestKill t.ctx
      { kind := 4, launch := (s.launch t.launch).ident, reason := 0, gslot := 0, cid := t.core
        body := bytesOfDword (BitVec.ofNat 64 pa) }

end State

end Sys2Proof.Machine
end

