-- ==== Sys2Proof/Machine/Flags.lean ====
section
/-! DEFINITION. Issue: completion flags and counters (R50, R77, R78), register results that are not ready (R51,
R79), the issue cycle (R49), and the one frame in which every group-stream instruction is executed. -/

namespace Sys2Proof.Machine

/-- How an instruction presents itself at issue. -/
structure Meta where
  c : Ctl
  /-- It executes in vector form (R73). -/
  vec : Bool
  /-- Register operands read and written, with whether each is a pair. -/
  srcs : List (Opnd × Bool)
  dsts : List (Opnd × Bool)
  /-- Registers read at places of its own choosing, whatever lanes are active (R172). -/
  also : List (Reg × List Nat)
  /-- LAT of R79. -/
  lat : Option Nat
  /-- Cycles from issue until the flag clears, where no LAT and no operation says (R79, R123). -/
  quick : Nat
  /-- It writes something besides v and s registers, so it waits for what it reads (R51). -/
  exact : Bool
  /-- It reads EXEC, or k[PM], without being in vector form (R51). -/
  readsExec : Bool
  readsPm : Bool
  /-- It writes EXEC. -/
  setsExec : Bool
  /-- A system core executes it (R57). -/
  sys : Bool
  /-- It is performed once for the gang, with the registers of its lowest slice (R357). -/
  once : Bool
  /-- Counter (R78), and whether the operation holds the flag. -/
  ctr : Option Ctr
  opFlag : Bool
  /-- A memory-class, plane or copy instruction, which waits for a pending fence or order (R205, R215). -/
  mem : Bool
  /-- Non-restartable: the instruction after it is a region entry (R345). -/
  bound : Bool
  deriving DecidableEq, Repr

/-- A register-only instruction with LAT `lat`: the base of every entry. -/
def Meta.reg (c : Ctl) (vec : Bool) (lat : Nat) (dsts srcs : List (Opnd × Bool)) : Meta :=
  { c := c, vec := vec, srcs := srcs, dsts := dsts, also := [], lat := some lat, quick := 1, exact := false, readsExec := false
    readsPm := false, setsExec := false, sys := true, once := false, ctr := none, opFlag := false, mem := false
    bound := false }

/-- A control-flow instruction (R123). -/
def Meta.flow (c : Ctl) (dsts srcs : List (Opnd × Bool)) : Meta :=
  { Meta.reg c false 0 dsts srcs with lat := none, exact := true, quick := if dsts.isEmpty then 1 else 2 }

/-- A system instruction (R357). -/
def Meta.system (c : Ctl) (dsts srcs : List (Opnd × Bool)) : Meta :=
  { Meta.reg c false 0 dsts srcs with lat := none, exact := true, once := true, bound := true }

/-- A system instruction that completes, and clears its flag, when an operation does (R357). -/
def Meta.systemOp (c : Ctl) (dsts srcs : List (Opnd × Bool)) : Meta := { Meta.system c dsts srcs with opFlag := true }

/-- The cycle at which the results of an instruction complete at issue are written (R79). -/
def Meta.readyAt (m : Meta) (c l : Nat) : Nat := match m.lat with | some n => c + l + n | none => c + Nat.max m.quick l

/-- What an instruction's body comes to. -/
inductive Res
  /-- The effect is complete; the next instruction follows. -/
  | done (s : State)
  /-- The effect so far, and the operation that remains. -/
  | op (s : State) (o : Op)
  /-- The gang's slices stand where they go. -/
  | jump (s : State)
  /-- A group trap; the instruction itself has no effect beyond `s`. -/
  | trap (s : State) (c : Cause)
  /-- A page fault on a global access. -/
  | service (s : State) (va : Nat) (kind : AccKind)
  /-- The core holds the instruction at issue. -/
  | hold
  /-- The core holds the instruction at issue, and something it needs first is under way. -/
  | holding (s : State)
  /-- The gang is blocked where it stands, and the operation goes on. -/
  | block (s : State) (o : Op)
  /-- The instruction ends its team or its group's run: nothing of it follows. -/
  | gone (s : State)
  deriving DecidableEq, Repr

/-- Does any operand put a kind V instruction into vector form (R73)? -/
def isVec (os : List Opnd) : Bool := os.any Opnd.isLanes

/-- The registers an operand names; k0 is none, since it is never written (R27, R113). -/
def regsOf (o : Opnd × Bool) : List Reg :=
  match o with
  | (.v n, w) => .v n.toNat :: (if w then [.v (n.toNat + 1)] else [])
  | (.s n, w) => .s n.toNat :: (if w then [.s (n.toNat + 1)] else [])
  | (.k n, _) => if n = 0 then [] else [.k n.toNat]
  | _ => []

/-- A v register. -/
def Reg.isV : Reg → Bool | .v _ => true | _ => false

/-- A cause of a precise trap of the instruction at issue (R337). -/
def Iss.cause (iss : Iss) (code reason : Nat) (info : Word) (addr : DWord) : Cause :=
  { code := code, reason := reason, info := info, addr := addr, fpc := iss.addr, aux := [] }

/-- ILLINSTR (R80). -/
def Iss.illegal (iss : Iss) : Cause := iss.cause 4 0 0 0
/-- PRIV (R335). -/
def Iss.priv (iss : Iss) : Cause := iss.cause 5 0 0 0

/-- The operation of an instruction, as its body starts from. -/
def Op.of (iss : Iss) (m : Meta) (stages : List Stage) : Op :=
  { oid := 0, ctr := m.ctr, sig := if m.opFlag && m.c.sig != 15 then some m.c.sig.toNat else none
    slices := iss.slices
    dest := m.dsts.head?.bind fun d => (regsOf (d.1, false)).head?.map fun r => (r, d.2)
    lost := [], olds := [], tops := [], wait := 0, stages := stages, blocks := false, vmax := none, tmax := none, relTs := 0, done := false
    hdr := iss.hdr, ix := iss.ix }

namespace State

/-! ### Where an instruction reads and writes -/

/-- Lanes of the group the instruction acts on, as LANE.IDs. -/
def lanesAt (s : State) (m : Meta) (iss : Iss) : List Nat :=
  (s.active iss.gid iss.slices m.c.pm).map fun p => 4 * p.1 + p.2

/-- Every lane of a gang. -/
def allLanes (iss : Iss) : List Nat := iss.slices.flatMap fun i => (List.range 4).map fun l => 4 * i + l

/-- The places a register is read at: lanes for a v register, slices for any other. -/
def readPlaces (s : State) (m : Meta) (iss : Iss) (r : Reg) : List Nat :=
  if r.isV then s.lanesAt m iss else if m.once then [iss.lead] else iss.slices

/-- Hazards on the masks an instruction reads: EXEC and k[PM] (R51, R79). -/
def maskHazards (s : State) (m : Meta) (iss : Iss) : List Hazard :=
  (s.group iss.gid).hazards.filter fun h =>
    ((m.vec || m.readsExec) && touches h .exec iss.slices)
      || ((m.vec || m.readsPm) && m.c.pm != 0 && touches h (.k m.c.pm.toNat) iss.slices)

/-- Hazards on the registers an instruction reads. -/
def srcHazards (s : State) (m : Meta) (iss : Iss) : List Hazard :=
  let rs := m.srcs.flatMap regsOf
  (s.group iss.gid).hazards.filter fun h =>
    (rs.any fun r => touches h r (s.readPlaces m iss r)) || m.also.any fun r => touches h r.1 r.2

/-- Hazards on the registers an instruction writes (R51). -/
def dstHazards (s : State) (m : Meta) (iss : Iss) : List Hazard :=
  let rs := m.dsts.flatMap regsOf
  (s.group iss.gid).hazards.filter fun h => rs.any fun r =>
    touches h r (if r.isV then s.lanesAt m iss else iss.slices)

/-- The result may be read at cycle `c` (R79). (DEDUCED, log entry 11) -/
def readable (c : Nat) (h : Hazard) : Bool := h.timed && (match h.ready with | some t => t ≤ c | none => false)

/-- The latest cycle at which the results are written. -/
def latest (c : Nat) (hs : List Hazard) : Nat :=
  hs.foldl (fun c h => match h.ready with | some t => Nat.max c t | none => c) c

/-! ### Issue -/

/-- Instructions the core turns away at issue: a v register at or beyond VREGS (R70), a form a system core does
not have (R57). -/
def illegalHere (s : State) (m : Meta) (iss : Iss) : Bool :=
  (!m.sys && iss.sys) || (m.srcs ++ m.dsts).any fun o =>
    match o.1 with | .v n => s.vregsOf iss.tid ≤ n.toNat | _ => false

/-- Hazards whose end an instruction waits for: what an exact one reads, and every k register it writes (R51).
(DEDUCED, log entry 25) -/
def waitedFor (s : State) (m : Meta) (iss : Iss) : List Hazard :=
  (if m.exact then s.srcHazards m iss ++ s.maskHazards m iss else [])
    ++ (s.dstHazards m iss).filter fun h => match h.reg with | .k _ => true | _ => false

/-- The core holds the instruction at issue until some operation ends: its flag, its counter, an operation that
orders what follows it, or a register still to arrive (R50, R51, R78, R188, R215). (DEDUCED, log entry 11) -/
def heldBack (s : State) (m : Meta) (iss : Iss) : Bool :=
  let g := s.group iss.gid
  (m.c.sig != 15 && g.ops.any fun o => o.sig == some m.c.sig.toNat && !o.done)
    || (match m.ctr with | some k => 62 ≤ s.counter iss.gid k | none => false)
    || (m.mem && g.ops.any fun o => o.blocks && !o.done)
    || (s.waitedFor m iss).any fun h => h.ready.isNone

/-- The instruction reads a register of a poisoned sector (R364). -/
def readsPoison (s : State) (m : Meta) (iss : Iss) : Bool :=
  !s.arrPoison.isEmpty &&
    let bad (r : Reg) (ps : List Nat) : Bool := ps.any fun p => s.arrPoisoned (regArr iss.gid r p) 4
    (m.srcs.flatMap regsOf).any (fun r => bad r (s.readPlaces m iss r)) || m.also.any (fun r => bad r.1 r.2)
      || ((m.vec || m.readsPm) && m.c.pm != 0 && bad (.k m.c.pm.toNat) iss.slices)

/-- A register written in every lane or slice of a sector loses its poison (R364). -/
def rewritten (s : State) (m : Meta) (iss : Iss) : State :=
  if s.arrPoison.isEmpty then s
  else (m.dsts.flatMap regsOf).foldl (fun s r =>
    let ps := if r.isV then s.lanesAt m iss else iss.slices
    (List.range 4).foldl (fun s j =>
      if (List.range 8).all fun i => ps.contains (8 * j + i) then s.arrClear (regArr iss.gid r (8 * j)) 32 else s) s) s

/-- L of the instruction (R29). -/
def issueL (s : State) (m : Meta) (iss : Iss) : Nat := if m.vec then s.vecL iss.gid iss.slices m.c.pm else 1

/-- What paces the issuing pipe. -/
def paceOf (s : State) (iss : Iss) : Pace := if iss.pipe = 0 then (s.core iss.cid).pace0 else (s.core iss.cid).pace1

/-- The cycle at which the instruction issues (R29, R49 to R51): once its pipe's lanes are free, and no fifth
instruction with L = 0 in one cycle of a pipe. (DEDUCED, log entry 10) -/
def issueAt (s : State) (m : Meta) (iss : Iss) : Nat :=
  let g := s.group iss.gid
  let p := s.paceOf iss
  let c := Nat.max (Nat.max s.clock p.free) (g.lastC + g.lastL + m.c.dist.toNat)
  let c := if s.issueL m iss = 0 && 4 ≤ p.zeros then Nat.max c (p.cyc + 1) else c
  let c := g.timedFlags.foldl (fun c p => if m.c.sig != 15 && p.1 == m.c.sig.toNat then Nat.max c p.2 else c) c
  latest c (s.waitedFor m iss)

/-! ### After the body -/

/-- Advance a gang to the next instruction, or past its clause (R63). -/
def advance (s : State) (iss : Iss) : State :=
  if iss.ix + 1 < iss.len then s.modSlices iss.gid iss.slices fun x => { x with ix := iss.ix + 1 }
  else (s.standAt iss.gid iss.slices iss.fall 0).dropRuns iss.cid iss.gid

/-- A pipe's pace after an instruction of L cycles issued in cycle `c` (R29, R49). -/
def paced (c l : Nat) (p : Pace) : Pace :=
  { free := c + l, zeros := if l = 0 then (if p.cyc = c then p.zeros + 1 else 1) else 0, cyc := c }

/-- Note the issue: its cycle and L, the pipe's lanes in use, and the team's count (R29, R49, R359). -/
def noteIssue (s : State) (iss : Iss) (l : Nat) : State :=
  let c := s.clock
  let s := s.modCore iss.cid fun k =>
    if iss.pipe = 0 then { k with pace0 := paced c l k.pace0 } else { k with pace1 := paced c l k.pace1 }
  (s.modGroup iss.gid fun g =>
    { g with
      lastC := c, lastL := l
      timedFlags := g.timedFlags.filter fun p => c < p.2
      hazards := g.hazards.filter fun h => !(readable c h) }).modTeam iss.tid fun t => { t with issued := t.issued + 1 }

/-- Keep a flag busy until a cycle. -/
def busyUntil (s : State) (gid : Nat) (c : Ctl) (t : Nat) : State :=
  if c.sig = 15 then s else s.modGroup gid fun g => { g with timedFlags := (c.sig.toNat, t) :: g.timedFlags }

/-- A result is written no later than one due at `ready`, or than now where that has no cycle yet (R51). -/
def writtenBy (now : Nat) (ready : Option Nat) (h : Hazard) : Bool :=
  match h.ready with | some t => t ≤ ready.getD now | none => false

/-- Record the results an instruction has written or will write; hazards of the same registers end whose results are
written no later. -/
def addHazards (s : State) (m : Meta) (iss : Iss) (allL : Bool) (ready : Option Nat) (oid : Nat) : State :=
  let lanes := if allL then allLanes iss else s.lanesAt m iss
  let one (r : Reg) : Hazard :=
    { reg := r, places := if r.isV then lanes else iss.slices, ready := ready, timed := m.lat.isSome, oid := oid
      sig := if m.c.sig = 15 then none else some m.c.sig.toNat, ctr := m.ctr, after := 0 }
  let new := (m.dsts.flatMap regsOf ++ if m.setsExec then [Reg.exec] else []).map one
  s.modGroup iss.gid fun g =>
    let old := g.hazards.filterMap fun h =>
      let cut := new.filter fun n => n.reg == h.reg
      cutPlaces { h with after := if m.ctr.isSome && h.ctr == m.ctr then h.after + 1 else h.after } fun p =>
        writtenBy s.clock ready h && cut.any fun n => n.places.contains p
    { g with hazards := old ++ new }

/-- Write free words to one destination of a gang. -/
def spoilOne (s : State) (iss : Iss) (places : List (Nat × Nat)) (d : Opnd × Bool) : State :=
  places.foldl (fun s p =>
    let (x, s) := s.freeWord
    let (y, s) := s.freeWord
    s.wrW d.2 iss.gid p.1 p.2 d.1 (y ++ x)) s

/-- Every register an instruction writes that reads one too early becomes UNDEFINED (R51): its destinations in the lanes it acts on, in
every lane of the gang when the masks themselves could not be read yet. (DEDUCED, log entry 11) -/
def spoil (s : State) (m : Meta) (iss : Iss) (allL : Bool) : State :=
  let lanes : List (Nat × Nat) :=
    if allL then iss.slices.flatMap fun i => (List.range 4).map fun l => (i, l) else s.active iss.gid iss.slices m.c.pm
  m.dsts.foldl (fun s d => s.spoilOne iss (if d.1.isV then lanes else iss.slices.map fun i => (i, 0)) d) s

/-- What an instruction whose results are written at cycle `ready` does to earlier results of the same registers (R51): one
written later leaves each register and place that both write UNDEFINED; one with no cycle yet is told of this write. -/
def overtake (s : State) (m : Meta) (iss : Iss) (allL : Bool) (ready : Nat) (hs : List Hazard) : State :=
  let lanes := if allL then allLanes iss else s.lanesAt m iss
  hs.foldl (fun s h =>
    let ps := h.places.filter (if h.reg.isV then lanes else iss.slices).contains
    match h.ready with
    | none => s.lose iss.gid h.oid (ps.map fun p => (h.reg, p, ready))
    | some t => if ready < t then ps.foldl (fun s p => s.freeReg iss.gid p h.reg) s else s) s

/-- The results of an instruction that issues now, written at cycle `ready`: UNDEFINED where it reads a register too early,
and where they overtake an earlier result (R51). -/
def settleDests (s : State) (m : Meta) (iss : Iss) (early maskEarly : Bool) (ready : Nat) (waw : List Hazard) : State :=
  let s := s.overtake m iss maskEarly ready waw
  if early then s.spoil m iss maskEarly else s

/-- The core stops for a service fault of a gang (R344). On a system core a page fault is MEMFAULT (R343). -/
def serviceFault (s : State) (iss : Iss) (va : Nat) (kind : AccKind) (ipc : Addr) : State :=
  if iss.sys then
    s.takeTrap iss.gid { code := 11, reason := 4, info := 0, addr := BitVec.ofNat 64 va, fpc := ipc, aux := [] }
  else
    let c := s.clock
    let s := (s.groupsOn iss.cid).foldl (fun s g => s.stopCycles g) s
    let s := s.dropRuns iss.cid iss.gid
    let s := s.modGroup iss.gid fun g => { g with faults := g.faults + 1 }
    s.modCore iss.cid fun k =>
      { k with
        stalls := k.stalls ++ [{ gid := iss.gid, slices := iss.slices, va := BitVec.ofNat 56 va, kind := kind, ipc := ipc, entry := none, retry := none }]
        stallFrom := k.stallFrom.or (some c) }

/-- An instruction that reads a register too early has no effect but to leave its destinations UNDEFINED: it raises
nothing and sends nothing (R2, R51). A form that is turned away whatever the registers hold still is (R80).
(DEDUCED, log entry 66) -/
def unread (m : Meta) (iss : Iss) (s : State) (r : Res) : Res :=
  let blank : Res := if m.ctr.isSome || m.opFlag then .op s (Op.of iss m []) else .done s
  match r with
  | .hold => .hold
  | .holding t => .holding t
  | .trap t k => if !m.once && (k.code = 4 || k.code = 5) then .trap t k else blank
  | _ => blank

/-- The next instruction of the gang's clause, or what follows it; after a non-restartable instruction it is a region
entry (R63, R345). -/
def moveOn (s : State) (m : Meta) (iss : Iss) : State :=
  let s := s.advance iss
  if m.bound then s.regionEntry iss.gid iss.slices else s

/-- Enter operation `o` of an instruction that issues now. -/
def addOp (s : State) (m : Meta) (iss : Iss) (l : Nat) (allL : Bool) (waw : List Hazard) (o : Op) : State :=
  let n := s.names.op
  let s := { s with names := { s.names with op := n + 1 } }
  let s := (s.noteIssue iss l).addHazards m iss allL none n
  s.modGroup iss.gid fun g => { g with ops := g.ops ++ [{ o with oid := n, olds := waw.filter fun h => h.ready.isSome }] }

/-- Execute an instruction that issues now: what its body comes to, and the flags, counters and registers that
follow from it. (DEDUCED, log entry 11) -/
def run (s : State) (m : Meta) (iss : Iss) (body : Iss → State → Res) : State :=
  let c := s.issueAt m iss
  let l := s.issueL m iss
  let unready := fun h => !readable c h
  let maskEarly := !m.exact && (s.maskHazards m iss).any unready
  let early := maskEarly || (!m.exact && (s.srcHazards m iss).any unready)
  let waw := (s.dstHazards m iss).filter fun h => match h.reg with | .k _ => false | _ => true
  let s1 := { s with clock := c }
  if m.vec && l = 0 && !maskEarly then (s1.noteIssue iss 0).moveOn m iss
  else
    match if early then unread m iss s1 (body iss s1) else body iss s1 with
    | .hold => s
    | .holding t => t
    | .gone t => t
    | .block t o => (t.addOp m iss l false waw o).dropRuns iss.cid iss.gid
    | .trap t k => (t.noteIssue iss l).takeTrap iss.gid k
    | .service t va kind => (t.noteIssue iss l).serviceFault iss va kind iss.addr
    | .jump t =>
      let ready := c + m.quick
      let t := t.settleDests m iss false false ready waw
      let t := ((t.noteIssue iss l).busyUntil iss.gid m.c ready).addHazards m iss false (some ready) 0
      let own := iss.slices.filter fun i => (t.slice iss.gid i).st == .ganged && (t.slice iss.gid i).gang == (s.slice iss.gid iss.lead).gang
      let t := (t.formByPc iss.gid own).dropRuns iss.cid iss.gid
      if m.bound then t.regionEntry iss.gid iss.slices else t
    | .done t =>
      let ready := m.readyAt c l
      let t := t.settleDests m iss early maskEarly ready waw
      let t := t.rewritten m iss
      (((t.noteIssue iss l).busyUntil iss.gid m.c ready).addHazards m iss maskEarly (some ready) 0).moveOn m iss
    | .op t o =>
      let t := if early then t.settleDests m iss early maskEarly c waw else t
      let t := t.addOp m iss l maskEarly waw o
      let t := if m.opFlag then t else t.busyUntil iss.gid m.c (c + m.quick)
      (t.settleGroup iss.gid).moveOn m iss

/-- Issue an instruction: turned away, held, stopped by an uncorrectable error in what it reads, or run (R49 to R51, R80,
R364). -/
def issue (s : State) (m : Meta) (iss : Iss) (body : Iss → State → Res) : State :=
  if s.illegalHere m iss then s.takeTrap iss.gid iss.illegal
  else if s.heldBack m iss then s
  else if s.readsPoison m iss then s.consume iss.tid 0
  else s.run m iss body

end State

/-- The frame of every group-stream instruction. -/
def instr (m : Meta) (s : State) (body : Iss → State → Res) : Host.Outcome State Fault Refusal :=
  match s.issOf with
  | none => .fault .noIssuer
  | some iss => .next (s.issue m iss body)

/-- The release that an instruction performs before its own effect: the core holds it at issue until the release is
complete, whose timestamp the rest is given (R188, R213, R358). A TEAM-scope one performs what the group issued earlier.
(DEDUCED, log entry 16) -/
def releaseFirst (scope : Scope) (iss : Iss) (s : State) (rest : Nat → State → Res) : Res :=
  let pre := (s.group iss.gid).pre
  match pre.find? fun p => p.1 == iss.lead with
  | some p =>
    if s.relDone p.2 then
      rest (s.relTs p.2) ((s.forgetRel p.2).modGroup iss.gid fun g => { g with pre := g.pre.filter fun q => q != p })
    else .hold
  | none =>
    if !s.allPerformed iss.gid then .hold
    else if scope == .team then rest 0 (s.fenceNow iss.gid)
    else
      let (k, s) := (s.fenceNow iss.gid).openRelease iss.tid (some iss.gid) scope (.op iss.gid 0)
      .holding (s.modGroup iss.gid fun g => { g with pre := (iss.lead, k) :: g.pre })

/-! ### Floating-point conditions (R160) -/

/-- Complete a float instruction whose lanes raised `conds`: FP.STATUS takes them when the result is written (R160,
R174); an enabled one suppresses the results (`t` has them, `s` has not) and traps. -/
def fpFinish (m : Meta) (iss : Iss) (s t : State) (conds : Nat) : Res :=
  let raise (s : State) (at_ : Nat) : State :=
    s.modTeam iss.tid fun x => x.raise s.clock at_ (BitVec.ofNat 32 conds)
  let on := conds &&& (s.team iss.tid).fpTrapen.toNat % 32
  if on = 0 then .done (if conds = 0 then t else raise t (m.readyAt s.clock (s.issueL m iss)))
  else .trap (raise s s.clock) (iss.cause 2 0 (BitVec.ofNat 32 on) 0)

end Sys2Proof.Machine
end

