-- ==== Sys2Proof/Machine/Integer.lean ====
section
/-! DEFINITION. Integer instructions, wide immediates and compare: OP 0x00 to 0x03 (R106 to R114). -/

namespace Sys2Proof.Machine

/-- Write a destination in every place the instruction acts on; `f` gives the value at (slice, lane) from the
state before any write (R106, R111). -/
def State.perTarget (s : State) (iss : Iss) (vec : Bool) (pm : BitVec 3) (wide : Bool) (d : Opnd)
    (f : Nat → Nat → DWord) : State :=
  ((s.targets iss vec pm).map fun p => (p, f p.1 p.2)).foldl (fun t q => t.wrW wide iss.gid q.1.1 q.1.2 d q.2) s

/-- An instruction that writes one destination from registers and nothing else. -/
def aluOp (m : Meta) (wide : Bool) (d : Opnd) (s : State) (f : State → Nat → Nat → Nat → DWord) :
    Host.Outcome State Fault Refusal :=
  instr m s fun iss s => .done (s.perTarget iss m.vec m.c.pm wide d (f s iss.gid))

/-- LAT of an integer form: 4 for a product or a 64-bit type, else 2 (R79). -/
def intLat (slow : Bool) (ty : IntTy) : Nat := if slow || ty.wide then 4 else 2

/-- Rd of an operand (R106). -/
def rdI (ty : IntTy) (s : State) (gid i l : Nat) (o : Opnd) : Int := ty.rd (s.rdW ty.wide gid i l o)

/-- IMM18 read as Rd under a type (R108). -/
def immI (ty : IntTy) (imm : BitVec 18) : Int := ty.rd (imm.signExtend 64)

/-- The result as Wr writes it, saturated first under SAT (R111). -/
def wrI (ty : IntTy) (sat : Bool) (r : Int) : DWord := ty.wr (if sat then ty.sat r else r)

/-- The n-bit pattern of a value. -/
def pat (ty : IntTy) (x : Int) : Nat := wrapN ty.bits x

/-- D from one integer source. -/
def intOp1 (c : Ctl) (ty : IntTy) (d a : Opnd) (f : Int → Int) (s : State) : Host.Outcome State Fault Refusal :=
  aluOp (.reg c (isVec [d, a]) (intLat false ty) [(d, ty.wide)] [(a, ty.wide)]) ty.wide d s fun s g i l =>
    ty.wr (f (rdI ty s g i l a))

/-- D from two integer sources. -/
def intOp2 (c : Ctl) (slow : Bool) (ty : IntTy) (sat : Bool) (d a b : Opnd) (f : Int → Int → Int) (s : State) :
    Host.Outcome State Fault Refusal :=
  aluOp (.reg c (isVec [d, a, b]) (intLat slow ty) [(d, ty.wide)] [(a, ty.wide), (b, ty.wide)]) ty.wide d s
    fun s g i l => wrI ty sat (f (rdI ty s g i l a) (rdI ty s g i l b))

/-- D from an integer source and a 32-bit amount (R108). -/
def intShift (c : Ctl) (ty : IntTy) (d a b : Opnd) (f : Nat → Nat → Nat) (s : State) :
    Host.Outcome State Fault Refusal :=
  aluOp (.reg c (isVec [d, a, b]) (intLat false ty) [(d, ty.wide)] [(a, ty.wide), (b, false)]) ty.wide d s
    fun s g i l => ty.wr (f (pat ty (rdI ty s g i l a)) ((s.rd32 g i l b).toNat % ty.bits) : Nat)

/-- D from an integer source and an immediate (R108). -/
def intImm (c : Ctl) (slow : Bool) (ty : IntTy) (sat : Bool) (d a : Opnd) (imm : BitVec 18) (f : Int → Int → Int)
    (s : State) : Host.Outcome State Fault Refusal :=
  aluOp (.reg c (isVec [d, a]) (intLat slow ty) [(d, ty.wide)] [(a, ty.wide)]) ty.wide d s
    fun s g i l => wrI ty sat (f (rdI ty s g i l a) (immI ty imm))

/-- D from an integer source and an immediate amount (R108). -/
def intShiftImm (c : Ctl) (ty : IntTy) (d a : Opnd) (imm : BitVec 18) (f : Nat → Nat → Nat) (s : State) :
    Host.Outcome State Fault Refusal :=
  aluOp (.reg c (isVec [d, a]) (intLat false ty) [(d, ty.wide)] [(a, ty.wide)]) ty.wide d s
    fun s g i l => ty.wr (f (pat ty (rdI ty s g i l a)) ((imm.signExtend 32).toNat % ty.bits) : Nat)

/-! ### Results (R108, R109) -/

/-- MULH: the high part of the exact product, rounded down. -/
def mulhR (ty : IntTy) (a b : Int) : Int := (a * b) / (2 ^ ty.bits : Nat)
/-- A bitwise form on the n-bit patterns. -/
def bitR (ty : IntTy) (f : Nat → Nat → Nat) (a b : Int) : Int := (f (pat ty a) (pat ty b) : Nat)
/-- The pattern shifted left. (DEDUCED, log entry 51) -/
def shlR (p n : Nat) : Nat := p * 2 ^ n
/-- The pattern shifted right, filling with zeros. -/
def shrR (p n : Nat) : Nat := p / 2 ^ n
/-- The `w`-bit pattern shifted right, filling with its top bit. -/
def sarR (w p n : Nat) : Nat := wrapN w (sextN w p / (2 ^ n : Nat))
/-- The `w`-bit pattern rotated left. -/
def rolR (w p n : Nat) : Nat := p * 2 ^ n % 2 ^ w + p / 2 ^ (w - n)
/-- Leading zero bits of the `w`-bit pattern. -/
def clzR (w p : Nat) : Nat := if p = 0 then w else w - 1 - Nat.log2 p
/-- Set bits of the `w`-bit pattern. -/
def popcR (w p : Nat) : Nat := (List.range w).foldl (fun a i => a + p / 2 ^ i % 2) 0
/-- The `w`-bit pattern with bit i moved to bit w−1−i. -/
def brevR (w p : Nat) : Nat := (List.range w).foldl (fun a i => a + p / 2 ^ i % 2 * 2 ^ (w - 1 - i)) 0

/-- The bits of an n-bit pattern a field descriptor covers: from, and how many (R109). -/
def fieldOf (n : Nat) (fd : Word) : Nat × Nat :=
  let pos := fd.toNat % 256
  let len := fd.toNat / 256 % 256
  (Nat.min pos n, Nat.min (pos + len) n - Nat.min pos n)

/-- BFE (R109). (DEDUCED, log entry 51) -/
def bfeR (ty : IntTy) (a : Int) (fd : Word) : Int :=
  let (lo, n) := fieldOf ty.bits fd
  if n = 0 then 0 else if ty.signed then sextN n (fld (pat ty a) lo n) else (fld (pat ty a) lo n : Nat)

/-- BFI (R109). (DEDUCED, log entry 51) -/
def bfiR (ty : IntTy) (a b : Int) (fd : Word) : Int :=
  let (lo, n) := fieldOf ty.bits fd
  ((pat ty a - fld (pat ty a) lo n * 2 ^ lo + fld (pat ty b) 0 n * 2 ^ lo : Nat) : Int)

/-- SEL's condition for a lane of a slice (R109). -/
def selCond (s : State) (vec : Bool) (gid i l : Nat) (e : Opnd) : Bool :=
  match e with
  | .k n => if vec then (s.rdK gid i n.toNat).getLsbD l else (s.rdK gid i n.toNat &&& (s.slice gid i).exec) != 0
  | o => s.rd32 gid i l o != 0

/-- ext(): 32 bits extended to 64 by the signedness of TYPE (R110). -/
def extX (ty : IntTy) (x : Word) : DWord := if ty.signed then x.signExtend 64 else x.zeroExtend 64

/-- ADD (R108). -/
def execAdd (c : Ctl) (ty : IntTy) (sat : Bool) (d a b : Opnd) (s : State) : Host.Outcome State Fault Refusal :=
  intOp2 c false ty sat d a b (fun a b => a + b) s

/-- SUB (R108). -/
def execSub (c : Ctl) (ty : IntTy) (sat : Bool) (d a b : Opnd) (s : State) : Host.Outcome State Fault Refusal :=
  intOp2 c false ty sat d a b (fun a b => a - b) s

/-- MUL (R108). -/
def execMul (c : Ctl) (ty : IntTy) (sat : Bool) (d a b : Opnd) (s : State) : Host.Outcome State Fault Refusal :=
  intOp2 c true ty sat d a b (fun a b => a * b) s

/-- MULH (R108). -/
def execMulh (c : Ctl) (ty : IntTy) (d a b : Opnd) (s : State) : Host.Outcome State Fault Refusal :=
  intOp2 c true ty false d a b (mulhR ty) s

/-- MAD (R108). -/
def execMad (c : Ctl) (ty : IntTy) (sat : Bool) (d a b e : Opnd) (s : State) : Host.Outcome State Fault Refusal :=
  aluOp (.reg c (isVec [d, a, b, e]) 4 [(d, ty.wide)] [(a, ty.wide), (b, ty.wide), (e, ty.wide)]) ty.wide d s
    fun s g i l => wrI ty sat (rdI ty s g i l a * rdI ty s g i l b + rdI ty s g i l e)

/-- MIN (R108). -/
def execMin (c : Ctl) (ty : IntTy) (d a b : Opnd) (s : State) : Host.Outcome State Fault Refusal :=
  intOp2 c false ty false d a b (fun a b => min a b) s

/-- MAX (R108). -/
def execMax (c : Ctl) (ty : IntTy) (d a b : Opnd) (s : State) : Host.Outcome State Fault Refusal :=
  intOp2 c false ty false d a b (fun a b => max a b) s

/-- AND (R108). -/
def execAnd (c : Ctl) (ty : IntTy) (d a b : Opnd) (s : State) : Host.Outcome State Fault Refusal :=
  intOp2 c false ty false d a b (bitR ty (fun x y => x &&& y)) s

/-- OR (R108). -/
def execOr (c : Ctl) (ty : IntTy) (d a b : Opnd) (s : State) : Host.Outcome State Fault Refusal :=
  intOp2 c false ty false d a b (bitR ty (fun x y => x ||| y)) s

/-- XOR (R108). -/
def execXor (c : Ctl) (ty : IntTy) (d a b : Opnd) (s : State) : Host.Outcome State Fault Refusal :=
  intOp2 c false ty false d a b (bitR ty (fun x y => x ^^^ y)) s

/-- NOT (R108). -/
def execNot (c : Ctl) (ty : IntTy) (d a : Opnd) (s : State) : Host.Outcome State Fault Refusal :=
  intOp1 c ty d a (fun a => ((2 ^ ty.bits - 1 - pat ty a : Nat) : Int)) s

/-- SHL (R108). -/
def execShl (c : Ctl) (ty : IntTy) (d a b : Opnd) (s : State) : Host.Outcome State Fault Refusal :=
  intShift c ty d a b shlR s

/-- SHR (R108). -/
def execShr (c : Ctl) (ty : IntTy) (d a b : Opnd) (s : State) : Host.Outcome State Fault Refusal :=
  intShift c ty d a b shrR s

/-- SAR (R108). -/
def execSar (c : Ctl) (ty : IntTy) (d a b : Opnd) (s : State) : Host.Outcome State Fault Refusal :=
  intShift c ty d a b (sarR ty.bits) s

/-- ROL (R108). -/
def execRol (c : Ctl) (ty : IntTy) (d a b : Opnd) (s : State) : Host.Outcome State Fault Refusal :=
  intShift c ty d a b (rolR ty.bits) s

/-- CLZ (R108). -/
def execClz (c : Ctl) (ty : IntTy) (d a : Opnd) (s : State) : Host.Outcome State Fault Refusal :=
  intOp1 c ty d a (fun a => ((clzR ty.bits (pat ty a) : Nat) : Int)) s

/-- POPC (R108). -/
def execPopc (c : Ctl) (ty : IntTy) (d a : Opnd) (s : State) : Host.Outcome State Fault Refusal :=
  intOp1 c ty d a (fun a => ((popcR ty.bits (pat ty a) : Nat) : Int)) s

/-- BREV (R108). -/
def execBrev (c : Ctl) (ty : IntTy) (d a : Opnd) (s : State) : Host.Outcome State Fault Refusal :=
  intOp1 c ty d a (fun a => ((brevR ty.bits (pat ty a) : Nat) : Int)) s

/-- BFE (R109). -/
def execBfe (c : Ctl) (ty : IntTy) (d a b : Opnd) (s : State) : Host.Outcome State Fault Refusal :=
  aluOp (.reg c (isVec [d, a, b]) (intLat false ty) [(d, ty.wide)] [(a, ty.wide), (b, false)]) ty.wide d s
    fun s g i l => ty.wr (bfeR ty (rdI ty s g i l a) (s.rd32 g i l b))

/-- BFI (R109). -/
def execBfi (c : Ctl) (ty : IntTy) (d a b e : Opnd) (s : State) : Host.Outcome State Fault Refusal :=
  aluOp (.reg c (isVec [d, a, b, e]) (intLat false ty) [(d, ty.wide)] [(a, ty.wide), (b, ty.wide), (e, false)]) ty.wide d s
    fun s g i l => ty.wr (bfiR ty (rdI ty s g i l a) (rdI ty s g i l b) (s.rd32 g i l e))

/-- SEL (R109); its slice-scalar form with a k register reads EXEC. -/
def execSel (c : Ctl) (ty : IntTy) (d a b e : Opnd) (s : State) : Host.Outcome State Fault Refusal :=
  let vec := isVec [d, a, b, e]
  aluOp { Meta.reg c vec (intLat false ty) [(d, ty.wide)] [(a, ty.wide), (b, ty.wide), (e, false)] with
      readsExec := e.isK } ty.wide d s
    fun s g i l => ty.wr (if selCond s vec g i l e then rdI ty s g i l a else rdI ty s g i l b)

/-- ADDX (R110). -/
def execAddx (c : Ctl) (ty : IntTy) (d a b : Opnd) (s : State) : Host.Outcome State Fault Refusal :=
  aluOp (.reg c (isVec [d, a, b]) 4 [(d, true)] [(a, true), (b, false)]) true d s
    fun s g i l => s.rd64 g i l a + extX ty (s.rd32 g i l b)

/-- SUBX (R110). -/
def execSubx (c : Ctl) (ty : IntTy) (d a b : Opnd) (s : State) : Host.Outcome State Fault Refusal :=
  aluOp (.reg c (isVec [d, a, b]) 4 [(d, true)] [(a, true), (b, false)]) true d s
    fun s g i l => s.rd64 g i l a - extX ty (s.rd32 g i l b)

/-- MOV (R108); an FP32 constant is its pattern (R107). -/
def execMov (c : Ctl) (ty : IntTy) (d a : Opnd) (s : State) : Host.Outcome State Fault Refusal :=
  intOp1 c ty d a (fun a => a) s

/-- LEA (R110). -/
def execLea (c : Ctl) (ty : IntTy) (sh : BitVec 3) (d a b : Opnd) (s : State) : Host.Outcome State Fault Refusal :=
  aluOp (.reg c (isVec [d, a, b]) 2 [(d, true)] [(a, true), (b, false)]) true d s
    fun s g i l => s.rd64 g i l a + extX ty (s.rd32 g i l b) <<< sh.toNat

/-- LEAX (R110). -/
def execLeax (c : Ctl) (ty : IntTy) (sh : BitVec 3) (d a b e : Opnd) (s : State) : Host.Outcome State Fault Refusal :=
  aluOp (.reg c (isVec [d, a, b, e]) 4 [(d, true)] [(a, true), (b, false), (e, false)]) true d s
    fun s g i l => s.rd64 g i l a + (extX ty (s.rd32 g i l b) * extX ty (s.rd32 g i l e)) <<< sh.toNat

/-! ### Immediates -/

/-- ADD with an immediate (R108). -/
def execAddImm (c : Ctl) (ty : IntTy) (sat : Bool) (d a : Opnd) (imm : BitVec 18) (s : State) : Host.Outcome State Fault Refusal :=
  intImm c false ty sat d a imm (fun a b => a + b) s

/-- SUB with an immediate (R108). -/
def execSubImm (c : Ctl) (ty : IntTy) (sat : Bool) (d a : Opnd) (imm : BitVec 18) (s : State) : Host.Outcome State Fault Refusal :=
  intImm c false ty sat d a imm (fun a b => a - b) s

/-- MUL with an immediate (R108). -/
def execMulImm (c : Ctl) (ty : IntTy) (sat : Bool) (d a : Opnd) (imm : BitVec 18) (s : State) : Host.Outcome State Fault Refusal :=
  intImm c true ty sat d a imm (fun a b => a * b) s

/-- MIN with an immediate (R108). -/
def execMinImm (c : Ctl) (ty : IntTy) (d a : Opnd) (imm : BitVec 18) (s : State) : Host.Outcome State Fault Refusal :=
  intImm c false ty false d a imm (fun a b => min a b) s

/-- MAX with an immediate (R108). -/
def execMaxImm (c : Ctl) (ty : IntTy) (d a : Opnd) (imm : BitVec 18) (s : State) : Host.Outcome State Fault Refusal :=
  intImm c false ty false d a imm (fun a b => max a b) s

/-- AND with an immediate (R108). -/
def execAndImm (c : Ctl) (ty : IntTy) (d a : Opnd) (imm : BitVec 18) (s : State) : Host.Outcome State Fault Refusal :=
  intImm c false ty false d a imm (bitR ty (fun x y => x &&& y)) s

/-- OR with an immediate (R108). -/
def execOrImm (c : Ctl) (ty : IntTy) (d a : Opnd) (imm : BitVec 18) (s : State) : Host.Outcome State Fault Refusal :=
  intImm c false ty false d a imm (bitR ty (fun x y => x ||| y)) s

/-- XOR with an immediate (R108). -/
def execXorImm (c : Ctl) (ty : IntTy) (d a : Opnd) (imm : BitVec 18) (s : State) : Host.Outcome State Fault Refusal :=
  intImm c false ty false d a imm (bitR ty (fun x y => x ^^^ y)) s

/-- SHL with an immediate (R108). -/
def execShlImm (c : Ctl) (ty : IntTy) (d a : Opnd) (imm : BitVec 18) (s : State) : Host.Outcome State Fault Refusal :=
  intShiftImm c ty d a imm shlR s

/-- SHR with an immediate (R108). -/
def execShrImm (c : Ctl) (ty : IntTy) (d a : Opnd) (imm : BitVec 18) (s : State) : Host.Outcome State Fault Refusal :=
  intShiftImm c ty d a imm shrR s

/-- SAR with an immediate (R108). -/
def execSarImm (c : Ctl) (ty : IntTy) (d a : Opnd) (imm : BitVec 18) (s : State) : Host.Outcome State Fault Refusal :=
  intShiftImm c ty d a imm (sarR ty.bits) s

/-- ROL with an immediate (R108). -/
def execRolImm (c : Ctl) (ty : IntTy) (d a : Opnd) (imm : BitVec 18) (s : State) : Host.Outcome State Fault Refusal :=
  intShiftImm c ty d a imm (rolR ty.bits) s

/-- MOV with an immediate (R108). -/
def execMovImm (c : Ctl) (ty : IntTy) (d : Opnd) (imm : BitVec 18) (s : State) : Host.Outcome State Fault Refusal :=
  aluOp (.reg c (isVec [d]) (intLat false ty) [(d, ty.wide)] []) ty.wide d s
    fun _ _ _ _ => ty.wr (immI ty imm)

/-- LEA with an immediate (R110). -/
def execLeaImm (c : Ctl) (sh : BitVec 3) (d a : Opnd) (imm : BitVec 18) (s : State) : Host.Outcome State Fault Refusal :=
  aluOp (.reg c (isVec [d, a]) 2 [(d, true)] [(a, true)]) true d s
    fun s g i l => s.rd64 g i l a + imm.signExtend 64 <<< sh.toNat

/-! ### Wide immediates (R112) -/

/-- MOVW (R112). -/
def execMovw (c : Ctl) (d : Opnd) (imm : BitVec 32) (s : State) : Host.Outcome State Fault Refusal :=
  aluOp (.reg c (isVec [d]) 2 [(d, false)] []) false d s fun _ _ _ _ => imm.zeroExtend 64

/-- MOVWX (R112). -/
def execMovwx (c : Ctl) (d : Opnd) (imm : BitVec 34) (s : State) : Host.Outcome State Fault Refusal :=
  aluOp (.reg c (isVec [d]) 4 [(d, true)] []) true d s fun _ _ _ _ => imm.signExtend 64

/-- ADDWX (R112). -/
def execAddwx (c : Ctl) (d : Opnd) (imm : BitVec 34) (s : State) : Host.Outcome State Fault Refusal :=
  aluOp (.reg c (isVec [d]) 4 [(d, true)] [(d, true)]) true d s fun s g i l => s.rd64 g i l d + imm.signExtend 64

/-- The high register of an even pair. -/
def highOf : Opnd → Opnd
  | .v n => .v (n + 1)
  | .s n => .s (n + 1)
  | o => o

/-- MOVWH writes D+1 alone (R112). -/
def execMovwh (c : Ctl) (d : Opnd) (imm : BitVec 32) (s : State) : Host.Outcome State Fault Refusal :=
  aluOp (.reg c (isVec [d]) 4 [(highOf d, false)] []) false (highOf d) s fun _ _ _ _ => imm.zeroExtend 64

/-! ### Compare (R113) -/

/-- a COND b (R75). -/
def condHolds (cond : Cond) (a b : Int) : Bool :=
  match cond with
  | .eq => a == b
  | .ne => a != b
  | .lt => a < b
  | .le => a ≤ b
  | .gt => b < a
  | .ge => b ≤ a

/-- Write a comparison: a lane's bit of kD in vector form, all four bits otherwise (R113, R163). -/
def State.perTargetK (s : State) (iss : Iss) (vec : Bool) (pm : BitVec 3) (d : Opnd) (f : Nat → Nat → Bool) : State :=
  ((s.targets iss vec pm).map fun p => (p, f p.1 p.2)).foldl
    (fun t q => if vec then t.wrKbit iss.gid q.1.1 q.1.2 d q.2 else t.wrKall iss.gid q.1.1 d q.2) s

/-- CMP (R113). -/
def execCmp (c : Ctl) (ty : IntTy) (cond : Cond) (d a b : Opnd) (s : State) : Host.Outcome State Fault Refusal :=
  let vec := isVec [a, b]
  let m : Meta := { Meta.reg c vec (intLat false ty) [(d, false)] [(a, ty.wide), (b, ty.wide)] with exact := true }
  instr m s fun iss s =>
    .done (s.perTargetK iss vec c.pm d fun i l => condHolds cond (rdI ty s iss.gid i l a) (rdI ty s iss.gid i l b))

end Sys2Proof.Machine
end

