-- ==== Sys2Proof/Machine/Mask.lean ====
section
/-! DEFINITION. Mask instructions and lane exchange: OP 0x04 and 0x05 (R115 to R122). -/

namespace Sys2Proof.Machine

/-- A mask instruction: slice-scalar, exact, LAT 2 (R51, R79, R115). -/
def Meta.mask (c : Ctl) (dsts srcs : List (Opnd × Bool)) : Meta := { Meta.reg c false 2 dsts srcs with exact := true }

/-- The low four bits of a slice's operand. -/
def mask4 (s : State) (gid i : Nat) (o : Opnd) : Mask := (s.rd32 gid i 0 o).extractLsb' 0 4

/-- A mask instruction that writes one destination per slice. -/
def maskOp (c : Ctl) (d : Opnd) (srcs : List (Opnd × Bool)) (s : State) (f : State → Nat → Nat → Word) :
    Host.Outcome State Fault Refusal :=
  instr (.mask c [(d, false)] srcs) s fun iss s =>
    .done (s.perTarget iss false c.pm false d fun i _ => (f s iss.gid i).zeroExtend 64)

/-- A four-bit mask as a word. -/
def ofMask (m : Mask) : Word := m.zeroExtend 32

/-- KAND (R115). -/
def execKand (c : Ctl) (d a b : Opnd) (s : State) : Host.Outcome State Fault Refusal :=
  maskOp c d [(a, false), (b, false)] s fun s g i => ofMask (mask4 s g i a &&& mask4 s g i b)

/-- KOR (R115). -/
def execKor (c : Ctl) (d a b : Opnd) (s : State) : Host.Outcome State Fault Refusal :=
  maskOp c d [(a, false), (b, false)] s fun s g i => ofMask (mask4 s g i a ||| mask4 s g i b)

/-- KXOR (R115). -/
def execKxor (c : Ctl) (d a b : Opnd) (s : State) : Host.Outcome State Fault Refusal :=
  maskOp c d [(a, false), (b, false)] s fun s g i => ofMask (mask4 s g i a ^^^ mask4 s g i b)

/-- KNOT (R115). -/
def execKnot (c : Ctl) (d a : Opnd) (s : State) : Host.Outcome State Fault Refusal :=
  maskOp c d [(a, false)] s fun s g i => ofMask (~~~(mask4 s g i a))

/-- KMOV (R115). -/
def execKmov (c : Ctl) (d a : Opnd) (s : State) : Host.Outcome State Fault Refusal :=
  maskOp c d [(a, false)] s fun s g i => ofMask (mask4 s g i a)

/-- EXECGET (R115). -/
def execExecget (c : Ctl) (d : Opnd) (s : State) : Host.Outcome State Fault Refusal :=
  instr { Meta.mask c [(d, false)] [] with readsExec := true } s fun iss s =>
    .done (s.perTarget iss false c.pm false d fun i _ => (ofMask (s.slice iss.gid i).exec).zeroExtend 64)

/-- EXECSET writes EXEC alone, and only lanes of P (R115, R116). -/
def execExecset (c : Ctl) (a : Opnd) (s : State) : Host.Outcome State Fault Refusal :=
  instr { Meta.mask c [] [(a, false)] with setsExec := true } s fun iss s =>
    .done (iss.slices.foldl (fun t i => t.modSlice iss.gid i fun x => { x with exec := mask4 s iss.gid i a &&& x.path }) s)

/-- KTEST (R115). -/
def execKtest (c : Ctl) (d a b : Opnd) (s : State) : Host.Outcome State Fault Refusal :=
  maskOp c d [(a, false), (b, false)] s fun s g i => if (mask4 s g i a &&& mask4 s g i b) != 0 then 1 else 0

/-! ### Lane exchange -/

/-- A 32-bit operand of a LANE.ID of the group. -/
def State.lane32 (s : State) (gid l : Nat) (o : Opnd) : Word := s.rd32 gid (l / 4) (l % 4) o

/-- A lane exchange that writes a v register per lane of ACTIVE: `f` has the LANE.IDs of ACTIVE and the lane
(R117). (DEDUCED, log entry 51) -/
def exchOp (c : Ctl) (lat : Nat) (wide : Bool) (d : Opnd) (srcs : List (Opnd × Bool)) (s : State)
    (f : State → Nat → List Nat → Nat → DWord) : Host.Outcome State Fault Refusal :=
  let m := Meta.reg c true lat [(d, wide)] srcs
  instr m s fun iss s =>
    let act := s.lanesAt m iss
    .done (s.perTarget iss true c.pm wide d fun i l => f s iss.gid act (4 * i + l))

/-- Segment width of SHFL (R118). -/
def Seg.width : Seg → Nat | .w32 => 32 | .w16 => 16 | .w8 => 8 | .w4 => 4

/-- The lane SHFL reads, if any (R118). -/
def shflFrom (mode : ShflMode) (w l b : Nat) : Option Nat :=
  let base := l - l % w
  let i := l % w
  match mode with
  | .idx => some (base + b % w)
  | .up => if b ≤ i then some (l - b) else none
  | .down => if i + b < w then some (l + b) else none
  | .xor => some (base + (i ^^^ (b % w)))

/-- SHFL (R118). -/
def execShfl (c : Ctl) (mode : ShflMode) (seg : Seg) (d a b : Opnd) (s : State) : Host.Outcome State Fault Refusal :=
  exchOp c 6 false d [(a, false), (b, false)] s fun s g act l =>
    match shflFrom mode (Seg.width seg) l (s.lane32 g l b).toNat with
    | some j => (s.lane32 g (if act.contains j then j else l) a).zeroExtend 64
    | none => (s.lane32 g l a).zeroExtend 64

/-- Σ 2^j over a set of lanes. -/
def laneBits (l : List Nat) : Nat := l.foldl (fun a j => a + 2 ^ j) 0

/-- BALLOT's predicate of a lane (R119). -/
def ballotPred (s : State) (g j : Nat) (a : Opnd) : Bool :=
  match a with
  | .k n => (s.rdK g (j / 4) n.toNat).getLsbD (j % 4)
  | o => s.lane32 g j o != 0

/-- BALLOT (R119). -/
def execBallot (c : Ctl) (d a : Opnd) (s : State) : Host.Outcome State Fault Refusal :=
  exchOp c 6 false d [(a, false)] s fun s g act _ => BitVec.ofNat 64 (laneBits (act.filter fun j => ballotPred s g j a))

/-- VOTE's verdict over the lanes of ACTIVE (R119). -/
def voteHolds (form : VoteForm) (vs : List Word) : Bool :=
  match form with
  | .any => vs.any fun v => v != 0
  | .all => vs.all fun v => v != 0
  | .uni => vs.all fun v => v == vs.headD 0

/-- VOTE (R119). -/
def execVote (c : Ctl) (form : VoteForm) (d a : Opnd) (s : State) : Host.Outcome State Fault Refusal :=
  let m : Meta := { Meta.reg c true 6 [(d, false)] [(a, false)] with exact := true }
  instr m s fun iss s =>
    let v := voteHolds form ((s.lanesAt m iss).map fun j => s.lane32 iss.gid j a)
    .done (s.perTargetK iss true c.pm d fun _ _ => v)

/-- Rd of a LANE.ID's operand. -/
def laneI (ty : IntTy) (s : State) (g j : Nat) (a : Opnd) : Int := rdI ty s g (j / 4) (j % 4) a

/-- The lanes a scan combines for lane l (R120). -/
def scanSet (act : List Nat) (exc : Bool) (l : Nat) : List Nat := act.filter fun j => j < l || (j == l && !exc)

/-- PSUM (R120). -/
def execPsum (c : Ctl) (ty : IntTy) (sat exc : Bool) (d a : Opnd) (s : State) : Host.Outcome State Fault Refusal :=
  exchOp c 12 ty.wide d [(a, ty.wide)] s fun s g act l =>
    wrI ty sat ((scanSet act exc l).foldl (fun r j => r + laneI ty s g j a) 0)

/-- PMAX (R120). -/
def execPmax (c : Ctl) (ty : IntTy) (exc : Bool) (d a : Opnd) (s : State) : Host.Outcome State Fault Refusal :=
  exchOp c 12 ty.wide d [(a, ty.wide)] s fun s g act l =>
    ty.wr ((scanSet act exc l).foldl (fun r j => max r (laneI ty s g j a)) ty.lo)

/-- LANEID (R121). -/
def execLaneid (c : Ctl) (form : LaneForm) (d : Opnd) (s : State) : Host.Outcome State Fault Refusal :=
  exchOp c 6 false d [] s fun _ _ act l =>
    BitVec.ofNat 64 (match form with
      | .id => l
      | .rank => (act.filter fun j => j < l).length
      | .count => act.length
      | .mask => laneBits act)

end Sys2Proof.Machine
end

