-- ==== Sys2Proof/Machine/FloatInstr.lean ====
section
/-! DEFINITION. Floating-point, special-function and conversion instructions: OP 0x06 to 0x08 (R158 to R174). -/

namespace Sys2Proof.Machine

/-- Write destinations that come with conditions: `f` gives value and conditions at (slice, lane). -/
def State.perTargetF (s : State) (iss : Iss) (vec : Bool) (pm : BitVec 3) (wide : Bool) (d : Opnd)
    (f : Nat → Nat → DWord × Nat) : State × Nat :=
  let vs := (s.targets iss vec pm).map fun p => (p, f p.1 p.2)
  (vs.foldl (fun t q => t.wrW wide iss.gid q.1.1 q.1.2 d q.2.1) s, vs.foldl (fun a q => a ||| q.2.2) 0)

/-- An instruction that writes one destination and raises conditions (R160). -/
def fpOp (m : Meta) (wide : Bool) (d : Opnd) (s : State) (f : State → Nat → Nat → Nat → DWord × Nat) :
    Host.Outcome State Fault Refusal :=
  instr m s fun iss s =>
    let r := s.perTargetF iss m.vec m.c.pm wide d (f s iss.gid)
    fpFinish m iss s r.1 r.2

/-- The elements of a float operand of a lane, with constants converted (R72, R158). -/
def fsrc (ty : FTy) (s : State) (g i l : Nat) (o : Opnd) : List Nat := elems ty (fconv ty o (s.rd32 g i l o))

/-- Modified elements of a float operand (R159). -/
def fmod (ty : FTy) (ng ab : Bool) (es : List Nat) : List Nat := es.map (modBits ty.fmt ng ab)

/-- Elementwise results as a register and the conditions of all of them. -/
def fpack (ty : FTy) (rs : List (Nat × Nat)) : DWord × Nat :=
  ((ofElems ty (rs.map Prod.fst)).zeroExtend 64, rs.foldl (fun a r => a ||| r.2) 0)

/-- A float instruction of two sources, element by element (R161). -/
def fop2 (c : Ctl) (ty : FTy) (sat : Bool) (md : FMods) (d a b : Opnd) (f : Nat → Nat → Nat × Nat) (s : State) :
    Host.Outcome State Fault Refusal :=
  fpOp (.reg c (isVec [d, a, b]) 4 [(d, false)] [(a, false), (b, false)]) false d s fun s g i l =>
    let x := fmod ty md.nega md.absa (fsrc ty s g i l a)
    let y := fmod ty md.negb md.absb (fsrc ty s g i l b)
    fpack ty ((x.zip y).map fun p => let r := f p.1 p.2; (fsat ty.fmt sat r.1, r.2))

/-- FADD (R161). -/
def execFadd (c : Ctl) (ty : FTy) (rnd : Rnd) (sat : Bool) (md : FMods) (d a b : Opnd) (s : State) :
    Host.Outcome State Fault Refusal := fop2 c ty sat md d a b (faddE ty.fmt rnd) s

/-- FSUB: the sum with the negative of b (R161). -/
def execFsub (c : Ctl) (ty : FTy) (rnd : Rnd) (sat : Bool) (md : FMods) (d a b : Opnd) (s : State) :
    Host.Outcome State Fault Refusal := fop2 c ty sat md d a b (fun x y => faddE ty.fmt rnd x (fnegE ty.fmt y)) s

/-- FMUL (R161). -/
def execFmul (c : Ctl) (ty : FTy) (rnd : Rnd) (sat : Bool) (md : FMods) (d a b : Opnd) (s : State) :
    Host.Outcome State Fault Refusal := fop2 c ty sat md d a b (fmulE ty.fmt rnd) s

/-- FFMA (R161). -/
def execFfma (c : Ctl) (ty : FTy) (rnd : Rnd) (sat : Bool) (md : FMods) (negc : Bool) (d a b e : Opnd) (s : State) :
    Host.Outcome State Fault Refusal :=
  fpOp (.reg c (isVec [d, a, b, e]) 4 [(d, false)] [(a, false), (b, false), (e, false)]) false d s fun s g i l =>
    let x := fmod ty md.nega md.absa (fsrc ty s g i l a)
    let y := fmod ty md.negb md.absb (fsrc ty s g i l b)
    let z := fmod ty negc false (fsrc ty s g i l e)
    fpack ty ((x.zip (y.zip z)).map fun p => let r := ffmaE ty.fmt rnd p.1 p.2.1 p.2.2; (fsat ty.fmt sat r.1, r.2))

/-- FMIN (R162). -/
def execFmin (c : Ctl) (ty : FTy) (sat : Bool) (md : FMods) (d a b : Opnd) (s : State) :
    Host.Outcome State Fault Refusal := fop2 c ty sat md d a b (fun x y => (fminmaxE ty.fmt false x y, 0)) s

/-- FMAX (R162). -/
def execFmax (c : Ctl) (ty : FTy) (sat : Bool) (md : FMods) (d a b : Opnd) (s : State) :
    Host.Outcome State Fault Refusal := fop2 c ty sat md d a b (fun x y => (fminmaxE ty.fmt true x y, 0)) s

/-- FCMP (R163). -/
def execFcmp (c : Ctl) (cond : FCond) (md : FMods) (d a b : Opnd) (s : State) : Host.Outcome State Fault Refusal :=
  let vec := isVec [a, b]
  let m : Meta := { Meta.reg c vec 4 [(d, false)] [(a, false), (b, false)] with exact := true }
  instr m s fun iss s =>
    .done (s.perTargetK iss vec c.pm d fun i l =>
      fcmpE cond (modBits .f32 md.nega md.absa (s.rd32 iss.gid i l a).toNat)
        (modBits .f32 md.negb md.absb (s.rd32 iss.gid i l b).toNat))

/-! ### Special functions (R165 to R167) -/

/-- A special function of one FP32 source. -/
def sfOp (c : Ctl) (lat : Nat) (sat nega absa : Bool) (d a : Opnd) (f : Nat → Nat × Nat) (s : State) :
    Host.Outcome State Fault Refusal :=
  fpOp (.reg c (isVec [d, a]) lat [(d, false)] [(a, false)]) false d s fun s g i l =>
    let r := f (modBits .f32 nega absa (s.rd32 g i l a).toNat)
    (BitVec.ofNat 64 (fsat .f32 sat r.1), r.2)

/-- FRCP (R166). -/
def execFrcp (c : Ctl) (rnd : Rnd) (sat nega absa : Bool) (d a : Opnd) (s : State) :
    Host.Outcome State Fault Refusal := sfOp c 16 sat nega absa d a (frcpE rnd) s
/-- FRSQ (R166). -/
def execFrsq (c : Ctl) (rnd : Rnd) (sat nega absa : Bool) (d a : Opnd) (s : State) :
    Host.Outcome State Fault Refusal := sfOp c 16 sat nega absa d a (frsqE rnd) s
/-- FEXP2 (R166). -/
def execFexp2 (c : Ctl) (rnd : Rnd) (sat nega absa : Bool) (d a : Opnd) (s : State) :
    Host.Outcome State Fault Refusal := sfOp c 16 sat nega absa d a (fexp2E rnd) s
/-- FLOG2 (R166). -/
def execFlog2 (c : Ctl) (rnd : Rnd) (sat nega absa : Bool) (d a : Opnd) (s : State) :
    Host.Outcome State Fault Refusal := sfOp c 16 sat nega absa d a (flog2E rnd) s
/-- FSIN (R167). -/
def execFsin (c : Ctl) (sat nega absa : Bool) (d a : Opnd) (s : State) :
    Host.Outcome State Fault Refusal := sfOp c 20 sat nega absa d a fsinE s
/-- FCOS (R167). -/
def execFcos (c : Ctl) (sat nega absa : Bool) (d a : Opnd) (s : State) :
    Host.Outcome State Fault Refusal := sfOp c 20 sat nega absa d a fcosE s
/-- FTANH (R167). -/
def execFtanh (c : Ctl) (sat nega absa : Bool) (d a : Opnd) (s : State) :
    Host.Outcome State Fault Refusal := sfOp c 20 sat nega absa d a ftanhE s

/-! ### Conversion (R168, R169) -/

/-- CVT (R168, R169): a 16-bit source type reads bits [15:0] of the operand, a constant's FP32 pattern included.
(DEDUCED, log entry 51) -/
def execCvt (c : Ctl) (dt st_ : CvtTy) (rnd : Rnd) (d a : Opnd) (s : State) : Host.Outcome State Fault Refusal :=
  fpOp (.reg c (isVec [d, a]) 4 [(d, dt.wide)] [(a, st_.wide)]) dt.wide d s
    fun s g i l => cvtE dt st_ rnd (s.rdW st_.wide g i l a)

/-! ### PACK and UNPACK (R170 to R173) -/

/-- The first lane of a lane's block. -/
def blockBase (slot : DWord) (l : Nat) : Nat := l - l % slotN slot

/-- The elements of a block: FP32 of the lanes in ACTIVE, +0 elsewhere (R171). -/
def packElems (s : State) (g : Nat) (act : List Nat) (slot : DWord) (base : Nat) (a : Opnd) : List XR :=
  (List.range (slotN slot)).map fun k =>
    if act.contains (base + k) then fpVal .f32 (s.lane32 g (base + k) a).toNat else .fin false 0 1

/-- What PACK gives a lane: vD in the low word, vD+1 in the high one (R171). -/
def packLane (s : State) (g : Nat) (act : List Nat) (slot : DWord) (a : Opnd) (l : Nat) : DWord :=
  if slotKind slot = 1 then
    let n := slotN slot
    let base := blockBase slot l
    let k := l - base
    let p := packBlock .rne slot (packElems s g act slot base a)
    let r := recordBytes slot p
    let w := blockP n (slotW slot) / 4
    let lo : Nat :=
      if k < w then leNat ((r.drop (4 * k)).take 4)
      else if k = n - 1 then laneBits (p.outliers.map Prod.fst)
      else 0
    let hi := ((p.outliers.find? fun o => o.1 == k).map Prod.snd).getD 0
    BitVec.ofNat 64 (hi * 2 ^ 32 + lo)
  else
    BitVec.ofNat 64 (round (slotFmt slot) .rne ((fpVal .f32 (s.lane32 g l a).toNat).div (slotScale slot))).1

/-- PACK (R171): computed from its sources at issue, written when its result is (PACK_RESULT_WRITTEN). -/
def execPack (c : Ctl) (slot : BitVec 3) (d a : Opnd) (s : State) : Host.Outcome State Fault Refusal :=
  let m : Meta := { Meta.reg c true 0 [(d, true)] [(a, false)] with lat := none, opFlag := true }
  instr m s fun iss s =>
    let sl := s.slotOf iss.tid slot
    if slotKind sl = 0 then .trap s iss.illegal
    else
      let act := s.lanesAt m iss
      let n := s.names.op
      let rs := act.map fun l => (l, packLane s iss.gid act sl a l)
      .op (s.modDev fun v => { v with packs := v.packs ++ [{ gid := iss.gid, oid := n, results := rs }] })
        { Op.of iss m [] with wait := 1 }

/-- PACK_RESULT_WRITTEN: a PACK's registers and outlier list are written (R79, R171). -/
def execPackResultWritten (op : Nat) (s : State) : Host.Outcome State Fault Refusal :=
  match s.dev.packs.find? fun p => p.oid == op with
  | none => .next s
  | some p =>
    let s := p.results.foldl (fun s r => s.land p.gid op r.1 r.2) s
    let s := s.modDev fun v => { v with packs := v.packs.filter fun q => q.oid != op }
    .next ((s.answered p.gid op).settleGroup p.gid)

/-- What UNPACK gives a lane before the scale (R172). -/
def unpackLane (s : State) (g : Nat) (slices : List Nat) (slot : DWord) (a : BitVec 6) (l : Nat) : XR :=
  let word (j hi : Nat) : Word := if slices.contains (j / 4) then s.rdV g j (a.toNat + hi) else 0
  if slotKind slot = 1 then
    let n := slotN slot
    let base := blockBase slot l
    let i := l - base
    let r := (List.range (blockP n (slotW slot) / 4)).flatMap fun j => leBytes 4 (word (base + j) 0).toNat
    let e := (r.getD (blockM n (slotW slot)) 0).toNat
    if 1 ≤ e && e ≤ 254 && (word (base + n - 1) 0).getLsbD i then fpVal .f32 (s.rdV g l (a.toNat + 1)).toNat
    else decodeBfp slot r i
  else if slotKind slot = 4 then fpVal .f32 (s.rdV g l a.toNat).toNat
  else fpVal (slotFmt slot) ((s.rdV g l a.toNat).toNat % 2 ^ 16)

/-- The lanes whose vA holds a record word or a bitmap that an UNPACK of these active lanes reads: whatever their EXEC
and PM bits, in the slices of the gang (R172). -/
def recordLanes (slices act : List Nat) (slot : DWord) : List Nat :=
  let n := slotN slot
  let words := blockP n (slotW slot) / 4
  (slices.flatMap fun i => (List.range 4).map fun l => 4 * i + l).filter fun j =>
    (j - blockBase slot j < words || j - blockBase slot j = n - 1) && act.any fun l => blockBase slot l == blockBase slot j

/-- How UNPACK presents itself: under KIND BFP it reads vA at the lanes that hold its records and vA+1 at its own lanes,
under any other KIND vA alone (R172). -/
def unpackMeta (c : Ctl) (slot : BitVec 3) (d a : Opnd) (s : State) : Meta :=
  let m : Meta := .reg c true 4 [(d, false)] [(a, false)]
  match s.issOf, a with
  | some iss, .v n =>
    let sl := s.slotOf iss.tid slot
    if slotKind sl = 1 then
      { m with srcs := [(.v (n + 1), false)], also := [(.v n.toNat, recordLanes iss.slices (s.lanesAt m iss) sl)] }
    else m
  | _, _ => m

/-- UNPACK (R172). -/
def execUnpack (c : Ctl) (rnd : Rnd) (slot : BitVec 3) (d a : Opnd) (s : State) : Host.Outcome State Fault Refusal :=
  instr (unpackMeta c slot d a s) s fun iss s =>
    let sl := s.slotOf iss.tid slot
    if slotKind sl = 0 then .trap s iss.illegal
    else
      let n := match a with | .v n => n | _ => 0
      .done (s.perTarget iss true c.pm false d fun i l =>
        BitVec.ofNat 64 (round .f32 rnd ((unpackLane s iss.gid iss.slices sl n (4 * i + l)).mul (slotScale sl))).1)

end Sys2Proof.Machine
end

