-- ==== Sys2Proof/Machine/Engine.lean ====
section
/-! DEFINITION. Records of the plane and copy commands: how they are read and checked, and the command that is
accepted (R243 to R247, R251, R257, R258, R260, R263, R265). -/

namespace Sys2Proof.Machine

namespace State

/-- The grid plane rectangle G of a team's launch (R243): x0, y0, w, h. -/
def planeRect (s : State) (tid : Nat) : Nat × Nat × Nat × Nat := (s.launchOf tid).rect
/-- PLSIZE in 32-byte units; 0 means no plane (R39, R243). -/
def planeUnits (s : State) (tid : Nat) : Nat := (s.launchOf tid).plane 46 14
/-- PLOFF in 32-byte units (R39). -/
def planeBase (s : State) (tid : Nat) : Nat := (s.launchOf tid).plane 32 14

/-- A record's doublewords at an offset: none when the offset is no multiple of 16 or some byte is out of range
(R247 reason 1); SCR.STATUS is left alone. -/
def record (s : State) (tid : Nat) (level : Level) (o : Word) (n : Nat) : Option (List DWord) :=
  let cid := (s.team tid).core
  let offs := (List.range (8 * n)).map fun i => s.mapOff tid level ((o.toNat + i) % 2 ^ 32)
  if o.toNat % 16 = 0 && offs.all Option.isSome then
    some (dwords n (offs.map fun b => mread s.scratch (scrKey cid (b.getD 0))))
  else none

end State

/-- A rectangle (x0, y0, w, h) lies inside another. -/
def rectIn (a b : Nat × Nat × Nat × Nat) : Bool :=
  b.1 ≤ a.1 && b.2.1 ≤ a.2.1 && a.1 + a.2.2.1 ≤ b.1 + b.2.2.1 && a.2.1 + a.2.2.2 ≤ b.2.1 + b.2.2.2

/-- A position lies in a rectangle. -/
def posIn (p : Nat × Nat) (r : Nat × Nat × Nat × Nat) : Bool :=
  r.1 ≤ p.1 && p.1 < r.1 + r.2.2.1 && r.2.1 ≤ p.2 && p.2 < r.2.1 + r.2.2.2

/-- The rectangle of a placement or frame doubleword (R244, R245). -/
def dwRect (d : DWord) : Nat × Nat × Nat × Nat := (dfld d 0 8, dfld d 8 8, dfld d 16 8, dfld d 24 8)

/-- The positions of a rectangle in ascending (y, x). -/
def rectCells (r : Nat × Nat × Nat × Nat) : List (Nat × Nat) :=
  (List.range r.2.2.2).flatMap fun j => (List.range r.2.2.1).map fun i => (r.1 + i, r.2.1 + j)

/-! ### Scroll records (R251) -/

/-- Fields of a scroll record's control doubleword. -/
def scrDx (d : DWord) : Int := sextN 8 (dfld d 0 8)
/-- Rows to move. -/
def scrDy (d : DWord) : Int := sextN 8 (dfld d 8 8)
/-- EDGE: 0 WRAP, 1 SPILL, 2 DROP. -/
def scrEdge (d : DWord) : Nat := dfld d 16 2
/-- N, the steps of a scroll (R252). -/
def scrSteps (d : DWord) : Nat := (scrDx d).natAbs + (scrDy d).natAbs
/-- Scope of ACQ and REL. -/
def scrScope (d : DWord) : Scope := scopeOf (BitVec.ofNat 2 (dfld d 22 2))
/-- The frame of a scroll in a grid with plane G: FW = 0 selects G (R245). -/
def scrFrame (g : Nat × Nat × Nat × Nat) (frm : DWord) : Nat × Nat × Nat × Nat := if dfld frm 16 8 = 0 then g else dwRect frm

/-- The unit move of step k, counted from 1 (R252). -/
def scrMove (d : DWord) (k : Nat) : Int × Int :=
  if k ≤ (scrDx d).natAbs then ((scrDx d).sign, 0) else (0, (scrDy d).sign)

/-- dest(b) of a block at p (R252). -/
def scrDest (f : Nat × Nat × Nat × Nat) (edge : Nat) (mv : Int × Int) (p : Nat × Nat) : Option (Nat × Nat) :=
  let qx := (p.1 : Int) + mv.1
  let qy := (p.2 : Int) + mv.2
  if (f.1 : Int) ≤ qx && qx < f.1 + f.2.2.1 && (f.2.1 : Int) ≤ qy && qy < f.2.1 + f.2.2.2 then some (qx.toNat, qy.toNat)
  else if edge = 0 then
    some (f.1 + wrapMod (qx - f.1) f.2.2.1, f.2.1 + wrapMod (qy - f.2.1) f.2.2.2)
  else none
where
  /-- Euclidean remainder of a coordinate. -/
  wrapMod (x : Int) (n : Nat) : Nat := (x % n).toNat

/-- Blocks and the count that has left after `n` more steps from step `k` (R252, R257). -/
def scrAfter (f : Nat × Nat × Nat × Nat) (d : DWord) (bs : List (Nat × Nat)) (out k : Nat) : Nat → List (Nat × Nat) × Nat
  | 0 => (bs, out)
  | n + 1 =>
    let ds := bs.map (scrDest f (scrEdge d) (scrMove d (k + 1)))
    scrAfter f d (ds.filterMap id) (out + (ds.filter Option.isNone).length) (k + 1) n

namespace State

/-- The reason a scroll record fails with, if any (R247); `spill` is the spill base, none when D is 0. -/
def scrollReason (s : State) (tid : Nat) (r : List DWord) (spill : Option DWord) : Option Nat :=
  let plc := r.getD 0 0
  let frm := r.getD 1 0
  let d := r.getD 2 0
  let offs := r.getD 3 0
  let g := s.planeRect tid
  let units := s.planeUnits tid
  let bad2 :=
    dfld plc 54 10 != 0 || 11775 < dfld plc 40 14 || dfld plc 32 8 = 0 || 128 < dfld plc 32 8
      || dfld plc 24 8 = 0 || 32 < dfld plc 24 8 || dfld plc 16 8 = 0 || 64 < dfld plc 16 8 || 31 < dfld plc 8 8
      || 63 < dfld plc 0 8
      || dfld frm 32 32 != 0
      || (if dfld frm 16 8 = 0 then dfld frm 0 32 != 0
          else 63 < dfld frm 0 8 || 31 < dfld frm 8 8 || 64 < dfld frm 16 8 || dfld frm 24 8 = 0 || 32 < dfld frm 24 8)
      || dfld d 26 6 != 0 || dfld d 18 1 != 0 || scrEdge d = 3
      || 63 < (scrDx d).natAbs || 31 < (scrDy d).natAbs
      || (dfld d 20 2 = 0 && dfld d 22 2 != 0)
      || (dfld d 25 1 = 1 && (dfld offs 32 32 % 16 != 0 || dfld offs 62 2 != 2))
      || (dfld d 24 1 = 1 && dfld offs 0 32 % 16 != 0)
  let f := scrFrame g frm
  if bad2 then some 2
  else if units = 0 || !rectIn f g || !rectIn (dwRect plc) f then some 3
  else if units < dfld plc 40 14 + dfld plc 32 8 then some 4
  else if (scrEdge d = 1 && spill.isNone) || (spill.getD 0).toNat % 32 != 0 then some 5
  else none

/-! ### Shape records (R258) -/

end State

/-- SPACE of a shape record: 0 MEMORY, 1 SCRATCH, 2 TILE, 3 PLANE. -/
def shSpace (r : List DWord) : Nat := dfld (r.getD 6 0) 0 2
/-- Element size in bytes. -/
def shES (r : List DWord) : Nat := 2 ^ dfld (r.getD 6 0) 2 2
/-- A flag of a shape record's control doubleword. -/
def shFlag (r : List DWord) (n : Nat) : Bool := dfld (r.getD 6 0) n 1 = 1
/-- Scope of a shape record's ACQ or REL. -/
def shScope (r : List DWord) : Scope := scopeOf (BitVec.ofNat 2 (dfld (r.getD 6 0) 6 2))
/-- Extent of dimension d. -/
def shN (r : List DWord) (d : Nat) : Nat := dfld (r.getD 1 0) (16 * d) 16
/-- Elements of a shape. -/
def shCount (r : List DWord) : Nat := shN r 0 * shN r 1 * shN r 2 * shN r 3
/-- Byte stride of dimension d (R259). -/
def shStride (r : List DWord) (d : Nat) : Int :=
  match d with
  | 0 => shES r
  | 1 => sextN 32 (dfld (r.getD 2 0) 0 32)
  | 2 => sextN 32 (dfld (r.getD 2 0) 32 32)
  | _ => sextN 32 (dfld (r.getD 3 0) 0 32)
/-- The byte offset e of element n in enumeration order (R259, R260). -/
def shOffset (r : List DWord) (n : Nat) : Int :=
  let i0 := n % shN r 0
  let i1 := n / shN r 0 % shN r 1
  let i2 := n / (shN r 0 * shN r 1) % shN r 2
  let i3 := n / (shN r 0 * shN r 1 * shN r 2)
  let w (d i : Nat) : Int :=
    let o := dfld (r.getD 4 0) (16 * d) 16
    let m := dfld (r.getD 5 0) (16 * d) 16
    if m = 0 then (o + i : Nat) else ((o + i) % m : Nat)
  w 0 i0 * shStride r 0 + w 1 i1 * shStride r 1 + w 2 i2 * shStride r 2 + w 3 i3 * shStride r 3

/-- Reserved fields and field values of a shape record (R247 reason 2, R258). -/
def shapeBad (r : List DWord) : Bool :=
  let b := r.getD 0 0
  let f := r.getD 6 0
  let offs := r.getD 7 0
  (List.range 4).any (fun d => shN r d = 0) || dfld (r.getD 3 0) 32 32 != 0 || dfld f 11 53 != 0
    || (dfld f 4 2 = 0 && dfld f 6 2 != 0)
    || (match shSpace r with
        | 0 => dfld b 56 8 != 0
        | 1 => dfld b 32 32 != 0
        | 2 => dfld b 4 60 != 0
        | _ => dfld b 48 16 != 0)
    || (shFlag r 8 && (dfld offs 32 32 % 16 != 0 || (shSpace r = 3 && dfld offs 62 2 != 2)))
    || (shFlag r 9 && dfld offs 0 32 % 16 != 0)

/-- Strides and a memory base that are no multiple of the element size (R259). -/
def shapeSkew (r : List DWord) : Bool :=
  (List.range 4).any (fun d => shStride r d % shES r != 0) || (shSpace r = 0 && dfld (r.getD 0 0) 0 56 % shES r != 0)

/-- Source flags that must be 0 in a source, and destination flags in a destination (R260). -/
def pairFlagsBad (src dst : List DWord) : Bool :=
  shFlag src 5 || shFlag src 8 || shFlag src 9 || shFlag dst 4 || shFlag dst 10

/-- The conditions of R265 on a collective record beyond its shape: reserved fields and values (reason 2). -/
def collBad (r : List DWord) : Bool :=
  dfld (r.getD 8 0) 44 20 != 0 || dfld (r.getD 9 0) 48 16 != 0 || dfld (r.getD 9 0) 8 8 != 0 || 7 < dfld (r.getD 9 0) 4 4
    || dfld (r.getD 9 0) 3 1 != 0 || dfld (r.getD 10 0) 32 32 != 0 || dfld (r.getD 10 0) 0 32 % 4 != 0 || r.getD 11 0 != 0

/-- K of a collective record: the product of the extents of the axes combined across (R265). -/
def collK (r : List DWord) : Nat :=
  let e := (boxOf (dfld (r.getD 8 0) 0 44)).2
  let ax (b n : Nat) : Nat := if dfld (r.getD 9 0) b 1 = 1 then n + 1 else 1
  ax 0 e.1 * ax 1 e.2.1 * ax 2 e.2.2

/-- R265's conditions that are reason 6. -/
def collShapeBad (src r : List DWord) : Bool :=
  let b := boxOf (dfld (r.getD 8 0) 0 44)
  let rop := dfld (r.getD 9 0) 4 4
  255 < b.1.1 + b.2.1 || 127 < b.1.2.1 + b.2.2.1 || 127 < b.1.2.2 + b.2.2.2 || (rop = 7 && shES r != 4) || shSpace r != 0
    || (if rop = 0 then shCount r != collK r * shCount src else shCount r != shCount src)

namespace State

/-- A SPACE PLANE record without a plane, or on a core outside G (R247 reason 3). -/
def planeBad (s : State) (tid : Nat) (r : List DWord) : Bool :=
  shSpace r = 3 && (s.planeUnits tid = 0 || !posIn (dfld (r.getD 0 0) 32 8, dfld (r.getD 0 0) 40 8) (s.planeRect tid))

/-- The reason a pair of records fails with, and whether it is the destination's, for COPY, COPY.DEC and COPYX
(R247); checks in ascending reason. -/
def copyReason (s : State) (tid : Nat) (kind : CmdKind) (src dst : List DWord) : Option (Nat × Bool) :=
  if shapeBad src || (kind != .decode && shFlag src 10) then some (2, false)
  else if shapeBad dst || (kind == .copyx && collBad dst) then some (2, true)
  else if s.planeBad tid src then some (3, false)
  else if s.planeBad tid dst then some (3, true)
  else if shapeSkew src then some (6, false)
  else if shapeSkew dst || pairFlagsBad src dst then some (6, true)
  else
    match kind with
    | .decode =>
      if 2 ≤ shSpace src || shES src != 1 || shN src 1 != 1 || shN src 2 != 1 || shN src 3 != 1 || dfld (src.getD 5 0) 0 16 != 0 then
        some (6, false)
      else if (shSpace dst != 1 && shSpace dst != 3) || shES dst != 1 then some (6, true)
      else none
    | .copyx =>
      if shES src != shES dst || collShapeBad src dst then some (6, true)
      else if 2 ^ 20 < shCount src * shES src then some (7, false)
      else none
    | _ => if shES src != shES dst || shCount src != shCount dst then some (6, true) else none

/-! ### Acceptance -/

/-- A command with nothing done. -/
def blankCmd (kind : CmdKind) (tid gid : Nat) (addr : Addr) (level : Level) : Cmd :=
  { kind := kind, gid := gid, tid := tid, oid := none, addr := addr, born := 0, got := [], landed := false, pas := [], src := [], dst := [], started := false, pos := 0, bits := 0, spill := 0
    spilled := 0, snap := 0, expired := false, slot := 0, gen := 0, blocks := [], level := level, written := false, err := none
    fault := none, rel := none, status := none, result := [], joined := false, sent := false }

/-- Perform a command's acquire and capture its snapshot (R196). -/
def capture (s : State) (tid : Nat) (acq : Bool) (scope : Scope) : State := if acq then s.acquire tid scope else s

/-- Accept SCRL or SCRLR: the command and the state, or the reason and the record's offset (R247, R252, R257). -/
def acceptScroll (s : State) (tid gid : Nat) (addr : Addr) (resume : Bool) (o : Word) (spill : Option DWord) :
    Except (Nat × Word) (Cmd × State) :=
  let level := (s.group gid).level
  match s.record tid level o (if resume then 6 else 4) with
  | none => .error (1, o)
  | some r =>
    let d := r.getD 2 0
    let r4 := r.getD 4 0
    let r5 := r.getD 5 0
    let sp : Option DWord :=
      if resume && spill.isNone then (if r5.extractLsb' 0 56 = 0 then none else some ((r5.extractLsb' 0 56).zeroExtend 64))
      else spill
    if resume && (dfld r4 16 47 != 0 || dfld r5 56 8 != 0) then .error (2, o)
    else
      match s.scrollReason tid r sp with
      | some n => .error (n, o)
      | none =>
        let steps := if resume then dfld r4 0 16 else 0
        if resume && (dfld r4 63 1 = 0 || scrSteps d ≤ steps) then .error (8, o)
        else
          let f := scrFrame (s.planeRect tid) (r.getD 1 0)
          let (bs, out) := scrAfter f d (rectCells (dwRect (r.getD 0 0))) 0 0 steps
          let s := s.capture tid (dfld d 20 1 = 1) (scrScope d)
          .ok ({ blankCmd .scroll tid gid addr level with
                 src := r.take 4, pos := steps, blocks := bs, spilled := out, spill := (sp.getD 0).toNat % 2 ^ 56
                 snap := (s.team tid).snap }, s)

/-- Accept COPY, COPY.DEC or COPYX (R247, R260, R263, R265). -/
def acceptCopy (s : State) (tid gid : Nat) (addr : Addr) (kind : CmdKind) (a b : Word) :
    Except (Nat × Word) (Cmd × State) :=
  let level := (s.group gid).level
  match s.record tid level a 8, s.record tid level b (if kind == .copyx then 12 else 8) with
  | none, _ => .error (1, a)
  | _, none => .error (1, b)
  | some src, some dst =>
    match s.copyReason tid kind src dst with
    | some (n, onDst) => .error (n, if onDst then b else a)
    | none =>
      let s := s.capture tid (shFlag src 4) (shScope src)
      let k := s.core (s.team tid).core
      let slot := if shFlag src 10 then 1 else 0
      .ok ({ blankCmd kind tid gid addr level with
             src := src, dst := dst, slot := slot, gen := (if slot = 1 then k.tslot1 else k.tslot0).gen
             snap := (s.team tid).snap }, s)

/-- Change a table slot of a core (R262). -/
def modTslot (s : State) (cid slot : Nat) (f : TSlot → TSlot) : State :=
  s.modCore cid fun k => if slot = 1 then { k with tslot1 := f k.tslot1 } else { k with tslot0 := f k.tslot0 }

/-- A table slot of a core. -/
def tslot (s : State) (cid slot : Nat) : TSlot := if slot = 1 then (s.core cid).tslot1 else (s.core cid).tslot0

/-- Accept DTLOAD: the slot's generation rises at issue (R262). -/
def acceptDtload (s : State) (tid gid : Nat) (addr : Addr) (acq : Bool) (scope : Scope) (slot : Bool) (a : DWord) :
    Cmd × State :=
  let cid := (s.team tid).core
  let n := if slot then 1 else 0
  let s := s.modTslot cid n fun t => { t with gen := t.gen + 1 }
  let s := s.capture tid acq scope
  ({ blankCmd .dtload tid gid addr (s.group gid).level with
     src := [a], slot := n, gen := (s.tslot cid n).gen, snap := (s.team tid).snap }, s)

/-- A COPYX makes a launch that runs in rollback mode non-replayable at once (R200). -/
def endReplay (s : State) (c : Cmd) : State :=
  let l := (s.team c.tid).launch
  if c.kind == .copyx && rollsBack (s.launch l) then s.dropPins l else s

/-- Queue a command on the engines: its number and the state. The engine has it once it is 128 cycles old (R248, R362). -/
def queueCmd (s : State) (c : Cmd) : Nat × State :=
  let k := s.names.cmd
  (k, { s with names := { s.names with cmd := k + 1 }, cmds := sput s.cmds k { c with born := s.clock } })

/-- Post an asynchronous trap in a team: to the group, to its lowest live group, or, with none left, a kill of
the context (R250, R299). -/
def postAsync (s : State) (tid gid : Nat) (c : Cause) : State :=
  let t := s.team tid
  let target := if s.groupDone gid then (s.teamGroups tid).find? fun g => !s.groupDone g else some gid
  match target with
  | some g => s.modGroup g fun x => { x with asyncs := x.asyncs ++ [c] }
  | none =>
    s.requestKill t.ctx
      { kind := 5, launch := (s.launch t.launch).ident, reason := c.reason, gslot := (s.group gid).slot, cid := t.core
        body := bytesOfDword c.addr }

/-- A plane fault of a command (R250). -/
def planeFault (s : State) (tid gid reason : Nat) (addr : Addr) (aux : List DWord) : State :=
  s.postAsync tid gid { code := 17, reason := reason, info := 0, addr := addr.zeroExtend 64, fpc := 0, aux := aux }

/-- Issue the class 2 word of a fired trigger with its recorded values: a command counted by no counter, or
plane fault 7 (R238, R250). -/
def fireWord (s : State) (tid gid : Nat) (addr : Addr) (w : DWord) (vals : List DWord) : State :=
  let v (n : Nat) : Word := (vals.getD n 0).extractLsb' 0 32
  let inl (o : Opnd) (n : Nat) : Word :=
    match o with
    | .pos x => BitVec.ofNat 32 x.toNat
    | .neg x => BitVec.ofInt 32 ((x.toNat : Int) - 16)
    | _ => v n
  let got : Except (Nat × Word) (Cmd × State) :=
    match decodeG w with
    | .ok (.scrl _ d a) => s.acceptScroll tid gid addr false (inl a 1) (d.map fun _ => vals.getD 0 0)
    | .ok (.scrlr _ d a) => s.acceptScroll tid gid addr true (inl a 1) (d.map fun _ => vals.getD 0 0)
    | .ok (.copy _ a b) => s.acceptCopy tid gid addr .copy (inl a 1) (inl b 2)
    | .ok (.copyx _ a b) => s.acceptCopy tid gid addr .copyx (inl a 1) (inl b 2)
    | .ok (.copyDec _ a b) => s.acceptCopy tid gid addr .decode (inl a 1) (inl b 2)
    | .ok (.dtload _ acq scope slot _) => .ok (s.acceptDtload tid gid addr acq scope slot (vals.getD 1 0))
    | _ => .error (2, 0)
  match got with
  | .ok (c, s) => (((s.endReplay c).queueCmd c)).2
  | .error _ => s.planeFault tid gid 7 addr []

end State

end Sys2Proof.Machine
end

