-- ==== Sys2Proof/Machine/Twins.lean ====
section
/-! DEFINITION. The matrix sequencer where groups meet it: its place in the stream, MWAIT, and the pairing of twins
(R291, R302 to R307). -/

namespace Sys2Proof.Machine

/-- A target is satisfied at a phase (R231). -/
def satisfied (phase tgt : Nat) : Bool := (phase + 2 ^ 32 - tgt % 2 ^ 32) % 2 ^ 32 < 2 ^ 31

/-- The object offset an operand names, aligned down to 16 (R226). -/
def alignObj (o : Nat) : Nat := o - o % 16

namespace State

/-! ### Twins (R300, R302) -/

/-- The team of a twin number of a sequencer. -/
def twinTeam (s : State) (q n : Nat) : Option Nat :=
  let a := (s.seqr q).tid
  match (s.team a).pair with
  | none => if n = 0 then some a else none
  | some b => if (s.team a).twin = n then some a else some b

/-- A twin pair holds the sequencer. -/
def twinMode (s : State) (q : Nat) : Bool := (s.team (s.seqr q).tid).pair.isSome

/-- A twin, or a team, is live until it is done; one that performs the release of R190 is done (R26, R302). -/
def teamLive (s : State) (tid : Nat) : Bool := (s.team tid).st == .running || (s.team tid).st == .suspended

/-- A team has released its resources. -/
def teamGone (s : State) (tid : Nat) : Bool := (s.team tid).st == .done || (s.team tid).st == TeamSt.killed

/-- The twin of a number is live. -/
def twinLive (s : State) (q n : Nat) : Bool := (s.twinTeam q n).any s.teamLive

/-- The pair is PAIRED (R303). -/
def paired (s : State) (q : Nat) : Bool := s.twinMode q && !(s.seqr q).unpaired

/-- The lead twin: twin 0 while it is live (R304). -/
def leadTeam (s : State) (q : Nat) : Nat :=
  if s.twinMode q && !s.twinLive q 0 then (s.twinTeam q 1).getD 0 else (s.twinTeam q 0).getD (s.seqr q).tid

/-- The teams a stream instruction is performed for: each live twin (R304). -/
def streamTeams (s : State) (q : Nat) : List Nat :=
  if s.twinMode q then ([0, 1].filter (s.twinLive q)).filterMap (s.twinTeam q) else [(s.seqr q).tid]

/-- The team an unpaired MWAIT follows. -/
def followedTeam (s : State) (q : Nat) : Nat :=
  if s.twinMode q then (s.twinTeam q (s.seqr q).followed).getD 0 else (s.seqr q).tid

/-- Running cycles of a sequencer's pair: those of the first group of a team that is live (R305). -/
def pairCycles (s : State) (q : Nat) : Nat := s.cycles (gidOf (s.leadTeam q) 0)

/-! ### The stream's place -/

/-- The instruction after the one at issue, or the next clause (R63). -/
def seqAdvance (s : State) (q : Nat) : State :=
  s.modSeqr q fun x =>
    if x.ix + 1 < x.words.length then { x with ix := x.ix + 1 }
    else { x with pc := x.pc + BitVec.ofNat 56 (8 * (x.words.length + 1)), ix := 0, words := [] }

/-! ### MWAIT (R291, R305) -/

/-- The object a stream names, in the core's scratchpad space; the stream's offsets are mapped as at L0.
(DEDUCED, log entry 19) -/
def seqObj (s : State) (tid o : Nat) : Option Nat := s.mapOff tid .l0 (alignObj o)

/-- The target is satisfied on a team's object; an object out of range satisfies it (R291). -/
def seqSat (s : State) (tid o t : Nat) : Bool :=
  match s.seqObj tid o with
  | none => true
  | some b => satisfied (leNat (s.scrBytes (s.team tid).core b 4)) t

/-- A wait ends: the stream goes on. -/
def seqGo (s : State) (q : Nat) : State :=
  (s.modSeqr q fun x => { x with st := .running, wait := none, pairFrom := none, mpair := false }).seqAdvance q

/-- The pair-timeout count of a sequencer has reached its limit (R305). -/
def pairExpired (s : State) (q : Nat) : Bool :=
  match (s.seqr q).pairFrom with
  | some n => n + (s.launchOf (s.leadTeam q)).pairLimit ≤ s.pairCycles q
  | none => false

/-- A sequencer's team or pair is suspended: its state stays as it was saved (R271, R274). -/
def seqAsleep (s : State) (q : Nat) : Bool := (s.team (s.leadTeam q)).st == .suspended

/-- A waiting MWAIT looks at its objects again; the second object's satisfaction wins over a count that reaches its limit in
the same cycle (R291, R305). -/
def seqCheck (s : State) (q : Nat) : State :=
  let x := s.seqr q
  match x.wait with
  | none => s
  | some (o, t) =>
    let sat (tid : Nat) : Bool := s.seqSat tid o.toNat t.toNat
    if s.seqAsleep q then s
    else if s.paired q then
      let a := (s.twinTeam q 0).any sat
      let b := (s.twinTeam q 1).any sat
      if a && b then s.seqGo q
      else if (a || b) && x.pairFrom.isNone then
        let n := s.pairCycles q
        s.modSeqr q fun x => { x with pairFrom := some n, followed := if a then 0 else 1 }
      else s
    else if sat (s.followedTeam q) then s.seqGo q
    else s

/-- The pair becomes UNPAIRED, following the twin whose object satisfies a waiting MWAIT, else `other` (R303, R305,
R306). -/
def unpairTo (s : State) (q other : Nat) : State :=
  let x := s.seqr q
  let f :=
    match x.wait with
    | some (o, t) =>
      let sat (n : Nat) : Bool := (s.twinTeam q n).any fun tid => s.seqSat tid o.toNat t.toNat
      if sat 0 then 0 else if sat 1 then 1 else other
    | none => other
  (s.modSeqr q fun x => { x with unpaired := true, followed := f, pairFrom := none }).seqCheck q

/-- The pair becomes UNPAIRED and a chosen twin is followed (R303, R306). -/
def follow (s : State) (q n : Nat) : State :=
  (s.modSeqr q fun x => { x with unpaired := true, followed := n, pairFrom := none }).seqCheck q

/-- An MPAIR that holds the stream looks at the twins' latest meetings (R307). -/
def mpairCheck (s : State) (q : Nat) : State :=
  let x := s.seqr q
  if x.mpair && x.meet0.isSome && x.meet0 == x.meet1 then
    (s.modSeqr q fun x => { x with unpaired := false }).seqGo q
  else s

/-- A twin that is no longer live: the pair unpairs and the other is followed (R306, R307). -/
def twinGone (s : State) (q n : Nat) : State :=
  let x := s.seqr q
  if !s.twinMode q then s
  else if x.mpair then (s.modSeqr q fun x => { x with followed := 1 - n }).seqGo q
  else if !x.unpaired || x.followed = n then s.follow q (1 - n)
  else s

/-- A lane of a team has arrived at an object of the core: a meeting, when the object lies in the team's allocation
(R305, R307). -/
def meet (s : State) (tid off : Nat) (tgt : Word) : State :=
  let t := s.team tid
  match t.seqr with
  | none => s
  | some q =>
    if !(s.twinMode q && t.scrBase ≤ off && off < t.scrBase + t.scrSize) then s
    else
      let m := some (off - t.scrBase, tgt)
      let s := s.modSeqr q fun x => if t.twin = 0 then { x with meet0 := m } else { x with meet1 := m }
      let s :=
        match (s.seqr q).wait with
        | some (o, _) => if s.paired q && s.seqObj tid o.toNat != some off then s.unpairTo q 0 else s
        | none => s
      s.mpairCheck q

/-- Sequencers of a core that wait re-read their objects (R291). -/
def wakeSeqrs (s : State) (cid : Nat) : State :=
  (s.seqrs.filter fun e => e.2.wait.isSome && (s.team (s.leadTeam e.1)).core == cid).foldl (fun s e => s.seqCheck e.1) s

/-- SEQ.STATUS (R270, R303); 0 for a team without a sequencer. (DEDUCED, log entry 42) -/
def seqStatusOf (s : State) (tid : Nat) : Word :=
  match (s.team tid).seqr with
  | none => 0
  | some q =>
    let x := s.seqr q
    let st := match x.st with | .idle => 0 | .running => 1 | .waiting => 2 | .faulted => 3
    BitVec.ofNat 32 ((if x.unpaired then 2 ^ 15 else 0) + x.reason % 16 * 2 ^ 8 + st)

/-! ### Stops and faults (R273, R274, R298, R299) -/

/-- A sequencer has an MSTOP to answer: one handed to it and out of the settle window (R273, R362). -/
def stopDue (s : State) (q : Nat) : Bool := (s.seqr q).stop.any fun p => p.2.2 ≤ s.clock

/-- Answer the MSTOP that waits for a sequencer: every slice of its gang receives the address (R273).
(DEDUCED, log entry 26) -/
def answerStop (s : State) (q : Nat) (a : Addr) : State :=
  match (s.seqr q).stop with
  | none => s
  | some (gid, oid, from_) =>
    if s.clock < from_ then s else
    let s := s.modSeqr q fun x => { x with stop := none }
    match s.opOf gid oid with
    | none => s
    | some o =>
      let s := o.slices.foldl (fun s i => s.land gid oid i (a.zeroExtend 64)) s
      (s.modOp gid oid fun o => { o with stages := o.stages.filter fun x => x != .awaitResult }).settleGroup gid

/-- A write to UNPAIRED: 1 unpairs towards twin 0, or twin 1 when twin 0 is not live; 0 pairs again, with the
pair-timeout count restarted (R303, R306). -/
def pairWrite (s : State) (q : Nat) (unpair : Bool) : State :=
  let s := s.modSeqr q fun x => { x with wantUnpair := none }
  if !s.twinMode q then s
  else if unpair then s.follow q (if s.twinLive q 0 then 0 else 1)
  else if s.twinLive q 0 && s.twinLive q 1 then
    (s.modSeqr q fun x => { x with unpaired := false, pairFrom := none }).seqCheck q
  else s

/-- The write to UNPAIRED that waits for an issue acts (R303). -/
def pairDue (s : State) (q : Nat) : State :=
  match (s.seqr q).wantUnpair with
  | some b => s.pairWrite q b
  | none => s

/-- The sequencer issues nothing more and becomes IDLE; an MSTOP receives the address (R273, R294). -/
def seqStop (s : State) (q : Nat) (a : Addr) : State :=
  let s := s.modSeqr q fun x =>
    { x with st := .idle, pc := a, ix := 0, words := [], wait := none, pairFrom := none, mpair := false, fault := none }
  (s.answerStop q a).pairDue q

/-- The sequencer faults: FAULTED, the reason, and the trap to the twin concerned, or to the other when it has no live
group (R298, R299). (DEDUCED, log entry 26) -/
def seqFault (s : State) (q reason : Nat) (addr : Addr) (tid : Option Nat) : State :=
  let x := s.seqr q
  if x.st != .running && x.st != .waiting then s
  else
    let s := s.modSeqr q fun x =>
      { x with st := .faulted, reason := reason, words := [], wait := none, pairFrom := none, mpair := false, fault := none }
    let s := (s.answerStop q 0).pairDue q
    let tid := tid.getD (s.leadTeam q)
    let alive (t : Nat) : Bool := (s.teamGroups t).any fun g => !s.groupDone g
    let tid := if alive tid then tid else ((s.team tid).pair.filter alive).getD tid
    s.postAsync tid (gidOf tid 0)
      { code := 18, reason := reason, info := 0, addr := addr.zeroExtend 64, fpc := 0, aux := [] }

end State

end Sys2Proof.Machine
end

