-- ==== Sys2Proof/Machine/Objects.lean ====
section
/-! DEFINITION. Barrier objects: the one update, what it completes, fires and releases, and the groups' entries
(R222 to R224, R228, R231, R238), and the waits of slices (R31). -/

namespace Sys2Proof.Machine

/-- A barrier object (R222). -/
structure Obj where
  phase : Nat
  exp : Nat
  arr : Nat
  expb : Nat
  landed : Nat
  deriving DecidableEq, Repr

/-- The object in 16 bytes (R222). -/
def objOf (bs : List Byte) : Obj :=
  let n := leNat bs
  { phase := fld n 0 32, exp := fld n 32 16, arr := fld n 48 16, expb := fld n 64 32, landed := fld n 96 32 }

/-- The 16 bytes of an object (R222). -/
def objBytes (o : Obj) : List Byte :=
  leBytes 16 (o.phase % 2 ^ 32 + o.exp % 2 ^ 16 * 2 ^ 32 + o.arr % 2 ^ 16 * 2 ^ 48 + o.expb % 2 ^ 32 * 2 ^ 64
    + o.landed % 2 ^ 32 * 2 ^ 96)

/-- The object is complete: the port's test (R223). -/
def Obj.full (o : Obj) : Bool := o.exp ≤ o.arr && o.expb ≤ o.landed

/-- The object after a completion (R223). -/
def Obj.next (o : Obj) : Obj := { phase := (o.phase + 1) % 2 ^ 32, exp := o.exp, arr := 0, expb := 0, landed := 0 }

/-- Saturating addition of 32 bits (R222, R230). -/
def satAdd (a b : Nat) : Nat := Nat.min (a + b) (2 ^ 32 - 1)

/-- Insert in ascending threshold, ties in arming order (R238). -/
def insertTrig (x : Trigger) : List Trigger → List Trigger
  | [] => [x]
  | y :: l => if y.thresh ≤ x.thresh then y :: insertTrig x l else x :: y :: l

namespace State

/-- The object at a byte of a core's scratchpad space. -/
def objAt (s : State) (cid off : Nat) : Obj := objOf (s.scrBytes cid off 16)

/-- The fall-through address of a slice that stands at a clause-ending instruction (R63). -/
def fallOf (x : Slice) : Addr := x.pc + BitVec.ofNat 56 (8 * (x.ix + 2))

/-- Let slices go on at their fall-through address, those at equal addresses in one gang (R31). -/
def letGo (s : State) (gid : Nat) (is : List Nat) : State :=
  (s.modSlices gid is fun x => { x with pc := fallOf x, ix := 0, st := .ganged, waitObj := none }).formByPc gid is

/-- Slices blocked in BWAIT on an object re-read its phase: the satisfied go on (R31, R231). -/
def wakeWaits (s : State) (cid off : Nat) : State :=
  let ph := (s.objAt cid off).phase
  (s.groupsOn cid).foldl (fun s gid =>
    let is := (s.sliceNos gid).filter fun i =>
      let x := s.slice gid i
      x.st == .blockedBwait && x.waitObj == some off && satisfied ph x.waitTgt.toNat
    if is.isEmpty then s else s.letGo gid is) s

/-- Launches that wait on an object of a core become ready once its phase satisfies them, whatever wrote it (R41). -/
def readyLaunches (s : State) (cid : Nat) : State :=
  { s with launches := s.launches.map fun e =>
      let d := e.2.dw 0x28
      if e.2.st == .queued && !e.2.ready && dfld d 30 1 = 1 && cidOf (dfld d 0 6) (dfld d 6 5) = cid
          && satisfied (s.objAt cid (dfld d 11 19)).phase (dfld d 32 32) then
        (e.1, { e.2 with ready := true })
      else e }

/-- Fire triggers, in ascending threshold (R238). -/
def fire (s : State) (cid : Nat) (l : List Trigger) : State :=
  let s := s.modCore cid fun k => { k with triggers := k.triggers.filter fun t => !l.contains t }
  (l.foldl (fun acc x => insertTrig x acc) []).foldl (fun s t => s.fireWord t.tid t.gid t.addr t.word t.vals) s

/-- Barrier updates of a context are frozen on a core (R235). -/
def isFrozen (s : State) (cid ctx : Nat) : Bool := (s.core cid).frozen == some ctx

/-- One update of an object at the port, on behalf of a context: the change, the triggers it passes, the one test, and
what waits on it. While that context's updates are frozen nothing happens (R223, R235, R238). -/
def objUpdate (s : State) (ctx cid off : Nat) (f : Obj → Obj) : State :=
  if s.isFrozen cid ctx then s
  else
    let o := f (s.objAt cid off)
    let armed := (s.core cid).triggers.filter fun t => t.off == off && t.phase.toNat == o.phase
    let passed := armed.filter fun t => t.thresh ≤ (if t.landed then o.landed else o.arr)
    let s := s.fire cid passed
    let s := if o.full then s.fire cid (armed.filter fun t => !passed.contains t) else s
    let s := s.scrWrite cid off (objBytes (if o.full then o.next else o))
    ((s.wakeWaits cid off).wakeSeqrs cid).readyLaunches cid

/-- A landing of bytes (R230). -/
def objLand (s : State) (ctx cid off n : Nat) : State := s.objUpdate ctx cid off fun o => { o with landed := satAdd o.landed n }

/-- Unregistered arrivals (R43, R228, R248); ARR saturates. (DESIGN CHOICE, log entry 84) -/
def objArrive (s : State) (ctx cid off n : Nat) : State := s.objUpdate ctx cid off fun o => { o with arr := Nat.min (o.arr + n) 65535 }

/-- Plain writes to scratchpad bytes: slices blocked on an object they touch re-read its phase, and launches that wait
on one become ready (R41, R223, R231). -/
def scrStore (s : State) (cid off : Nat) (bs : List Byte) : State :=
  let s := s.scrWrite cid off bs
  let objs := ((s.groupsOn cid).flatMap fun gid => (s.sliceNos gid).filterMap fun i =>
    let x := s.slice gid i
    match x.waitObj with
    | some o => if x.st == .blockedBwait && overlaps o 16 off bs.length then some o else none
    | none => none).eraseDups
  ((objs.foldl (fun s o => s.wakeWaits cid o) s).wakeSeqrs cid).readyLaunches cid

/-! ### Registration entries (R224) -/

/-- A slice's live lanes in a 32-lane mask. -/
def liveIn (s : State) (gid i : Nat) : BitVec 32 := BitVec.ofNat 32 ((s.live gid i).toNat * 2 ^ (4 * i))

/-- The group's entry for an object as it stands, or an empty one (R224, R227). -/
def storedEntry (s : State) (gid off phase : Nat) : RegEntry :=
  ((s.group gid).regs.find? fun e => e.off == off).getD { off := off, reg := 0, arrm := 0, ph := BitVec.ofNat 32 phase }

/-- That entry as an instruction reads it: ARRM reads as 0 in another phase (R224). -/
def entryFor (s : State) (gid off phase : Nat) : RegEntry :=
  let e := s.storedEntry gid off phase
  if e.ph.toNat = phase then e else { e with arrm := 0, ph := BitVec.ofNat 32 phase }

/-- Store an entry; one whose REG is 0 is freed (R224). -/
def putEntry (s : State) (gid : Nat) (e : RegEntry) : State :=
  s.modGroup gid fun g =>
    let rest := g.regs.filter fun x => x.off != e.off
    { g with regs := if e.reg = 0 then rest else rest ++ [e] }

end State

/-- Set bits of a 32-lane mask. -/
def count32 (m : BitVec 32) : Nat := (List.range 32).foldl (fun a i => if m.getLsbD i then a + 1 else a) 0

namespace State

/-- The BARRD update of some lanes at an object: their expectation, and an arrival already made, are taken back;
EXP stops at 0 (R227, R228). -/
def dropLanes (s : State) (cid gid off : Nat) (lanes : BitVec 32) : State :=
  let e := s.entryFor gid off (s.objAt cid off).phase
  let l := lanes &&& e.reg
  let n := count32 l
  let back := count32 (l &&& e.arrm)
  let s := s.putEntry gid { e with reg := e.reg &&& ~~~l, arrm := e.arrm &&& ~~~l }
  s.objUpdate (s.team (tidOf gid)).ctx cid off fun o => { o with exp := o.exp - n, arr := o.arr - back }

/-! ### REGANG (R31, R129) -/

/-- Release every slice waiting at REGANG. -/
def regangRelease (s : State) (gid : Nat) : State :=
  s.letGo gid ((s.sliceNos gid).filter fun i => (s.slice gid i).st == .regangWait)

/-- REGANG releases when every slice of the group that is not done waits at one. -/
def regangCheck (s : State) (gid : Nat) : State :=
  let is := s.liveSlices gid
  if !is.isEmpty && is.all fun i => (s.slice gid i).st == .regangWait then s.regangRelease gid else s

end State

end Sys2Proof.Machine
end

