-- ==== Sys2Proof/Machine/Flow.lean ====
section
/-! DEFINITION. Control flow: OP 0x09 and 0x0A (R123 to R133). -/

namespace Sys2Proof.Machine

/-- Send each slice of the gang to an address. -/
def State.sendTo (s : State) (iss : Iss) (f : Nat → Addr) : State :=
  (iss.slices.map fun i => (i, f i)).foldl (fun t p => t.modSlice iss.gid p.1 fun x => { x with pc := p.2, ix := 0 }) s

/-- BRA (R124). -/
def execBra (c : Ctl) (off : BitVec 26) (s : State) : Host.Outcome State Fault Refusal :=
  instr (.flow c [] []) s fun iss s => .jump (s.sendTo iss fun _ => target26 iss.hdr off)

/-- BRX in one slice: an entry for the path not taken now, and the taken path current (R125). -/
def brxSlice (iss : Iss) (target join : Addr) (k : Mask) (age : Nat) (x : Slice) : Slice :=
  let t := x.exec &&& k
  let f := less x.exec k
  if x.exec = 0 then { x with pc := iss.fall, ix := 0 }
  else
    let e : Entry :=
      { join := join, restore := x.path, age := age
        pend := if t != 0 && f != 0 then some { pc := iss.fall, path := f, exec := f } else none }
    if t != 0 then { x with stack := e :: x.stack, pc := target, ix := 0, exec := t, path := t }
    else { x with stack := e :: x.stack, pc := iss.fall, ix := 0, exec := f, path := f }

/-- BRX (R125); a full stack traps before anything is pushed (R32). -/
def execBrx (c : Ctl) (joff : BitVec 16) (off : BitVec 26) (s : State) : Host.Outcome State Fault Refusal :=
  instr { Meta.flow c [] [] with readsExec := true, readsPm := true } s fun iss s =>
    if iss.slices.any fun i => (s.slice iss.gid i).exec != 0 && 16 ≤ (s.slice iss.gid i).stack.length then
      .trap s (iss.cause 7 0 0 0)
    else
      let age := s.cycles iss.gid
      .jump (iss.slices.foldl (fun t i =>
        t.modSlice iss.gid i (brxSlice iss (target26 iss.hdr off) (target16 iss.hdr joff) (s.rdK iss.gid i c.pm.toNat) age)) s)

/-- Write the return pair in every slice of a gang (R127). -/
def State.wrReturn (s : State) (iss : Iss) (d : Opnd) : State :=
  iss.slices.foldl (fun t i => t.wr64 iss.gid i 0 d (iss.fall.zeroExtend 64)) s

/-- CALL (R127). -/
def execCall (c : Ctl) (d : Opnd) (off : BitVec 26) (s : State) : Host.Outcome State Fault Refusal :=
  instr (.flow c [(d, true)] []) s fun iss s =>
    .jump ((s.wrReturn iss d).sendTo iss fun _ => target26 iss.hdr off)

/-- BRAZ (R124). -/
def execBraz (c : Ctl) (a : Opnd) (off : BitVec 26) (s : State) : Host.Outcome State Fault Refusal :=
  instr (.flow c [] [(a, false)]) s fun iss s =>
    .jump (s.sendTo iss fun i => if s.rd32 iss.gid i 0 a = 0 then target26 iss.hdr off else iss.fall)

/-- BRANZ (R124). -/
def execBranz (c : Ctl) (a : Opnd) (off : BitVec 26) (s : State) : Host.Outcome State Fault Refusal :=
  instr (.flow c [] [(a, false)]) s fun iss s =>
    .jump (s.sendTo iss fun i => if s.rd32 iss.gid i 0 a != 0 then target26 iss.hdr off else iss.fall)

/-- The JOIN step of a slice with a stack: the pending path, or the pop (R126); true when it switched to a
pending path. The entry that is then on top restarts its ageing count (R33). -/
def joinStep (age : Nat) (x : Slice) : Slice × Bool :=
  match x.stack with
  | [] => (x, false)
  | e :: rest =>
    match e.pend with
    | some p =>
      ({ x with pc := p.pc, ix := 0, path := less p.path x.exited, exec := less p.exec x.exited
                stack := { e with pend := none, age := age } :: rest }, true)
    | none =>
      let m := less e.restore x.exited
      ({ x with pc := e.join, ix := 0, path := m, exec := m
                stack := match rest with | [] => [] | f :: l => { f with age := age } :: l }, false)

/-- JOIN (R126). (DEDUCED, log entry 17) -/
def execJoin (c : Ctl) (s : State) : Host.Outcome State Fault Refusal :=
  instr (.flow c [] []) s fun iss s =>
    if iss.slices.any fun i => (s.slice iss.gid i).stack.isEmpty then .trap s (iss.cause 8 0 0 0)
    else .jump (s.modSlices iss.gid iss.slices fun x => (joinStep (s.cycles iss.gid) x).1)

/-- REGANG: the slices wait where they stand; the last to arrive lets all go on (R31, R129). -/
def execRegang (c : Ctl) (s : State) : Host.Outcome State Fault Refusal :=
  instr (.flow c [] []) s fun iss s =>
    let n := s.cycles iss.gid
    .jump ((s.modSlices iss.gid iss.slices fun x => { x with st := .regangWait, waitFrom := n }).regangCheck iss.gid)

/-- The address a slice's even s pair names (R127). -/
def pairAddr (s : State) (gid i : Nat) (a : Opnd) : Addr := (s.rd64 gid i 0 a).extractLsb' 0 56

/-- An indirect transfer: a target that is no multiple of 8 raises ILLCLAUSE, recording it, and the slices stand at their
targets (R123, R337). FPC is the misaligned target of the lowest slice that has one, as of a header there, not the transfer
(DESIGN CHOICE, log entry 76). -/
def indirect (s : State) (iss : Iss) (a : Opnd) (f : State → State) : Res :=
  match iss.slices.find? fun i => dfld (s.rd64 iss.gid i 0 a) 0 3 != 0 with
  | some i =>
    let t := pairAddr s iss.gid i a
    .trap (s.sendTo iss fun i => pairAddr s iss.gid i a)
      { code := 3, reason := 0, info := 0, addr := t.zeroExtend 64, fpc := t, aux := [] }
  | none => .jump (f (s.sendTo iss fun i => pairAddr s iss.gid i a))

/-- RET (R127). -/
def execRet (c : Ctl) (a : Opnd) (s : State) : Host.Outcome State Fault Refusal :=
  instr (.flow c [] [(a, true)]) s fun iss s => indirect s iss a id

/-- JMPI (R127). -/
def execJmpi (c : Ctl) (a : Opnd) (s : State) : Host.Outcome State Fault Refusal :=
  instr (.flow c [] [(a, true)]) s fun iss s => indirect s iss a fun t => t

/-- CALLI (R127): the target is read before the return pair is written. -/
def execCalli (c : Ctl) (d a : Opnd) (s : State) : Host.Outcome State Fault Refusal :=
  instr (.flow c [(d, true)] [(a, true)]) s fun iss s => indirect s iss a fun t => t.wrReturn iss d

/-- The loop of R128 after the lanes of P have exited. -/
def exitLoop (age : Nat) (x : Slice) : Nat → Slice
  | 0 => x
  | n + 1 =>
    match x.stack with
    | [] => { x with st := .done }
    | _ => let r := joinStep age x; if r.1.exec != 0 || r.2 then r.1 else exitLoop age r.1 n

/-- Clear exited lanes from a stack entry. -/
def Entry.less (x : Mask) (e : Entry) : Entry :=
  { e with restore := Machine.less e.restore x
           pend := e.pend.map fun p => { p with path := Machine.less p.path x, exec := Machine.less p.exec x } }

/-- EXIT in one slice (R128). -/
def exitSlice (age : Nat) (x : Slice) : Slice :=
  let y := { x with exited := x.exited ||| x.path, exec := less x.exec x.path, path := 0
                    stack := x.stack.map (Entry.less x.path) }
  exitLoop age y 40

namespace State

/-- Traps of engine and stream commands that a group has not taken before it became done go to the team's lowest live
group, or kill the context (R250, R299). -/
def passAsyncs (s : State) (gid : Nat) : State :=
  let l := (s.group gid).asyncs.filter fun c => c.code == 17 || c.code == 18
  l.foldl (fun s c => s.postAsync (tidOf gid) gid c) (s.modGroup gid fun g => { g with asyncs := [] })

/-- The lanes an EXIT of these slices ends, as LANE.IDs. -/
def exiting (s : State) (gid : Nat) (is : List Nat) : BitVec 32 :=
  is.foldl (fun m i => m ||| BitVec.ofNat 32 ((s.slice gid i).path.toNat * 2 ^ (4 * i))) 0

/-- A group that has just become done gives up its frame slot (R339); slices that wait at REGANG for it no
longer do (R31). -/
def afterExit (s : State) (gid : Nat) : State :=
  if s.groupDone gid then
    let s := s.passAsyncs gid
    let cid := (s.team (tidOf gid)).core
    let s := match (s.group gid).frame with
      | some n => s.modCore cid fun k => { k with frames := k.frames.set n none }
      | none => s
    s.modGroup gid fun g => { g with frame := none }
  else s.regangCheck gid

/-- Close a group's transaction and discard its write set (R219). -/
def closeTx (s : State) (gid : Nat) : State := s.modGroup gid fun g => { g with tx := none }

end State

/-- EXIT (R128); with a transaction open it raises TXSTATE (R219). The implicit drop follows (R228). -/
def execExit (c : Ctl) (s : State) : Host.Outcome State Fault Refusal :=
  instr (.flow c [] []) s fun iss s =>
    if (s.group iss.gid).tx.isSome then .trap (s.closeTx iss.gid) (iss.cause 15 4 0 0)
    else
      let age := s.cycles iss.gid
      let lanes := s.exiting iss.gid iss.slices
      let s := s.modGroup iss.gid fun g => { g with exits := if g.regs.isEmpty then g.exits else g.exits ++ [lanes] }
      .jump ((s.modSlices iss.gid iss.slices (exitSlice age)).afterExit iss.gid)

/-- YIELD (R130): the group counts as selected last on its pipe. -/
def execYield (c : Ctl) (s : State) : Host.Outcome State Fault Refusal :=
  instr (.flow c [] []) s fun iss s =>
    let g := s.group iss.gid
    let s := s.modCore iss.cid fun k => if iss.pipe = 0 then { k with rr0 := g.slot } else { k with rr1 := g.slot }
    .jump ((s.modGroup iss.gid fun g => { g with lastStart := s.clock }).sendTo iss fun _ => iss.fall)

/-- TRAP (R131): recorded as standing at the fall-through address. INFO is the A of the gang's lowest slice where its
slices hold different ones (DESIGN CHOICE, log entry 78). -/
def execTrap (c : Ctl) (a : Opnd) (s : State) : Host.Outcome State Fault Refusal :=
  instr (.flow c [] [(a, false)]) s fun iss s =>
    .trap (s.sendTo iss fun _ => iss.fall) (iss.cause 1 0 (s.rd32 iss.gid iss.lead 0 a) 0)

/-- NOP (R132). -/
def execNop (c : Ctl) (s : State) : Host.Outcome State Fault Refusal :=
  instr (.flow c [] []) s fun _ s => .done s

end Sys2Proof.Machine
end

