-- ==== Sys2Proof/Machine/Scratch.lean ====
section
/-! DEFINITION. Scratchpad and window access: OP 0x10 (R134 to R138, R176). -/

namespace Sys2Proof.Machine

/-- A scratchpad instruction: vector or slice-scalar (R134); a store waits for what it reads (R51). -/
def Meta.scr (c : Ctl) (vec store : Bool) (lat : Option Nat) (dsts srcs : List (Opnd × Bool)) : Meta :=
  { Meta.reg c vec 0 dsts srcs with lat := lat, exact := store, sys := false, mem := true }

namespace State

/-- Note an access that was out of range (R176). (DEDUCED, log entry 12) -/
def noteRange (s : State) (tid : Nat) (b : Option Nat) : State := if b.isNone then s.wrapOut tid else s

/-- Load `n` bytes at a mapped offset of a core; zero when out of range (R176). (DEDUCED, log entry 55) -/
def scrLoad (s : State) (cid : Nat) (b : Option Nat) (n : Nat) : List Byte :=
  match b with
  | some q => s.scrBytes cid q n
  | none => List.replicate n 0

/-- A load reaches a poisoned sector of its core (R364). -/
def loadPoisoned (s : State) (iss : Iss) (vec : Bool) (c : Ctl) (sz : Size) (a : Opnd) (off : BitVec 11) : Bool :=
  let n := Size.bytes sz
  !s.scrPoison.isEmpty && (s.targets iss vec c.pm).any fun p =>
    (s.mapOff iss.tid (s.group iss.gid).level (effOff (s.rd32 iss.gid p.1 p.2 a) off n)).any fun b => s.scrPoisoned iss.cid b n

/-- Own loads: each place's bytes as the destination receives them, and WRAPOUT (R136, R176). -/
def ownLoad (s : State) (iss : Iss) (vec : Bool) (c : Ctl) (sz : Size) (sx : Bool) (d a : Opnd) (off : BitVec 11) : State :=
  let n := Size.bytes sz
  let level := (s.group iss.gid).level
  let at_ (i l : Nat) := s.mapOff iss.tid level (effOff (s.rd32 iss.gid i l a) off n)
  let t := s.perTarget iss vec c.pm (Size.wide sz) d fun i l => loadVal n sx (s.scrLoad iss.cid (at_ i l) n)
  (s.targets iss vec c.pm).foldl (fun t p => t.noteRange iss.tid (at_ p.1 p.2)) t

/-- An own write stands in the settle buffer for 128 cycles; what has left it is forgotten (R362). -/
def settleScr (s : State) (cid b n : Nat) : State :=
  { s with settling := (scrKey cid b, n, s.clock + Config.settleCycles) :: s.settling.filter fun x => s.clock < x.2.2 }

/-- Own stores, in ascending lane or slice; they are performed at once for the core itself (R136, R362). -/
def ownStore (s : State) (iss : Iss) (vec : Bool) (c : Ctl) (sz : Size) (d a : Opnd) (off : BitVec 11) : State :=
  let n := Size.bytes sz
  let level := (s.group iss.gid).level
  ((s.targets iss vec c.pm).map fun p =>
      (s.mapOff iss.tid level (effOff (s.rd32 iss.gid p.1 p.2 a) off n),
        leBytes n (s.rdW (Size.wide sz) iss.gid p.1 p.2 d).toNat)).foldl
    (fun t q =>
      match q.1 with
      | some b => (t.scrStore iss.cid b q.2).settleScr iss.cid b n
      | none => t.wrapOut iss.tid) s

end State

/-- STS (R136). -/
def execSts (c : Ctl) (sz : Size) (d a : Opnd) (off : BitVec 11) (s : State) : Host.Outcome State Fault Refusal :=
  instr (.scr c true true none [] [(d, Size.wide sz), (a, false)]) s fun iss s => .done (s.ownStore iss true c sz d a off)

/-- STSS (R136). -/
def execStss (c : Ctl) (sz : Size) (d a : Opnd) (off : BitVec 11) (s : State) : Host.Outcome State Fault Refusal :=
  instr (.scr c false true none [] [(d, Size.wide sz), (a, false)]) s fun iss s => .done (s.ownStore iss false c sz d a off)

/-! ### Windows (R137) -/

/-- The step of a direction: x east, y south (R68). -/
def Dir.step : Dir → Int × Int
  | .n => (0, -1) | .ne => (1, -1) | .e => (1, 0) | .se => (1, 1)
  | .s => (0, 1) | .sw => (-1, 1) | .w => (-1, 0) | .nw => (-1, -1)

namespace State

/-- The neighbouring team of the same cluster and TWIN.ID, when the position lies in the cluster's rectangle (R137). One
that is done is still found, where it ran last. (DESIGN CHOICE, log entry 81) -/
def neighbour (s : State) (tid : Nat) (dir : Dir) : Option Nat :=
  let t := s.team tid
  let x := (t.tx : Int) + (Dir.step dir).1
  let y := (t.ty : Int) + (Dir.step dir).2
  (s.cluster t.cluster).teams.find? fun u =>
    let v := s.team u
    (v.tx : Int) == x && (v.ty : Int) == y && v.twin == t.twin

/-- The window accesses of an instruction: (lane or slice, neighbour's byte or none, bytes). -/
def winAccesses (s : State) (iss : Iss) (nb : Nat) (vec : Bool) (c : Ctl) (sz : Size) (a : Opnd) (off : BitVec 11)
    (data : Nat → Nat → List Byte) : List (Nat × Option Nat × List Byte) :=
  let level := (s.group iss.gid).level
  (s.targets iss vec c.pm).map fun p =>
    (if vec then 4 * p.1 + p.2 else p.1, s.mapOff nb level (effOff (s.rd32 iss.gid p.1 p.2 a) off (Size.bytes sz)), data p.1 p.2)

/-- A window packet to a neighbour's core. -/
def winPacket (s : State) (iss : Iss) (oid nb lane b size : Nat) (bytes : List Byte) (load : Payload) : Packet :=
  let t := s.team iss.tid
  { Packet.plain (.core iss.cid) (.core (s.team nb).core) 0 load with
    ctx := t.ctx, ptag := t.part, tid := iss.tid, gid := iss.gid, oid := oid, lane := lane, pa := b, size := size, bytes := bytes }

/-- Land zero bytes for the places of a window load that reach nothing. -/
def landZero (s : State) (gid oid : Nat) (lanes : List Nat) : State := lanes.foldl (fun s l => s.land gid oid l 0) s

end State

/-- A window load: packets to the neighbour; outside the cluster every byte is 0 and WINOUT is set (R137). -/
def winLoad (m : Meta) (vec : Bool) (c : Ctl) (sz : Size) (dir : Dir) (sx : Bool) (d a : Opnd) (off : BitVec 11) (s : State) :
    Host.Outcome State Fault Refusal :=
  instr m s fun iss s =>
    let n := Size.bytes sz
    match s.neighbour iss.tid dir with
    | none => .op ((s.winOut iss.tid).perTarget iss vec c.pm (Size.wide sz) d fun _ _ => 0) (Op.of iss m [])
    | some nb =>
      let oid := s.names.op
      let l := s.winAccesses iss nb vec c sz a off fun _ _ => []
      let out := (l.filter fun x => x.2.1.isNone).map Prod.fst
      let s := if out.isEmpty then s else s.wrapOut iss.tid
      let t := s.perTarget iss vec c.pm (Size.wide sz) d fun i l =>
        if out.contains (if vec then 4 * i + l else i) then 0 else s.rdW (Size.wide sz) iss.gid i l d
      let hit := l.filterMap fun x => x.2.1.map fun b => (x.1, b)
      .op (hit.foldl (fun t x => t.produce (t.winPacket iss oid nb x.1 x.2 n [] (.winLoad sx vec))) t)
        { Op.of iss m [] with wait := hit.length }

/-- A window store: packets through the settle buffer; outside the cluster it is discarded and WINOUT is set
(R137). -/
def winStore (m : Meta) (vec : Bool) (c : Ctl) (sz : Size) (dir : Dir) (d a : Opnd) (off : BitVec 11) (s : State) :
    Host.Outcome State Fault Refusal :=
  instr m s fun iss s =>
    let n := Size.bytes sz
    match s.neighbour iss.tid dir with
    | none => .op (s.winOut iss.tid) (Op.of iss m [])
    | some nb =>
      let oid := s.names.op
      let l := s.winAccesses iss nb vec c sz a off fun i l => leBytes n (s.rdW (Size.wide sz) iss.gid i l d).toNat
      let s := if l.any fun x => x.2.1.isNone then s.wrapOut iss.tid else s
      let hit := l.filterMap fun x => x.2.1.map fun b => (x.1, b, x.2.2)
      .op (hit.foldl (fun t x => t.produce (t.winPacket iss oid nb x.1 x.2.1 n x.2.2 (.winStore vec))) s)
        { Op.of iss m [] with wait := hit.length }

/-- LDW (R137). -/
def execLdw (c : Ctl) (sz : Size) (dir : Dir) (sx : Bool) (d a : Opnd) (off : BitVec 11) (s : State) :
    Host.Outcome State Fault Refusal :=
  winLoad { Meta.scr c true false none [(d, Size.wide sz)] [(a, false)] with ctr := some .loads, opFlag := true }
    true c sz dir sx d a off s

/-- STW (R137). -/
def execStw (c : Ctl) (sz : Size) (dir : Dir) (d a : Opnd) (off : BitVec 11) (s : State) : Host.Outcome State Fault Refusal :=
  winStore { Meta.scr c true true none [] [(d, Size.wide sz), (a, false)] with ctr := some .stores, opFlag := true }
    true c sz dir d a off s

/-- LDWS (R137). -/
def execLdws (c : Ctl) (sz : Size) (dir : Dir) (sx : Bool) (d a : Opnd) (off : BitVec 11) (s : State) :
    Host.Outcome State Fault Refusal :=
  winLoad { Meta.scr c false false none [(d, Size.wide sz)] [(a, false)] with ctr := some .loads, opFlag := true }
    false c sz dir sx d a off s

/-- STWS (R137). -/
def execStws (c : Ctl) (sz : Size) (dir : Dir) (d a : Opnd) (off : BitVec 11) (s : State) : Host.Outcome State Fault Refusal :=
  winStore { Meta.scr c false true none [] [(d, Size.wide sz), (a, false)] with ctr := some .stores, opFlag := true }
    false c sz dir d a off s

end Sys2Proof.Machine
end

