-- ==== Sys2Proof/Machine/Global.lean ====
section
/-! DEFINITION. Global loads and stores: OP 0x11 and 0x12 (R201 to R210), and the checks every global access
passes first (R203). -/

namespace Sys2Proof.Machine

/-- A global memory instruction: vector form or once a slice (R204). -/
def Meta.glob (c : Ctl) (vec store : Bool) (ctr : Option Ctr) (dsts srcs : List (Opnd × Bool)) : Meta :=
  { Meta.reg c vec 0 dsts srcs with lat := none, exact := store, ctr := ctr, opFlag := ctr.isSome, mem := true }

/-- An access wanted: its lane or slice, its address, and the bytes it carries. -/
structure Want where
  lane : Nat
  va : Nat
  data : List Byte
  cmp : List Byte
  deriving DecidableEq, Repr

/-- What an access needs of its page, by what it does (R180, R203). (DEDUCED, log entry 15) -/
def Need.read1 : Need := ⟨true, false, false⟩
/-- A write. (DEDUCED, log entry 15) -/
def Need.write1 : Need := ⟨false, true, false⟩
/-- An atomic reads and writes. (DEDUCED, log entry 15) -/
def Need.both : Need := ⟨true, true, false⟩

namespace State

/-- The lane number or slice number that names a place. -/
def placeNo (vec : Bool) (p : Nat × Nat) : Nat := if vec then 4 * p.1 + p.2 else p.1

/-- The accesses of an instruction, one for each active lane or slice (R203, R204). -/
def wants (s : State) (iss : Iss) (vec : Bool) (pm : BitVec 3) (a : Opnd) (off : BitVec 11) (size : Nat)
    (data cmp : Nat → Nat → List Byte) : List Want :=
  (s.targets iss vec pm).map fun p =>
    { lane := placeNo vec p, va := effAddr (s.rd64 iss.gid p.1 p.2 a) off size, data := data p.1 p.2, cmp := cmp p.1 p.2 }

/-- Translate accesses in order, filling the caches (R180). -/
def translateAll (s : State) (iss : Iss) (need : Need) : List Want → List (Want × Tr) × State
  | [] => ([], s)
  | w :: l =>
    let (t, s) := s.translate iss.cid iss.tid (s.group iss.gid).level need w.va
    let (r, s) := translateAll s iss need l
    ((w, t) :: r, s)

/-- The group-trap cause of an access check. -/
def memCause (iss : Iss) (code reason va : Nat) : Cause := iss.cause code reason 0 (BitVec.ofNat 64 va)

end State

/-- A multicast window was reached. -/
def Tr.inGroup : Tr → Bool | .ok _ (some _) => true | _ => false

/-- The walk met a poisoned entry (R364). -/
def Tr.isPoison : Tr → Bool | .poison _ => true | _ => false
/-- The physical address of that entry. -/
def Tr.at_ : Tr → Nat | .poison pa => pa | _ => 0

/-- The accesses once their checks hold: their physical addresses. -/
def granted (size : Nat) (l : List (Want × Tr)) : List Access :=
  l.filterMap fun x =>
    match x.2 with
    | .ok pa g => some { lane := x.1.lane, va := x.1.va, pa := pa, size := size, data := x.1.data, cmp := x.1.cmp, group := g }
    | _ => none

/-- The first failing check of R203, in the order of its table, each over every lane; `noGroup` when a multicast
window is out of bounds. (DEDUCED, log entries 15 and 55) -/
def checked (s : State) (iss : Iss) (need : Need) (noGroup : Bool) (size : Nat) (l : List Want) :
    Except Res (List Access × State) :=
  match l.find? fun w => w.va % size != 0 with
  | some w => .error (.trap s (State.memCause iss 12 0 w.va))
  | none =>
    let (r, s) := s.translateAll iss need l
    match r.find? fun x => x.2 == .page with
    | some x => .error (.service s x.1.va (if need.write then .write else .read))
    | none =>
      match r.find? fun x => x.2 == .perm with
      | some x => .error (.trap s (State.memCause iss 10 0 x.1.va))
      | none =>
        match r.find? fun x => x.2 == .unbacked || x.2 == .badGroup with
        | some x => .error (.trap s (State.memCause iss 11 (if x.2 == .unbacked then 1 else 2) x.1.va))
        | none =>
          match r.find? fun x => noGroup && x.2.inGroup with
          | some x => .error (.trap s (State.memCause iss 13 0 x.1.va))
          | none =>
            match r.find? fun x => x.2.isPoison with
            | some x => .error (.gone (s.consume iss.tid x.2.at_))
            | none => .ok (granted size r, s)

/-- SNAPEXP: a read by a revoked team, unless the instruction's own acquire clears the revocation (R199). -/
def snapExpired (s : State) (tid : Nat) (acq : Bool) (scope : Scope) : Bool :=
  let scope := s.scopeOf tid scope
  (s.team tid).revoked && !(acq && (scope == .device || scope == .system))

/-- The body of a read: checks, the acquire, and the accesses to send (R199, R203, R205). -/
def readBody (m : Meta) (act : Act) (ord : Order) (scope : Scope) (size : Nat) (l : List Want) (iss : Iss) (s : State) : Res :=
  match checked s iss .read1 (s.group iss.gid).tx.isSome size l with
  | .error r => r
  | .ok (acc, t) =>
    let acq := ord == .acq
    if snapExpired t iss.tid acq scope then .trap t (State.memCause iss 14 0 ((l.headD ⟨0, 0, [], []⟩).va))
    else
      .op (if acq then t.acquire iss.tid scope else t) { Op.of iss m [.send act acc] with blocks := acq }

/-- LD (R206). -/
def execLd (c : Ctl) (sz : Size) (ord : Order) (scope : Scope) (sx : Bool) (d a : Opnd) (off : BitVec 11) (s : State) :
    Host.Outcome State Fault Refusal :=
  let m := Meta.glob c true false (some .loads) [(d, Size.wide sz)] [(a, true)]
  instr m s fun iss s =>
    readBody m (.load sx) ord scope (Size.bytes sz)
      (s.wants iss true c.pm a off (Size.bytes sz) (fun _ _ => []) (fun _ _ => [])) iss s

/-- LDSC (R206). -/
def execLdsc (c : Ctl) (sz : Size) (ord : Order) (scope : Scope) (sx : Bool) (d a : Opnd) (off : BitVec 11) (s : State) :
    Host.Outcome State Fault Refusal :=
  let m := Meta.glob c false false (some .loads) [(d, Size.wide sz)] [(a, true)]
  instr m s fun iss s =>
    readBody m (.load sx) ord scope (Size.bytes sz)
      (s.wants iss false c.pm a off (Size.bytes sz) (fun _ _ => []) (fun _ _ => [])) iss s

/-- PREF: no visible effect, whatever its address (R203, R207). -/
def execPref (c : Ctl) (_sz : Size) (_scope : Scope) (a : Opnd) (_off : BitVec 11) (s : State) :
    Host.Outcome State Fault Refusal :=
  instr (.glob c (isVec [a]) false none [] [(a, true)]) s fun _ s => .done s

/-! ### Tiles (R208) -/

/-- The 32-byte granules of a tile transfer from `ea` by the gang's slice of rank `rank`: row i at ea + i × stride; `data`
gives a granule's bytes. -/
def tileWants (rank ea stride : Nat) (data : Nat → List Byte) : List Want :=
  (List.range 64).map fun g =>
    { lane := 64 * rank + g, va := (ea + g / 4 * (if stride = 0 then 128 else stride) + g % 4 * 32) % 2 ^ 56, data := data g, cmp := [] }

/-- Key of a tile register's first byte. -/
def tileKey (bank tile : Nat) : Nat := (bank * 16 + tile) * 2048

/-- The number of a tile operand. -/
def tileNo : Opnd → Nat | .t n => n.toNat | _ => 0

/-- The bank a tile register of a team lies in: t0 to t7 the team's, t8 to t15 the core's own (R301). -/
def State.bankOf (s : State) (tid tile : Nat) : Nat := if tile < 8 then (s.team tid).bank else (s.team tid).core

/-- The accesses of LDT or STT, or the misalignment of an address or a stride (R203). (DEDUCED, log entry 59) -/
def tileAccesses (s : State) (iss : Iss) (a b : Opnd) (off : BitVec 11) (data : Nat → List Byte) : Except Res (List Want) :=
  let eas := iss.slices.map fun i => (effAddr (s.rd64 iss.gid i 0 a) off 8, (s.rd32 iss.gid i 0 b).toNat)
  match eas.find? fun e => e.1 % 32 != 0 || e.2 % 32 != 0 with
  | some e => .error (.trap s (State.memCause iss 12 0 e.1))
  | none => .ok ((List.range eas.length).flatMap fun r => tileWants r (eas.getD r (0, 0)).1 (eas.getD r (0, 0)).2 data)

/-- LDT (R208): the outlier list is emptied (R278). -/
def execLdt (c : Ctl) (ord : Order) (scope : Scope) (d a b : Opnd) (off : BitVec 11) (s : State) :
    Host.Outcome State Fault Refusal :=
  let m := { Meta.glob c false true (some .tiles) [] [(a, true), (b, false)] with sys := false }
  instr m s fun iss s =>
    match tileAccesses s iss a b off fun _ => [] with
    | .error r => r
    | .ok l =>
      let bank := s.bankOf iss.tid (tileNo d)
      match readBody m (.tileIn bank (tileNo d)) ord scope 32 l iss s with
      | .op t o => .op { t with tileLists := sdel t.tileLists (bank * 16 + (tileNo d)) } o
      | r => r

/-! ### Version stamps (R209) -/

/-- SNAP (R209). -/
def execSnap (c : Ctl) (ord : Order) (scope : Scope) (newest : Bool) (d a : Opnd) (off : BitVec 11) (s : State) :
    Host.Outcome State Fault Refusal :=
  let m := Meta.glob c false false (some .loads) [(d, true)] [(a, true)]
  instr m s fun iss s =>
    readBody m (.stamp newest) ord scope 8 (s.wants iss false c.pm a off 8 (fun _ _ => []) (fun _ _ => [])) iss s

/-! ### Stores (R210, R216) -/

/-- A device register, which is not versioned (R178). (DESIGN CHOICE, log entry 45) -/
def isDevReg (a : Access) : Bool := devRegBase ≤ canonPa a.pa

/-- Put one byte into a write set of at most 512 sectors (R193, R216). -/
def txByte (t : Tx) (pa : Nat) (b : Byte) : Tx :=
  let secs := ((skeys t.writes).map (· / 32)).eraseDups
  if secs.contains (pa / 32) || secs.length < 512 then { t with writes := sput t.writes pa b } else { t with full := true }

/-- Stores of a group with an open transaction go to its write set (R193). (DEDUCED, log entry 13) -/
def State.txStore (s : State) (gid : Nat) (l : List Access) : State :=
  s.modGroup gid fun g =>
    { g with tx := g.tx.map fun t => l.foldl (fun t a =>
        (List.range a.data.length).foldl (fun t i => txByte t (canonPa (a.pa + i)) (a.data.getD i 0)) t) t }

/-- The body of a store: checks, then the accesses to send; under REL the release follows them (R205, R210).
(DEDUCED, log entry 13) -/
def storeBody (m : Meta) (ord : Order) (scope : Scope) (size : Nat) (l : List Want) (iss : Iss) (s : State) : Res :=
  let open1 := (s.group iss.gid).tx.isSome
  match checked s iss .write1 open1 size l with
  | .error r => r
  | .ok (acc, s) =>
    let rel := ord == .rel
    let s := if open1 then s.txStore iss.gid (acc.filter fun a => !isDevReg a) else s
    let acc := if open1 then acc.map fun a => if isDevReg a then a else { a with data := [] } else acc
    .op s { Op.of iss m (.send .store acc :: if rel then [.await, .release scope] else []) with blocks := rel }

/-- ST (R210). -/
def execSt (c : Ctl) (sz : Size) (ord : Order) (scope : Scope) (d a : Opnd) (off : BitVec 11) (s : State) :
    Host.Outcome State Fault Refusal :=
  let m := { Meta.glob c true true (some .stores) [] [(d, Size.wide sz), (a, true)] with bound := ord == .rel }
  instr m s fun iss s =>
    storeBody m ord scope (Size.bytes sz)
      (s.wants iss true c.pm a off (Size.bytes sz)
        (fun i l => leBytes (Size.bytes sz) (s.rdW (Size.wide sz) iss.gid i l d).toNat) (fun _ _ => [])) iss s

/-- STSC (R210). -/
def execStsc (c : Ctl) (sz : Size) (ord : Order) (scope : Scope) (d a : Opnd) (off : BitVec 11) (s : State) :
    Host.Outcome State Fault Refusal :=
  let m := { Meta.glob c false true (some .stores) [] [(d, Size.wide sz), (a, true)] with bound := ord == .rel }
  instr m s fun iss s =>
    storeBody m ord scope (Size.bytes sz)
      (s.wants iss false c.pm a off (Size.bytes sz)
        (fun i l => leBytes (Size.bytes sz) (s.rdW (Size.wide sz) iss.gid i l d).toNat) (fun _ _ => [])) iss s

/-- STT (R208). -/
def execStt (c : Ctl) (ord : Order) (scope : Scope) (d a b : Opnd) (off : BitVec 11) (s : State) :
    Host.Outcome State Fault Refusal :=
  let m := { Meta.glob c false true (some .tiles) [] [(a, true), (b, false)] with sys := false, bound := ord == .rel }
  instr m s fun iss s =>
    let key := tileKey (s.bankOf iss.tid (tileNo d)) (tileNo d)
    match tileAccesses s iss a b off fun g => mreads s.tiles (key + 32 * g) 32 with
    | .error r => r
    | .ok l => if s.tilePoisoned key 2048 then .gone (s.consume iss.tid 0) else storeBody m ord scope 32 l iss s

end Sys2Proof.Machine
end

