-- ==== Sys2Proof/Machine/Atomic.lean ====
section
/-! DEFINITION. Atomics, reductions, fences and transactions: OP 0x13 to 0x16 (R211 to R220). -/

namespace Sys2Proof.Machine

/-! ### Transactions: how one ends (R216) -/

/-- TX.STATUS after an abort (R217). -/
def abortStatus (cause code : Nat) : Word := BitVec.ofNat 32 (code % 256 * 256 + cause)

/-- A slice at the abort address, with the masks and stack recorded at TXBEGIN (R216). -/
def abortSlice (pc : Addr) (r : TxSlice) (x : Slice) : Slice :=
  { x with pc := pc, ix := 0, exec := less r.exec x.exited, path := less r.path x.exited, stack := r.stack
           st := .ganged, waitObj := none }

/-- Abort a group's transaction: the write set is discarded, TX.STATUS written, and every slice that is not done
goes to the abort address in one gang (R216). -/
def State.abortTx (s : State) (gid cause code : Nat) : State :=
  match (s.group gid).tx with
  | none => s
  | some t =>
    let is := s.liveSlices gid
    let s := s.modGroup gid fun g => { g with tx := none, txStatus := abortStatus cause code }
    let s := is.foldl (fun s i => s.modSlice gid i (abortSlice t.abort (t.slices.getD i ⟨15, 15, []⟩))) s
    ((s.formGang gid is).modSlices gid is (State.saveRestart s.names.op)).dropAccReq gid

/-! ### Atomics (R211 to R213) -/

/-- An atomic's meta: what it reads, its result, and the form (R201, R204). -/
def Meta.atomic (c : Ctl) (op : AOp) (w : Bool) (d a b : Opnd) : Meta :=
  { Meta.glob c (isVec [d, a, b]) true (some .loads) [(d, w)]
      ([(a, true), (b, w)] ++ if op == .cas then [(d, w)] else []) with bound := true }

/-- What an ORDER asks of an atomic. -/
def Order.releases : Order → Bool | .rel => true | .acqrel => true | .sc => true | _ => false
/-- The acquire of ACQ and ACQREL. -/
def Order.acquires : Order → Bool | .acq => true | .acqrel => true | _ => false

/-- The stages of an atomic, in the order of R212. -/
def atomStages (op : AOp) (ord : Order) (scope : Scope) (acc : List Access) : List Stage :=
  (if Order.releases ord then [.release scope] else []) ++ [.send (.atomic op) acc]
    ++ (if Order.acquires ord then [.await, .horizon scope false, .acquire scope] else [])
    ++ (if ord == .sc then [.await, .horizon scope true, .acquire scope] else [])

/-- The release of an atomic or a reduction inside a transaction, complete before anything else, and the abort with cause
ATOMIC (R188, R213, R214). -/
def abortAtomic (rel : Bool) (scope : Scope) (iss : Iss) (s : State) : Res :=
  if rel then releaseFirst scope iss s fun _ s => .jump (s.abortTx iss.gid 4 0) else .jump (s.abortTx iss.gid 4 0)

/-- ATOM (R212). (DEDUCED, log entries 15 and 16) -/
def atomOp (c : Ctl) (op : AOp) (sz : Size) (ord : Order) (scope : Scope) (d a b : Opnd) (off : BitVec 11) (s : State) :
    Host.Outcome State Fault Refusal :=
  let w := Size.wide sz
  let n := Size.bytes sz
  let m := Meta.atomic c op w d a b
  instr m s fun iss s =>
    let val (o : Opnd) (i l : Nat) : List Byte := leBytes n (s.rdW w iss.gid i l o).toNat
    let l := s.wants iss m.vec c.pm a off n (if op == .cas then val d else val b) (if op == .cas then val b else fun _ _ => [])
    match checked s iss .both true n l with
    | .error r => r
    | .ok (acc, s) =>
      if (s.group iss.gid).tx.isSome then abortAtomic (Order.releases ord) scope iss s
      else .op s { Op.of iss m (atomStages op ord scope acc) with blocks := ord != .rlx }

/-- ATOM.ADD (R211). -/
def execAtomAdd (c : Ctl) (sz : Size) (ord : Order) (scope : Scope) (d a b : Opnd) (off : BitVec 11) (s : State) :
    Host.Outcome State Fault Refusal := atomOp c .add sz ord scope d a b off s
/-- ATOM.MIN (R211). -/
def execAtomMin (c : Ctl) (sz : Size) (ord : Order) (scope : Scope) (d a b : Opnd) (off : BitVec 11) (s : State) :
    Host.Outcome State Fault Refusal := atomOp c .min sz ord scope d a b off s
/-- ATOM.MAX (R211). -/
def execAtomMax (c : Ctl) (sz : Size) (ord : Order) (scope : Scope) (d a b : Opnd) (off : BitVec 11) (s : State) :
    Host.Outcome State Fault Refusal := atomOp c .max sz ord scope d a b off s
/-- ATOM.MINN (R211). -/
def execAtomMinn (c : Ctl) (sz : Size) (ord : Order) (scope : Scope) (d a b : Opnd) (off : BitVec 11) (s : State) :
    Host.Outcome State Fault Refusal := atomOp c .minn sz ord scope d a b off s
/-- ATOM.MAXN (R211). -/
def execAtomMaxn (c : Ctl) (sz : Size) (ord : Order) (scope : Scope) (d a b : Opnd) (off : BitVec 11) (s : State) :
    Host.Outcome State Fault Refusal := atomOp c .maxn sz ord scope d a b off s
/-- ATOM.AND (R211). -/
def execAtomAnd (c : Ctl) (sz : Size) (ord : Order) (scope : Scope) (d a b : Opnd) (off : BitVec 11) (s : State) :
    Host.Outcome State Fault Refusal := atomOp c .and sz ord scope d a b off s
/-- ATOM.OR (R211). -/
def execAtomOr (c : Ctl) (sz : Size) (ord : Order) (scope : Scope) (d a b : Opnd) (off : BitVec 11) (s : State) :
    Host.Outcome State Fault Refusal := atomOp c .or sz ord scope d a b off s
/-- ATOM.XOR (R211). -/
def execAtomXor (c : Ctl) (sz : Size) (ord : Order) (scope : Scope) (d a b : Opnd) (off : BitVec 11) (s : State) :
    Host.Outcome State Fault Refusal := atomOp c .xor sz ord scope d a b off s
/-- ATOM.SWAP (R211). -/
def execAtomSwap (c : Ctl) (sz : Size) (ord : Order) (scope : Scope) (d a b : Opnd) (off : BitVec 11) (s : State) :
    Host.Outcome State Fault Refusal := atomOp c .swap sz ord scope d a b off s
/-- ATOM.CAS (R211). -/
def execAtomCas (c : Ctl) (sz : Size) (ord : Order) (scope : Scope) (d a b : Opnd) (off : BitVec 11) (s : State) :
    Host.Outcome State Fault Refusal := atomOp c .cas sz ord scope d a b off s
/-- ATOM.FADD (R211). -/
def execAtomFadd (c : Ctl) (ord : Order) (scope : Scope) (d a b : Opnd) (off : BitVec 11) (s : State) :
    Host.Outcome State Fault Refusal := atomOp c .fadd .w ord scope d a b off s

/-! ### Reductions (R214) -/

/-- RED (R214). (DEDUCED, log entry 15) -/
def redOp (c : Ctl) (op : AOp) (sz : Size) (ord : Order) (scope : Scope) (d a : Opnd) (off : BitVec 11) (s : State) :
    Host.Outcome State Fault Refusal :=
  let w := Size.wide sz
  let n := Size.bytes sz
  let m := { Meta.glob c (isVec [d, a]) true (some .stores) [] [(d, w), (a, true)] with bound := true }
  instr m s fun iss s =>
    let l := s.wants iss m.vec c.pm a off n (fun i l => leBytes n (s.rdW w iss.gid i l d).toNat) (fun _ _ => [])
    match checked s iss .write1 (s.group iss.gid).tx.isSome n l with
    | .error r => r
    | .ok (acc, s) =>
      if (s.group iss.gid).tx.isSome then abortAtomic (ord == .rel) scope iss s
      else
        .op s { Op.of iss m ((if ord == .rel then [.release scope] else []) ++ [.send (.reduce op) acc]) with
                blocks := ord == .rel }

/-- RED.ADD (R214). -/
def execRedAdd (c : Ctl) (sz : Size) (ord : Order) (scope : Scope) (d a : Opnd) (off : BitVec 11) (s : State) :
    Host.Outcome State Fault Refusal := redOp c .add sz ord scope d a off s
/-- RED.MIN (R214). -/
def execRedMin (c : Ctl) (sz : Size) (ord : Order) (scope : Scope) (d a : Opnd) (off : BitVec 11) (s : State) :
    Host.Outcome State Fault Refusal := redOp c .min sz ord scope d a off s
/-- RED.MAX (R214). -/
def execRedMax (c : Ctl) (sz : Size) (ord : Order) (scope : Scope) (d a : Opnd) (off : BitVec 11) (s : State) :
    Host.Outcome State Fault Refusal := redOp c .max sz ord scope d a off s
/-- RED.MINN (R214). -/
def execRedMinn (c : Ctl) (sz : Size) (ord : Order) (scope : Scope) (d a : Opnd) (off : BitVec 11) (s : State) :
    Host.Outcome State Fault Refusal := redOp c .minn sz ord scope d a off s
/-- RED.MAXN (R214). -/
def execRedMaxn (c : Ctl) (sz : Size) (ord : Order) (scope : Scope) (d a : Opnd) (off : BitVec 11) (s : State) :
    Host.Outcome State Fault Refusal := redOp c .maxn sz ord scope d a off s
/-- RED.AND (R214). -/
def execRedAnd (c : Ctl) (sz : Size) (ord : Order) (scope : Scope) (d a : Opnd) (off : BitVec 11) (s : State) :
    Host.Outcome State Fault Refusal := redOp c .and sz ord scope d a off s
/-- RED.OR (R214). -/
def execRedOr (c : Ctl) (sz : Size) (ord : Order) (scope : Scope) (d a : Opnd) (off : BitVec 11) (s : State) :
    Host.Outcome State Fault Refusal := redOp c .or sz ord scope d a off s
/-- RED.XOR (R214). -/
def execRedXor (c : Ctl) (sz : Size) (ord : Order) (scope : Scope) (d a : Opnd) (off : BitVec 11) (s : State) :
    Host.Outcome State Fault Refusal := redOp c .xor sz ord scope d a off s
/-- RED.FADD (R214). -/
def execRedFadd (c : Ctl) (ord : Order) (scope : Scope) (d a : Opnd) (off : BitVec 11) (s : State) :
    Host.Outcome State Fault Refusal := redOp c .fadd .w ord scope d a off s

/-! ### FENCE (R215) -/

/-- The stages of a fence, in the order of R215; a TEAM-scope release performs what came before. -/
def fenceStages (ord : Order) (scope : Scope) : List Stage :=
  match ord with
  | .rel => [.release scope]
  | .acqrel => [.release scope, .acquire scope]
  | .sc => [.release scope, .horizonRel scope, .acquire scope]
  | _ => [.acquire scope, .release .team]

/-- FENCE (R215). -/
def execFence (c : Ctl) (ord : Order) (scope : Scope) (s : State) : Host.Outcome State Fault Refusal :=
  let m := { Meta.glob c false true none [] [] with opFlag := true, bound := ord != .acq }
  instr m s fun iss s => .op s { Op.of iss m (fenceStages ord scope) with blocks := true }

/-! ### Transactions (R216 to R220) -/

/-- TXSTATE: the write set is discarded and the transaction closed (R219). -/
def txTrap (s : State) (iss : Iss) (reason : Nat) : Res := .trap (s.closeTx iss.gid) (iss.cause 15 reason 0 0)

/-- The gang lacks a live slice of the group (R219). -/
def partGang (s : State) (iss : Iss) : Bool := (s.liveSlices iss.gid).any fun i => !iss.slices.contains i

/-- TXBEGIN (R216); its flag clears one cycle after issue. (DESIGN CHOICE, log entry 82) -/
def execTxbegin (c : Ctl) (off : BitVec 26) (s : State) : Host.Outcome State Fault Refusal :=
  let m := { Meta.glob c false true none [] [] with readsExec := true }
  instr m s fun iss s =>
    let g := s.group iss.gid
    if g.tx.isSome then txTrap s iss 1
    else if partGang s iss then txTrap s iss 2
    else
      let t := s.team iss.tid
      let tx : Tx :=
        { sx := t.snap, expired := false, abort := target26 iss.hdr off, writes := [], full := false, revs := t.revs, regions := g.regions
          slices := (s.sliceNos iss.gid).map fun i =>
            { exec := (s.slice iss.gid i).exec, path := (s.slice iss.gid i).path, stack := (s.slice iss.gid i).stack } }
      .done (s.modGroup iss.gid fun g => { g with tx := some tx, txStatus := 0 })

/-- A commit on its way to its home writes a byte at `a` after `S`. -/
def State.commitAhead (s : State) (S a : Nat) : Bool :=
  (svals s.packets).any fun p =>
    (match p.load with | .commit _ => true | _ => false) && !(tsLe p.ts S) && p.pa ≤ a && a < p.pa + p.size
      && p.lane.testBit (a - p.pa)

/-- A byte of the write set was written by a commit after the snapshot and before `c`, installed or not (R182, R193,
R218). -/
def txConflict (s : State) (t : Tx) (c : Nat) : Bool :=
  (skeys t.writes).any fun a =>
    (!(tsLe (sgetD s.byteTs a 0) t.sx) && tsLe (sgetD s.byteTs a 0) c && sgetD s.byteTs a 0 != c) || s.commitAhead t.sx a

/-- Bytes numbered with their order in the team's view. -/
def numbered (n : Nat) (l : Store Byte) : Store (Byte × Nat) := l.map fun p => (p.1, p.2, n)

/-- The write set joins the team's pending set (R193). -/
def State.joinPending (s : State) (tid : Nat) (l : Store Byte) : State :=
  let n := s.names.order
  let s := { s with names := { s.names with order := n + 1 } }
  s.modTeam tid fun t =>
    { t with pending := (numbered n l).foldl (fun m (p : Nat × Byte × Nat) => sput m p.1 p.2) t.pending }

/-- Commit a write set as versions at `ts`, seen whole or not at all: the release's number and the state (R193, R218). -/
def State.commitTx (s : State) (tid gid ts : Nat) (scope : Scope) (l : Store Byte) : Nat × State :=
  let n := s.names.order
  let s := { s with names := { s.names with order := n + 1 } }
  let s := s.toOverlay tid ts (numbered n l)
  let s := if scope == .system then s.noteExport tid ts else s
  let (k, s) := s.openRelease tid (some gid) scope (.op gid 0)
  let s := { s with rels := smod s.rels k fun r => { r with st := .committing, ts := ts } }
  (k, (s.sendCommits tid k ts l).relInstalled k)

/-- The first channel without space among those of some addresses: the wait for it is noted (R198). -/
def State.spaceFor (s : State) (l : List Nat) : Option State := l.findSome? s.spaceWait

/-- TXCOMMIT (R218). (DEDUCED, log entry 16) -/
def execTxcommit (c : Ctl) (scope : Scope) (s : State) : Host.Outcome State Fault Refusal :=
  let m := { Meta.glob c false true none [] [] with opFlag := true, bound := true }
  instr m s fun iss s =>
    if partGang s iss then txTrap s iss 2
    else
      match (s.group iss.gid).tx with
      | none => txTrap s iss 3
      | some t =>
        if !(s.allPerformed iss.gid && s.seenAt iss.tid (s.scopeOf iss.tid scope)) || s.atomicAhead iss.tid (skeys t.writes) then .hold
        else
          let (ts, u) := (s.fenceNow iss.gid).takeTs
          if (u.team iss.tid).revs != t.revs || t.expired then .jump (u.abortTx iss.gid 2 0)
          else if t.full then .jump (u.abortTx iss.gid 5 0)
          else if txConflict u t ts then .jump (u.abortTx iss.gid 1 0)
          else if scope == .team then
            match s.spaceFor (skeys t.writes) with
            | some w => .holding w
            | none => .op ((u.joinPending iss.tid t.writes).closeTx iss.gid) (Op.of iss m [])
          else
            let (k, u) := u.commitTx iss.tid iss.gid ts scope t.writes
            .op (u.closeTx iss.gid) { Op.of iss m [.awaitRel k] with blocks := true }

/-- TXABORT (R218); its flag clears one cycle after issue. (DESIGN CHOICE, log entry 82) -/
def execTxabort (c : Ctl) (b : Opnd) (s : State) : Host.Outcome State Fault Refusal :=
  let m := { Meta.glob c false true none [] [(b, false)] with bound := true }
  instr m s fun iss s =>
    if partGang s iss then txTrap s iss 2
    else if (s.group iss.gid).tx.isNone then txTrap s iss 3
    else .jump (s.abortTx iss.gid 3 (s.rd32 iss.gid iss.lead 0 b).toNat)

end Sys2Proof.Machine
end

