-- ==== Sys2Proof/Machine/Barrier.lean ====
section
/-! DEFINITION. Barrier instructions: OP 0x17, the implicit drop and the watchdog (R222 to R239). -/

namespace Sys2Proof.Machine

/-- A barrier instruction (R225): once a slice, of class 1, with exact effects (R51). -/
def Meta.bar (c : Ctl) (bound : Bool) (dsts srcs : List (Opnd × Bool)) : Meta :=
  { Meta.reg c false 0 dsts srcs with lat := none, quick := 4, exact := true, sys := false, mem := true, bound := bound }

/-- BARMISMATCH: the frame's ADDR is the object offset (R234, R337). (DEDUCED, log entry 17) -/
def barCause (iss : Iss) (reason o : Nat) : Cause := iss.cause 9 reason 0 (BitVec.ofNat 64 o)

/-- The object offset an operand value and OFF11 form (R226). -/
def objOff (a : Word) (off : BitVec 11) : Nat := alignObj (wrapN 32 ((a.toNat : Int) + off.toInt * 8))

/-- Perform one update per slice in ascending SLICE.ID; a failing check leaves the whole instruction without
effect (R225, R234). -/
def perSlice (iss : Iss) (s : State) (f : Nat → State → Except Cause State) : Res :=
  match iss.slices.foldl (fun r i => r.bind (f i)) (Except.ok s) with
  | .ok t => .done t
  | .error k => .trap s k

namespace State

/-- The object a slice names: its offset, and its byte when in range. -/
def objNamed (s : State) (iss : Iss) (i : Nat) (a : Opnd) (off : BitVec 11) : Nat × Option Nat :=
  let o := objOff (s.rd32 iss.gid i 0 a) off
  (o, s.mapOff iss.tid (s.group iss.gid).level o)

/-- The group would need a 17th entry (R224). (DEDUCED, log entry 17) -/
def entriesFull (s : State) (gid off : Nat) : Bool :=
  16 ≤ (s.group gid).regs.length && !((s.group gid).regs.any fun e => e.off == off)

/-- Some slice on the core is blocked on an object (R229). (DEDUCED, log entry 17) -/
def someBlocked (s : State) (cid off : Nat) : Bool :=
  (s.groupsOn cid).any fun g => (s.sliceNos g).any fun i =>
    (s.slice g i).st == .blockedBwait && (s.slice g i).waitObj == some off

/-- BINIT's update: the object, the entries and the triggers that name it (R229). -/
def initObj (s : State) (ctx cid off n : Nat) : State :=
  if s.isFrozen cid ctx then s
  else
    let s := (s.groupsOn cid).foldl (fun s g => s.modGroup g fun x => { x with regs := x.regs.filter fun e => e.off != off }) s
    let s := s.modCore cid fun k => { k with triggers := k.triggers.filter fun t => t.off != off }
    let s := s.scrWrite cid off (objBytes { phase := 0, exp := n, arr := 0, expb := 0, landed := 0 })
    (s.wakeSeqrs cid).readyLaunches cid

end State

/-- BINIT in one slice; reason 5 is reported before reason 7 (R229). (DESIGN CHOICE, log entry 83) -/
def binitSlice (iss : Iss) (d a : Opnd) (off : BitVec 11) (i : Nat) (s : State) : Except Cause State :=
  let n := (s.rd32 iss.gid i 0 d).toNat
  match s.objNamed iss i a off with
  | (_, none) => .ok (s.wrapOut iss.tid)
  | (o, some b) =>
    if s.someBlocked iss.cid b then .error (barCause iss 5 o)
    else if n = 0 || 65535 < n then .error (barCause iss 7 o)
    else .ok (s.initObj (s.team iss.tid).ctx iss.cid b n)

/-- BINIT (R229). -/
def execBinit (c : Ctl) (d a : Opnd) (off : BitVec 11) (s : State) : Host.Outcome State Fault Refusal :=
  instr (.bar c true [] [(d, false), (a, false)]) s fun iss s => perSlice iss s (binitSlice iss d a off)

/-- BREG in one slice: of the entry REG alone changes (R227). (DEDUCED, log entry 17) -/
def bregSlice (iss : Iss) (a : Opnd) (off : BitVec 11) (i : Nat) (s : State) : Except Cause State :=
  match s.objNamed iss i a off with
  | (_, none) => .ok (s.wrapOut iss.tid)
  | (o, some b) =>
    if s.entriesFull iss.gid b then .error (barCause iss 4 o)
    else
      let e := s.storedEntry iss.gid b (s.objAt iss.cid b).phase
      .ok (s.putEntry iss.gid { e with reg := e.reg ||| s.liveIn iss.gid i })

/-- BREG (R227). -/
def execBreg (c : Ctl) (a : Opnd) (off : BitVec 11) (s : State) : Host.Outcome State Fault Refusal :=
  instr (.bar c true [] [(a, false)]) s fun iss s => perSlice iss s (bregSlice iss a off)

/-- The target phase an arrival or a drop returns: the phase before the update, plus 1 (R227). -/
def nextPhase (o : Obj) : Word := BitVec.ofNat 32 (o.phase + 1)

/-- Write a slice's s destination. -/
def State.wrD (s : State) (iss : Iss) (i : Nat) (d : Opnd) (x : Word) : State := s.wr32 iss.gid i 0 d x

/-- BARR in one slice (R227). -/
def barrSlice (iss : Iss) (d a : Opnd) (b : Option Opnd) (off : BitVec 11) (i : Nat) (s : State) : Except Cause State :=
  match s.objNamed iss i a off with
  | (_, none) => .ok ((s.wrapOut iss.tid).wrD iss i d 0)
  | (o, some x) =>
    let obj := s.objAt iss.cid x
    let e := s.entryFor iss.gid x obj.phase
    let l := s.liveIn iss.gid i
    let new := l &&& ~~~e.arrm
    if b.any fun b => (s.rd32 iss.gid i 0 b).toNat != obj.exp then .error (barCause iss 1 o)
    else if 65535 < obj.arr + count32 new then .error (barCause iss 2 o)
    else if s.entriesFull iss.gid x then .error (barCause iss 4 o)
    else
      let s := s.putEntry iss.gid { e with reg := e.reg ||| l, arrm := e.arrm ||| new }
      let s := s.objUpdate (s.team iss.tid).ctx iss.cid x fun u => { u with arr := u.arr + count32 new }
      .ok ((s.wrD iss i d (nextPhase obj)).meet iss.tid x (nextPhase obj))

/-- A barrier arrival stands between the group's packets so far and those to come (R326). -/
def arrival (iss : Iss) (r : Res) : Res := match r with | .done t => .done (t.fenceNow iss.gid) | r => r

/-- BARR (R227, R233). (DEDUCED, log entries 16 and 17) -/
def execBarr (c : Ctl) (d a : Opnd) (b : Option Opnd) (off : BitVec 11) (s : State) : Host.Outcome State Fault Refusal :=
  instr (.bar c true [(d, false)] ((a, false) :: b.toList.map fun b => (b, false))) s fun iss s =>
    if s.allPerformed iss.gid then arrival iss (perSlice iss s (barrSlice iss d a b off)) else .hold

/-- BARRD in one slice (R227). (DEDUCED, log entry 17) -/
def barrdSlice (iss : Iss) (d a : Opnd) (off : BitVec 11) (i : Nat) (s : State) : Except Cause State :=
  match s.objNamed iss i a off with
  | (_, none) => .ok ((s.wrapOut iss.tid).wrD iss i d 0)
  | (o, some x) =>
    let obj := s.objAt iss.cid x
    let e := s.entryFor iss.gid x obj.phase
    let l := s.liveIn iss.gid i
    if s.entriesFull iss.gid x then .error (barCause iss 4 o)
    else if obj.exp < count32 (l &&& e.reg) then .error (barCause iss 6 o)
    else .ok ((s.dropLanes iss.cid iss.gid x l).wrD iss i d (nextPhase obj))

/-- BARRD (R227, R233). -/
def execBarrd (c : Ctl) (d a : Opnd) (off : BitVec 11) (s : State) : Host.Outcome State Fault Refusal :=
  instr (.bar c true [(d, false)] [(a, false)]) s fun iss s =>
    if s.allPerformed iss.gid then arrival iss (perSlice iss s (barrdSlice iss d a off)) else .hold

/-- BEXP in one slice (R230). -/
def bexpSlice (iss : Iss) (d a : Opnd) (off : BitVec 11) (i : Nat) (s : State) : Except Cause State :=
  let n := (s.rd32 iss.gid i 0 d).toNat
  match s.objNamed iss i a off with
  | (_, none) => .ok (s.wrapOut iss.tid)
  | (_, some b) => .ok (s.objUpdate (s.team iss.tid).ctx iss.cid b fun o => { o with expb := satAdd o.expb n })

/-- BEXP (R230). -/
def execBexp (c : Ctl) (d a : Opnd) (off : BitVec 11) (s : State) : Host.Outcome State Fault Refusal :=
  instr (.bar c true [] [(d, false), (a, false)]) s fun iss s => perSlice iss s (bexpSlice iss d a off)

/-- BWAIT in one slice: it goes on, or blocks where it stands (R231). -/
def bwaitSlice (iss : Iss) (d a : Opnd) (off : BitVec 11) (age : Nat) (s : State) (i : Nat) : State :=
  let go (s : State) : State := s.modSlice iss.gid i fun x => { x with pc := iss.fall, ix := 0 }
  let t := s.rd32 iss.gid i 0 d
  match s.objNamed iss i a off with
  | (_, none) => go (s.wrapOut iss.tid)
  | (_, some b) =>
    if satisfied (s.objAt iss.cid b).phase t.toNat then go s
    else s.modSlice iss.gid i fun x => { x with st := .blockedBwait, waitObj := some b, waitTgt := t, waitFrom := age }

/-- BWAIT (R231). -/
def execBwait (c : Ctl) (d a : Opnd) (off : BitVec 11) (s : State) : Host.Outcome State Fault Refusal :=
  instr { Meta.bar c false [] [(d, false), (a, false)] with quick := 1 } s fun iss s =>
    .jump (iss.slices.foldl (bwaitSlice iss d a off (s.cycles iss.gid)) s)

/-- BTEST in one slice (R232). -/
def btestSlice (iss : Iss) (d a b : Opnd) (off : BitVec 11) (i : Nat) (s : State) : Except Cause State :=
  match s.objNamed iss i a off with
  | (_, none) => .ok ((s.wrapOut iss.tid).wrD iss i d 1)
  | (_, some x) =>
    .ok (s.wrD iss i d (if satisfied (s.objAt iss.cid x).phase (s.rd32 iss.gid i 0 b).toNat then 1 else 0))

/-- BTEST (R232). -/
def execBtest (c : Ctl) (d a b : Opnd) (off : BitVec 11) (s : State) : Host.Outcome State Fault Refusal :=
  instr (.bar c false [(d, false)] [(a, false), (b, false)]) s fun iss s => perSlice iss s (btestSlice iss d a b off)

/-! ### Triggers (R237) -/

/-- A trigger record's word is one TRIG accepts: class 2 but PLANEQ, DIST 0, SIG 15, PM 0, and legal (R237). -/
def trigWordOk (w : DWord) : Bool :=
  dfld w 58 6 == 0x20 && dfld w 52 6 < 6 && dfld w 49 3 == 0 && dfld w 45 4 == 15 && dfld w 42 3 == 0
    && (match decodeG w with | .ok _ => true | .rejected _ => false)

/-- TRIG in one slice (DEDUCED, log entry 18): its checks in this order (DESIGN CHOICE, log entry 83), and the command's
address is its own (DESIGN CHOICE, log entry 85). -/
def trigSlice (iss : Iss) (d a b : Opnd) (off : BitVec 11) (i : Nat) (s : State) : Except Cause State :=
  let level := (s.group iss.gid).level
  let pair := s.rd64 iss.gid i 0 a
  let thr := s.rd32 iss.gid i 0 b
  let rOff := objOff (pair.extractLsb' 32 32) off
  let rBytes := (List.range 48).map fun n => s.mapOff iss.tid level ((rOff + n) % 2 ^ 32)
  match s.mapOff iss.tid level (objOff (pair.extractLsb' 0 32) off) with
  | none => .ok ((s.wrapOut iss.tid).wrD iss i d 0)
  | some x =>
    if rBytes.any Option.isNone then .ok ((s.wrapOut iss.tid).wrD iss i d 0)
    else
      let r := dwords 6 (rBytes.map fun q => mread s.scratch (State.scrKey iss.cid (q.getD 0)))
      if !trigWordOk (r.getD 0 0) || r.getD 5 0 != 0 then .error iss.illegal
      else if 32 ≤ (s.core iss.cid).triggers.length then .ok (s.wrD iss i d 0)
      else
        let obj := s.objAt iss.cid x
        let t : Trigger :=
          { tid := iss.tid, gid := iss.gid, addr := iss.addr, off := x, phase := BitVec.ofNat 32 obj.phase
            landed := thr.getLsbD 31, thresh := thr.toNat % 2 ^ 31, word := r.getD 0 0, vals := (r.drop 1).take 4 }
        let s := s.wrD iss i d 1
        .ok (if t.thresh ≤ (if t.landed then obj.landed else obj.arr) then s.fireWord t.tid t.gid t.addr t.word t.vals
          else s.modCore iss.cid fun k => { k with triggers := k.triggers ++ [t] })

/-- TRIG (R237, R238), a release at TEAM scope (R233). (DEDUCED, log entry 18) -/
def execTrig (c : Ctl) (d a b : Opnd) (off : BitVec 11) (s : State) : Host.Outcome State Fault Refusal :=
  instr (.bar c true [(d, false)] [(a, true), (b, false)]) s fun iss s =>
    if s.allPerformed iss.gid then perSlice iss (s.fenceNow iss.gid) (trigSlice iss d a b off) else .hold

/-! ### The implicit drop (R228) -/

/-- Four lanes of a mask of 32. -/
def nibble (m : BitVec 32) (i : Nat) : Nat := m.toNat / 2 ^ (4 * i) % 16

/-- A window access of some lanes is still to be performed; own accesses are performed at issue (R138, R228). -/
def State.lanesBusy (s : State) (gid : Nat) (m : BitVec 32) : Bool :=
  (svals s.packets).any fun p =>
    p.gid == gid && match p.load with
      | .winLoad _ vec => if vec then m.getLsbD p.lane else nibble m p.lane != 0
      | .winStore vec => if vec then m.getLsbD p.lane else nibble m p.lane != 0
      | _ => false

/-- The first exit of a group whose lanes' scratchpad and window accesses are performed (R228). -/
def State.dropDue (s : State) (gid : Nat) : Option (BitVec 32) := (s.group gid).exits.find? fun m => !s.lanesBusy gid m

/-- IMPLICIT_DROP: the lanes of one exit leave every object they are registered at (R228). -/
def execImplicitDrop (gid : Nat) (s : State) : Host.Outcome State Fault Refusal :=
  match s.dropDue gid with
  | some x =>
    let cid := (s.team (tidOf gid)).core
    let l := (s.group gid).regs.filter fun e => e.reg &&& x != 0
    let s := s.modGroup gid fun g => { g with exits := g.exits.erase x }
    .next (l.foldl (fun s e => s.dropLanes cid gid e.off x) s).settle
  | none => .next s

/-! ### The watchdog (R235, R236) -/

namespace State

/-- A slice waits in BWAIT or ACCALLOC and its count has reached the limit (R235). -/
def watchExpired (s : State) (gid i : Nat) : Bool :=
  let x := s.slice gid i
  (x.st == .blockedBwait || x.st == .blockedAcc)
    && x.waitFrom + (s.launchOf (tidOf gid)).wdogLimit ≤ s.cycles gid

/-- The expired slices of a context, on cores in ascending (y, x), in ascending GROUP.ID and SLICE.ID over the core's
teams (R235). -/
def expired (s : State) (c : Nat) : List (Nat × Nat) :=
  (skeys s.cores).flatMap fun cid =>
    let gs := (s.groupsOn cid).filter fun g => (s.team (tidOf g)).ctx = c
    (List.range 256).flatMap fun n =>
      ((gs.filter fun g => groupNo g = n / 8 && (s.sliceNos g).contains (n % 8) && s.watchExpired g (n % 8))).map fun g => (g, n % 8)

/-- A slice's entry in the diagnostic record: two doublewords (R236). Its address is that of the slice's next instruction.
(DESIGN CHOICE, log entry 85) -/
def watchEntry (s : State) (gid i : Nat) (obj : Option Nat) (ph : Nat) : List DWord :=
  let x : Slice := s.slice gid i
  let e := (s.group gid).regs.find? fun e => some e.off == obj
  let reg := (e.map fun e => nibble e.reg i).getD 0
  let arm := (e.map fun e => if e.ph.toNat = ph then nibble e.arrm i else 0).getD 0
  let here : Bool := match obj with | some o => x.st == .blockedBwait && x.waitObj == some o | none => x.st == .blockedAcc
  let code := if x.st = SliceSt.done then 3 else if here then 1 else if x.st = SliceSt.ganged then 0 else 2
  let tgt := if x.st == SliceSt.blockedBwait then x.waitTgt.toNat else 0
  let pc := (x.pc + BitVec.ofNat 56 (8 + 8 * x.ix)).toNat
  [BitVec.ofNat 64 (tgt * 2 ^ 32 + code * 2 ^ 30 + x.exec.toNat * 2 ^ 8 + reg * 2 ^ 4 + arm),
    BitVec.ofNat 64 (groupNo gid * 2 ^ 59 + i * 2 ^ 56 + pc)]

/-- Slices the record lists: blocked on the object or registered at it; for the allocator, blocked in ACCALLOC. -/
def watchListed (s : State) (tid : Nat) (obj : Option Nat) : List (Nat × Nat) :=
  (s.teamGroups tid).flatMap fun g => ((s.sliceNos g).filter fun i =>
    let x := s.slice g i
    match obj with
    | some o =>
      (x.st == .blockedBwait && x.waitObj == some o)
        || (s.group g).regs.any fun e => e.off == o && nibble e.reg i != 0
    | none => x.st == .blockedAcc).map fun i => (g, i)

/-- The diagnostic record (R236). -/
def watchRecord (s : State) (gid i : Nat) : List DWord :=
  let x := s.slice gid i
  let tid := tidOf gid
  let t := s.team tid
  let l := s.launch t.launch
  let c := s.cluster t.cluster
  let obj := if x.st == .blockedBwait then x.waitObj else none
  let ph := match obj with | some o => (s.objAt t.core o).phase | none => 0
  let listed := s.watchListed tid obj
  let (cx, cy) := corePos t.core
  [BitVec.ofNat 64 ((if obj.isSome then 1 else 2) * 2 ^ 56 + t.ctx % 4096 * 2 ^ 44 + l.policy 2 6 * 2 ^ 38 + l.ident % 2 ^ 32),
    BitVec.ofNat 64 s.now,
    BitVec.ofNat 64 (listed.length * 2 ^ 40 + cy * 2 ^ 25 + cx * 2 ^ 19 + obj.getD 0)]
    ++ (match obj with | some o => dwords 2 (s.scrBytes t.core o 16) | none => [0, 0])
    ++ [BitVec.ofNat 64 (c.cz * 2 ^ 48 + c.cy * 2 ^ 32 + c.cx * 2 ^ 16 + t.ty * 2 ^ 8 + t.tx)]
    ++ listed.flatMap fun p => s.watchEntry p.1 p.2 obj ph

end State

/-- BARRIER_WATCHDOG_EXPIRY: updates freeze, the record is kept, and the context is killed (R235). -/
def execBarrierWatchdogExpiry (gid slice : Nat) (s : State) : Host.Outcome State Fault Refusal :=
  let t := s.team (tidOf gid)
  if (s.expired t.ctx).head? == some (gid, slice) && (s.ctx t.ctx).killing.isNone then
    let body := bytesOf (s.watchRecord gid slice)
    let s := s.modCore t.core fun k => { k with frozen := some t.ctx }
    .next (s.requestKill t.ctx
      { kind := 1, launch := (s.launch t.launch).ident, reason := 0, gslot := (s.group gid).slot, cid := t.core, body := body })
  else .next s

/-! ### Accumulator allocation (R240 to R242) -/

/-- Lexicographic order of numbers. -/
def lexLt : List Nat → List Nat → Bool
  | a :: l, b :: m => a < b || (a == b && lexLt l m)
  | _, _ => false

/-- The number of an s register operand. -/
def sNo : Opnd → Nat | .s n => n.toNat | _ => 0

/-- ACCALLOC and ACCFREE: once for the gang (R240). -/
def Meta.accum (c : Ctl) (dsts srcs : List (Opnd × Bool)) : Meta :=
  { Meta.reg c false 0 dsts srcs with lat := none, exact := true, sys := false, once := true, bound := true }

/-- ACCALLOC (R241). (DEDUCED, log entry 18) -/
def execAccalloc (c : Ctl) (d a : Opnd) (s : State) : Host.Outcome State Fault Refusal :=
  let m := Meta.accum c [(d, true)] [(a, false)]
  instr m s fun iss s =>
    let n := (s.rd32 iss.gid iss.lead 0 a).toNat
    let t := s.team iss.tid
    let give (x : DWord) (s : State) : Res := .done (s.wrSlices64 iss.gid iss.slices (sNo d) x)
    let asking := (s.teamsOn iss.cid).filter fun u => (s.team u).accReq.isSome
    if n = 0 || 64 < n then .trap s iss.illegal
    else if (s.launchOf iss.tid).shape 18 7 < t.acc.length + n then give 0 s
    else if asking.any fun u => u == iss.tid || lexLt (s.accAge u) (s.accAge iss.tid) then give 0 s
    else if n ≤ (s.accFree iss.cid).length then
      let (x, s) := s.grantTiles iss.tid n
      give x s
    else
      let s := asking.foldl (fun s u => match (s.team u).accReq with | some r => s.endAcc u r 0 | none => s) s
      let age := s.cycles iss.gid
      let s := s.modSlices iss.gid iss.slices fun x => { x with st := .blockedAcc, waitFrom := age }
      let r : AccReq :=
        { gid := iss.gid, oid := s.names.op, slices := iss.slices, dest := sNo d, count := n, len := iss.len }
      let sig := if c.sig = 15 then none else some c.sig.toNat
      .block (s.modTeam iss.tid fun t => { t with accReq := some r }) { Op.of iss m [.awaitResult] with sig := sig }

/-- ACCFREE (R242): held until no matrix command names a freed tile. (DEDUCED, log entry 18) -/
def execAccfree (c : Ctl) (a : Opnd) (s : State) : Host.Outcome State Fault Refusal :=
  instr (.accum c [] [(a, true)]) s fun iss s =>
    let mask := s.rd64 iss.gid iss.lead 0 a
    let gone := (s.team iss.tid).acc.filter fun e => mask.getLsbD e.1
    let named := (svals s.mcmds).any fun k => (s.team k.tid).core == iss.cid && k.accs.any fun p => (svals gone).contains p
    if named then .hold else .done (s.freeTiles iss.tid (skeys gone))

end Sys2Proof.Machine
end

