-- ==== Sys2Proof/Machine/Plane.lean ====
section
/-! DEFINITION. Plane and copy commands: OP 0x20, and the steps their engines take (R243 to R268). -/

namespace Sys2Proof.Machine

/-- A class 2 instruction: once for the gang, counted on copies, its flag clear when it is accepted (R246, R248). -/
def Meta.plane (c : Ctl) (srcs : List (Opnd × Bool)) : Meta :=
  { Meta.reg c false 0 [] srcs with
    lat := none, exact := true, sys := false, once := true, ctr := some .copies, mem := true, bound := true }

/-- What the acceptance of a command comes to at issue: it is queued, or the plane-command trap (R247). -/
def accepted (m : Meta) (iss : Iss) (s : State) (r : Except (Nat × Word) (Cmd × State)) : Res :=
  match r with
  | .error (n, o) => .trap s (iss.cause 16 n 0 (o.zeroExtend 64))
  | .ok (k, t) =>
    let (n, t) := (t.endReplay k).queueCmd { k with oid := some t.names.op }
    .op t (Op.of iss m [.awaitCmd n])

/-- A spill base operand (R246). -/
def spillBase (s : State) (iss : Iss) (d : Option Opnd) : Option DWord := d.map fun d => s.rd64 iss.gid iss.lead 0 d

/-- SCRL (R252). (DEDUCED, log entry 17) -/
def execScrl (c : Ctl) (d : Option Opnd) (a : Opnd) (s : State) : Host.Outcome State Fault Refusal :=
  let m := Meta.plane c ((a, false) :: d.toList.map fun d => (d, true))
  instr m s fun iss s =>
    accepted m iss s (s.acceptScroll iss.tid iss.gid iss.addr false (s.rd32 iss.gid iss.lead 0 a) (spillBase s iss d))

/-- SCRLR (R257). -/
def execScrlr (c : Ctl) (d : Option Opnd) (a : Opnd) (s : State) : Host.Outcome State Fault Refusal :=
  let m := Meta.plane c ((a, false) :: d.toList.map fun d => (d, true))
  instr m s fun iss s =>
    accepted m iss s (s.acceptScroll iss.tid iss.gid iss.addr true (s.rd32 iss.gid iss.lead 0 a) (spillBase s iss d))

/-- COPY (R260). -/
def execCopy (c : Ctl) (a b : Opnd) (s : State) : Host.Outcome State Fault Refusal :=
  let m := Meta.plane c [(a, false), (b, false)]
  instr m s fun iss s =>
    accepted m iss s (s.acceptCopy iss.tid iss.gid iss.addr .copy (s.rd32 iss.gid iss.lead 0 a) (s.rd32 iss.gid iss.lead 0 b))

/-- COPYX (R265). -/
def execCopyx (c : Ctl) (a b : Opnd) (s : State) : Host.Outcome State Fault Refusal :=
  let m := Meta.plane c [(a, false), (b, false)]
  instr m s fun iss s =>
    accepted m iss s (s.acceptCopy iss.tid iss.gid iss.addr .copyx (s.rd32 iss.gid iss.lead 0 a) (s.rd32 iss.gid iss.lead 0 b))

/-- COPY.DEC (R263). -/
def execCopyDec (c : Ctl) (a b : Opnd) (s : State) : Host.Outcome State Fault Refusal :=
  let m := Meta.plane c [(a, false), (b, false)]
  instr m s fun iss s =>
    accepted m iss s (s.acceptCopy iss.tid iss.gid iss.addr .decode (s.rd32 iss.gid iss.lead 0 a) (s.rd32 iss.gid iss.lead 0 b))

/-- DTLOAD (R262). -/
def execDtload (c : Ctl) (acq : Bool) (scope : Scope) (slot : Bool) (a : Opnd) (s : State) :
    Host.Outcome State Fault Refusal :=
  let m := Meta.plane c [(a, true)]
  instr m s fun iss s =>
    accepted m iss s (.ok (s.acceptDtload iss.tid iss.gid iss.addr acq scope slot (s.rd64 iss.gid iss.lead 0 a)))

/-- The answer of PLANEQ (R268). -/
def planeqValue (s : State) (iss : Iss) (sel : Nat) : Word :=
  let slot (t : TSlot) : Word :=
    BitVec.ofNat 32 ((if t.table.isSome && t.loaded = t.gen then 2 ^ 31 else 0) + t.gen % 2 ^ 31)
  match sel with
  | 0 =>
    if s.planeUnits iss.tid = 0 then 0
    else
      let g := s.planeRect iss.tid
      BitVec.ofNat 32 (g.2.2.2 * 2 ^ 24 + g.2.2.1 * 2 ^ 16 + g.2.1 * 2 ^ 8 + g.1)
  | 1 => slot (s.core iss.cid).tslot0
  | 2 => slot (s.core iss.cid).tslot1
  | _ =>
    let here (tid : Nat) : Bool := (s.teamsOn iss.cid).contains tid
    BitVec.ofNat 32 (((svals s.cmds).filter fun k => here k.tid).length
      + ((svals s.mcmds).filter fun k => here k.tid && k.cls == .drain && k.child.isNone).length)

/-- PLANEQ (R268). -/
def execPlaneq (c : Ctl) (d a : Opnd) (s : State) : Host.Outcome State Fault Refusal :=
  instr { Meta.plane c [] with dsts := [(d, false)], ctr := none } s fun iss s =>
    .done (s.wrSlices iss.gid iss.slices (sNo d) (planeqValue s iss (s.rd32 iss.gid iss.lead 0 a).toNat))

namespace State

/-! ### Engines: what they read and write (R196, R249, R258) -/

/-- Earlier commands of the group have all been started (R249). -/
def cmdStarted (k : Cmd) : Bool := k.started || k.written || k.err.isSome || k.fault.isSome

/-- A command may take its first step (R249). -/
def mayStart (s : State) (n : Nat) (k : Cmd) : Bool :=
  cmdStarted k || s.cmds.all fun e => !(e.1 < n && e.2.gid == k.gid && !cmdStarted e.2)

/-- The team's cluster is being vacated, or is suspended: scrolls stop (R256). -/
def vacates (s : State) (tid : Nat) : Bool :=
  (s.team tid).st == .suspended || (!isSys (s.team tid).core && (s.cluster (s.team tid).cluster).vacating.isSome)

/-- Packets of a command are under way (R317). -/
def outstanding (s : State) (n : Nat) : Bool := (svals s.packets).any fun p => p.cmd == some (.cmd n)

/-- A command's engine may work on it: it is out of the settle window (R362), nothing has stopped it and it waits for no
answer. -/
def cmdRuns (s : State) (n : Nat) (k : Cmd) : Bool :=
  k.born + Config.settleCycles ≤ s.clock
    && !k.written && k.err.isNone && k.fault.isNone && s.mayStart n k && (s.ctx (s.team k.tid).ctx).killing.isNone
    && !(k.kind == .scroll && (s.vacates k.tid || s.outstanding n))

/-- Change a command. -/
def modCmd (s : State) (n : Nat) (f : Cmd → Cmd) : State := { s with cmds := smod s.cmds n f }

/-! ### Places of shapes (R258, R259) -/

/-- The byte of a core's scratchpad that a plane-region offset names for a launch; none out of range (R258). -/
def planeOff (s : State) (tid o : Nat) : Option Nat :=
  let l := s.launchOf tid
  if fld o 30 2 = 2 then (wrapOff (o % 2 ^ 30) (l.plane 46 14 * 32)).map fun q => l.plane 32 14 * 32 + q else none

/-- Where a shape's element lies outside memory: the core and byte, or out of range (R258, R259). -/
def shapeScr (s : State) (k : Cmd) (r : List DWord) (e : Int) : Nat × Option Nat :=
  let b := dfld (r.getD 0 0) 0 32
  let o := wrapN 32 ((b - b % shES r : Nat) + e)
  if shSpace r = 1 then ((s.team k.tid).core, s.mapOff k.tid k.level o)
  else (cidOf (dfld (r.getD 0 0) 32 8) (dfld (r.getD 0 0) 40 8), s.planeOff k.tid o)

/-- Key of a TILE element's first byte (R258). -/
def shapeTile (s : State) (k : Cmd) (r : List DWord) (e : Int) : Nat :=
  let t := dfld (r.getD 0 0) 0 4
  tileKey (s.bankOf k.tid t) t + wrapN 11 e

/-- Where an element of a shape outside memory lies, in the tiles or in the scratchpads; none out of range. -/
def elemPlace (s : State) (k : Cmd) (r : List DWord) (i : Nat) : Option (Bool × Nat) :=
  let e := shOffset r i
  if shSpace r = 2 then some (true, s.shapeTile k r e)
  else match s.shapeScr k r e with
    | (_, none) => none
    | (cid, some b) => some (false, scrKey cid b)

/-- The 32-byte granule of a place. -/
def granuleOf (s : State) (k : Cmd) (r : List DWord) (i : Nat) : Option (Bool × Nat) :=
  (s.elemPlace k r i).map fun p => (p.1, p.2 / 32)

/-! ### Packets of a command (R317) -/

/-- A packet of a command from its core to another place (R317). (DEDUCED, log entry 59) -/
def cmdPacket (s : State) (n : Nat) (k : Cmd) (dst : Endpoint) (vc pa : Nat) (bs : List Byte) (load : Payload) : Packet :=
  let t := s.team k.tid
  { Packet.plain (.core t.core) dst vc load with
    ctx := t.ctx, ptag := t.part, tid := k.tid, gid := k.gid, pa := pa, size := bs.length, bytes := bs, cmd := some (.cmd n)
    level := k.level }

/-- A command writes scratchpad bytes of a core, from a core: the same one's at once, another's by a block that goes there
(R317). -/
def cmdStore (s : State) (n : Nat) (k : Cmd) (src cid b : Nat) (bs : List Byte) : State :=
  if cid = src then s.scrStore cid b bs
  else s.produce { s.cmdPacket n k (.core cid) 2 b bs .block with src := .core src, lane := 2 ^ bs.length - 1 }

/-- A command lands bytes at an object: on its own core at once, on another by an update that follows its blocks there
(R248, R317, R322). -/
def cmdLandAt (s : State) (n : Nat) (k : Cmd) (cid b m : Nat) : State :=
  if cid = (s.team k.tid).core then s.objLand (s.team k.tid).ctx cid b m
  else s.produce { s.cmdPacket n k (.core cid) 2 b [] (.bar ⟨b, m, 0⟩) with size := 0 }

/-- A command's memory write leaves for its home, to join the pending set there; into a multicast window its copies go to
the members too (R181, R196). -/
def engineStore (s : State) (n : Nat) (k : Cmd) (pa : Nat) (g : Option Nat) (bs : List Byte) : State :=
  s.produce { s.cmdPacket n k (homeEnd pa) 0 pa bs .write with group := g }

/-- A command asks for bytes that lie elsewhere, once: the place is what tells its answers apart. -/
def askFor (s : State) (n : Nat) (k : Cmd) (dst : Endpoint) (place pa m : Nat) : State :=
  if (svals s.packets).any fun p => p.cmd == some (.cmd n) && p.lane == place then s
  else
    (s.produce { s.cmdPacket n k dst 0 pa [] (.read .fill (some (k.snap, []))) with lane := place, size := m }).modCmd n
      fun x => { x with started := true }

/-- What has come from a place. -/
def gotAt (k : Cmd) (place : Nat) : Option (List Byte) := (k.got.find? fun g => g.1 == place).map Prod.snd

/-! ### Elements written (R249, R260, R263) -/

/-- Elements `l` of a destination outside memory, all in one 32-byte granule, are written together; a tile register's outlier
list is emptied (R249, R278). -/
def writeGranule (s : State) (n : Nat) (k : Cmd) (r : List DWord) (bs : List Byte) (l : List Nat) : State :=
  let m := shES r
  let elem (i : Nat) : List Byte := (bs.drop (i * m)).take m
  match l.head?.bind fun i => s.granuleOf k r i with
  | none => s
  | some (tile, g) =>
    let own := !tile && g * 32 / 2 ^ 19 == (s.team k.tid).core
    let cells := l.flatMap fun i => (List.range m).map fun j => (((s.elemPlace k r i).getD (tile, 0)).2 + j, (elem i).getD j 0)
    if tile then
      { l.foldl (fun s i => s.tileStore (s.shapeTile k r (shOffset r i)) (elem i)) s with tileLists := sdel s.tileLists (g / 64) }
    else if own then
      l.foldl (fun s i => match s.shapeScr k r (shOffset r i) with | (cid, some b) => s.scrStore cid b (elem i) | _ => s) s
    else
      let st : Store Byte := cells.foldl (fun m c => sput m c.1 c.2) []
      let line := (List.range 32).map fun j => (sget st (g * 32 + j)).getD 0
      let mask := (List.range 32).foldl (fun a j => if (sget st (g * 32 + j)).isSome then a + 2 ^ j else a) 0
      s.produce { s.cmdPacket n k (.core (g * 32 / 2 ^ 19)) 2 (g * 32 % 2 ^ 19) line .block with lane := mask }

/-- Elements already moved whose granules wait for later ones are written, as a command stops (R249, R260, R263). -/
def flushOpen (s : State) (n : Nat) (k : Cmd) : State :=
  let r := k.dst
  if (k.kind != .copy && k.kind != .decode) || shSpace r = 0 then s
  else
    let open_ := (List.range k.pos).filter fun i => (s.granuleOf k r i).isSome
      && (List.range (shCount r)).any fun j => k.pos ≤ j && s.granuleOf k r j == s.granuleOf k r i
    ((open_.map (s.granuleOf k r)).eraseDups).foldl (fun s g => s.writeGranule n k r k.result (open_.filter fun i => s.granuleOf k r i == g)) s

/-- A command stops, and its group's trap tells why (R250). -/
def stopCmd (s : State) (n : Nat) (k : Cmd) (reason : Nat) (aux : List DWord) : State :=
  ((s.flushOpen n k).planeFault k.tid k.gid reason k.addr aux).modCmd n fun x => { x with err := some ⟨reason⟩ }

/-- An engine read under a revoked snapshot stops the command, and SNAPEXP is posted (R199). -/
def expireCmd (s : State) (n : Nat) (k : Cmd) (va : Nat) : State :=
  ((s.flushOpen n k).postAsync k.tid k.gid { code := 14, reason := 1, info := 0, addr := BitVec.ofNat 64 va, fpc := 0, aux := [] }).modCmd n
    fun x => { x with err := some ⟨0⟩ }

/-! ### Reads (R196, R249) -/

/-- Translate an engine's access; a page fault waits for a service answer, a refused one stops the command
(R250), one in a multicast window without a valid group with reason 3. (DESIGN CHOICE, log entry 87) -/
def engineTr (s : State) (n : Nat) (k : Cmd) (need : Need) (va : Nat) : Except State (Nat × Option Nat × State) :=
  let (t, s) := s.translate (s.team k.tid).core k.tid k.level need va
  match t with
  | .ok pa g => .ok (pa, g, s)
  | .wait => .error s
  | .page => .error (s.modCmd n fun x => { x with fault := some (BitVec.ofNat 56 va, (if need.write then .write else .read), none) })
  | .perm => .error (s.stopCmd n k 2 [])
  | .poison pa => .error (s.consume k.tid pa)
  | _ => .error (s.stopCmd n k 3 [])

/-- An engine's memory read of `m` bytes under the captured snapshot: what has come from the address, else it is asked for
(R196, R317). -/
def engineLoad (s : State) (n : Nat) (k : Cmd) (va m : Nat) : Except State (List Byte × State) :=
  match gotAt k va with
  | some bs => .ok (bs, s)
  | none =>
    if (s.team k.tid).revoked || k.expired then .error (s.expireCmd n k va)
    else
      match s.engineTr n k .read1 va with
      | .error s => .error s
      | .ok (pa, _, s) => .error (s.askFor n k (homeEnd pa) va pa m)

/-- An own write of the core stands in its settle buffer at some of these bytes (R362). -/
def scrSettling (s : State) (cid b m : Nat) : Bool :=
  s.settling.any fun x => overlaps (scrKey cid b) m x.1 x.2.1 && s.clock < x.2.2

/-- Read one element of a shape at byte offset `e`: the own core's at once, another's by asking that core (R317). -/
def readElem (s : State) (n : Nat) (k : Cmd) (r : List DWord) (e : Int) : Except State (List Byte × State) :=
  let m := shES r
  match shSpace r with
  | 0 => s.engineLoad n k (wrapN 56 ((dfld (r.getD 0 0) 0 56 : Nat) + e)) m
  | 2 =>
    let key := s.shapeTile k r e
    if s.tilePoisoned key m then .error (s.consume k.tid 0) else .ok (mreads s.tiles key m, s)
  | _ =>
    match s.shapeScr k r e with
    | (_, none) => .ok (List.replicate m 0, s.wrapOut k.tid)
    | (cid, some b) =>
      if cid = (s.team k.tid).core then
        if s.scrPoisoned cid b m then .error (s.consume k.tid 0) else .ok (s.scrBytes cid b m, s)
      else
        match gotAt k (2 ^ 57 + scrKey cid b) with
        | some bs => .ok (bs, s)
        | none => .error (s.askFor n k (.core cid) (2 ^ 57 + scrKey cid b) b m)

/-- Write element `k.pos` of a destination, whose bytes and those before it stand in `bs`. To memory it is written by
itself; elsewhere it waits for the last element of its 32-byte granule, and the granule's elements are then written
together (R249). -/
def writeElem (s : State) (n : Nat) (k : Cmd) (r : List DWord) (bs : List Byte) : Except State State :=
  let m := shES r
  if shSpace r = 0 then
    match s.engineTr n k .write1 (wrapN 56 ((dfld (r.getD 0 0) 0 56 : Nat) + shOffset r k.pos)) with
    | .error s => .error s
    | .ok (pa, g, s) => .ok (s.engineStore n k pa g ((bs.drop (k.pos * m)).take m))
  else
    let own := s.granuleOf k r k.pos
    let mine := (List.range (shCount r)).filter fun i => s.granuleOf k r i == own
    if own.isNone then .ok (s.wrapOut k.tid)
    else if mine.getLast? == some k.pos then .ok (s.writeGranule n k r bs mine)
    else .ok s

/-- Whether and at what scope a command ends with a release (R254, R258). -/
def cmdRelease (k : Cmd) : Option Scope :=
  let d := k.src.getD 2 0
  match k.kind with
  | .scroll => if dfld d 21 1 = 1 then some (scrScope d) else none
  | .dtload => none
  | _ => if shFlag k.dst 5 then some (shScope k.dst) else none

/-- A command whose writes are all performed, none of its packets under way, begins the release asked for (R196, R248). -/
def cmdReleases (s : State) (n : Nat) : State :=
  match sget s.cmds n with
  | some k =>
    match cmdRelease k with
    | some scope =>
      if k.written && k.err.isNone && k.rel.isNone && scope != .team && !s.outstanding n then
        let (r, s) := s.openRelease k.tid none scope (.cmd n)
        s.modCmd n fun x => { x with rel := some r }
      else s
    | none => s
  | none => s

/-- The last write of a command is made. -/
def wroteAll (s : State) (n : Nat) : State := (s.modCmd n fun x => { x with written := true }).cmdReleases n

/-! ### Scrolls (R252 to R256) -/

/-- First byte of a scroll's block in a core's scratchpad space, and its size (R244). -/
def blockAt (s : State) (k : Cmd) : Nat × Nat :=
  let plc := k.src.getD 0 0
  ((s.planeBase k.tid + dfld plc 40 14) * 32, dfld plc 32 8 * 32)

/-- FILLV repeated over a block (R251). -/
def fillBytes (d : DWord) (n : Nat) : List Byte := (List.range n).map fun i => BitVec.ofNat 8 (dfld d (32 + 8 * (i % 4)) 8)

/-- The resume record of a stopped scroll (R256). -/
def resumeRecord (k : Cmd) : List DWord :=
  k.src.take 4 ++ [BitVec.ofNat 64 (2 ^ 63 + k.pos),
    if scrEdge (k.src.getD 2 0) = 1 then BitVec.ofNat 64 k.spill else 0]

/-- A scroll stops on a fault: the trap carries its resume record, and only its counter goes on (R248, R256). -/
def stopScroll (s : State) (n : Nat) (k : Cmd) (reason : Nat) : State :=
  ({ s.planeFault k.tid k.gid reason k.addr (resumeRecord k) with cmds := sdel s.cmds n }).settle

/-- Translate the spill addresses of a step, 32 bytes at a time: a reason to stop the scroll, or none where an error was
consumed or a table is not ready (R253, R364, R369). -/
def spillTr (s : State) (k : Cmd) (vas : List Nat) : Except (Option Nat) (List (Nat × Option Nat)) × State :=
  match vas with
  | [] => (.ok [], s)
  | va :: rest =>
    let (t, s) := s.translate (s.team k.tid).core k.tid k.level .write1 (va % 2 ^ 56)
    match t with
    | .ok pa g =>
      match spillTr s k rest with
      | (.ok l, s) => (.ok ((pa, g) :: l), s)
      | r => r
    | .page => (.error (some 1), s)
    | .wait => (.error none, s)
    | .perm => (.error (some 2), s)
    | .poison pa => (.error none, s.consume k.tid pa)
    | _ => (.error (some 3), s)

/-- Insert a position in ascending (y, x). -/
def insertPos (p : Nat × Nat) : List (Nat × Nat) → List (Nat × Nat)
  | [] => [p]
  | q :: l => if p.2 < q.2 || (p.2 == q.2 && p.1 < q.1) then p :: q :: l else q :: insertPos p l

/-- One step of a scroll: all reads first, then spills, moves and fills (R252). Each core that holds a block sends it, to
memory or to the core it moves to (R317). -/
def scrollStep (s : State) (n : Nat) (k : Cmd) : State :=
  let d := k.src.getD 2 0
  let f := scrFrame (s.planeRect k.tid) (k.src.getD 1 0)
  let (off, size) := s.blockAt k
  let dest := scrDest f (scrEdge d) (scrMove d (k.pos + 1))
  let held := k.blocks.map fun p => (p, s.scrBytes (cidOf p.1 p.2) off size)
  let bytesAt (p : Nat × Nat) : List Byte := ((held.find? fun h => h.1 == p).map Prod.snd).getD []
  let leaving := (k.blocks.filter fun p => (dest p).isNone).foldl (fun l p => insertPos p l) []
  let spills := scrEdge d = 1
  let grans : List ((Nat × Nat) × Nat × List Byte) := if spills then
      (List.range leaving.length).flatMap fun j =>
        let p := leaving.getD j (0, 0)
        (List.range (size / 32)).map fun g => (p, k.spill + (k.spilled + j) * size + 32 * g, ((bytesAt p).drop (32 * g)).take 32)
    else []
  let other (h : (Nat × Nat) × List Byte) : Bool := cidOf h.1.1 h.1.2 != (s.team k.tid).core
  if held.any fun h => other h && s.scrSettling (cidOf h.1.1 h.1.2) off size then s
  else if held.any fun h => s.scrPoisoned (cidOf h.1.1 h.1.2) off size then s.consume k.tid 0
  else
  match s.spillTr k (grans.map fun g => g.2.1) with
  | (.error none, s) => s
  | (.error (some reason), s) => s.stopScroll n k reason
  | (.ok pas, s) =>
    let s := (pas.zip grans).foldl (fun s x =>
      s.produce { s.cmdPacket n k (homeEnd x.1.1) 0 x.1.1 x.2.2.2 .write with
        src := .core (cidOf x.2.1.1 x.2.1.2), group := x.1.2 }) s
    let s := held.foldl (fun s h =>
      match dest h.1 with | some q => s.cmdStore n k (cidOf h.1.1 h.1.2) (cidOf q.1 q.2) off h.2 | none => s) s
    let dests := k.blocks.filterMap dest
    let s := if dfld d 19 1 = 1 then
        (k.blocks.filter fun p => !dests.contains p).foldl (fun s p =>
          s.cmdStore n k (cidOf p.1 p.2) (cidOf p.1 p.2) off (fillBytes d size)) s
      else s
    let s := s.modCmd n fun x =>
      { x with started := true, pos := x.pos + 1, blocks := dests, spilled := if spills then x.spilled + leaving.length else x.spilled }
    if k.pos + 1 = scrSteps d then s.wroteAll n else s

end State

/-- SCROLL_STEP: one lockstep step; a scroll of no steps performs its last write at once (R252). -/
def execScrollStep (cmd : Nat) (s : State) : Host.Outcome State Fault Refusal :=
  match sget s.cmds cmd with
  | some k =>
    let d := k.src.getD 2 0
    if k.kind == .scroll && s.cmdRuns cmd k then
      .next (if k.pos < scrSteps d then s.scrollStep cmd k else s.wroteAll cmd)
    else .next s
  | none => .next s

namespace State

/-! ### Copies (R260) -/

/-- What a copy itself wrote to the element it is about to read, where that write waits for its granule or is on its
way to another core: a copy sees its own earlier writes (R260). -/
def ownElem (s : State) (n : Nat) (k : Cmd) : Option (List Byte) :=
  if shSpace k.src = 0 ∨ shSpace k.dst = 0 then none
  else
    match s.elemPlace k k.src k.pos with
    | none => none
    | some p =>
      let waits := (List.range (shCount k.dst)).any fun i => k.pos ≤ i && s.granuleOf k k.dst i == some (p.1, p.2 / 32)
      let sent := !p.1 && (svals s.packets).any fun q =>
        q.load == .block && q.cmd == some (.cmd n) && q.dst == .core (p.2 / 2 ^ 19) && overlaps q.pa q.size (p.2 % 2 ^ 19) 1
      if waits || sent then
        ((List.range k.pos).reverse.find? fun i => s.elemPlace k k.dst i == some p).map fun i =>
          (k.result.drop (i * shES k.dst)).take (shES k.dst)
      else none

/-- Read the next element of a copy. -/
def copyRead (s : State) (n : Nat) (k : Cmd) : Except State (List Byte × State) :=
  match s.ownElem n k with
  | some bs => .ok (bs, s)
  | none => s.readElem n k k.src (shOffset k.src k.pos)

/-- One element of a copy, in enumeration order. -/
def copyElem (s : State) (n : Nat) (k : Cmd) : State :=
  match s.copyRead n k with
  | .error s => s
  | .ok (bs, s) =>
    let all := k.result ++ bs
    match s.writeElem n k k.dst all with
    | .error s => s
    | .ok s =>
      let s := s.modCmd n fun x => { x with started := true, pos := x.pos + 1, result := all, got := [] }
      if k.pos + 1 = shCount k.src then s.wroteAll n else s

/-! ### Cross-rank copies (R265, R266) -/

/-- TAG of a collective record (R265). -/
def collTag (r : List DWord) : Nat := dfld (r.getD 9 0) 32 16

/-- The positions of a box in ascending (z, y, x). -/
def boxCells (d : Nat) : List (Nat × Nat × Nat) :=
  let b := boxOf d
  (List.range (b.2.2.2 + 1)).flatMap fun k => (List.range (b.2.2.1 + 1)).flatMap fun j =>
    (List.range (b.2.1 + 1)).map fun i => (b.1.1 + i, b.1.2.1 + j, b.1.2.2 + k)

/-- Another COPYX of the device with the same group and TAG has not ended (R266). -/
def collBusy (s : State) (n : Nat) (k : Cmd) : Bool :=
  s.cmds.any fun e => e.1 != n && e.2.joined && (s.team e.2.tid).part == (s.team k.tid).part
    && collTag e.2.dst == collTag k.dst && e.2.slot == k.slot

/-- The NET drain that goes on as command `n` (R312). -/
def netOf (s : State) (n : Nat) : Option (Nat × MCmd) := s.mcmds.find? fun e => e.2.child == some n

/-- What the command of a collective contributes; none of its data once it has failed (R265 to R267). -/
def contribution (s : State) (c : Cmd) (fail : Bool) : Contribution :=
  let r := c.dst
  let n := shES r
  { group := c.slot, tag := collTag r, ctx := (s.team c.tid).ctx, dev := s.dev.coords, rop := dfld (r.getD 9 0) 4 4
    repl := BitVec.ofNat 3 (dfld (r.getD 9 0) 0 3), box := BitVec.ofNat 44 (dfld (r.getD 8 0) 0 44)
    tmo := dfld (r.getD 9 0) 16 16, es := if n = 1 then .b else if n = 2 then .h else if n = 4 then .w else .d
    data := if fail then []
      else (List.range (shCount c.src)).map fun i => BitVec.ofNat 64 (leNat ((c.result.drop (i * n)).take n))
    fail := fail }

/-- A command sends its contribution, on COLL (R317, R333). -/
def contribute (s : State) (n : Nat) (k : Cmd) (fail : Bool) : State :=
  (s.produce { s.cmdPacket n k (.io 0) 3 0 [] (.contribution n (s.contribution k fail)) with cmd := none }).modCmd n
    fun x => { x with sent := true }

/-- A COPYX or NET drain that an error has stopped ends with status MEMBER for reasons 2, 3 and 6, else TIMEOUT; for
the first, the other members are told, if it belongs to a collective (R250, R267). -/
def collStopped (s : State) (n : Nat) : State :=
  match sget s.cmds n with
  | some k =>
    match k.err with
    | some e =>
      let member := e.reason = 2 || e.reason = 3 || e.reason = 6
      let s := s.modCmd n fun x => { x with status := some (if member then 3 else 1) }
      if member && k.joined && !k.sent then s.contribute n k true else s
    | none => s
  | none => s

/-- A collective's command stops: a plane fault, or a fault of a NET drain's sequencer (R250, R298, R314). -/
def collStop (s : State) (n : Nat) (k : Cmd) (reason : Nat) : State :=
  match s.netOf n with
  | some (_, m) =>
    ((s.seqFault m.seqr (if reason = 6 then 9 else if reason = 8 then 10 else 8) m.addr (some m.tid)).modCmd n fun x => { x with err := some ⟨reason⟩ }).collStopped n
  | none => (s.stopCmd n k reason []).collStopped n

/-- The multicast group that the page of an address names. -/
def groupAt (s : State) (k : Cmd) (va : Nat) : Option Nat :=
  match s.walk (s.ctx (s.tableCtx k.tid)).root (va % 2 ^ 56) with
  | .leaf e _ => if dfld e 1 2 = 2 then some (dfld e 52 11) else none
  | _ => none

/-- A collective's command stops at its member checks: the other members are told where the destination names their group
and this device lies in the box (R250, R267). -/
def collRefuse (s : State) (n : Nat) (k : Cmd) (reason : Nat) : State :=
  match s.groupAt k (dfld (k.dst.getD 0 0) 0 56) with
  | some g =>
    if (boxCells (dfld (k.dst.getD 8 0) 0 44)).contains s.dev.coords then
      (s.modCmd n fun x => { x with slot := g, joined := true }).collStop n { k with slot := g, joined := true } reason
    else s.collStop n k reason
  | none => s.collStop n k reason

/-- Translate the elements of a result, each where it will be written, and the group of the first; a page fault waits for its
answer, a refused access stops the command (R250, R266). -/
def resultTr (s : State) (n : Nat) (k : Cmd) : List Nat → Except State (List (Nat × Option Nat) × State)
  | [] => .ok ([], s)
  | va :: rest =>
    let (t, s) := s.translate (s.team k.tid).core k.tid k.level .write1 va
    match t with
    | .ok pa g =>
      match resultTr s n k rest with
      | .ok (l, s) => .ok ((pa, g) :: l, s)
      | .error s => .error s
    | .wait => .error s
    | .page => .error (s.modCmd n fun x => { x with fault := some (BitVec.ofNat 56 va, .write, none) })
    | .perm => .error (s.collRefuse n k 2)
    | .poison pa => .error (s.consume k.tid pa)
    | .unbacked => .error (s.collRefuse n k 3)
    | .badGroup => .error (s.collRefuse n k 6)

/-- The member checks of a COPYX or NET drain: where its result goes, its multicast group, the box, and no other with its
group and TAG under way. All of the destination is translated here, before its contribution, so that no rank's result can fail
once the others have theirs (R250, R266, R267, R314). (DEDUCED, log entry 29) -/
def collJoin (s : State) (n : Nat) (k : Cmd) : State :=
  let vas := (List.range (shCount k.dst)).map fun i => wrapN 56 ((dfld (k.dst.getD 0 0) 0 56 : Nat) + shOffset k.dst i)
  match s.resultTr n k vas with
  | .error s => s
  | .ok (l, s) =>
    match s.groupAt k (dfld (k.dst.getD 0 0) 0 56) with
    | none => s.collStop n k 6
    | some g =>
      let e := sgetD (s.part (s.team k.tid).part).mcast g 0
      let cells := boxCells (dfld (k.dst.getD 8 0) 0 44)
      if !(isMember e s.dev.coords && cells.contains s.dev.coords) then s.collRefuse n k 6
      else if !(cells.all fun p => isMember e p) then
        s.modCmd n fun x => { x with started := true, err := some ⟨0⟩, status := some 3 }
      else if s.collBusy n { k with slot := g } then s
      else s.modCmd n fun x => { x with started := true, slot := g, joined := true, pas := l.map Prod.fst }

/-- A COPYX's next step: the member checks, one element of its source read, its contribution sent (R250, R266, R267).
(DEDUCED, log entry 29) -/
def collElem (s : State) (n : Nat) (k : Cmd) : State :=
  if !k.joined then s.collJoin n k
  else if k.pos < shCount k.src then
    match s.readElem n k k.src (shOffset k.src k.pos) with
    | .error s => s.collStopped n
    | .ok (bs, s) => s.modCmd n fun x => { x with pos := x.pos + 1, result := x.result ++ bs, got := [] }
  else if k.sent then s
  else s.contribute n k false

end State

/-- A command's engine moves one element of a copy, or reads one of a cross-rank copy's source (R260, R266). -/
def State.cmdElement (s : State) (n : Nat) : State :=
  match sget s.cmds n with
  | some k =>
    if !s.cmdRuns n k || (k.status.isSome && k.kind == .copyx) then s
    else if k.kind == .copy && k.pos < shCount k.src then s.copyElem n k
    else if k.kind == .copyx then s.collElem n k
    else s
  | none => s

namespace State

/-! ### Decompression (R261 to R264) -/

end State

/-- A table image is valid, and its table (R261). -/
def tableOf (bs : List Byte) : Option Table :=
  let cnt := (List.range 16).map fun i => leNat ((bs.drop (2 * i)).take 2)
  let total := cnt.foldl (· + ·) 0
  let kraft := (List.range 16).foldl (fun a i => a + cnt.getD i 0 * 2 ^ (15 - i)) 0
  let sym := (bs.drop 32).take total
  if 1 ≤ total && total ≤ 256 && kraft ≤ 2 ^ 16 && sym.length = total && sym.eraseDups.length = total then
    some { cnt := cnt, sym := sym }
  else none

namespace State

/-- The command that must go before a table is written: a decode of an earlier generation, or an earlier load
(R264). -/
def tableBusy (s : State) (n : Nat) (k : Cmd) : Bool :=
  s.cmds.any fun e => e.1 != n && (s.team e.2.tid).core == (s.team k.tid).core && e.2.slot == k.slot && e.2.gen < k.gen
    && !e.2.written && e.2.err.isNone && (e.2.kind == .decode || e.2.kind == .dtload)

/-- Read an image of `m` bytes, up to each 32-byte boundary in turn. (DEDUCED, log entry 19) -/
def readImage (s : State) (n : Nat) (k : Cmd) (va m : Nat) : Nat → Except State (List Byte × State)
  | 0 => .ok ([], s)
  | fuel + 1 =>
    let part := Nat.min m (32 - va % 32)
    if part = 0 then .ok ([], s)
    else
      match s.engineLoad n k (va % 2 ^ 56) part with
      | .error s => .error s
      | .ok (b, s) =>
        match readImage s n k (va + part) (m - part) fuel with
        | .error s => .error s
        | .ok (l, s) => .ok (b ++ l, s)

/-- The slot is loaded with a generation: a table, or invalid (R262). -/
def loadSlot (s : State) (k : Cmd) (t : Option Table) : State :=
  s.modTslot (s.team k.tid).core k.slot fun x => { x with loaded := k.gen, table := t }

end State

/-- DTLOAD_TABLE_WRITE: the image is read and the slot written; an image that is invalid, or whose reading was
stopped, leaves the slot invalid (R262, R264). -/
def execDtloadTableWrite (cmd : Nat) (s : State) : Host.Outcome State Fault Refusal :=
  match sget s.cmds cmd with
  | some k =>
    if k.kind == .dtload && s.cmdRuns cmd k && !s.tableBusy cmd k then
      match s.readImage cmd k ((k.src.getD 0 0).toNat % 2 ^ 56) 288 10 with
      | .ok (bs, t) => .next ((t.loadSlot k (tableOf bs)).modCmd cmd fun x => { x with written := true })
      | .error t => .next (if (sget t.cmds cmd).any fun x => x.err.isSome then t.loadSlot k none else t)
    else .next s
  | none => .next s

/-- A decoder's walk down the code lengths: code so far, first code of the length, symbols before it. -/
structure Walk16 where
  code : Nat
  first : Nat
  index : Nat
  deriving DecidableEq, Repr

namespace State

/-- The next symbol of a stream from bit `at_`: the symbol and its length, none when there is no code (R261, R263). -/
def nextSymbol (s : State) (n : Nat) (k : Cmd) (t : Table) (w : Walk16) (at_ len : Nat) : Nat →
    Except State (Option (Byte × Nat) × State)
  | 0 => .ok (none, s)
  | fuel + 1 =>
    if shN k.src 0 * 8 ≤ at_ then .ok (none, s)
    else
      match s.readElem n k k.src (shOffset k.src (at_ / 8)) with
      | .error s => .error s
      | .ok (b, s) =>
        let bit := if (b.headD 0).getLsbD (7 - at_ % 8) then 1 else 0
        let code := w.code * 2 + bit
        let cnt := t.cnt.getD len 0
        if w.first ≤ code && code - w.first < cnt then .ok (some (t.sym.getD (w.index + (code - w.first)) 0, len + 1), s)
        else nextSymbol s n k t { code := code, first := (w.first + cnt) * 2, index := w.index + cnt } (at_ + 1) (len + 1) fuel

/-- One symbol of a decode (R263). -/
def decodeSymbol (s : State) (n : Nat) (k : Cmd) : State :=
  let x := s.tslot (s.team k.tid).core k.slot
  if x.loaded != k.gen then s
  else
    match x.table with
    | none => s.stopCmd n k 5 []
    | some t =>
      match s.nextSymbol n k t { code := 0, first := 0, index := 0 } k.bits 0 16 with
      | .error s => s
      | .ok (none, s) => s.stopCmd n k 4 []
      | .ok (some (b, len), s) =>
        let all := k.result ++ [b]
        match s.writeElem n k k.dst all with
        | .error s => s
        | .ok s =>
          let s := s.modCmd n fun x => { x with started := true, pos := x.pos + 1, bits := x.bits + len, result := all, got := [] }
          if k.pos + 1 = shCount k.dst then s.wroteAll n else s

end State

/-- COPY_DEC_DECODE: the next symbol (R263); it waits until its table is loaded (R264). -/
def execCopyDecDecode (cmd : Nat) (s : State) : Host.Outcome State Fault Refusal :=
  match sget s.cmds cmd with
  | some k => if k.kind == .decode && s.cmdRuns cmd k then .next (s.decodeSymbol cmd k) else .next s
  | none => .next s

namespace State

/-! ### The end of a command (R248) -/

/-- A landing at an offset of the team on its own core; out of range it sets WRAPOUT (R248). -/
def landAt (s : State) (k : Cmd) (o n : Nat) : State :=
  match s.mapOff k.tid k.level o with
  | some b => s.objLand (s.team k.tid).ctx (s.team k.tid).core b n
  | none => s.wrapOut k.tid

/-- The arrival at a completion object on the issuing core (R248). -/
def arriveAt (s : State) (k : Cmd) (o : Nat) : State :=
  match s.mapOff k.tid k.level o with
  | some b => s.objArrive (s.team k.tid).ctx (s.team k.tid).core b 1
  | none => s.wrapOut k.tid

/-- The landings of a command whose writes are all performed (R254, R258, R260). -/
def cmdLand (s : State) (n : Nat) (k : Cmd) : State :=
  match k.kind with
  | .scroll =>
    let offs := k.src.getD 3 0
    if dfld (k.src.getD 2 0) 25 1 = 1 then
      k.blocks.foldl (fun s p =>
        match s.planeOff k.tid (dfld offs 32 32) with
        | some b => s.cmdLandAt n k (cidOf p.1 p.2) b (dfld (k.src.getD 0 0) 32 8 * 32)
        | none => s.wrapOut k.tid) s
    else s
  | .dtload => s
  | _ =>
    if shFlag k.dst 8 then
      let o := dfld (k.dst.getD 7 0) 32 32
      let m := shCount k.dst * shES k.dst
      if shSpace k.dst = 3 then
        match s.planeOff k.tid o with
        | some b => s.cmdLandAt n k (cidOf (dfld (k.dst.getD 0 0) 32 8) (dfld (k.dst.getD 0 0) 40 8)) b m
        | none => s.wrapOut k.tid
      else s.landAt k o m
    else s

/-- The arrival of a command (R254, R258). -/
def cmdArrive (s : State) (k : Cmd) : State :=
  match k.kind with
  | .scroll => if dfld (k.src.getD 2 0) 24 1 = 1 then s.arriveAt k (dfld (k.src.getD 3 0) 0 32) else s
  | .dtload => s
  | _ => if shFlag k.dst 9 then s.arriveAt k (dfld (k.dst.getD 7 0) 0 32) else s

/-- The status word of a cross-rank copy (R265, R267). -/
def cmdStatus (s : State) (k : Cmd) : State :=
  match k.kind, k.status with
  | .copyx, some v =>
    match s.mapOff k.tid k.level (dfld (k.dst.getD 10 0) 0 32) with
    | some b => s.scrStore (s.team k.tid).core b (leBytes 4 v)
    | none => s.wrapOut k.tid
  | _, _ => s

/-- A command can end: its writes and its release are performed, or it was stopped; one of a suspended team ends
when the team is placed again (R267). (DEDUCED, log entry 30) -/
def cmdEnds (s : State) (n : Nat) (k : Cmd) : Bool :=
  (k.kind != .copyx || k.status.isSome) && (s.team k.tid).st != .suspended
    && !s.outstanding n && (k.err.isSome || (k.written && match k.rel with | some r => s.relDone r | none => true))

end State

/-- Steps 3 and 4 of a command's end: status and landings (R248). -/
def State.endWrites (s : State) (cmd : Nat) (k : Cmd) : State :=
  let s := match k.rel with | some r => s.forgetRel r | none => s
  let s := s.cmdStatus k
  let s := if k.err.isNone && (k.status.isNone || k.status == some 0) then s.cmdLand cmd k else s
  s.modCmd cmd fun x => { x with landed := true, rel := none }

/-- ENGINE_COMMAND_END: status and landings, and once every landing is applied the arrival and the counter, in that order
(R248). (DEDUCED, log entry 30) -/
def execEngineCommandEnd (cmd : Nat) (s : State) : Host.Outcome State Fault Refusal :=
  match sget s.cmds cmd with
  | some k =>
    if (k.landed && (s.team k.tid).st != .suspended) || s.cmdEnds cmd k then
      let s := if k.landed then s else s.endWrites cmd k
      if s.outstanding cmd then .next s
      else
        let s := s.cmdArrive k
        .next ({ s with cmds := sdel s.cmds cmd }).settle
    else .next s
  | none => .next s

end Sys2Proof.Machine
end

