-- ==== Sys2Proof/Machine/Matrix.lean ====
section
/-! DEFINITION. The matrix stream: its frame, its faults, OP 0x30 to 0x33, and what its commands do (R269 to R299,
R300 to R314, R155 to R157). -/

namespace Sys2Proof.Machine

namespace State

/-! ### The frame of a stream instruction (R269) -/

/-- Address of the instruction a sequencer is at. -/
def seqAddr (s : State) (q : Nat) : Addr := (s.seqr q).pc + BitVec.ofNat 56 (8 + 8 * (s.seqr q).ix)

/-- The m register of an operand. -/
def mNo : Opnd → Nat | .m n => n.toNat | _ => 0

/-- The value of a stream operand (R74). -/
def mval (s : State) (q : Nat) : Opnd → Word
  | .m n => s.rdM q n.toNat
  | o => s.rd32 0 0 0 o

end State

/-- What a stream instruction comes to. -/
inductive SRes
  /-- Its effect; the next instruction follows. -/
  | done (s : State)
  /-- Its effect, its successor chosen. -/
  | jump (s : State)
  /-- The sequencer holds it. -/
  | hold
  /-- The sequencer stops before it (R298); the team whose performance failed. -/
  | fault (reason : Nat) (tid : Option Nat)
  deriving DecidableEq, Repr

namespace State

/-- The cycle at which a stream instruction issues (R65, R269): MMOV and MADD wait for no m register. -/
def seqAt (s : State) (q : Nat) (dist : BitVec 3) (waits : Bool) (reads : List Nat) : Nat :=
  let x := s.seqr q
  let c := Nat.max s.clock (x.lastC + 1 + dist.toNat)
  if waits then x.mbusy.foldl (fun c p => if reads.contains p.1 then Nat.max c p.2 else c) c else c

/-- The state in which a stream instruction issues at cycle `c` (R303, R306). -/
def seqIssue (s : State) (q c : Nat) : State :=
  let s := { s with clock := c }
  let s := (s.modSeqr q fun x => { x with lastC := c, mbusy := x.mbusy.filter fun p => c < p.2 }).pairDue q
  if s.paired q then (if !s.twinLive q 0 then s.follow q 1 else if !s.twinLive q 1 then s.follow q 0 else s) else s

end State

/-- The frame of every stream instruction that reads the m registers `reads`; a poisoned one is consumed by its lead team
(R364). -/
def stream (dist : BitVec 3) (waits : Bool) (reads : List Opnd) (s : State) (body : Nat → State → SRes) :
    Host.Outcome State Fault Refusal :=
  match s.cur with
  | .seqr q =>
    if (sget s.seqrs q).isSome then
      let rs := reads.filterMap fun o => match o with | .m n => some n.toNat | _ => none
      let t := s.seqIssue q (s.seqAt q dist waits rs)
      if rs.any fun n => t.arrPoisoned (mArr q n) 4 then .next (t.consume (t.leadTeam q) 0)
      else
      match body q t with
      | .done t => .next (t.seqAdvance q)
      | .jump t => .next t
      | .hold => .next s
      | .fault r tid => .next (t.seqFault q r (t.seqAddr q) tid)
    else .fault .noIssuer
  | _ => .fault .noIssuer

/-! ### Scalar work (R275, R276) -/

/-- Write an m register that later instructions may read at LAT 2; a result whose own operand was not ready is
UNDEFINED (R269). -/
def mwrite2 (s : State) (q n : Nat) (early : Bool) (x : Word) : State :=
  let (x, s) : Word × State := if early then s.freeWord else (x, s)
  let c := s.clock
  (s.wrM q n x).modSeqr q fun y => { y with mbusy := (n, c + 3) :: y.mbusy.filter fun p => p.1 != n }

/-- An m register is still to be written. -/
def mEarly (s : State) (q n : Nat) : Bool := (s.seqr q).mbusy.any fun p => p.1 == n

/-- MMOV (R275). -/
def execMmov (dist : BitVec 3) (d : Opnd) (imm : BitVec 18) (s : State) : Host.Outcome State Fault Refusal :=
  stream dist false [] s fun q s => .done (mwrite2 s q (State.mNo d) false (imm.signExtend 32))

/-- MMOV.HI (R275). -/
def execMmovHi (dist : BitVec 3) (d : Opnd) (imm : BitVec 16) (s : State) : Host.Outcome State Fault Refusal :=
  stream dist false [d] s fun q s =>
    let n := State.mNo d
    .done (mwrite2 s q n (mEarly s q n) (imm ++ (s.rdM q n).extractLsb' 0 16))

/-- MADD (R275). -/
def execMadd (dist : BitVec 3) (d a : Opnd) (imm : BitVec 18) (s : State) : Host.Outcome State Fault Refusal :=
  stream dist false [a] s fun q s =>
    .done (mwrite2 s q (State.mNo d) (mEarly s q (State.mNo a)) (s.mval q a + imm.signExtend 32))

/-- Go to a clause of the stream. -/
def seqGoto (s : State) (q : Nat) (a : Addr) : State := s.modSeqr q fun x => { x with pc := a, ix := 0, words := [] }

/-- MBRA (R276). -/
def execMbra (dist : BitVec 3) (off : BitVec 26) (s : State) : Host.Outcome State Fault Refusal :=
  stream dist true [] s fun q s => .jump (seqGoto s q (target26 (s.seqr q).pc off))

/-- MLOOP (R276). -/
def execMloop (dist : BitVec 3) (a : Opnd) (off : BitVec 26) (s : State) : Host.Outcome State Fault Refusal :=
  stream dist true [a] s fun q s =>
    let x := s.mval q a - 1
    let s := s.wrM q (State.mNo a) x
    if x = 0 then .done s else .jump (seqGoto s q (target26 (s.seqr q).pc off))

/-! ### Windows and commands (R279, R280, R296, R304) -/

/-- The window of an operand. -/
def winNo : Opnd → Nat | .a n => n.toNat | _ => 0

namespace State

/-- Key of a team's window. -/
def winKey (s : State) (q tid n : Nat) : Nat := (q * 2 + (s.team tid).twin) * 8 + n

/-- A team's window (R279, R302). -/
def winOf (s : State) (q tid : Nat) (o : Opnd) : Binding := sgetD s.wins (s.winKey q tid (winNo o)) (Binding.start (winNo o))

/-- The physical tile a binding reaches, if the team holds it (R279). -/
def heldTile (s : State) (tid : Nat) (b : Binding) : Option Nat := sget (s.team tid).acc b.tile

/-- The first of some teams whose window reaches a tile it does not hold (R298 reason 4). -/
def unheld (s : State) (q : Nat) (tids : List Nat) (o : Opnd) : Option Nat :=
  tids.find? fun t => (s.heldTile t (s.winOf q t o)).isNone

/-- A command of a team with nothing captured. -/
def blankM (s : State) (q tid : Nat) (i : Instr) (cls : MClass) : MCmd :=
  { seqr := q, tid := tid, tid2 := none, instr := i, cls := cls, winD := Binding.start 0, winA := Binding.start 0
    winB := Binding.start 0, winU := Binding.start 0, vals := [], addr := s.seqAddr q, tiles := [], accs := []
    performed := false, rel := none, bytes := 0, fault := none, child := none, net := [], lead := 0, stopped := false }

/-- Issue commands, in order (R296). -/
def queueM (s : State) (l : List MCmd) : State :=
  l.foldl (fun s k =>
    let n := s.names.cmd
    { s with names := { s.names with cmd := n + 1 }, mcmds := sput s.mcmds n k }) s

/-- A tile register of a team as a resource: its bank and number (R296, R301). -/
def tileRes (s : State) (tid t : Nat) : Nat × Nat := (s.bankOf tid t, t)

/-- Physical tiles as resources. -/
def accRes (s : State) (tid : Nat) (b : Binding) : List Nat := (s.heldTile tid b).toList

end State

/-- MSHAPE: the binding, for each live twin (R280, R304). -/
def execMshape (dist : BitVec 3) (d a b e : Opnd) (s : State) : Host.Outcome State Fault Refusal :=
  stream dist true [a, b, e] s fun q s =>
    let rows := (s.mval q b).toNat % 32
    let w : Binding := { tile := (s.mval q a).toNat % 64, rows := if rows = 0 then 32 else rows, g := s.mval q e }
    .done ((s.streamTeams q).foldl (fun s t => { s with wins := sput s.wins (s.winKey q t (winNo d)) w }) s)

/-- MLDT: a private tile for each live twin, a shared one once, for the lead twin (R282, R304). -/
def execMldt (dist : BitVec 3) (d a b e : Opnd) (s : State) : Host.Outcome State Fault Refusal :=
  stream dist true [a, b, e] s fun q s =>
    let teams := if 8 ≤ tileNo d then [s.leadTeam q] else s.streamTeams q
    .done (s.queueM (teams.map fun t =>
      { s.blankM q t (.mldt dist d a b e) .load with
        vals := [s.mval q a, s.mval q b, s.mval q e], tiles := [s.tileRes t (tileNo d)] }))

/-- MZERO (R281). -/
def execMzero (dist : BitVec 3) (d : Opnd) (s : State) : Host.Outcome State Fault Refusal :=
  stream dist true [] s fun q s =>
    match s.unheld q (s.streamTeams q) d with
    | some t => .fault 4 (some t)
    | none =>
      .done (s.queueM ((s.streamTeams q).map fun t =>
        { s.blankM q t (.mzero dist d) .engine with winD := s.winOf q t d, accs := s.accRes t (s.winOf q t d) }))

/-! ### MMA (R277, R283, R284) -/

/-- K of a slot (R277). -/
def slotK (slot : DWord) : Nat :=
  if slotKind slot != 1 then 32 else if 5 ≤ slotW slot then 32 else if slotW slot = 2 then 128 else 64

/-- LB, the bytes of a line of `k` elements (R277, R290). -/
def lineBytes (slot : DWord) (k : Nat) : Nat :=
  if slotKind slot = 1 then k / slotN slot * blockP (slotN slot) (slotW slot) else slotBytes slot * k

/-- Tile registers of an operand's span (R277). -/
def spanLen (slot : DWord) (k : Nat) : Nat := (32 * lineBytes slot k + 2047) / 2048

/-- The reason MMA's slots and span fail with, if any: 2, 6, 5 (R283). (DEDUCED, log entry 26) -/
def mmaReason (sa sb : DWord) (tb : Nat) : Option Nat :=
  if slotKind sa = 0 || slotKind sb = 0 then some 2
  else if slotKind sa = 4 || slotKind sb = 4 then some 6
  else if 16 < tb + spanLen sb (slotK sa) then some 5
  else none

namespace State

/-- Tile registers an MMA of a team names. -/
def mmaTiles (s : State) (tid : Nat) (sa sb : DWord) (ta tb : Nat) : List (Nat × Nat) :=
  s.tileRes tid ta :: (List.range (spanLen sb (slotK sa))).map fun i => s.tileRes tid (tb + i)

/-- One team's MMA as a command. (DEDUCED, log entry 26) -/
def mmaCmd (s : State) (q tid : Nat) (i : Instr) (sa sb : DWord) (d a b : Opnd) : MCmd :=
  { s.blankM q tid i .engine with
    winD := s.winOf q tid d, tiles := s.mmaTiles tid sa sb (tileNo a) (tileNo b), accs := s.accRes tid (s.winOf q tid d) }

end State

/-- MMA (R283, R304). -/
def execMma (dist : BitVec 3) (sa sb : BitVec 3) (d a b : Opnd) (s : State) : Host.Outcome State Fault Refusal :=
  stream dist true [] s fun q s =>
    let lead := s.leadTeam q
    match mmaReason (s.slotOf lead sa) (s.slotOf lead sb) (tileNo b) with
    | some r => .fault r none
    | none =>
      match s.unheld q (s.streamTeams q) d with
      | some t => .fault 4 (some t)
      | none =>
        .done (s.queueM ((s.streamTeams q).map fun t =>
          s.mmaCmd q t (.mma dist sa sb d a b) (s.slotOf lead sa) (s.slotOf lead sb) d a b))

/-- MMA.PAIR: while PAIRED one command for both twins (R308, R314). -/
def execMmaPair (dist : BitVec 3) (sa sb : BitVec 3) (d a b : Opnd) (s : State) : Host.Outcome State Fault Refusal :=
  stream dist true [] s fun q s =>
    let lead := s.leadTeam q
    let x := s.slotOf lead sa
    let y := s.slotOf lead sb
    match mmaReason x y (tileNo b) with
    | some r => .fault r none
    | none =>
      if !s.twinMode q || 8 ≤ tileNo a || tileNo b < 8 then .fault 9 none
      else
        match s.unheld q (s.streamTeams q) d with
        | some t => .fault 4 (some t)
        | none =>
          let one (t : Nat) : MCmd := s.mmaCmd q t (.mmaPair dist sa sb d a b) x y d a b
          match s.paired q, s.streamTeams q with
          | true, [t, u] =>
            let k := one t
            let k2 := one u
            .done (s.queueM [{ k with tid2 := some u, winU := k2.winD, tiles := k.tiles ++ k2.tiles, accs := k.accs ++ k2.accs }])
          | _, l => .done (s.queueM (l.map one))

/-! ### MSOFT (R286) -/

/-- MSOFT (R286, R304). -/
def execMsoft (dist : BitVec 3) (mask : Bool) (slot : BitVec 3) (d a b e : Opnd) (s : State) :
    Host.Outcome State Fault Refusal :=
  stream dist true [e, .m (BitVec.ofNat 4 (State.mNo e + 1))] s fun q s =>
    let x := s.slotOf (s.leadTeam q) slot
    if slotKind x = 0 then .fault 2 none
    else if slotKind x = 4 || slotK x != 32 then .fault 6 none
    else
      match (s.unheld q (s.streamTeams q) a).or (s.unheld q (s.streamTeams q) b) with
      | some t => .fault 4 (some t)
      | none =>
        .done (s.queueM ((s.streamTeams q).map fun t =>
          { s.blankM q t (.msoft dist mask slot d a b e) .engine with
            winA := s.winOf q t a, winB := s.winOf q t b, vals := [s.rdM q (State.mNo e), s.rdM q (State.mNo e + 1)]
            tiles := [s.tileRes t (tileNo d)], accs := s.accRes t (s.winOf q t a) ++ s.accRes t (s.winOf q t b) }))

/-! ### MDRAIN (R288, R309 to R314) -/

/-- A source record with the shape of a NET drain's contribution: 32 × ROWS words (R311). (DEDUCED, log entry 27) -/
def netSource (rows : Nat) : List DWord :=
  [0, BitVec.ofNat 64 (32 + rows * 2 ^ 16 + 2 ^ 32 + 2 ^ 48), 0, 0, 0, 0, 8, 0]

/-- A NET drain's record and operands pass the checks of R311. -/
def netOk (r : List DWord) (rows : Nat) (slot : DWord) (hi st : Word) (noLand : Bool) (rscope : RScope) : Bool :=
  hi == 0 && st == 0 && noLand && rscope == .none && slotKind slot == 4 && !shapeBad r && !collBad r && !shapeSkew r
    && !shFlag r 4 && !shFlag r 10 && !collShapeBad (netSource rows) r && dfld (r.getD 9 0) 4 4 == 7 && shES r == 4

/-- The inline −1 that stands for none (R282, R288). -/
def isNone : Opnd → Bool | .neg n => n == 15 | _ => false

namespace State

/-- A drain of one team's tile. (DEDUCED, log entries 26 and 27) -/
def drainCmd (s : State) (q tid : Nat) (i : Instr) (raw : Bool) (a : Opnd) (vals : List Word) : MCmd :=
  let w := s.winOf q tid a
  { s.blankM q tid i .drain with winA := if raw then { w with g := 0x3F800000 } else w, vals := vals, accs := s.accRes tid w }

/-- The destination registers of a drain for a team: twin 1's MEM address is in the next pair (R310). -/
def drainVals (s : State) (q tid : Nat) (dest : DrainDest) (d b e : Opnd) : List Word :=
  let n := State.mNo d + (if dest == .mem && s.twinMode q then 2 * (s.team tid).twin else 0)
  [s.rdM q n, s.rdM q (n + 1), s.mval q b, s.mval q e]

end State

/-- MDRAIN (R288, R304, R309, R310, R311, R314). -/
def execMdrain (dist : BitVec 3) (rscope : RScope) (norm guide add : Bool) (dest : DrainDest) (slot : BitVec 3)
    (d a b e : Opnd) (s : State) : Host.Outcome State Fault Refusal :=
  let mreg (n : Nat) : Opnd := .m (BitVec.ofNat 4 (State.mNo d + n))
  let reads := [d, b, e] ++ (if dest == .scr then [] else [mreg 1])
    ++ (if dest == .mem && State.mNo d ≤ 12 then [mreg 2, mreg 3] else [])
  stream dist true reads s fun q s =>
    let i : Instr := .mdrain dist rscope norm guide add dest slot d a b e
    let x := s.slotOf (s.leadTeam q) slot
    let twin := s.twinMode q
    let both := guide && s.paired q
    let teams := if dest == .net && !both then [s.followedTeam q] else s.streamTeams q
    if slotKind x = 0 then .fault 2 none
    else if add && slotKind x != 4 then .fault 6 none
    else if ((guide || dest == .net) && !twin) || (guide && norm) || (twin && dest == .mem && 12 < State.mNo d)
        || (dest == .net && !guide) then .fault 9 none
    else
      match s.unheld q teams a with
      | some t => .fault 4 (some t)
      | none =>
        let lead := s.leadTeam q
        let one (t : Nat) : MCmd := s.drainCmd q t i guide a (s.drainVals q t dest d b e)
        let pairK (t u : Nat) : MCmd :=
          let k := s.drainCmd q t i false a (s.drainVals q t dest d b e)
          { k with tid2 := some u, winB := s.winOf q u a, accs := k.accs ++ s.accRes u (s.winOf q u a) }
        let cmds := match both, teams with
          | true, [t, u] => [pairK t u]
          | _, l => l.map one
        if dest == .net then
          let rows := (s.winOf q (teams.headD lead) a).rows
          match s.record lead .l0 (s.mval q d) 12 with
          | some r =>
            if netOk r rows x (s.rdM q (State.mNo d + 1)) (s.mval q b) (isNone e) rscope then
              .done ((s.dropPins (s.team lead).launch).queueM (cmds.map fun k => { k with net := r, lead := lead }))
            else .fault 9 none
          | none => .fault 9 none
        else .done (s.queueM cmds)

/-! ### Meeting the groups (R291 to R294, R307) -/

namespace State

/-- Note out-of-range objects of a stream's wait (R291). -/
def seqWrap (s : State) (tids : List Nat) (o : Nat) : State :=
  tids.foldl (fun s t => if (s.seqObj t o).isNone then s.wrapOut t else s) s

/-- A command of the stream in a class that is not complete. -/
def classOpen (s : State) (q : Nat) (p : MClass → Bool) : Bool := s.mcmds.any fun e => e.2.seqr == q && p e.2.cls

end State

/-- MWAIT (R291, R304, R305); an MSTOP that waits for the clause ends it where it would wait (R273).
(DEDUCED, log entry 26) -/
def execMwait (dist : BitVec 3) (d a : Opnd) (s : State) : Host.Outcome State Fault Refusal :=
  stream dist true [d, a] s fun q s =>
    let o := s.mval q a
    let t := s.mval q d
    let s := s.seqWrap (if s.paired q then s.streamTeams q else [s.followedTeam q]) o.toNat
    let s := (s.modSeqr q fun x => { x with st := .waiting, wait := some (o, t), pairFrom := none, mpair := false }).seqCheck q
    let x := s.seqr q
    .jump (if x.st == .waiting && s.stopDue q then s.seqStop q x.pc else s)

/-- MARR (R292, R304): each live twin's object; mD from the lead twin's. -/
def execMarr (dist : BitVec 3) (d a b : Opnd) (s : State) : Host.Outcome State Fault Refusal :=
  stream dist true [a, b] s fun q s =>
    if s.classOpen q fun _ => true then .hold
    else
      let o := (s.mval q a).toNat
      let n := (s.mval q b).toNat % 2 ^ 16
      let lead := s.leadTeam q
      let x : Word :=
        match s.seqObj lead o with
        | some p => nextPhase (s.objAt (s.team lead).core p)
        | none => 0
      let s := (s.streamTeams q).foldl (fun s t =>
        match s.seqObj t o with
        | some p => s.objArrive (s.team t).ctx (s.team t).core p n
        | none => s.wrapOut t) s
      .done ((s.wrM q (State.mNo d) x).modSeqr q fun y => { y with mbusy := y.mbusy.filter fun p => p.1 != State.mNo d })

/-- MSIG's classes (R293). -/
def inClass (mask : BitVec 3) : MClass → Bool
  | .load => mask.getLsbD 0
  | .engine => mask.getLsbD 1
  | .drain => mask.getLsbD 2

/-- MSIG (R293). -/
def execMsig (dist : BitVec 3) (mask : BitVec 3) (s : State) : Host.Outcome State Fault Refusal :=
  stream dist true [] s fun q s => if s.classOpen q (inClass mask) then .hold else .done s

/-- MEND (R294). (DEDUCED, log entry 26) -/
def execMend (dist : BitVec 3) (s : State) : Host.Outcome State Fault Refusal :=
  stream dist true [] s fun q s =>
    if s.classOpen q fun _ => true then .hold
    else .jump (s.seqStop q ((s.seqr q).pc + BitVec.ofNat 56 (8 * ((s.seqr q).words.length + 1))))

/-- MPAIR (R307). -/
def execMpair (dist : BitVec 3) (s : State) : Host.Outcome State Fault Refusal :=
  stream dist true [] s fun q s =>
    if !s.twinMode q then .fault 9 none
    else if (s.seqr q).mpair then .hold
    else if s.paired q || !(s.twinLive q 0 && s.twinLive q 1) then .done s
    else
      let n := s.pairCycles q
      .jump ((s.modSeqr q fun x => { x with mpair := true, pairFrom := some n }).mpairCheck q)

/-- PAIR_TIMEOUT: a paired MWAIT of which one object is satisfied unpairs as the count reaches its limit (R305). -/
def execPairTimeout (seqr : Nat) (s : State) : Host.Outcome State Fault Refusal :=
  .next (if (s.seqr seqr).wait.isSome && s.paired seqr && s.pairExpired seqr then (s.unpairTo seqr 0).settle else s)

/-- MPAIR_TIMEOUT: as the count reaches its limit the pair stays UNPAIRED and the stream goes on (R307). -/
def execMpairTimeout (seqr : Nat) (s : State) : Host.Outcome State Fault Refusal :=
  .next (if (s.seqr seqr).mpair && s.pairExpired seqr then s.seqGo seqr else s)

/-- A write to UNPAIRED acts at once: the sequencer is not RUNNING; while it is, its next issue performs the write
(R303). -/
def State.pairNow (s : State) (q : Nat) (b : Bool) : Bool := (s.seqr q).wantUnpair == some b && (s.seqr q).st != .running

/-- SEQ_STATUS_UNPAIR: a write of 1 to UNPAIRED acts (R303). -/
def execSeqStatusUnpair (seqr : Nat) (s : State) : Host.Outcome State Fault Refusal :=
  .next (if s.pairNow seqr true then (s.pairWrite seqr true).settle else s)

/-- SEQ_STATUS_REPAIR: a write of 0 to UNPAIRED acts (R303). -/
def execSeqStatusRepair (seqr : Nat) (s : State) : Host.Outcome State Fault Refusal :=
  .next (if s.pairNow seqr false then (s.pairWrite seqr false).settle else s)

/-! ### Starting and stopping (R272, R273) -/

/-- MSTART and MSTOP. -/
def Meta.seqr (c : Ctl) (dsts srcs : List (Opnd × Bool)) : Meta :=
  { Meta.reg c false 0 dsts srcs with lat := none, exact := true, readsExec := true, readsPm := true, sys := false, bound := true }

/-- MSTART's effect on a sequencer that is IDLE or FAULTED: its stream issues once the command is out of the settle window
(R272, R302, R362). -/
def seqStart (s : State) (q : Nat) (pc : Addr) (vals : List Word) : State :=
  let s := (List.range 16).foldl (fun s n => s.wrM q n (vals.getD n 0)) s
  let s := { s with wins := s.wins.filter fun e => e.1 / 16 != q }
  let live := !s.twinMode q || (s.twinLive q 0 && s.twinLive q 1)
  let f := if s.twinMode q && !s.twinLive q 0 then 1 else 0
  let c := s.clock + Config.settleCycles
  s.modSeqr q fun x =>
    { x with
      st := .running, pc := pc, ix := 0, words := [], reason := 0, unpaired := !live, followed := f
      wantUnpair := none, lastC := c, mbusy := [], wait := none, pairFrom := none, mpair := false, fault := none }

/-- MSTART: by the elected lane, with the registers of its slice; without an active lane it has no effect (R35, R53,
R272). -/
def execMstart (c : Ctl) (d a b : Opnd) (s : State) : Host.Outcome State Fault Refusal :=
  let vs := (List.range 8).map fun n => (Opnd.s (BitVec.ofNat 5 (sNo b + n)), false)
  instr (.seqr c [(d, false)] ((a, true) :: vs)) s fun iss s =>
    match (s.team iss.tid).seqr with
    | none => .trap s iss.illegal
    | some q =>
      match s.active iss.gid iss.slices c.pm with
      | [] => .done s
      | (i, _) :: _ =>
        let st := (s.seqr q).st
        if st == .running || st == .waiting then .done (s.wrSlices iss.gid iss.slices (sNo d) 0)
        else if s.allPerformed iss.gid then
          .done ((seqStart s q ((s.rd64 iss.gid i 0 a).extractLsb' 0 56) (vs.map fun v => s.rd32 iss.gid i 0 v.1)).wrSlices
            iss.gid iss.slices (sNo d) 1)
        else .hold

/-- MSTOP: the sequencer has it once it is out of the settle window, and answers it where it then stands (R273, R362). -/
def execMstop (c : Ctl) (d : Opnd) (s : State) : Host.Outcome State Fault Refusal :=
  let m := { Meta.seqr c [(d, true)] [] with opFlag := true, readsExec := false, readsPm := false }
  instr m s fun iss s =>
    match (s.team iss.tid).seqr with
    | none => .trap s iss.illegal
    | some q =>
      let x := s.seqr q
      if x.stop.isSome then .hold
      else if x.st != .running && x.st != .waiting then
        .op (s.wrSlices64 iss.gid iss.slices (sNo d) 0) (Op.of iss m [.awaitStream q])
      else
        let n := s.names.op
        let from_ := s.clock + Config.settleCycles
        .op (s.modSeqr q fun x => { x with stop := some (iss.gid, n, from_) }) (Op.of iss m [.awaitResult, .awaitStream q])

end Sys2Proof.Machine
end

