-- ==== Sys2Proof/Machine/MatrixEngine.lean ====
section
/-! DEFINITION. What the commands of a matrix stream do: tile loads, products, online softmax and drains (R155 to
R157, R277 to R290, R296, R298, R308 to R313). -/

namespace Sys2Proof.Machine

namespace State

/-! ### Tiles -/

/-- A byte of an operand's span, its registers taken end to end (R277, R301). -/
def spanByte (s : State) (tid t n : Nat) : Byte :=
  mread s.tiles (tileKey (s.bankOf tid (t + n / 2048)) (t + n / 2048) + n % 2048)

/-- Bytes of a span. -/
def spanBytes (s : State) (tid t n len : Nat) : List Byte := (List.range len).map fun i => s.spanByte tid t (n + i)

/-- The outlier list of a tile register (R278). -/
def outliers (s : State) (tid t : Nat) : List DWord := sgetD s.tileLists (s.bankOf tid t * 16 + t) []

/-- Write a tile register's first bytes and its list (R278). -/
def setTile (s : State) (tid t : Nat) (bs : List Byte) (l : List DWord) : State :=
  let n := s.bankOf tid t * 16 + t
  { s.tileStore (n * 2048) bs with tileLists := if l.isEmpty then sdel s.tileLists n else sput s.tileLists n l }

/-- An accumulator element (R279). -/
def accRd (s : State) (cid p r j : Nat) : Nat := (sgetD s.acc (accKey cid p + 32 * r + j) 0).toNat

/-- Write an accumulator element. -/
def accWr (s : State) (cid p r j x : Nat) : State :=
  { s with acc := sputD 0 s.acc (accKey cid p + 32 * r + j) (BitVec.ofNat 32 x) }

/-- MAX and SUM of a row (R279). -/
def sideRd (s : State) (cid p r : Nat) : Word × Word := sgetD s.side (sideKey cid p + r) (0xFF800000, 0)

/-- Bytes of a team's scratchpad at an offset; one out of range reads 0 and sets WRAPOUT, a poisoned one is consumed
(R176, R282, R364). (DEDUCED, log entry 19) -/
def streamRead (s : State) (tid o n : Nat) : List Byte × State :=
  let offs := (List.range n).map fun i => s.mapOff tid .l0 ((o + i) % 2 ^ 32)
  let s := if offs.any fun b => b.any fun b => s.scrPoisoned (s.team tid).core b 1 then s.consume tid 0 else s
  (offs.map fun b => match b with | some b => mread s.scratch (scrKey (s.team tid).core b) | none => 0,
    if offs.all Option.isSome then s else s.wrapOut tid)

/-! ### MLDT (R282) -/

/-- MLDT's rows. -/
def loadRows (s : State) (tid o st : Nat) : Nat → List Byte × State
  | 0 => ([], s)
  | n + 1 =>
    let (l, s) := loadRows s tid o st n
    let (r, s) := s.streamRead tid ((o + n * st) % 2 ^ 32) 128
    (l ++ r, s)

/-- MLDT: the state, or the fault of a list of more than 64 entries. -/
def loadTile (s : State) (k : MCmd) (d : Nat) (noList : Bool) : Except Nat State :=
  let al (n x : Nat) : Nat := x - x % n
  let o := al 32 (k.vals.getD 0 0).toNat
  let st := al 32 (k.vals.getD 1 0).toNat
  let (rows, s) := s.loadRows k.tid o (if st = 0 then 128 else st) 16
  if noList then .ok (s.setTile k.tid d rows [])
  else
    let q := al 8 (k.vals.getD 2 0).toNat
    let (c, s) := s.streamRead k.tid q 8
    if 64 < leNat c then .error 7
    else
      let (l, s) := s.streamRead k.tid ((q + 8) % 2 ^ 32) (8 * leNat c)
      .ok (s.setTile k.tid d rows (dwords (leNat c) l))

/-! ### Products (R143, R155, R156, R284) -/

end State

/-- An operand tile: the team whose registers it names, its first register, its slot and K (R277). -/
structure Tile where
  tid : Nat
  t : Nat
  slot : DWord
  k : Nat
  deriving DecidableEq, Repr

namespace State

/-- The block record of an element (R147, R277). -/
def blockOf (s : State) (x : Tile) (line k : Nat) : List Byte :=
  let n := slotN x.slot
  let p := blockP n (slotW x.slot)
  s.spanBytes x.tid x.t (line * lineBytes x.slot x.k + k / n * p) p

/-- The shared exponent code of an element's block. -/
def blockE (s : State) (x : Tile) (line k : Nat) : Nat :=
  ((s.blockOf x line k).getD (blockM (slotN x.slot) (slotW x.slot)) 0).toNat

end State

/-- A BF16 subnormal is read as a zero on the matrix path (R143). -/
def flushBf (b : Nat) : Nat := if b / 2 ^ 7 % 2 ^ 8 = 0 then b / 2 ^ 15 * 2 ^ 15 else b

namespace State

/-- Element k of a line, without the slot's SCALE (R284). -/
def elemOf (s : State) (x : Tile) (line k : Nat) : XR :=
  if slotKind x.slot = 1 then decodeBfp x.slot (s.blockOf x line k) (k % slotN x.slot)
  else
    let b := leNat (s.spanBytes x.tid x.t (line * lineBytes x.slot x.k + 2 * k) 2)
    fpVal (slotFmt x.slot) (if slotKind x.slot = 3 then flushBf b else b)

end State

/-- P: the exact sum of the exact products; infinities and NaN as IEEE 754 sums take them, and a zero is +0 (R155). -/
def exactDot (l : List (XR × XR)) : XR :=
  let p := l.foldl (fun acc x => acc.add .rne (x.1.mul x.2)) (.fin false 0 1)
  if p.isZero then .fin false 0 1 else p

/-- acc + P rounded once (R155). -/
def accumulate (acc : Nat) (p : XR) : Nat := (round .f32 .rne ((fpVal .f32 acc).add .rne p)).1

/-- Length of a K block (R155). -/
def kBlock (a b : DWord) : Nat :=
  if (slotKind a != 1 || slotN a = 32) && (slotKind b != 1 || slotN b = 32) then 32 else 16

/-- Insert an entry in ascending (ROW, COL), after equal ones. -/
def insertOut (x : DWord) : List DWord → List DWord
  | [] => [x]
  | y :: l => if dfld x 32 16 + dfld x 48 16 * 2 ^ 16 < dfld y 32 16 + dfld y 48 16 * 2 ^ 16 then x :: y :: l else y :: insertOut x l

/-- Entries in ascending (ROW, COL) (R284). -/
def sortOut (l : List DWord) : List DWord := l.foldl (fun m x => insertOut x m) []

/-- ROW, COL and VALUE of an entry (R154). -/
def outRow (x : DWord) : Nat := dfld x 48 16
/-- COL of an entry. -/
def outCol (x : DWord) : Nat := dfld x 32 16
/-- VALUE of an entry. -/
def outVal (x : DWord) : Nat := dfld x 0 32

namespace State

/-- The entries of A that an MMA applies (R284). (DEDUCED, log entry 26) -/
def outA (s : State) (a : Tile) (rows : Nat) : List DWord :=
  if slotKind a.slot != 1 then []
  else (sortOut (s.outliers a.tid a.t)).filter fun x =>
    outRow x < rows && outCol x < a.k && s.blockE a (outRow x) (outCol x) != 0 && s.blockE a (outRow x) (outCol x) != 255

/-- The entries of B that an MMA applies (R284). (DEDUCED, log entry 26) -/
def outB (s : State) (b : Tile) : List DWord :=
  if slotKind b.slot != 1 then []
  else (sortOut (s.outliers b.tid b.t)).filter fun x =>
    outRow x < b.k && outCol x < 32 && s.blockE b (outCol x) (outRow x) != 0 && s.blockE b (outCol x) (outRow x) != 255

/-- One accumulator element after an MMA: its K blocks in ascending k, then the outliers of A, then those of B (R155,
R156, R284). -/
def mmaCell (s : State) (a b : Tile) (oa ob : List DWord) (acc i j : Nat) : Nat :=
  let n := kBlock a.slot b.slot
  let x := (List.range (a.k / n)).foldl (fun acc q =>
    accumulate acc (exactDot ((List.range n).map fun r => (s.elemOf a i (q * n + r), s.elemOf b j (q * n + r))))) acc
  let f32 (v : XR) : Nat := (round .f32 .rne v).1
  let x := (oa.filter fun e => outRow e = i).foldl (fun acc e =>
    let bv := if ob.any fun y => outRow y = outCol e && outCol y = j then 0 else f32 (s.elemOf b j (outCol e))
    (ffmaE .f32 .rne (outVal e) bv acc).1) x
  (ob.filter fun e => outCol e = j).foldl (fun acc e =>
    let av := match oa.find? fun y => outRow y = i && outCol y = outRow e with
      | some y => outVal y
      | none => f32 (s.elemOf a i (outRow e))
    (ffmaE .f32 .rne av (outVal e) acc).1) x

/-- The effect of an MMA on one tile: all elements are read from the state before it (R284). -/
def mmaTile (s : State) (cid p rows : Nat) (a b : Tile) : State :=
  let oa := s.outA a rows
  let ob := s.outB b
  (List.range rows).foldl (fun t i => (List.range 32).foldl (fun t j =>
    t.accWr cid p i j (s.mmaCell a b oa ob (s.accRd cid p i j) i j)) t) s

/-- An MMA, or an MMA.PAIR for one or both twins (R284, R308). -/
def mmaDo (s : State) (k : MCmd) (sa sb : BitVec 3) (a b : Opnd) : State :=
  let x := s.slotOf k.tid sa
  let one (s : State) (tid : Nat) (w : Binding) : State :=
    match s.heldTile tid w with
    | some p =>
      s.mmaTile (s.team tid).core p w.rows ⟨tid, tileNo a, x, slotK x⟩ ⟨tid, tileNo b, s.slotOf k.tid sb, slotK x⟩
    | none => s
  let s := one s k.tid k.winD
  match k.tid2 with
  | some u => one s u k.winU
  | none => s

/-! ### Online softmax (R157, R287) -/

end State

/-- FP32 helpers under RNE. -/
def mulR (a b : Nat) : Nat := (fmulE .f32 .rne a b).1
/-- FADD. -/
def addR (a b : Nat) : Nat := (faddE .f32 .rne a b).1
/-- FSUB. -/
def subR (a b : Nat) : Nat := (faddE .f32 .rne a (fnegE .f32 b)).1
/-- Pattern of −Inf. -/
def negInf : Nat := 0xFF800000

/-- R157 on one row: the scores, MAX and SUM give p, the factor c, and the new MAX and SUM. -/
def softRow (mx sm : Nat) (xs : List Nat) : List Nat × Nat × Nat × Nat :=
  let mnew := xs.foldl (fun m x => fminmaxE .f32 true m x) mx
  let c := if mx = mnew then 0x3F800000 else (fexp2E .rne (subR mx mnew)).1
  let p := xs.map fun x => if x = negInf then 0 else (fexp2E .rne (subR x mnew)).1
  (p, c, mnew, p.foldl addR (mulR sm c))

/-- A row packed under a slot: its bytes, and its outliers by column (R147, R152, R153). -/
def packRow (mode : Rnd) (slot : DWord) (xs : List XR) : List Byte × List (Nat × Nat) :=
  if slotKind slot = 1 then
    let n := slotN slot
    (List.range (xs.length / n)).foldl (fun acc q =>
      let p := packBlock mode slot ((xs.drop (q * n)).take n)
      (acc.1 ++ recordBytes slot p, acc.2 ++ p.outliers.map fun o => (q * n + o.1, o.2))) ([], [])
  else
    let m := if slotKind slot = 4 then .rne else mode
    (xs.flatMap fun x => leBytes (slotBytes slot) (round (slotFmt slot) m (x.div (slotScale slot))).1, [])

/-- An outlier entry (R154). -/
def outEntry (r : Nat) (o : Nat × Nat) : DWord := BitVec.ofNat 64 (r * 2 ^ 48 + o.1 * 2 ^ 32 + o.2)

namespace State

/-- The scores of a row: S × f, masked (R287). -/
def softScores (s : State) (cid p r : Nat) (f : Nat) (mask : Bool) (spec : Word) : List Nat :=
  (List.range 32).map fun (j : Nat) =>
    let d := sextN 16 (spec.toNat % 2 ^ 16) + ((r : Nat) : Int) - ((j : Nat) : Int)
    if mask && (decide (d < 0) || decide (((spec.toNat / 2 ^ 16 : Nat) : Int) < d)) then negInf else mulR (s.accRd cid p r j) f

/-- MSOFT, or the fault of more than 64 outliers (R287). -/
def softDo (s : State) (k : MCmd) (mask : Bool) (slot : BitVec 3) (d : Opnd) : Except Nat State :=
  let cid := (s.team k.tid).core
  let x := s.slotOf k.tid slot
  let lb := lineBytes x 32
  match s.heldTile k.tid k.winA, s.heldTile k.tid k.winB with
  | some ps, some po =>
    let rows := (List.range k.winA.rows).map fun r =>
      let side := s.sideRd cid po r
      softRow side.1.toNat side.2.toNat (s.softScores cid ps r (k.vals.getD 1 0).toNat mask (k.vals.getD 0 0))
    let packed := rows.map fun y => packRow .rne x (y.1.map (fpVal .f32))
    let outs := (List.range packed.length).flatMap fun r => ((packed.getD r ([], [])).2).map (outEntry r)
    if 64 < outs.length then .error 7
    else
      let t := (List.range rows.length).foldl (fun t r =>
        let y := rows.getD r ([], 0, 0, 0)
        let t := { t with side := sput t.side (sideKey cid po + r) (BitVec.ofNat 32 y.2.2.1, BitVec.ofNat 32 y.2.2.2) }
        (List.range 32).foldl (fun t j => t.accWr cid po r j (mulR (s.accRd cid po r j) y.2.1)) t) s
      .ok (t.setTile k.tid (tileNo d)
        (packed.flatMap Prod.fst ++ List.replicate ((32 - rows.length) * lb) 0) outs)
  | _, _ => .ok s

/-! ### Drains (R289, R290, R309 to R311) -/

/-- Row r of a drain, before it is narrowed: acc × g, by SUM under NORM; or the guided value (R289, R309). -/
def drainRow (s : State) (k : MCmd) (norm : Bool) (r : Nat) : List XR :=
  let cid := (s.team k.tid).core
  let p := (s.heldTile k.tid k.winA).getD 0
  let g := k.winA.g.toNat
  (List.range 32).map fun j =>
    match k.tid2 with
    | some u =>
      let c := s.accRd cid p r j
      let v := s.accRd cid ((s.heldTile u k.winB).getD 0) r j
      fpVal .f32 (ffmaE .f32 .rne g (subR c v) v).1
    | none =>
      let y := (fpVal .f32 (s.accRd cid p r j)).mul (fpVal .f32 g)
      if norm then y.div (fpVal .f32 (s.sideRd cid p r).2.toNat) else y

/-- What a drain writes: (distance from its destination, bytes), rows in ascending r, then a BFP drain's outlier
section (R290). (DEDUCED, log entry 27) -/
def drainChunks (s : State) (k : MCmd) (norm : Bool) (slot : DWord) (st : Nat) : List (Nat × List Byte) :=
  let packed := (List.range k.winA.rows).map fun r => packRow .rtz slot (s.drainRow k norm r)
  let rows := (List.range packed.length).map fun r => (r * st, (packed.getD r ([], [])).1)
  if slotKind slot = 1 then
    let outs := (List.range packed.length).flatMap fun r => ((packed.getD r ([], [])).2).map (outEntry r)
    rows ++ [(packed.length * st, bytesOf (BitVec.ofNat 64 outs.length :: outs))]
  else rows

/-- The 4-byte words of a drain. (DEDUCED, log entry 27) -/
def drainWords (l : List (Nat × List Byte)) : List (Nat × List Byte) :=
  l.flatMap fun c => (List.range (c.2.length / 4)).map fun i => (c.1 + 4 * i, (c.2.drop (4 * i)).take 4)

/-- One word of a drain to scratchpad (R176, R195, R289). (DEDUCED, log entries 19 and 27) -/
def drainScr (s : State) (tid : Nat) (add : Bool) (o : Nat) (bs : List Byte) : State :=
  match s.mapOff tid .l0 (o % 2 ^ 32) with
  | none => s.wrapOut tid
  | some b =>
    let cid := (s.team tid).core
    s.scrStore cid b (if add then leBytes 4 (addR (leNat (s.scrBytes cid b 4)) (leNat bs)) else bs)

/-- Translate the words of a drain to memory in order, up to the first that fails or waits. -/
def drainTr (s : State) (tid : Nat) : List (Nat × List Byte) → List (Nat × Option Nat × List Byte) × Option (Nat × Tr) × State
  | [] => ([], none, s)
  | (va, bs) :: rest =>
    let (t, s) := s.translate (s.team tid).core tid .l0 .write1 va
    match t with
    | .ok pa g =>
      let (l, e, s) := drainTr s tid rest
      ((pa, g, bs) :: l, e, s)
    | t => ([], some (va, t), s)

/-- A packet of a drain to memory (R317). (DEDUCED, log entry 59) -/
def drainPacket (s : State) (n : Nat) (k : MCmd) (pa : Nat) (g : Option Nat) (bs : List Byte) (load : Payload) : Packet :=
  let t := s.team k.tid
  { Packet.plain (.core t.core) (homeEnd pa) 0 load with
    ctx := t.ctx, ptag := t.part, tid := k.tid, gid := gidOf k.tid 0, pa := pa, size := bs.length, bytes := bs, group := g
    cmd := some (.mcmd n) }

/-- Words of a drain that follow one another in a line leave together. -/
def joinWords : List (Nat × Option Nat × List Byte) → List (Nat × Option Nat × List Byte)
  | [] => []
  | x :: rest =>
    match joinWords rest with
    | [] => [x]
    | y :: l =>
      if y.1 = x.1 + x.2.2.length && y.1 / 64 = x.1 / 64 && y.2.1 == x.2.1 then (x.1, x.2.1, x.2.2 ++ y.2.2) :: l
      else x :: y :: l

/-- The updates that an add-drain of these words makes: one, when its tile lies in one 4 KiB unit, else one for each row of 32
words (R195). -/
def addUpdates (l : List (Nat × Option Nat × List Byte)) : List (List (Nat × Option Nat × List Byte)) :=
  if (l.map fun x => x.1 / 4096).eraseDups.length ≤ 1 then [l]
  else (List.range ((l.length + 31) / 32)).map fun r => (l.drop (32 * r)).take 32

/-- RED.FADD of words of a drain at their homes, as one update (R195, R289). -/
def drainRed (s : State) (n : Nat) (k : MCmd) (l : List (Nat × Option Nat × List Byte)) : State :=
  match l with
  | [] => s
  | x :: _ => s.produce { s.drainPacket n k x.1 x.2.1 [] (.rows (l.map fun y => (y.1, y.2.2))) with size := 4 * l.length }

/-- Packets of a stream command are under way (R317). -/
def mcmdOut (s : State) (n : Nat) : Bool := (svals s.packets).any fun p => p.cmd == some (.mcmd n)

/-- A command stops in execution: the sequencer faults, and the command ends without release or landing; what it has written
before is still performed (R298). -/
def stopM (s : State) (n : Nat) (k : MCmd) (reason : Nat) : State :=
  let l := if s.mcmdOut n then sput s.mcmds n { k with performed := true, stopped := true, fault := none } else sdel s.mcmds n
  ({ s with mcmds := l }.seqFault k.seqr reason k.addr (some k.tid)).settle

/-- The last write of a drain is made. -/
def drained (s : State) (n : Nat) (k : MCmd) (bytes : Nat) : State :=
  { s with mcmds := sput s.mcmds n { k with performed := true, bytes := bytes, fault := none } }

/-- A NET drain contributes what its record at issue says: it goes on as a command of its collective, which makes the
member checks (R247, R311, R312, R314). (DEDUCED, log entry 27) -/
def drainNet (s : State) (n : Nat) (k : MCmd) (norm : Bool) : State :=
  let data := (List.range k.winA.rows).flatMap fun i =>
    (s.drainRow k norm i).flatMap fun x => leBytes 4 (round .f32 .rne x).1
  let c : Cmd :=
    { blankCmd .copyx k.lead (gidOf k.lead 0) k.addr .l0 with
      src := netSource k.winA.rows, dst := k.net, pos := 32 * k.winA.rows, result := data, snap := (s.team k.lead).snap }
  let (m, s) := s.queueCmd c
  { s with mcmds := sput s.mcmds n { k with performed := true, child := some m } }

/-- Perform a drain; what it has written before a fault stands, and after a page fault it goes on from there. A row added
to memory is one update: the row that faults is not begun (R195, R289, R290, R298, R309). Words of a drain to scratchpad that are
out of range are not written, and do not count (R290). (DEDUCED, log entry 27; DESIGN CHOICE, log entry 87) -/
def drainDo (s : State) (n : Nat) (k : MCmd) (norm add : Bool) (dest : DrainDest) (slot : BitVec 3) : State :=
  let x := s.slotOf k.tid slot
  let b := (k.vals.getD 2 0).toNat
  let st := if b = 0 then lineBytes x 32 else b
  let lo := (k.vals.getD 0 0).toNat
  match dest with
  | .scr =>
    let l := s.drainChunks k norm x (st - st % 4)
    let inside := (drainWords l).filter fun w => (s.mapOff k.tid .l0 ((lo - lo % 4 + w.1) % 2 ^ 32)).isSome
    let s := (drainWords l).foldl (fun s w => s.drainScr k.tid add (lo - lo % 4 + w.1) w.2) s
    s.drained n k (4 * inside.length)
  | .mem =>
    let va := (lo + (k.vals.getD 1 0).toNat * 2 ^ 32) % 2 ^ 56
    if va % 4 != 0 || st % 4 != 0 then s.stopM n k 8
    else
      let l := s.drainChunks k norm x st
      let (ok, bad, s) := s.drainTr k.tid (((drainWords l).drop k.bytes).map fun w => ((va + w.1) % 2 ^ 56, w.2))
      let whole := if add && bad.isSome then ok.take (ok.length - (k.bytes + ok.length) % 32) else ok
      let s :=
        if add then (addUpdates whole).foldl (fun s u => s.drainRed n k u) s
        else (joinWords whole).foldl (fun s w => s.produce (s.drainPacket n k w.1 w.2.1 w.2.2 .write)) s
      match bad with
      | some (a, .page) =>
        { s with mcmds := sput s.mcmds n { k with bytes := k.bytes + whole.length, fault := some (BitVec.ofNat 56 a, none) } }
      | some (_, .wait) => { s with mcmds := sput s.mcmds n { k with bytes := k.bytes + whole.length } }
      | some (_, .poison pa) => s.consume k.tid pa
      | some _ => s.stopM n k 8
      | none => s.drained n k (l.foldl (fun m c => m + c.2.length) 0)
  | .net => s.drainNet n k norm

/-! ### The order of commands (R296) -/

/-- An earlier command of the stream that names a common tile register or accumulator tile.
(DEDUCED, log entry 28) -/
def conflicts (s : State) (n : Nat) (k : MCmd) : Bool :=
  s.mcmds.any fun e => e.1 < n && e.2.seqr == k.seqr
    && (e.2.tiles.any k.tiles.contains || e.2.accs.any k.accs.contains) && !e.2.performed

/-- A command without a drain's tail is complete once it is performed. -/
def endM (s : State) (n : Nat) (k : MCmd) (r : Except Nat State) : State :=
  match r with
  | .ok s => { s with mcmds := sdel s.mcmds n }.settle
  | .error reason => s.stopM n k reason

/-- A command reads a poisoned accumulator or tile: a product both, softmax and a drain their accumulators (R364). -/
def cmdPoison (s : State) (k : MCmd) : Bool :=
  let accs := k.accs.any fun p => s.arrPoisoned (accArr (accKey (s.team k.tid).core p)) 4096
  let tiles := k.tiles.any fun t => s.tilePoisoned (tileKey t.1 t.2) 2048
  match k.instr with
  | .mma .. => accs || tiles
  | .mmaPair .. => accs || tiles
  | .msoft .. => accs
  | .mdrain .. => accs
  | _ => false

/-- Perform a command's effect. -/
def performM (s : State) (n : Nat) (k : MCmd) : State :=
  if s.cmdPoison k then s.consume k.tid 0
  else
  match k.instr with
  | .mldt _ d _ _ e => s.endM n k (s.loadTile k (tileNo d) (isNone e))
  | .mzero .. =>
    s.endM n k (.ok (match s.heldTile k.tid k.winD with | some p => s.clearTile (s.team k.tid).core p | none => s))
  | .mma _ sa sb _ a b => s.endM n k (.ok (s.mmaDo k sa sb a b))
  | .mmaPair _ sa sb _ a b => s.endM n k (.ok (s.mmaDo k sa sb a b))
  | .msoft _ mask slot d _ _ _ => s.endM n k (s.softDo k mask slot d)
  | .mdrain _ _ norm _ add dest slot _ _ _ _ => s.drainDo n k norm add dest slot
  | _ => s

/-- Scope of the release that a drain ends with. -/
def drainScope (i : Instr) : Option Scope :=
  match i with
  | .mdrain _ .cluster .. => some .cluster
  | .mdrain _ .device .. => some .device
  | .mdrain _ .system .. => some .system
  | _ => none

/-- The end of a drain: once its writes are performed its release, and then its landing (R290); a NET drain's after its
collective's (R312). -/
def finishM (s : State) (n : Nat) (k : MCmd) : State :=
  match k.child with
  | some c => if (sget s.cmds c).isSome then s else { s with mcmds := sdel s.mcmds n }.settle
  | none =>
    if s.mcmdOut n then s
    else if k.stopped then { s with mcmds := sdel s.mcmds n }.settle
    else if k.rel.isNone && (drainScope k.instr).isSome then
      let (r, s) := s.openRelease k.tid none ((drainScope k.instr).getD .team) (.mcmd n)
      { s with mcmds := sput s.mcmds n { k with rel := some r } }
    else if (match k.rel with | some r => s.relDone r | none => true) then
      let s := match k.rel with | some r => s.forgetRel r | none => s
      let s :=
        match k.instr with
        | .mdrain _ _ _ _ _ _ _ _ _ _ e =>
          if isNone e then s
          else
            match s.mapOff k.tid .l0 (alignObj (k.vals.getD 3 0).toNat) with
            | some b => s.objLand (s.team k.tid).ctx (s.team k.tid).core b k.bytes
            | none => s.wrapOut k.tid
        | _ => s
      { s with mcmds := sdel s.mcmds n }.settle
    else s

end State

/-- MATRIX_COMMAND_COMPLETE: a command performs its effect, earlier commands on the same registers and tiles first;
a drain ends after its release (R289, R290, R296). (DEDUCED, log entry 28) -/
def execMatrixCommandComplete (cmd : Nat) (s : State) : Host.Outcome State Fault Refusal :=
  match sget s.mcmds cmd with
  | none => .next s
  | some k =>
    if (s.team k.tid).st == .suspended then .next s
    else if k.performed then .next (s.finishM cmd k)
    else if k.fault.isSome || (s.ctx (s.team k.tid).ctx).killing.isSome || s.conflicts cmd k then .next s
    else .next (s.performM cmd k)

end Sys2Proof.Machine
end

