-- ==== Sys2Proof/Machine/Homes.lean ====
section
/-! DEFINITION. Packets reaching their destination, releases, and the collector (R183 to R199, R320 to R332, R362). -/

namespace Sys2Proof.Machine

namespace State

/-! ### Fabric errors (R325) -/

/-- A multicast copy has been accepted at its member, or can no longer be (R187, R332). -/
def copyAccepted (s : State) (k : Nat) : State :=
  let ts := (sget s.copies k).bind Copy.ts
  let s := { s with copies := sdel s.copies k }
  match ts with
  | some c => { s with outside := s.outside.erase (c, .multicast k) }
  | none => s

/-- A packet that has left the fabric is discarded: a release no longer waits for a commit, nor a copy for its acceptance,
so that other partitions go on (R325). (DEDUCED, log entry 60) -/
def discard (s : State) (p : Packet) : State :=
  match p.load with
  | .commit (some r) => s.relInstalled r
  | .ackCopy k => s.copyAccepted k
  | _ => s

/-- The packets of a partition that follow a discarded one in its stream are discarded with it (R325). -/
def discardHeld (s : State) (p : Packet) : State :=
  let late (q : Packet) : Bool :=
    !q.held && q.src == p.src && q.dst == p.dst && q.vc == p.vc && q.ptag == p.ptag && p.seq < q.seq && p.ptag != 31
  let lost := svals (s.packets.filter fun e => late e.2)
  lost.foldl discard { s with packets := s.packets.filter fun e => !late e.2 }

/-- A packet whose header cannot be used, of the traffic of a partition (R325). -/
def badHeader (s : State) (p : Packet) (tag : Nat) : State := (((s.discard p).discardHeld p).headerError tag)

/-- The launch that a packet's content is of: a steal reply's own, else that of the team it is of. -/
def launchOfPacket (s : State) (p : Packet) : Option Nat :=
  match p.load with
  | .stealLaunch => (skeys s.launches).find? fun l =>
      (s.launch l).part == p.ptag && (s.launch l).ctx == p.ctx && (s.launch l).ident == leNat ((p.bytes.drop 0x40).take 4)
  | _ => if (s.team p.tid).ctx = p.ctx && !isSys (s.team p.tid).core then some (s.team p.tid).launch else none

/-- The context that a packet names consumes an uncorrectable error: the launch of its content, where that is live and
replayable, is rolled back, and otherwise the context is killed (R200, R325). -/
def consumeFor (s : State) (p : Packet) : State :=
  let t := s.team p.tid
  match s.launchOfPacket p with
  | some l =>
    let L := s.launch l
    if rollsBack L && L.st != .complete && L.st != .killed then s.rollback l
    else if t.ctx = p.ctx && !s.teamGone p.tid then s.consume p.tid 0
    else s.consumeCtx p.ctx 0
  | none => if t.ctx = p.ctx && !s.teamGone p.tid then s.consume p.tid 0 else s.consumeCtx p.ctx 0

/-- What a damaged packet comes to: none when it is delivered (R325). With no two copies of PTAG equal, every partition
counts as having a route through the link (DESIGN CHOICE, log entry 79). -/
def damaged (s : State) (p : Packet) : Option State :=
  match p.err with
  | .clean => none
  | .corrected => none
  | .header => some (s.badHeader p (p.tag.getD 31))
  | .untagged =>
    some ((skeysWhere s.parts Part.live).foldl (fun s n => s.bringDown n) ((s.discard p).discardHeld p))
  | .uncorrectable => some (if p.ctx = 0xFFF then s.badHeader p (p.tag.getD 31) else (s.discard p).consumeFor p)

/-- Count the corrected payload errors of a packet (R325). -/
def noteFixed (s : State) (p : Packet) : State :=
  if p.err == .corrected then s.modDev fun d => { d with corrected := d.corrected + p.fixes } else s

/-- The home of a packet is ready (R369). -/
def homeReady (s : State) (p : Packet) : Bool := match p.dst with | .home n => s.dev.chansReady.contains n | _ => true

/-- The team of a packet has been killed: the packet has no effect (R352). -/
def lost (s : State) (p : Packet) : Bool := (s.team p.tid).st == .killed

end State

/-- A packet of a TYPE is delivered, once the home is ready and `wait` lets it, whole or as R325 states; one that only goes
before another in its stream does nothing (R316). -/
def deliver (s : State) (k typ : Nat) (wait : Packet → State → Option State) (f : Packet → State → State) :
    Host.Outcome State Fault Refusal :=
  match s.deliverable k with
  | none => .next s
  | some p =>
    if p.load.typ != typ || !s.homeReady p then .next s
    else
      match (s.take k p).damaged p with
      | some t => .next t.settle
      | none =>
        match p.load with
        | .part _ => .next ((s.take k p).noteFixed p).settle
        | _ =>
          match wait p s with
          | some t => .next t
          | none => .next (f p ((s.take k p).noteFixed p)).settle

/-- Nothing to wait for. -/
def noWait (_ : Packet) (_ : State) : Option State := none

namespace State

/-- An answer to a packet on a virtual channel; an atomic's carries its timestamp (R319). -/
def answerOn (s : State) (vc : Nat) (p : Packet) (load : Payload) (bytes : List Byte) : State :=
  let ts := match load with | .data (.atomic _) _ (some t) => t | _ => 0
  s.sendNow { p with src := p.dst, dst := p.src, vc := vc, load := load, bytes := bytes, ts := ts, overtaken := 0, esc := false, flips := [] }

/-- An answer to a packet, on RSP. -/
def answer (s : State) (p : Packet) (load : Payload) (bytes : List Byte) : State := s.answerOn 1 p load bytes

/-- The core a packet goes to. -/
def coreOf : Endpoint → Nat | .core n => n | _ => 0

/-- A packet goes to an I/O die, for a device register (R178). -/
def toRegs (p : Packet) : Bool := match p.dst with | .io _ => true | _ => false

/-! ### Reads (R186) -/

/-- A load would take this byte from the open transaction or from the team's own bytes (R209). -/
def ownsByte (s : State) (tid : Nat) (tx : Option (Nat × Store Byte)) (S pa : Nat) : Bool :=
  (tx.any fun t => (sget t.2 (canonPa pa)).isSome) || (s.ownByte tid S pa).isSome

/-- A read at its home. (DEDUCED, log entries 13 and 14) -/
def readAt (s : State) (p : Packet) : State :=
  match p.load with
  | .read (.stamp newest) tx =>
    let snap := s.readSnap p.tid tx
    let v := if newest then s.lineStamp p.pa else s.lineAt p.tid snap p.pa
    let own := (List.range 64).any fun i => s.ownsByte p.tid tx snap (p.pa / 64 * 64 + i)
    s.answer p (.data (.stamp newest) (some v) none) (leBytes 8 (v % 2 ^ 48 + if own then 2 ^ 63 else 0))
  | .read act tx =>
    if s.poisoned p.pa p.size then s.consume p.tid p.pa
    else
    let snap := s.readSnap p.tid tx
    let v := s.versionAt snap p.pa
    s.answer p (.data act (some v) none) ((List.range p.size).map fun i => s.teamByte p.tid tx snap (p.pa + i))
  | _ => s

/-- A read of a device register (R178). (DESIGN CHOICE, log entry 45) -/
def readReg (s : State) (p : Packet) : State :=
  match p.load with
  | .read act _ =>
    let (bs, s) := s.regRead p.pa p.size
    s.answer p (.data act none none) bs
  | _ => s

/-- A command's read of a plane region at the core that holds it; the bytes go back on PLANE (R249, R317). -/
def readPlane (s : State) (p : Packet) : State :=
  let cid := coreOf p.dst
  if s.scrPoisoned cid p.pa p.size then s.consume p.tid 0 else s.answerOn 2 p .fill (s.scrBytes cid p.pa p.size)

end State

/-- RD: a read request reaches its home (R186), an I/O die, or the core whose plane region a command reads; there it waits
for what the core has just written itself (R362). (DEDUCED, log entry 14) -/
def execRd (pkt : Nat) (s : State) : Host.Outcome State Fault Refusal :=
  deliver s pkt 0
      (fun p s => match p.dst with | .core cid => if s.scrSettling cid p.pa p.size then some s else none | _ => none) fun p s =>
    if s.lost p then s
    else
      match p.dst with
      | .core _ => s.readPlane p
      | .io _ => s.readReg p
      | _ => s.readAt p

namespace State

/-! ### Stores (R185) -/

/-- A store at its home joins the pending set, and is answered; inside a transaction its bytes are in the write set
already (R185, R193). A device register takes it at once (R178). -/
def storeAt (s : State) (p : Packet) : State :=
  if s.lost p then s
  else
    let s :=
      if p.bytes.isEmpty then s
      else if toRegs p then s.regStore p.level p.ptag p.pa p.bytes
      else ((s.addPending p.tid p.pa p.bytes).spaceFound p.pa).sendCopies p.tid p.group p.pa none p.bytes
    s.answer p .ack []

end State

/-- WR: a write reaches its home (R185). -/
def execWr (pkt : Nat) (s : State) : Host.Outcome State Fault Refusal :=
  deliver s pkt 1 (fun p s => if p.bytes.isEmpty || State.toRegs p then none else s.spaceWait p.pa) fun p s => s.storeAt p

namespace State

/-! ### Commits (R183, R187, R188) -/

/-- A commit at its home. -/
def commitArrives (s : State) (p : Packet) : State :=
  let s := (s.commitTeam p.tid p.ts (commitCells p)).spaceFound p.pa
  match p.load with
  | .commit (some r) => s.relInstalled r
  | _ => s

end State

/-- CMT: a commit reaches its home, which installs the version (R183). (DEDUCED, log entry 53) -/
def execCmt (pkt : Nat) (s : State) : Host.Outcome State Fault Refusal :=
  deliver s pkt 2 (fun p s => if s.earlierCommit p then some s else s.spaceWait p.pa) fun p s => s.commitArrives p

/-- RELEASE_COMMIT: a release takes its timestamp and commits the pending set (R188 steps 2 to 4).
(DEDUCED, log entry 53) -/
def execReleaseCommit (rel : Nat) (s : State) : Host.Outcome State Fault Refusal :=
  match sget s.rels rel with
  | none => .next s
  | some r =>
    if r.st == .waiting && s.seenAt r.tid r.scope && !s.atomicAhead r.tid (skeys (s.team r.tid).pending) then
      let (ts, l, s) := s.takePending r.tid r.scope
      let s := { s with rels := sput s.rels rel { r with st := .committing, ts := ts } }
      .next ((s.sendCommits r.tid rel ts l).relInstalled rel).settle
    else .next s

/-! ### Atomics and reductions (R194, R195) -/

namespace State

/-- An atomic at its home: old value back, a new version at once, its result in the team's overlay (R194). -/
def atomicAt (s : State) (p : Packet) (op : AOp) (cmp : List Byte) : State :=
  if s.poisoned p.pa p.size then s.consume p.tid p.pa
  else
    let old := s.newests p.pa p.size
    let v := s.lineStamp p.pa
    match aopNew op (8 * p.size) (leNat old) (leNat p.bytes) (leNat cmp) with
    | none => s.answer p (.data (.atomic op) (some v) none) old
    | some x =>
      let n := s.names.order
      let s := { s with names := { s.names with order := n + 1 } }
      let (ts, s) := s.takeTs
      let cells := (cellsAt p.pa (leBytes p.size x)).map fun (c : Nat × Byte) => (canonPa c.1, c.2)
      let s := (s.commitTeam p.tid ts cells).toOverlay p.tid ts (cells.map fun (c : Nat × Byte) => (c.1, c.2, n))
      (s.spaceFound p.pa).answer p (.data (.atomic op) (some v) (some ts)) old

/-- An atomic on a device register: free bytes come back, and the outside sees it (R178). (DESIGN CHOICE, log entry 45) -/
def atomicReg (s : State) (p : Packet) (op : AOp) : State :=
  let (bs, s) := s.freeBytes p.size
  (s.emit (.devWrite p.pa p.bytes)).answer p (.data (.atomic op) none none) bs

end State

/-- ATOM: a value-returning atomic reaches its home (R194). (DEDUCED, log entry 53) -/
def execAtom (pkt : Nat) (s : State) : Host.Outcome State Fault Refusal :=
  deliver s pkt 3 (fun p s => if State.toRegs p then none else if s.lineBusy p.pa then some s else s.spaceWait p.pa) fun p s =>
    match p.load with
    | .atomic op cmp => if s.lost p then s else if State.toRegs p then s.atomicReg p op else s.atomicAt p op cmp
    | _ => s

namespace State

/-- One reduction at its home, and its copies for other members of a multicast window (R195, R332). -/
def reduceAt (s : State) (p : Packet) (op : AOp) (pa : Nat) (bs : List Byte) : State :=
  if toRegs p then s.emit (.devWrite pa bs)
  else (s.redAt pa bs.length op (leNat bs)).sendCopies p.tid p.group pa (some op) bs

end State

/-- RED: a reduction, or the rows that a drain adds as one update, reaches its home (R195). -/
def execRed (pkt : Nat) (s : State) : Host.Outcome State Fault Refusal :=
  deliver s pkt 4 noWait fun p s =>
    if s.lost p then s
    else
      match p.load with
      | .reduce op => if s.poisoned p.pa p.size then s.consume p.tid p.pa else (s.reduceAt p op p.pa p.bytes).answer p .ack []
      | .rows l =>
        match l.find? fun x => s.poisoned x.1 4 with
        | some x => s.consume p.tid x.1
        | none => (l.foldl (fun s x => s.reduceAt p .fadd x.1 x.2) s).answer p .ack []
      | _ => s

/-! ### Windows and barrier updates (R137, R230) -/

namespace State

/-- Runs of the bytes that a mask enables, each with its distance from the first. -/
def runsOf (mask : Nat) (bs : List Byte) : List (Nat × List Byte) :=
  let starts := (List.range bs.length).filter fun i => mask.testBit i && (i = 0 || !mask.testBit (i - 1))
  starts.map fun i => (i, (bs.drop i).take (((List.range (bs.length - i)).find? fun j => !mask.testBit (i + j)).getD (bs.length - i)))

/-- A packet of a command has arrived, been applied or answered; what waited for the last of them goes on (R196, R248). -/
def cmdNext (s : State) (p : Packet) : State := match p.cmd with | some (.cmd n) => s.cmdReleases n | _ => s

/-- A block of a command reaches the core it is written at (R249). -/
def blockLands (s : State) (p : Packet) : State :=
  if s.lost p then s
  else ((runsOf p.lane p.bytes).foldl (fun s r => s.scrStore (coreOf p.dst) (p.pa + r.1) r.2) s).cmdNext p

/-- Bytes that an engine command has asked for have come (R317). -/
def cmdGets (s : State) (p : Packet) : State :=
  match p.cmd with
  | some (.cmd n) => s.modCmd n fun k => { k with got := k.got ++ [(p.lane, p.bytes)] }
  | _ => s

end State

/-- BLK: a block of a command arrives at another core and is written there, or bytes of a plane region come to the engine that
asked for them; or an engine moves one element of a copy, or reads one of a cross-rank copy's source (R249, R260, R266, R317). -/
def execBlk (x : BlkStep) (s : State) : Host.Outcome State Fault Refusal :=
  match x with
  | .packet n =>
    deliver s n 9 noWait fun p s =>
      match p.load with
      | .block => s.blockLands p
      | .fill => s.cmdGets p
      | _ => s
  | .element n => .next (s.cmdElement n)

/-- WIN: a window access reaches the neighbour's core (R137); bytes the core has itself just written are held from it
until they leave its settle buffer (R362). -/
def execWin (pkt : Nat) (s : State) : Host.Outcome State Fault Refusal :=
  deliver s pkt 5 (fun p s => if s.scrSettling (State.coreOf p.dst) p.pa p.size then some s else none) fun p s =>
    if s.lost p then s
    else
      match p.load with
      | .winLoad sx _ =>
        if s.scrPoisoned (State.coreOf p.dst) p.pa p.size then s.consume p.tid 0
        else s.answer p (.data (.load sx) none none) (s.scrBytes (State.coreOf p.dst) p.pa p.size)
      | .winStore _ => (s.scrStore (State.coreOf p.dst) p.pa p.bytes).answer p .ack []
      | _ => s

/-- BAR: a barrier update reaches the core that holds the object; a killed team's has no effect (R43, R223, R230, R352). -/
def execBar (pkt : Nat) (s : State) : Host.Outcome State Fault Refusal :=
  deliver s pkt 6 noWait fun p s =>
    match p.load with
    | .bar u =>
      if p.ctx != 0xFFF && s.lost p then s
      else
        let cid := State.coreOf p.dst
        let s := if u.landed = 0 then s else s.objLand p.ctx cid u.off u.landed
        if u.arrivals = 0 then s else s.objArrive p.ctx cid u.off u.arrivals
    | _ => s

/-! ### Answers (R79, R185, R212) -/

namespace State

/-- Write a granule of a tile register for an LDT; of several slices' bytes those of the highest stay (R204, R208). -/
def tileGranule (s : State) (p : Packet) (bank tile : Nat) : State :=
  let g := p.lane % 64
  let tops := ((s.opOf p.gid p.oid).map Op.tops).getD []
  if tops.any fun t => t.1 == g && p.lane / 64 < t.2 then s
  else
    (s.tileStore (tileKey bank tile + 32 * g) p.bytes).modOp p.gid p.oid fun o =>
      { o with tops := (g, p.lane / 64) :: o.tops.filter fun t => t.1 != g }

/-- The later of two timestamps, where there are any (R182). -/
def laterTs (a b : Option Nat) : Option Nat :=
  match a, b with
  | some x, some y => some (tsMax x y)
  | some x, none => some x
  | none, y => y

/-- Data arrive for an operation: a register, or a granule of a tile. -/
def dataArrives (s : State) (p : Packet) (act : Act) (v t : Option Nat) : State :=
  if (s.opOf p.gid p.oid).isNone then s
  else
    let s :=
      match act with
      | .tileIn bank tile => s.tileGranule p bank tile
      | .load sx => s.land p.gid p.oid p.lane (loadVal p.size sx p.bytes)
      | _ => s.land p.gid p.oid p.lane (loadVal p.bytes.length false p.bytes)
    (s.modOp p.gid p.oid fun o => { o with vmax := laterTs o.vmax v, tmax := laterTs o.tmax t }).answered p.gid p.oid

end State

/-- DATA: a response reaches its core, or the engine that asked for it (R79, R317). -/
def execData (pkt : Nat) (s : State) : Host.Outcome State Fault Refusal :=
  deliver s pkt 7 noWait fun p s =>
    match p.load with
    | .data act v t => if p.cmd.isSome then s.cmdGets p else s.dataArrives p act v t
    | _ => s

namespace State

/-- One piece of outside work of a commit is over (R187). -/
def outsideDone (s : State) (ts : Nat) (k : Outside) : State := { s with outside := s.outside.erase (ts, k) }

end State

/-- ACK: an acknowledgement reaches its core: of a store, of a write of a command, or of a multicast copy by its member (R79,
R187, R248). -/
def execAck (pkt : Nat) (s : State) : Host.Outcome State Fault Refusal :=
  deliver s pkt 8 noWait fun p s =>
    match p.load with
    | .ackCopy k => s.copyAccepted k
    | _ => if p.cmd.isSome then s.cmdNext p else if (s.opOf p.gid p.oid).isSome then s.answered p.gid p.oid else s

/-- SETTLE_BUFFER_DRAIN: a packet leaves its core's settle buffer (R326, R362). -/
def execSettleBufferDrain (pkt : Nat) (s : State) : Host.Outcome State Fault Refusal :=
  .next (if s.canDrain pkt then s.drain pkt else s)

/-- BACK_INVALIDATION_DONE: a host copy is gone (R187, R379). (DESIGN CHOICE, log entry 63) -/
def execBackInvalidationDone (ts : Nat) (s : State) : Host.Outcome State Fault Refusal :=
  .next (s.outsideDone ts .backInvalidation).settle

/-- FAR_MEMORY_COMPLETION: a write into a CXL window is complete at the far memory (R187, R379).
(DESIGN CHOICE, log entry 63) -/
def execFarMemoryCompletion (ts : Nat) (s : State) : Host.Outcome State Fault Refusal :=
  .next (s.outsideDone ts .farMemory).settle

/-! ### Arrivals from other devices (R331, R332) -/

namespace State

/-- Bytes arriving from outside are committed at their home with a timestamp taken on arrival (R187). -/
def commitOutside (s : State) (l : Store Byte) : State :=
  let (ts, s) := s.takeTs
  (s.noteOutside ts l).commitAt ts none (l.map fun c => (canonPa c.1, c.2))

/-- Enabled bytes at rising addresses. -/
def maskedCells (pa : Nat) (bs : List (Option Byte)) : Store Byte :=
  (List.range bs.length).filterMap fun i => (bs.getD i none).map fun b => (pa + i, b)

/-- The entry of a group in the partition that a write's tag names accepts it from a device, and names a live context of the
partition to commit it in (R321, R331, R332). -/
def accepts (s : State) (group : Nat) (src : Member) : Bool :=
  match sget s.parts src.tag with
  | none => false
  | some p =>
    let g := sgetD p.mcast group 0
    p.live && g.getLsbD 127 && isMember g s.dev.coords && isMember g src.dev
      && (sget s.ctxs (fld g.toNat 99 12)).any fun x => x.part == src.tag && !x.killed

end State

/-- MULTICAST_WRITE_ARRIVAL: a write from another member is committed here, in the context that the entry of its group
names, and a reduction applied to the newest version, or it is discarded and reported; a write waits for a commit on its way to
the line, for space and for its homes, and it comes by a ready port (R183, R195, R198, R214, R331, R332, R369).
(DESIGN CHOICE, log entry 63) -/
def execMulticastWriteArrival (group : Nat) (src : Member) (pa : Nat) (bytes : List (Option Byte)) (s : State) :
    Host.Outcome State Fault Refusal :=
  let l := State.maskedCells pa bytes
  if !s.bundleUp src.dev then .next s
  else if s.accepts group src && (skeys l).all s.backed then
    if !s.homesReady (skeys l) || (src.op.isNone && (skeys l).any s.lineBusy) then .next s
    else
      match src.op with
      | some op => .next (s.redAt pa bytes.length op (leNat (bytes.map fun b => b.getD 0))).settle
      | none =>
        match s.spaceFor (skeys l) with
        | some t => .next t
        | none => .next (s.commitOutside l).settle
  else .next (s.emit (.report "Fjondan: multicast write discarded"))

/-! ### The collector and revocation (R197 to R199) -/

namespace State

/-- Teams whose snapshots keep versions: running or suspended, and not revoked. -/
def snapTeams (s : State) : List Nat :=
  skeysWhere s.teams fun t => !t.revoked && (t.st == .running || t.st == .suspended || t.st == .finishing)

/-- Snapshots of a team: S(T), S_x of its transactions, and those its commands have captured (R197). -/
def snapsOf (s : State) (tid : Nat) : List Nat :=
  (s.team tid).snap :: ((s.teamGroups tid).filterMap fun g => ((s.group g).tx).map Tx.sx)
    ++ ((svals s.cmds).filter fun k => k.tid == tid && !k.written && k.err.isNone).map Cmd.snap

/-- The earliest of timestamps and of `d`. -/
def earliest (d : Nat) (l : List Nat) : Nat := l.foldl tsMin d

/-- The low-water mark (R197). A snapshot that a launch has fixed for teams still to start does not count, as the rule
does not name it (log entry 20). -/
def lowWater (s : State) : Nat :=
  let open1 := (svals s.groups).filterMap fun g => g.tx.map Tx.sx
  let cmds := ((svals s.cmds).filter fun k => !k.written && k.err.isNone).map Cmd.snap
  earliest s.sundial ((s.snapTeams.map fun t => (s.team t).snap) ++ open1 ++ cmds)

/-- The older versions of a line that stay: pinned, or with no newer version at or below the mark (R197). -/
def keepVersions (low : Nat) : Nat → List Version → List Version
  | _, [] => []
  | newer, v :: l => if v.pin.isSome || !(tsLe newer low) then v :: keepVersions low v.ts l else keepVersions low v.ts l

/-- Revoke a team's snapshot (R199). -/
def revoke (s : State) (tid : Nat) : State := s.modTeam tid fun t => { t with revoked := true, revs := t.revs + 1 }

/-- Of teams that keep versions in a channel, the one whose snapshot is the oldest (R198). -/
def oldestIn (s : State) (chan : Nat) : Option Nat :=
  let newest := (s.orangery.filter fun e => homeOf (e.1 * 64) = chan && !e.2.isEmpty).map fun e => sgetD s.lineTs e.1 0
  let least (t : Nat) : Nat := earliest s.sundial (s.snapsOf t)
  (s.snapTeams.filter fun t => newest.any fun n => !(tsLe n (least t))).foldl (fun best t =>
    match best with
    | some b => if tsLe (least b) (least t) then some b else some t
    | none => some t) none

/-- Of the rollback launches, the one with the most pinned lines in a channel (R198). -/
def mostPinned (s : State) (chan : Nat) : Option Nat :=
  let count (l : Nat) : Nat := ((s.launch l).pins.filter fun x => homeOf (x * 64) = chan).length
  ((skeys s.launches).filter fun l => 0 < count l).foldl (fun best l =>
    match best with
    | some b => if count b < count l then some l else some b
    | none => some l) none

end State

/-- COLLECTOR_RECLAIM: the collector frees a channel's older versions that no snapshot needs (R197). -/
def execCollectorReclaim (chan : Nat) (s : State) : Host.Outcome State Fault Refusal :=
  let low := s.lowWater
  .next { s with
    orangery := s.orangery.map fun e =>
      if homeOf (e.1 * 64) = chan then (e.1, State.keepVersions low (sgetD s.lineTs e.1 0) e.2) else e }

/-- ORANGERY_REVOKE: space has been lacking for 65,536 cycles (R198). (DEDUCED, log entry 54) -/
def execOrangeryRevoke (chan : Nat) (s : State) : Host.Outcome State Fault Refusal :=
  match sget s.lacking chan with
  | some since =>
    if since + 65536 ≤ s.clock && s.orangeryFull chan then
      let t := { s with lacking := sput s.lacking chan s.clock }
      match s.oldestIn chan with
      | some tid => .next (t.revoke tid)
      | none =>
        match s.mostPinned chan with
        | some l => .next (t.dropPins l)
        | none => .next t
    else .next s
  | none => .next s

/-- SNAPSHOT_AGE_REVOKE: the snapshots of a team that have fallen 2^46 behind the Sundial are revoked: S(T), S_x of its
transactions, and those its engine commands have captured (R199). -/
def execSnapshotAgeRevoke (tid : Nat) (s : State) : Host.Outcome State Fault Refusal :=
  let old (t : Nat) : Bool := tsBehind (2 ^ 46) t s.sundial
  let u := if s.snapTeams.contains tid && old (s.team tid).snap then s.revoke tid else s
  .next { u with
    groups := u.groups.map fun (e : Nat × Group) =>
      (e.1, { e.2 with tx := e.2.tx.map fun x => if tidOf e.1 = tid && old x.sx then { x with expired := true } else x })
    cmds := u.cmds.map fun (e : Nat × Cmd) =>
      if e.2.tid == tid && !e.2.written && old e.2.snap then (e.1, { e.2 with expired := true }) else e }

end Sys2Proof.Machine
end

