-- ==== Sys2Proof/Machine/Collective.lean ====
section
/-! DEFINITION. Collectives: contributions in a reduction slot, the fold, results and status (R265 to R267, R312, R313,
R329, R333, R334). -/

namespace Sys2Proof.Machine

/-- Reduction slots of the device: 32 on each of its I/O dies (R10, R333). -/
def slotCount : Nat := 64

/-- The least value of an element's bytes as a doubleword, by operator, on `n` bits (R266). -/
def foldOp (rop n a b : Nat) : Nat :=
  match rop with
  | 1 => (a + b) % 2 ^ n
  | 2 => if sextN n a < sextN n b then b else a
  | 3 => if sextN n b < sextN n a then b else a
  | 4 => a &&& b
  | 5 => a ||| b
  | 6 => a ^^^ b
  | _ => (faddE .f32 .rne a b).1

/-- The contributors C(q): the positions of the box equal to q on every axis whose REPL bit is 0, in ascending
(z, y, x) (R266). -/
def contributors (box : BitVec 44) (repl : BitVec 3) (q : Nat × Nat × Nat) : List (Nat × Nat × Nat) :=
  (State.boxCells box.toNat).filter fun p =>
    (repl.getLsbD 0 || p.1 == q.1) && (repl.getLsbD 1 || p.2.1 == q.2.1) && (repl.getLsbD 2 || p.2.2 == q.2.2)

/-- The result of a collective: the contributions one after the other, or folded element by element (R266). -/
def collFold (rop : Nat) (es : Size) (l : List (List DWord)) : List DWord :=
  match l with
  | [] => []
  | x :: rest =>
    if rop = 0 then l.flatMap id
    else rest.foldl (fun acc y => (List.range acc.length).map fun i =>
      BitVec.ofNat 64 (foldOp rop (8 * Size.bytes es) (acc.getD i 0).toNat (y.getD i 0).toNat)) x

/-- Contributions agree in ROP, REPL, box, ES and count (R267). -/
def agree (a b : Contribution) : Bool :=
  a.rop == b.rop && a.repl == b.repl && a.box == b.box && a.es == b.es && (a.fail || b.fail || a.data.length == b.data.length)

namespace State

/-- Key of a reduction slot. -/
def rslotKey (group tag ctx : Nat) : Nat := (group * 2 ^ 16 + tag) * 2 ^ 12 + ctx

/-- The command of this device in a collective: started, and not told its end (R266). -/
def localMember (s : State) (group tag ctx : Nat) : Option (Nat × Cmd) :=
  s.cmds.find? fun e =>
    e.2.kind == .copyx && e.2.joined && e.2.slot == group && collTag e.2.dst == tag && (s.team e.2.tid).ctx == ctx
      && e.2.err.isNone && e.2.status.isNone

/-- A packet of a collective to the core of a command, on COLL (R317, R333). -/
def collPacket (s : State) (c : Cmd) (load : Payload) (bytes : List Byte) : State :=
  let t := s.team c.tid
  s.sendNow { Packet.plain (.io 0) (.core t.core) 3 load with ctx := t.ctx, ptag := t.part, tid := c.tid, gid := c.gid, bytes := bytes }

/-- Bytes of a result's elements. -/
def resultBytes (es : Size) (l : List DWord) : List Byte := l.flatMap fun d => leBytes (Size.bytes es) d.toNat

/-- The team whose export a result for another device is: that of the local member (R366). -/
def collTeam (s : State) (group tag ctx : Nat) : Option Nat := (s.localMember group tag ctx).map fun e => e.2.tid

/-- Tell one rank the result, if there is one, and then the status: the local member by packets, another device through
its port (R333). (DESIGN CHOICE, log entry 63) -/
def tellRank (s : State) (x : Contribution) (v : Nat) (res : List DWord) (p : Nat × Nat × Nat) : State :=
  if p == s.dev.coords then
    match s.localMember x.group x.tag x.ctx with
    | some (n, c) =>
      let s := if v = 0 then s.collPacket c (.collResult n 0) (resultBytes x.es res) else s
      s.collPacket c (.collStatus n v) []
    | none => s
  else
    s.sendOut p (if v = 0 then s.collTeam x.group x.tag x.ctx else none)
      (.collective (s.outer p) ⟨x.group, x.tag, x.ctx, if v = 0 then res else [], v⟩)

/-- A slot ends: it is free, and every rank of C(q) is told (R333, R334). -/
def endSlot (s : State) (k : Nat) (x : Contribution) (v : Nat) (res : List DWord) : State :=
  (contributors x.box x.repl x.dev).foldl (fun s p => s.tellRank x v res p) { s with rslots := sdel s.rslots k }

/-- Every contribution is there: the fold, the result and the status; a member's error ends it with MEMBER (R267, R333). -/
def foldSlot (s : State) (k : Nat) (r : RSlot) (x : Contribution) : State :=
  let cs := contributors x.box x.repl x.dev
  let all := cs.filterMap fun p => r.got.find? fun y => y.dev == p
  if all.length = cs.length then
    if all.any Contribution.fail then s.endSlot k x 3 [] else s.endSlot k x 0 (collFold x.rop x.es (all.map Contribution.data))
  else { s with rslots := sput s.rslots k r }

/-- Slots in use are all there are (R333). -/
def slotsFull (s : State) (k : Nat) : Bool := (sget s.rslots k).isNone && slotCount ≤ s.rslots.length

/-- A contribution enters its slot, which its first one claims (R333, R334). -/
def enterSlot (s : State) (k : Nat) (x : Contribution) : State :=
  match sget s.rslots k with
  | none =>
    s.foldSlot k { key := (x.group, x.tag, x.ctx), since := s.clock, tmo := if x.tmo = 0 then 200 else x.tmo, got := [x] } x
  | some r =>
    if r.got.any fun y => y.dev == x.dev then s
    else
      let r := { r with got := r.got ++ [x] }
      if r.got.all fun y => agree x y then s.foldSlot k r x else s.endSlot k x 2 []

/-- The device whose slot folds a contribution: the first contributor (R333). -/
def foldsAt (x : Contribution) : Option (Nat × Nat × Nat) := (contributors x.box x.repl x.dev).head?

/-- The other device on whose way the switch stands that Fjondan has designated for a contribution's group, if any: the first
other contributor (R333). (DESIGN CHOICE, log entry 88) -/
def switchFor (s : State) (x : Contribution) : Option (Nat × Nat × Nat) :=
  if s.dev.switchFolds.contains x.group then (contributors x.box x.repl x.dev).find? fun p => p != s.dev.coords else none

/-- A contribution that reaches an I/O die waits for a free slot here, or for a port towards the device that folds it; one for
a switch waits at its port (R333, R334, R369). -/
def contWaits (s : State) (x : Contribution) : Bool :=
  match s.switchFor x, foldsAt x with
  | some p, _ => !s.bundleUp p
  | none, some p => if p == s.dev.coords then s.slotsFull (rslotKey x.group x.tag x.ctx) else !s.bundleUp p
  | none, none => false

/-- The end of a command's collective is on its way to it (R334). -/
def endSent (s : State) (n : Nat) : Bool :=
  (svals s.packets).any fun p => match p.load with | .collStatus m _ => m == n | _ => false

/-- A local contribution goes into its slot here, or leaves for the device or the switch that folds it, an export (R333,
R366); one whose command has been told its end, or whose end is on its way, is discarded (R334). -/
def contArrives (s : State) (n : Nat) (x : Contribution) : State :=
  match sget s.cmds n, foldsAt x with
  | some c, some p =>
    if (c.status.isSome && !x.fail) || s.endSent n then s
    else
      match s.switchFor x with
      | some d => s.sendOut d (some c.tid) (.toSwitch x)
      | none =>
        if p == s.dev.coords then s.enterSlot (rslotKey x.group x.tag x.ctx) x
        else s.sendOut p (some c.tid) (.contribution (s.outer p) x)
  | _, _ => s

end State

/-- CONT: a contribution of this device reaches an I/O die, or another member's arrives by a ready port, sent or not for a
collective that has ended since (R266, R333, R334, R369). (DESIGN CHOICE, log entry 63) -/
def execCont (x : ContStep) (s : State) : Host.Outcome State Fault Refusal :=
  match x with
  | .packet pkt =>
    deliver s pkt 12 (fun p s => match p.load with | .contribution _ x => if s.contWaits x then some s else none | _ => none)
      fun p s => match p.load with | .contribution n x => s.contArrives n x | _ => s
  | .remote x late =>
    if late || x.dev == s.dev.coords || State.foldsAt x != some s.dev.coords || !s.bundleUp x.dev || s.contWaits x
        || s.dev.switchFolds.contains x.group then .next s
    else .next (s.enterSlot (State.rslotKey x.group x.tag x.ctx) x).settle

namespace State

/-- The result is written, where it was translated, as memory writes of the team at this member alone, and the record's
release begins once they are performed (R266, R248). -/
def writeResult (s : State) (n : Nat) (k : Cmd) (bytes : List Byte) : State :=
  let m := shES k.dst
  ((List.range k.pas.length).foldl (fun s i =>
    s.engineStore n k (k.pas.getD i 0) none ((bytes.drop (i * m)).take m)) s).wroteAll n

/-- A command is told its end (R267). -/
def cmdStatusIs (s : State) (n v : Nat) : State :=
  s.modCmd n fun x =>
    if x.status.isSome then x
    else if v = 0 then { x with status := some 0 }
    else { x with status := some v, err := some ⟨0⟩ }

end State

/-- Another device's or a switch's answer to a local member's collective comes by a ready port (R369). -/
def State.answerPort (s : State) (k : Cmd) : Bool :=
  match State.foldsAt (s.contribution k false), s.switchFor (s.contribution k false) with
  | _, some p => s.bundleUp p
  | some p, none => p != s.dev.coords && s.bundleUp p
  | none, none => false

/-- CRES: a collective's result reaches the core of its command, from a slot of this device or of another, or of a switch
(R266). (DESIGN CHOICE, log entry 63) -/
def execCres (x : CollStep) (s : State) : Host.Outcome State Fault Refusal :=
  match x with
  | .packet pkt =>
    deliver s pkt 13 noWait fun p s =>
      match p.load with
      | .collResult n _ => match sget s.cmds n with | some k => s.writeResult n k p.bytes | none => s
      | _ => s
  | .remote m =>
    match s.localMember m.group m.tag m.ctx with
    | some (n, k) =>
      if k.written || !k.sent || !s.answerPort k then .next s
      else .next (s.writeResult n k (m.data.flatMap fun d => leBytes (shES k.dst) d.toNat)).settle
    | none => .next s

/-- CSTAT: a collective's status reaches the core of its command; a result comes before a DONE (R267, R333).
(DESIGN CHOICE, log entry 63) -/
def execCstat (x : CollStep) (s : State) : Host.Outcome State Fault Refusal :=
  match x with
  | .packet pkt =>
    deliver s pkt 14 noWait fun p s =>
      match p.load with
      | .collStatus n v => s.cmdStatusIs n v
      | _ => s
  | .remote m =>
    match s.localMember m.group m.tag m.ctx with
    | some (n, k) =>
      .next (if (m.status = 0 && !k.written) || !s.answerPort k then s else (s.cmdStatusIs n m.status).settle)
    | none => .next s

/-- REDUCTION_SLOT_TIMEOUT: a slot's timer expires (R334); 1050 cycles make 1 µs. (DEDUCED, log entry 29) -/
def execReductionSlotTimeout (slot : Nat) (s : State) : Host.Outcome State Fault Refusal :=
  match sget s.rslots slot with
  | some r =>
    match r.got with
    | x :: _ => if r.since + r.tmo * 1050 ≤ s.clock then .next (s.endSlot slot x 1 []).settle else .next s
    | [] => .next { s with rslots := sdel s.rslots slot }
  | none => .next s

/-- COL_PORT_DOWN: the sixteenth replay in a row of a port has failed; it is taken down, and its bundle's other ports
carry its traffic; the host is told that the readiness summary has changed (R329, R334, R369, R380). -/
def execColPortDown (port : Nat) (s : State) : Host.Outcome State Fault Refusal :=
  .next (s.tellReady (s.modDev fun d => { d with colsReady := d.colsReady.filter fun p => p != port }))

end Sys2Proof.Machine
end

