-- ==== Sys2Proof/Machine/Launch.lean ====
section
/-! DEFINITION. The launch unit: what a record must satisfy, and the submission of a launch (R38 to R41, R149,
R184, R358, R378). -/

namespace Sys2Proof.Machine

/-! ### Records (R38 to R40) -/

/-- A rectangle: x, y, width, height. -/
abbrev Rect := Nat × Nat × Nat × Nat

/-- The common part of two rectangles; empty when width or height is 0. -/
def Rect.inter (a b : Rect) : Rect :=
  let x := Nat.max a.1 b.1
  let y := Nat.max a.2.1 b.2.1
  (x, y, Nat.min (a.1 + a.2.2.1) (b.1 + b.2.2.1) - x, Nat.min (a.2.1 + a.2.2.2) (b.2.1 + b.2.2.2) - y)

/-- A rectangle is at least `w` by `h`. -/
def Rect.holds (r : Rect) (w h : Nat) : Bool := w ≤ r.2.2.1 && h ≤ r.2.2.2

/-- The positions of a park (R15). -/
def parkRect (k : Nat) : Rect := (4 * (k % 16), 4 * (k / 16), 4, 4)

/-- The rectangle of a partition. -/
def Part.rect (p : Part) : Rect := (p.x0, p.y0, p.w, p.h)

/-- CW and CH of a launch (R39). -/
def Launch.cw (l : Launch) : Nat := l.shape 0 3
/-- Cluster height. -/
def Launch.ch (l : Launch) : Nat := l.shape 3 3
/-- TWIN. -/
def Launch.twin (l : Launch) : Bool := l.shape 14 1 = 1
/-- MSEQ. -/
def Launch.mseq (l : Launch) : Bool := l.shape 13 1 = 1
/-- COMM. -/
def Launch.comm (l : Launch) : Bool := l.shape 15 1 = 1
/-- PRIO. -/
def Launch.prio (l : Launch) : Nat := l.shape 16 2
/-- Teams at one position of a cluster. -/
def Launch.twins (l : Launch) : Nat := if l.twin then 2 else 1
/-- Bytes of one team's scratchpad allocation. -/
def Launch.scr (l : Launch) : Nat := l.shape 32 14 * 32
/-- Bytes of scratchpad one position needs: a pair's twin bank included (R36, R301). -/
def Launch.scrNeed (l : Launch) : Nat := if l.twin then 2 * l.scr + 16384 else l.scr
/-- Register-file entries one position needs. -/
def Launch.regNeed (l : Launch) : Nat := l.twins * l.groups * 32 * l.vregs
/-- Clusters of the grid. -/
def Launch.blocks (l : Launch) : Nat := dfld (l.dw 0x10) 0 16 * dfld (l.dw 0x10) 16 16 * dfld (l.dw 0x10) 32 8
/-- The plane region of a launch: its first byte and its bytes. -/
def Launch.region (l : Launch) : Nat × Nat := (l.plane 32 14 * 32, l.plane 46 14 * 32)

/-- The rectangle a record names in a partition (R39). (DEDUCED, log entry 41) -/
def launchRect (p : Part) (l : Launch) : Rect :=
  if l.plane 16 8 = 0 then p.rect else (l.plane 0 8, l.plane 8 8, l.plane 16 8, l.plane 24 8)

/-- A format slot the launch unit rejects (R149). -/
def slotBad (d : DWord) : Bool :=
  4 < slotKind d || dfld d 4 4 != 0 || dfld d 20 28 != 0
    || (if slotKind d = 1 then slotW d < 2 || 8 < slotW d
        else dfld d 14 6 != 0 || slotQ d != 0 || slotW d != 0 || dfld d 3 1 != 0)
    || (slotKind d = 0 && dfld d 48 16 != 0)

/-- A DEP or DONE doubleword outside its values (R39, R40). -/
def objFieldBad (p : Part) (done : Bool) (d : DWord) : Bool :=
  dfld d 31 1 != 0 || dfld d 11 19 % 16 != 0 || 393200 < dfld d 11 19 || (done && dfld d 32 32 != 0)
    || (dfld d 30 1 = 1 && !posIn (dfld d 0 6, dfld d 6 5) p.rect)

/-- A power-of-two field outside 0 and `lo` to `hi`. -/
def expBad (lo hi x : Nat) : Bool := x != 0 && (x < lo || hi < x)

/-- Outcome 2 of R40 for a record that has been read. (DEDUCED, log entry 41) -/
def recordBad (p : Part) (l : Launch) : Bool :=
  let r := launchRect p l
  let parks := (List.range 128).filter fun k => Rect.holds (Rect.inter (Rect.inter (parkRect k) r) p.rect) l.cw l.ch
  dfld (l.dw 0) 0 3 != 0 || dfld (l.dw 0) 56 8 != 0
    || (List.range 8).any (fun i => l.dw (0x40 + 8 * i) != 0 || l.dw (0xC0 + 8 * i) != 0 || slotBad (l.dw (0x80 + 8 * i)))
    || dfld (l.dw 0x10) 40 24 != 0 || l.blocks = 0
    || l.shape 46 18 != 0 || l.shape 25 7 != 0 || 11776 < l.shape 32 14 || 64 < l.shape 18 7
    || l.cw = 0 || 4 < l.cw || l.ch = 0 || 4 < l.ch || 12 < l.cw * l.ch
    || l.plane 60 4 != 0 || 11776 < l.plane 46 14 || 11775 < l.plane 32 14 || 64 < l.plane 16 8
    || (l.plane 16 8 != 0 && (63 < l.plane 0 8 || 31 < l.plane 8 8 || 32 < l.plane 24 8))
    || l.policy 24 8 != 0 || 2 < l.policy 0 2 || expBad 6 20 (l.policy 8 6) || expBad 10 40 (l.policy 2 6)
    || 11776 < l.shape 32 14 + l.plane 46 14 || 11776 < l.plane 32 14 + l.plane 46 14
    || !rectIn r p.rect || !r.holds l.cw l.ch || parks.isEmpty
    || (l.twin && !l.mseq) || (l.comm && l.groups = 1)
    || 32 < l.twins * l.groups || 65536 < l.regNeed || 376832 < l.scrNeed + l.region.2
    || objFieldBad p false (l.dw 0x28) || objFieldBad p true (l.dw 0x30)

namespace State

/-- The partition in which a context's launches run. -/
def partOfCtx (s : State) (c : Nat) : Nat := (s.ctx c).part

/-- Launches in the queue of a partition and priority (R41, R42). -/
def queueLen (s : State) (p prio : Nat) : Nat :=
  ((svals s.launches).filter fun l =>
    l.part == p && l.prio == prio && (l.st == .queued || l.st == .reserving || l.st == .dispatching)).length

/-- The dependence of a record holds now (R41). -/
def depReady (s : State) (l : Launch) : Bool :=
  let d := l.dw 0x28
  dfld d 30 1 = 0 || satisfied (s.objAt (cidOf (dfld d 0 6) (dfld d 6 5)) (dfld d 11 19)).phase (dfld d 32 32)

/-- Submit a record that has been read, in a context: the outcome, the LAUNCH.ID, the number of the launch, and the
state (R40, R41). -/
def submit (s : State) (c : Nat) (record : List DWord) (snap : Nat) : Nat × Nat × Nat × State :=
  let pn := s.partOfCtx c
  let p := s.part pn
  let l : Launch := { Launch.absent with record := record, part := pn, ctx := c }
  if recordBad p l then (2, 0, 0, s)
  else if 64 ≤ s.queueLen pn l.prio then (1, 0, 0, s)
  else
    let k := s.names.launch
    let ident := p.nextLaunch % 2 ^ 32
    let l : Launch :=
      { l with ident := ident, st := .queued, ready := s.depReady l, rect := launchRect p l, snapIssuer := snap
               order := s.names.order + 1 }
    let s := { s with names := { s.names with launch := k + 1, order := s.names.order + 1 }
                      launches := sput s.launches k l }
    let s := s.modCtx c fun x => { x with killed := false }
    (0, ident, k, s.modPart pn fun p => { p with nextLaunch := p.nextLaunch + 1 })

end State

end Sys2Proof.Machine
end

