-- ==== Sys2Proof/Machine/Service.lean ====
section
/-! DEFINITION. Translation walks, service faults and their answers, and how a context is killed (R180, R344 to R348,
R350 to R352). -/

namespace Sys2Proof.Machine

/-- TRANSLATION_WALK_DONE: a walk a core made ends; one that finds a leaf fills the core's cache and its die region's,
and one that fails caches nothing; it waits for tables whose homes are not ready (R180, R348, R369). -/
def execTranslationWalkDone (cid ctx : Nat) (va : Addr) (_kind : AccKind) (s : State) : Host.Outcome State Fault Refusal :=
  if !s.tablesReady (s.ctx ctx).root va.toNat then .next s
  else
    match s.walk (s.ctx ctx).root va.toNat with
    | .leaf e bits => .next (s.fillTlb cid ctx va.toNat e bits)
    | _ => .next s

/-! ### The service ring (R346) -/

/-- KIND of a service request. -/
def accCode : AccKind → Nat | .read => 0 | .write => 1 | .fetch => 2 | .launchRecord => 3 | .tableWalk => 4

/-- The 32 bytes of a request appended at `seq` (R346). -/
def ringBytes (e : RingEntry) (seq : Nat) : List Byte :=
  let (cx, cy) := State.corePos e.cid
  bytesOf
    [BitVec.ofNat 64 e.va.toNat,
      BitVec.ofNat 64 (e.launch % 2 ^ 32 * 2 ^ 32 + e.kind * 2 ^ 28 + e.gslot * 2 ^ 23 + cy * 2 ^ 18 + cx * 2 ^ 12 + e.ctx % 4096),
      BitVec.ofNat 64 e.ipc.toNat, BitVec.ofNat 64 (seq % 2 ^ 32)]

namespace State

/-- The context whose tables a partition's supervisor uses. -/
def supCtx (s : State) (p : Nat) : Nat := (s.team ((s.part p).sysCores.headD 0)).ctx

/-- The next entry of a partition's ring may be written: fewer than 64 entries are unanswered. One that is unanswered
while later ones are not may be overwritten (DEDUCED, log entry 36). -/
def ringFree (s : State) (p : Nat) : Bool := ((svals (s.part p).ring).filter fun e => !e.answered).length < 64

/-- The walk of an address ends at a table page that is not backed (R346, log entry 68). -/
def tableGone (s : State) (base va : Nat) : List (Nat × Nat) → Bool
  | [] => false
  | (lo, len) :: rest =>
    let a := base + 8 * fld va lo len
    let e := s.newest64 a
    if !s.backed a then true
    else if dfld e 0 1 = 0 || dfld e 1 2 != 0 then false
    else tableGone s (dfld e 16 36 * 2 ^ 16) va rest

/-- KIND of a request: a walk that has met no table page is one of a table page (R346). -/
def kindAt (s : State) (ctx : Nat) (va : Addr) (kind : Nat) : Nat :=
  if s.tableGone (s.ctx ctx).root va.toNat [(39, 17), (30, 9), (21, 9), (16, 5)] then accCode .tableWalk else kind

/-- Write raw bytes as the next ring entry: FAULT.HEAD rises. -/
def ringWrite (s : State) (p : Nat) (bs : List Byte) : State :=
  let h := (s.part p).head
  let s := (s.deviceWriteVa (s.supCtx p) (s.supCtx p) (((s.part p).ringBase.extractLsb' 0 56).toNat + 32 * (h % 64)) bs).2
  s.modPart p fun x => { x with head := h + 1 }

/-- Append a request: its ring index and the state; the supervisor is interrupted (R344, R346).
(DEDUCED, log entry 36) -/
def ringAppend (s : State) (p : Nat) (e : RingEntry) : Nat × State :=
  let h := (s.part p).head
  let s := (s.ringWrite p (ringBytes e h)).modPart p fun x => { x with ring := sput x.ring (h % 64) e }
  (h % 64, s.emit (.report "supervisor: service ring"))

/-- The request of a team at an address. -/
def ringEntry (s : State) (tid gid : Nat) (va : Addr) (kind : Nat) (ipc : Addr) : RingEntry :=
  let t := s.team tid
  { va := va, launch := (s.launch t.launch).ident, kind := s.kindAt t.ctx va kind, gslot := (s.group gid).slot, cid := t.core, ctx := t.ctx
    ipc := ipc, since := s.clock, answered := false }

/-- Append the request of a stalled gang. -/
def appendStall (s : State) (p cid : Nat) (x : Stall) : State :=
  let (n, s) := s.ringAppend p (s.ringEntry (tidOf x.gid) x.gid x.va (accCode x.kind) x.ipc)
  s.modCore cid fun k => { k with stalls := k.stalls.map fun y => if y == x then { y with entry := some n } else y }

/-- The first doubleword of a clause of `n` instructions that cannot be fetched: its address. -/
def fetchStop (s : State) (root pc : Nat) (n : Nat) : Nat :=
  (((List.range (n + 1)).map fun i => (pc + 8 * i) % 2 ^ 56).find? fun a => s.walk root a = .fault).getD pc

/-- Stalled gangs of a partition whose requests wait, on cores in ascending order. -/
def waitingStalls (s : State) (p : Nat) : List (Nat × Stall) :=
  s.cores.flatMap fun e => (e.2.stalls.filter fun x => x.entry.isNone && (s.team (tidOf x.gid)).part == p).map fun x => (e.1, x)

/-- Physical address of the submission entry a partition's launch unit takes next (R378). -/
def sqEntry (s : State) (p : Nat) : Nat :=
  let q := s.part p
  q.sqBase.toNat + 64 * (q.sqHead % 2 ^ (q.sqOrder.toNat % 16))

/-- A byte of device memory at a snapshot, as the launch unit reads it after its acquire. -/
def snapBytes (s : State) (snap pa n : Nat) : List Byte := (List.range n).map fun i => s.byteAt snap (pa + i)

/-- CTX of that entry. -/
def sqCtx (s : State) (p : Nat) : Nat := leNat (s.snapBytes (s.part p).sqSnap (s.sqEntry p + 8) 2) % 4096

/-- Append the next request that waits in a partition: of a stalled gang, an engine command, a drain, a sequencer's
fetch or a submission's record. -/
def appendNext (s : State) (p : Nat) : State :=
  let mine (tid : Nat) : Bool := (s.team tid).part == p
  let fresh (f : Option (Addr × AccKind × Option Nat)) : Bool := match f with | some (_, _, none) => true | _ => false
  let cmd := s.cmds.find? fun e => mine e.2.tid && fresh e.2.fault
  let mcmd := s.mcmds.find? fun e => mine e.2.tid && (match e.2.fault with | some (_, none) => true | _ => false)
  let sq := s.seqrs.find? fun e => mine e.2.tid && e.2.fault == some 0
  match (s.waitingStalls p).head?, cmd, mcmd, sq, (s.part p).sqFault with
  | some (cid, x), _, _, _, _ => s.appendStall p cid x
  | none, some (n, k), _, _, _ =>
    match k.fault with
    | some (va, kind, _) =>
      let (i, s) := s.ringAppend p (s.ringEntry k.tid k.gid va (accCode kind) k.addr)
      s.modCmd n fun x => { x with fault := some (va, kind, some i) }
    | none => s
  | none, none, some (n, k), _, _ =>
    match k.fault with
    | some (va, _) =>
      let (i, s) := s.ringAppend p (s.ringEntry k.tid (gidOf k.tid 0) va 1 k.addr)
      { s with mcmds := smod s.mcmds n fun x => { x with fault := some (va, some i) } }
    | none => s
  | none, none, none, some (q, x), _ =>
    let va := s.fetchStop (s.ctx (s.team x.tid).ctx).root x.pc.toNat 16
    let (i, s) := s.ringAppend p (s.ringEntry (s.leadTeam q) (gidOf (s.leadTeam q) 0) (BitVec.ofNat 56 va) 2 x.pc)
    s.modSeqr q fun x => { x with fault := some (i + 1) }
  | none, none, none, none, some (va, none) =>
    let e : RingEntry :=
      { va := va, launch := 0, kind := s.kindAt (s.sqCtx p) va 3, gslot := 0, cid := 0, ctx := s.sqCtx p, ipc := 0, since := s.clock, answered := false }
    let (i, s) := s.ringAppend p e
    s.modPart p fun x => { x with sqFault := some (va, some i) }
  | _, _, _, _, _ => s

end State

/-- SERVICE_REQUEST_APPEND: the next request of a partition goes into its ring, once there is room (R344, R346). -/
def execServiceRequestAppend (part : Nat) (s : State) : Host.Outcome State Fault Refusal :=
  .next (if s.ringFree part then s.appendNext part else s)

/-! ### Restart and answers (R344, R345, R346) -/

namespace State

/-- A gang whose stall has ended takes the action of its answer (R346). -/
def afterStall (s : State) (x : Stall) : State :=
  let s := s.modGroup x.gid fun g => { g with faults := g.faults - 1 }
  if x.retry == some true then s.restart x.gid x.slices
  else
    s.takeTrap x.gid { code := 11, reason := 3, info := 0, addr := x.va.zeroExtend 64, fpc := x.ipc, aux := [] }

/-- The stall of a core ends: its cycles are charged and counted, every group runs on, and each faulting gang takes
its answer (R344). -/
def endStall (s : State) (cid : Nat) : State :=
  let k := s.core cid
  let n := s.clock - k.stallFrom.getD s.clock
  let c := ((k.stalls.head?.map fun x => (s.team (tidOf x.gid)).ctx).or k.lastCtx).getD 0
  let s := s.modCtx c fun x => { x with used := x.used + BitVec.ofNat 64 n, stallCycles := x.stallCycles + n }
  let s := s.modCore cid fun k => { k with stalls := [], stallFrom := none }
  let s := (s.groupsOn cid).foldl (fun s g => s.startCycles g) s
  k.stalls.foldl (fun s x => s.afterStall x) s

/-- Stalls answered at a ring index of a partition; the stall of a core ends once every request of it is answered. -/
def answerCores (s : State) (p idx : Nat) (retry : Bool) : State :=
  let hit (x : Stall) : Bool := x.entry == some idx && x.retry.isNone && (s.team (tidOf x.gid)).part == p
  (skeysWhere s.cores fun k => k.stalls.any hit).foldl (fun t cid =>
    let t := t.modCore cid fun k => { k with stalls := k.stalls.map fun x => if hit x then { x with retry := some retry } else x }
    if (t.core cid).stalls.all fun x => x.retry.isSome then t.endStall cid else t) s

/-- Commands, drains and sequencers answered at a ring index: they go on, or stop with reason 8 or 10, a table load's slot
then invalid, and the time of the service is charged (R250, R262, R298). (DESIGN CHOICE, log entry 87) -/
def answerEngines (s : State) (p idx : Nat) (retry : Bool) : State :=
  let mine (tid : Nat) : Bool := (s.team tid).part == p
  let cs := s.cmds.filter fun e => mine e.2.tid && (match e.2.fault with | some (_, _, some i) => i == idx | _ => false)
  let ms := s.mcmds.filter fun e => mine e.2.tid && (match e.2.fault with | some (_, some i) => i == idx | _ => false)
  let qs := s.seqrs.filter fun e => mine e.2.tid && e.2.fault == some (idx + 1)
  let s :=
    match sget (s.part p).ring idx with
    | some e =>
      if cs.isEmpty && ms.isEmpty && qs.isEmpty then s
      else
        let n := s.clock - e.since
        s.modCtx e.ctx fun x => { x with used := x.used + BitVec.ofNat 64 n }
    | none => s
  let s := cs.foldl (fun s e =>
    let s := s.modCmd e.1 fun x => { x with fault := none }
    if retry then s
    else if e.2.kind == .copyx then s.collStop e.1 e.2 8
    else if e.2.kind == .dtload then (s.stopCmd e.1 e.2 8 []).loadSlot e.2 none
    else s.stopCmd e.1 e.2 8 []) s
  let s := ms.foldl (fun s e =>
    let s := { s with mcmds := smod s.mcmds e.1 fun x => { x with fault := none } }
    if retry then s else s.stopM e.1 e.2 10) s
  qs.foldl (fun s e =>
    let s := s.modSeqr e.1 fun x => { x with fault := none }
    if retry then s else s.seqFault e.1 10 e.2.pc none) s

/-- FAULT.HEAD as it stood when the entry at a ring index was appended. -/
def ringSeq (s : State) (p idx : Nat) : Nat := (s.part p).head - 1 - ((s.part p).head - 1 + 64 - idx % 64) % 64

/-- Answer an entry of a partition's ring: 0 RETRY, 1 TRAP, 2 KILL; anything else, a second answer and an answer to a
notice are ignored (R346). (DEDUCED, log entry 36) -/
def faultAct (s : State) (p idx action : Nat) : State :=
  match sget (s.part p).ring idx with
  | none => s
  | some e =>
    if e.answered || 3 ≤ action then s
    else
      let s := s.modPart p fun x => { x with ring := sput x.ring idx { e with answered := true } }
      if action = 2 then
        s.requestKill e.ctx
          { kind := 7, launch := e.launch, reason := 0, gslot := e.gslot, cid := e.cid, body := ringBytes e (s.ringSeq p idx) }
      else
        let retry := action = 0
        let s := (s.answerEngines p idx retry).modPart p fun x =>
          match x.sqFault with
          | some (_, some i) => if i = idx then { x with sqFault := none, sqRefused := !retry } else x
          | _ => x
        s.answerCores p idx retry

end State

/-- FAULT_ACT_RETRY: the answer RETRY to an entry (R344 to R346). -/
def execFaultActRetry (part idx : Nat) (s : State) : Host.Outcome State Fault Refusal := .next (s.faultAct part idx 0).settle

/-- FAULT_ACT_TRAP: the answer TRAP to an entry (R346). -/
def execFaultActTrap (part idx : Nat) (s : State) : Host.Outcome State Fault Refusal := .next (s.faultAct part idx 1).settle

/-- FAULT_ACT_KILL: the answer KILL to an entry (R346). -/
def execFaultActKill (part idx : Nat) (s : State) : Host.Outcome State Fault Refusal := .next (s.faultAct part idx 2).settle

/-! ### Timers (R350) -/

/-- GROUP_TIMER_EXPIRY: the timer raises TIMER and disarms itself; on a system core it raises no trap (R350, R358). -/
def execGroupTimerExpiry (gid : Nat) (s : State) : Host.Outcome State Fault Refusal :=
  match (s.group gid).timer with
  | some n =>
    if n ≤ s.cycles gid && !s.groupDone gid then
      let sys := isSys (s.team (tidOf gid)).core
      .next (s.modGroup gid fun g =>
        { g with timer := none
                 asyncs := if sys then g.asyncs else g.asyncs ++ [{ code := 19, reason := 0, info := 0, addr := 0, fpc := 0, aux := [] }] })
    else .next s
  | none => .next s

/-! ### Kills (R47, R351, R352) -/

/-- The 64-byte head of a fault record (R351). (DEDUCED, log entry 35) -/
def recordHead (c clock : Nat) (k : Kill) : List Byte :=
  let (cx, cy) := State.corePos k.cid
  bytesOf
    [BitVec.ofNat 64 (k.launch % 2 ^ 32 * 2 ^ 32 + c % 4096 * 2 ^ 8 + k.kind), BitVec.ofNat 64 clock,
      BitVec.ofNat 64 (k.reason % 256 * 2 ^ 16 + k.gslot % 32 * 2 ^ 11 + cy * 2 ^ 6 + cx), 0, 0, 0, 0, 0]

namespace State

/-- Write the fault record of a kill (R351). -/
def writeRecord (s : State) (c : Nat) (k : Kill) : State :=
  let a := ((s.ctx c).faultrec.extractLsb' 0 56).toNat
  if a = 0 then s else (s.deviceWriteVa c c a (recordHead c s.now k ++ k.body)).2

/-- Append the kill notice, and tell the host function of the partition (R346, R351, R380).
(DEDUCED, log entry 35) -/
def killNotice (s : State) (c : Nat) (k : Kill) : State :=
  let p := (s.ctx c).part
  let e : RingEntry :=
    { va := 0, launch := k.launch, kind := 5, gslot := k.gslot, cid := k.cid, ctx := c, ipc := 0, since := s.clock, answered := true }
  ((s.ringAppend p e).2).emit (.irq (p + 1) 3)

/-- Teams of a context, on compute cores and suspended ones. -/
def ctxTeams (s : State) (c : Nat) : List Nat :=
  skeysWhere s.teams fun t => t.ctx == c && !isSys t.core && t.st != .done && t.st != .killed

/-- Contributions of this device leave the reduction slots of a context (R352). -/
def dropContributions (s : State) (c : Nat) : State :=
  { s with rslots := s.rslots.map fun (e : Nat × RSlot) =>
      if e.2.key.2.2 = c then (e.1, { e.2 with got := e.2.got.filter fun x => x.dev != s.dev.coords }) else e }

/-- Every service request of a context counts as answered. -/
def dropRequests (s : State) (c : Nat) : State :=
  { s with parts := s.parts.map fun (e : Nat × Part) =>
      (e.1, { e.2 with ring := e.2.ring.map fun (r : Nat × RingEntry) => if r.2.ctx = c then (r.1, { r.2 with answered := true }) else r }) }

/-- Cores a context stalls, and cores whose updates it froze, are let go. -/
def dropStalls (s : State) (c : Nat) : State :=
  let cids := (s.cores.filter fun e => e.2.stalls.any fun x => (s.team (tidOf x.gid)).ctx == c).map Prod.fst
  let s := cids.foldl (fun s cid =>
    let k := s.core cid
    let n := s.clock - k.stallFrom.getD s.clock
    let s := s.modCtx c fun x => { x with used := x.used + BitVec.ofNat 64 n, stallCycles := x.stallCycles + n }
    s.modCore cid fun k => { k with stalls := [], stallFrom := none }) s
  { s with cores := s.cores.map fun (e : Nat × Core) => if e.2.frozen == some c then (e.1, { e.2 with frozen := none }) else e }

/-- The queues lose a context's launches, task blocks and clusters; a dispatched launch keeps its plane region until
the kill completes (R47, R352). -/
def purgeQueues (s : State) (c : Nat) : State :=
  let ls := skeysWhere s.launches fun l => l.ctx == c && l.st != .complete
  { s with
    clusters := s.clusters.filter fun e => !ls.contains e.2.launch
    launches := (s.launches.filter fun e => !(ls.contains e.1 && e.2.st == .queued)).map fun (e : Nat × Launch) =>
      if ls.contains e.1 then (e.1, { e.2 with st := .killed }) else e }

/-- System cores whose own context this is stop; what their teams have not published, under way or not, is lost (R190,
R352). -/
def stopSystem (s : State) (c : Nat) : State :=
  (skeysWhere s.teams fun t => t.ctx == c && isSys t.core && t.st == .running).foldl (fun s t =>
    let s := (s.modCore (s.team t).core fun k => { k with held := true, pipe0 := none, pipe1 := none }).purgeTeam t
    let gone (p : Packet) : Bool :=
      p.tid == t && p.src == .core (s.team t).core && match p.load with | .commit _ => false | _ => true
    let s := { s with packets := s.packets.filter fun e => !gone e.2 }
    let s := (s.teamGroups t).foldl (fun s g => s.modGroup g fun x => { x with tx := none, ops := [], pre := [] }) s
    s.modTeam t fun x => { x with pending := [], overlay := [] }) s

/-- The record of a kill is committed: no commit of the device in the context is on its way (R351). -/
def recordDone (s : State) (c : Nat) : Bool :=
  (svals s.packets).all fun p => !(p.src == .io 0 && p.ctx == c && match p.load with | .commit _ => true | _ => false)

end State

/-- CONTEXT_KILL: the record, the notice, and the end of everything the context runs (R351, R352).
(DEDUCED, log entry 35) -/
def execContextKill (ctx : Nat) (s : State) : Host.Outcome State Fault Refusal :=
  match (s.ctx ctx).killing with
  | some k =>
    if (s.ctx ctx).killed then .next s
    else
      let s := s.dropRequests ctx
      if !s.ringFree (s.ctx ctx).part then .next s
      else
        let s := ((s.writeRecord ctx k).killNotice ctx k).dropStalls ctx
        let s := ((s.ctxTeams ctx).foldl (fun s t => s.killTeam t) s).stopSystem ctx
        let s := (s.purgeQueues ctx).dropContributions ctx
        .next (s.modCtx ctx fun x => { x with killed := true, slots := [] }).settle
  | none => .next s

/-- KILL_COMPLETE: every core the context held is free; the plane regions of its grids are released, and, of a partition
that has been destroyed, the context's tables go (R243, R352, R373).
(DEDUCED, log entry 35) -/
def execKillComplete (ctx : Nat) (s : State) : Host.Outcome State Fault Refusal :=
  if (s.ctx ctx).killing.isSome && (s.ctx ctx).killed && (s.ctxTeams ctx).isEmpty && s.recordDone ctx then
    let s := { s with launches := s.launches.map fun (e : Nat × Launch) =>
        if e.2.ctx == ctx && e.2.st == LaunchSt.killed then (e.1, { e.2 with st := .complete }) else e }
    .next (if (s.part (s.ctx ctx).part).live || !(s.parts.any fun p => p.1 == (s.ctx ctx).part) then s.modCtx ctx fun x => { x with killing := none }
      else { s with ctxs := sdel s.ctxs ctx }).settle
  else .next s

end Sys2Proof.Machine
end

