-- ==== Sys2Proof/Machine/Place.lean ====
section
/-! DEFINITION. Dispatch, placement and vacation of clusters, and what a save slot holds (R36, R42, R44, R45, R61,
R184, R243, R274, R301, R353 to R356). -/

namespace Sys2Proof.Machine

namespace State

/-! ### Resources of a core (R36) -/

/-- A launch's plane region stands on the cores of its rectangle (R42, R243). -/
def holdsRegion (l : Launch) : Bool :=
  l.region.2 != 0 && (l.st == .reserving || l.st == .dispatching || l.st == .running || l.st == .killed)

/-- Plane regions that stand on a core: first byte and bytes, of launches that `p` takes. -/
def regionsOn (s : State) (cid : Nat) (p : Nat → Launch → Bool) : List (Nat × Nat) :=
  (s.launches.filter fun e => p e.1 e.2 && holdsRegion e.2 && posIn (corePos cid) e.2.rect).map fun e => e.2.region

/-- Scratchpad that a team holds on its core: its allocation, and the twin bank after the second twin's (R301). -/
def teamRange (s : State) (tid : Nat) : Nat × Nat :=
  let t := s.team tid
  (t.scrBase, t.scrSize + if t.twin = 1 && t.pair.isSome then 16384 else 0)

/-- The lowest 32-byte-aligned base at which `n` bytes are free outside the supervisor area.
(DESIGN CHOICE, log entry 39) -/
def freeBase (s : State) (cid n : Nat) : Option Nat :=
  let used := ((s.teamsOn cid).map s.teamRange ++ s.regionsOn cid fun _ _ => true).filter fun r => r.2 != 0
  if n = 0 then some 0
  else
    let ok (b : Nat) : Bool := b + n ≤ Config.supervisorBase && used.all fun r => !overlaps b n r.1 r.2
    ((0 :: used.map fun r => r.1 + r.2).filter ok).foldl (fun best b =>
      match best with
      | some x => if b < x then some b else some x
      | none => some b) none

/-- Groups on a core, its register entries and its sequencer contexts in use. -/
def groupsUsed (s : State) (cid : Nat) : Nat := (s.teamsOn cid).foldl (fun a t => a + (s.team t).groups) 0
/-- Register-file entries in use. -/
def regsUsed (s : State) (cid : Nat) : Nat :=
  (s.teamsOn cid).foldl (fun a t => a + (s.team t).groups * 32 * (s.launchOf t).vregs) 0
/-- Sequencer contexts in use; a pair shares one. -/
def seqsUsed (s : State) (cid : Nat) : Nat := ((s.teamsOn cid).filterMap fun t => (s.team t).seqr).eraseDups.length

/-- Teams of a cluster at one position that are suspended. (DESIGN CHOICE, log entry 37) -/
def savedAt (s : State) (cl x y : Nat) : List Nat :=
  (s.cluster cl).teams.filter fun t => (s.team t).st == .suspended && (s.team t).tx = x && (s.team t).ty = y

/-- Frame slots and accumulator tiles that suspended teams bring back. -/
def framesOf (s : State) (ts : List Nat) : Nat :=
  ts.foldl (fun a t => a + (((s.team t).saved.map fun v => v.frames.length).getD 0)) 0
/-- Accumulator tiles. -/
def accsOf (s : State) (ts : List Nat) : Nat := ts.foldl (fun a t => a + (((s.team t).saved.map fun v => v.accs.length).getD 0)) 0

/-- A cluster that is being vacated keeps the core until its save slots are written (R353). -/
def emptying (s : State) (cid : Nat) : Bool :=
  (svals s.clusters).any fun c => c.st == .placed && c.vacating.isSome && c.teams.any fun t =>
    (s.team t).st == .suspended && (s.team t).core == cid

/-- The core takes clusters: it is there, in service, and not being reloaded or about to be tested (R19, R59, R353, R358,
R365). -/
def coreOpen (s : State) (cid : Nat) : Bool :=
  let k := s.core cid
  let moving (r : Rebuild) : Bool :=
    !isSys cid && r.row = cid / 64 && r.table.getD (cid % 64) none != (rowTable s r.row).getD (cid % 64) none
  !k.fenced && !k.parked && !k.held && !k.testing && k.reload.isNone && !s.emptying cid && s.dev.testLeft.head? != some cid
    && !s.dev.rebuilds.any moving

/-- A core has what one position of a cluster needs (R36, R37, R44); for a suspended cluster also the frame slots and the
accumulator tiles that its teams bring back, which R44 does not list (DESIGN CHOICE, log entry 73). -/
def coreFits (s : State) (cid cl x y : Nat) : Bool :=
  let c := s.cluster cl
  let l := s.launch c.launch
  let back := s.savedAt cl x y
  let on := s.teamsOn cid
  s.coreOpen cid && on.all (fun t => (s.team t).ctx == l.ctx) && on.length + l.twins ≤ 32
    && s.groupsUsed cid + l.twins * l.groups ≤ 32 && s.regsUsed cid + l.regNeed ≤ 65536
    && (!l.mseq || s.seqsUsed cid < 2) && (s.freeBase cid l.scrNeed).isSome
    && (c.st != .suspended || !l.mseq || on.isEmpty)
    && s.framesOf back ≤ ((s.core cid).frames.filter Option.isNone).length
    && s.accsOf back ≤ 64 - (on.flatMap fun t => svals (s.team t).acc).length

/-- A core that last held another context must be reloaded first (R61). -/
def needsReload (s : State) (cid c : Nat) : Bool := (s.core cid).lastCtx.any fun x => x != c

/-- The offsets of a cluster's positions. -/
def spots (l : Launch) : List (Nat × Nat) := rectCells (0, 0, l.cw, l.ch)

/-- What of a launch rectangle lies in a cluster's park and partition. -/
def areaOf (s : State) (cl : Nat) : Nat × Nat × Nat × Nat :=
  let c := s.cluster cl
  Rect.inter (Rect.inter (parkRect c.park) (s.launch c.launch).rect) (s.part c.part).rect

/-- A cluster can be placed with its origin at a position (R44). -/
def fitsAt (s : State) (cl : Nat) (o : Nat × Nat) : Bool :=
  let l := s.launch (s.cluster cl).launch
  let area := s.areaOf cl
  area.1 ≤ o.1 && area.2.1 ≤ o.2 && o.1 + l.cw ≤ area.1 + area.2.2.1 && o.2 + l.ch ≤ area.2.1 + area.2.2.2
    && (spots l).all fun d => s.coreFits (cidOf (o.1 + d.1) (o.2 + d.2)) cl d.1 d.2

/-- The lowest origin at which a cluster can be placed in its park (R44). -/
def originFor (s : State) (cl : Nat) : Option (Nat × Nat) := (rectCells (s.areaOf cl)).find? (s.fitsAt cl)

/-! ### Queues of a park (R44, R45) -/

/-- Insert a key by rising rank. -/
def insertRank (rank : Nat → List Nat) (x : Nat) : List Nat → List Nat
  | [] => [x]
  | y :: l => if lexLt (rank x) (rank y) then x :: y :: l else y :: insertRank rank x l

/-- Keys by rising rank; equal ranks keep their order. (DESIGN CHOICE, log entry 39) -/
def byRank (rank : Nat → List Nat) (l : List Nat) : List Nat := l.foldl (fun m x => insertRank rank x m) []

/-- Clusters of a park in a state. -/
def inPark (s : State) (p park : Nat) (st : ClusterSt) : List Nat :=
  skeysWhere s.clusters fun c => c.part == p && c.park == park && c.st == st

/-- The suspended queue of a park: by priority, then by suspension. -/
def suspendedQ (s : State) (p park : Nat) : List Nat :=
  byRank (fun c => [3 - (s.launch (s.cluster c).launch).prio, (s.cluster c).suspended, c]) (s.inPark p park .suspended)

/-- The unstarted queue of a park: by priority, then by arrival. -/
def unstartedQ (s : State) (p park : Nat) : List Nat :=
  byRank (fun c => [3 - (s.launch (s.cluster c).launch).prio, (s.cluster c).arrived, c]) (s.inPark p park .unstarted)

/-- The cluster a park places next: suspended ones first (R45). (DESIGN CHOICE, log entry 39) -/
def nextPlace (s : State) (p park : Nat) : Option (Nat × Nat × Nat) :=
  (s.suspendedQ p park ++ s.unstartedQ p park).findSome? fun c => (s.originFor c).map fun o => (c, o.1, o.2)

/-! ### Starting a team (R27, R85, R184) -/

/-- The lowest group slots of a core that no other team than `tid` uses. (DESIGN CHOICE, log entry 39) -/
def freeGroupSlots (s : State) (cid tid : Nat) : List Nat :=
  let used := ((s.groupsOn cid).filter fun g => tidOf g != tid).map fun g => (s.group g).slot
  (List.range 32).filter fun n => !used.contains n

/-- A twin bank number of a core that no team of it uses (R301). (DESIGN CHOICE, log entry 39) -/
def freeBank (s : State) (cid : Nat) : Nat :=
  if (s.teamsOn cid).any fun t => (s.team t).bank = 4096 + 2 * cid then 4096 + 2 * cid + 1 else 4096 + 2 * cid

/-- The tiles of a twin bank take the bytes of the scratchpad block it lies in; its outlier lists are empty.
(DEDUCED, log entry 8) -/
def loadBank (s : State) (cid base bank : Nat) : State :=
  let bs := s.scrBytes cid base 16384
  { s with tiles := mwrites s.tiles (bank * 16 * 2048) bs, tileLists := s.tileLists.filter fun e => e.1 / 16 != bank }

/-- S(T) at a team's start (R184). -/
def startSnap (s : State) (l : Launch) : Nat :=
  match l.policy 0 2 with
  | 0 => s.hDev
  | 1 => l.snapDispatch
  | _ => l.snapIssuer

/-- A group's running-cycle count begins on its core, unless the core is stalled (R350). -/
def beginCycles (s : State) (cid gid : Nat) : State :=
  if (s.core cid).stalls.isEmpty then s.startCycles gid else s.stopCycles gid

/-- A context is charged for work of the device whose cycles the manual does not state: a free number (DESIGN CHOICE, log
entry 75). -/
def chargeFree (s : State) (c : Nat) : State :=
  let (w, s) := s.freeWord
  s.modCtx c fun x => { x with used := x.used + w.zeroExtend 64 }

/-- Groups and slices of a team at its start (R27). (DEDUCED, log entry 8) -/
def startGroups (s : State) (tid : Nat) (entry : Addr) : State :=
  let t := s.team tid
  let free := s.freeGroupSlots t.core tid
  (List.range t.groups).foldl (fun s g =>
    let gid := gidOf tid g
    let s := { s with groups := sput s.groups gid (Group.start (free.getD g 0) .l0 s.clock) }
    let s := s.beginCycles t.core gid
    (List.range 8).foldl (fun s i => s.modSlice gid i fun _ => Slice.start entry) s) s

/-- A core holds a context; its instruction cache is invalidated at a team's start (R85). -/
def occupy (s : State) (cid c : Nat) (fresh : Bool) : State :=
  s.modCore cid fun k => { k with lastCtx := some c, icache := if fresh then [] else k.icache }

/-- Start one team of a cluster: `twin` its TWIN.ID, `pair` the other twin, `seqr` its sequencer context.
(DEDUCED, log entry 8; DESIGN CHOICE, log entry 39) -/
def startTeam (s : State) (cl cid x y twin base : Nat) (pair seqr : Option Nat) : State :=
  let c := s.cluster cl
  let l := s.launch c.launch
  let tid := s.names.team
  let bank := if twin = 1 then s.freeBank cid else cid
  let t : Team :=
    { Team.absent with
      st := .running, core := cid, launch := c.launch, cluster := cl, ctx := l.ctx, part := l.part, tx := x, ty := y
      twin := twin, pair := pair, groups := l.groups, scrBase := base + twin * l.scr, scrSize := l.scr, bank := bank
      snap := s.startSnap l, born := c.first, seqr := seqr }
  let s := if twin = 1 then s.loadBank cid (base + 2 * l.scr) bank else s
  let s := { s with names := { s.names with team := tid + 1 }, teams := sput s.teams tid t }
  let s := (s.startGroups tid ((l.dw 0).extractLsb' 0 56)).occupy cid l.ctx true
  s.modCluster cl fun c => { c with teams := c.teams ++ [tid] }

/-- Start the team, or the twin pair, at one position of a cluster (R300, R302). -/
def startAt (s : State) (cl cid x y : Nat) : State :=
  let l := s.launch (s.cluster cl).launch
  let base := (s.freeBase cid l.scrNeed).getD 0
  let tid := s.names.team
  let q := s.names.seqr
  let s :=
    if l.mseq then { s with names := { s.names with seqr := q + 1 }, seqrs := sput s.seqrs q (Seqr.idleFor tid) } else s
  let seqr := if l.mseq then some q else none
  if l.twin then
    (s.startTeam cl cid x y 0 base (some (tid + 1)) seqr).startTeam cl cid x y 1 base (some tid) seqr
  else s.startTeam cl cid x y 0 base none seqr

/-! ### Coming back (R274, R354 to R356) -/

/-- A byte of the old core's scratchpad space within a moved allocation. -/
def movedOff (t : Team) (base off : Nat) : Nat :=
  if t.scrBase ≤ off && off < t.scrBase + t.scrSize then off - t.scrBase + base else off

/-- The groups of a team on its new core: group slots, frame slots, registrations and waits (R355). -/
def restoreGroups (s : State) (tid : Nat) (old : Team) (v : Saved) : State :=
  let t := s.team tid
  let free := s.freeGroupSlots t.core tid
  let slots := (List.range 6).filter fun i => ((s.core t.core).frames.getD i (some 0)).isNone
  let s := (List.range t.groups).foldl (fun s g =>
    let gid := gidOf tid g
    let s := s.modGroup gid fun x =>
      { x with slot := free.getD g 0, regs := x.regs.map fun e => { e with off := movedOff old t.scrBase e.off } }
    let s := s.modSlices gid (List.range 8) fun x => { x with waitObj := x.waitObj.map (movedOff old t.scrBase) }
    s.beginCycles t.core gid) s
  (v.frames.zip slots).foldl (fun s p =>
    let s := s.scrWrite t.core (frameAt p.2) p.1.2
    let s := s.modCore t.core fun k => { k with frames := k.frames.set p.2 (some p.1.1) }
    s.modGroup p.1.1 fun g => { g with frame := some p.2 }) s

/-- Accumulator tiles of a team on its new core, with their side values. -/
def restoreAcc (s : State) (tid : Nat) (v : Saved) : State :=
  let t := s.team tid
  (v.accs.zip (s.accFree t.core)).foldl (fun s p =>
    let (a, phys) := p
    let s := { s with
      acc := (List.range 1024).foldl (fun m i => sputD 0 m (accKey t.core phys + i) (a.elems.getD i 0)) s.acc
      side := (List.range 32).foldl (fun m r => sput m (sideKey t.core phys + r) (a.side.getD r (0xFF800000, 0))) s.side }
    s.modTeam tid fun t => { t with acc := sput t.acc a.tile phys }) s

/-- Sixteen tiles of a bank and their outlier lists. -/
def writeBank (s : State) (bank : Nat) (bs : List Byte) (lists : List (List DWord)) : State :=
  { s with
    tiles := mwrites s.tiles (bank * 16 * 2048) bs
    tileLists := (List.range lists.length).foldl (fun m i => sputD [] m (bank * 16 + i) (lists.getD i [])) s.tileLists }

/-- The commands a suspended team comes back with: a scroll takes its acquire again and is handed to its engine anew, and what
has ended meanwhile ends now (R256, R267, R362). -/
def resumeCmds (s : State) (tid : Nat) : State :=
  let mine := s.cmds.filter fun e => e.2.tid == tid
  let s := mine.foldl (fun s e =>
    if e.2.kind == .scroll then
      let s := s.capture tid (dfld (e.2.src.getD 2 0) 20 1 = 1) (scrScope (e.2.src.getD 2 0))
      let n := (s.team tid).snap
      let now := s.clock
      s.modCmd e.1 fun x => { x with snap := n, born := now }
    else s) s
  { s with agenda := (mine.filter fun e => s.cmdEnds e.1 e.2).map (fun e => .engineCommandEnd e.1) ++ s.agenda }

/-- Restore one suspended team on a core; the cycles of the first step are charged to the context (R356). `alone` is
that the core held no team.
(DESIGN CHOICE, log entry 37; DEDUCED, log entry 38) -/
def restoreTeam (s : State) (tid cid base : Nat) (alone : Bool) : State :=
  let old := s.team tid
  match old.saved with
  | none => s
  | some v =>
    let now := (s.ctx old.ctx)
    let at_ := (now.savebase.extractLsb' 0 56).toNat + v.slot * 2 ^ 21
    let seen := (List.range (v.check.getD []).length).map fun i => ((s.translateDev old.ctx (at_ + i)).map s.newest).getD 0
    let s := (s.chargeFree old.ctx).modCtx old.ctx fun x => { x with slots := x.slots.filter fun k => k != v.slot }
    if v.check != some seen then
      s.requestKill old.ctx
        { kind := 8, launch := (s.launch old.launch).ident, reason := 0, gslot := 0, cid := cid, body := leBytes 8 v.slot }
    else
      let l := s.launch old.launch
      let newBase := base + old.twin * l.scr
      let bank := if old.twin = 1 then s.freeBank cid else cid
      let s := if alone || l.mseq then s.writeBank cid v.file v.lists else s
      let s := if v.bank.isEmpty then s else s.writeBank (s.freeBank cid) v.bank v.bankLists
      let s := s.modTeam tid fun t =>
        { t with st := .running, core := cid, scrBase := newBase, bank := bank, saved := none, acc := [] }
      let s := (s.scrWrite cid newBase v.scratch).occupy cid old.ctx false
      let s := (s.restoreGroups tid old v).restoreAcc tid v
      let s := s.modCore cid fun k =>
        { k with triggers := k.triggers ++ v.triggers.map fun t => { t with off := movedOff old newBase t.off } }
      s.resumeCmds tid

/-- Restore the teams of a cluster at one position, and let the blocked and the launches that depend on it look again (R41, R231,
R274, R356). -/
def restoreAt (s : State) (cl cid x y : Nat) : State :=
  let l := s.launch (s.cluster cl).launch
  let base := (s.freeBase cid l.scrNeed).getD 0
  let alone := (s.teamsOn cid).isEmpty
  let ts := s.savedAt cl x y
  let s := ts.foldl (fun s t => s.restoreTeam t cid base alone) s
  let objs := (ts.flatMap fun t => (s.teamGroups t).flatMap fun g => (List.range 8).filterMap fun i => (s.slice g i).waitObj).eraseDups
  ((objs.foldl (fun s o => s.wakeWaits cid o) s).wakeSeqrs cid).readyLaunches cid

/-- Place a cluster with its origin at a position: all its teams at once (R44). (DESIGN CHOICE, log entry 39) -/
def placeAt (s : State) (cl x0 y0 : Nat) : State :=
  let c := s.cluster cl
  let l := s.launch c.launch
  let now := s.clock
  let back := c.st == .suspended
  let s := s.modCluster cl fun c =>
    { c with x0 := x0, y0 := y0, placed := now, first := if back then c.first else now, slots := [] }
  let s := (spots l).foldl (fun s d =>
    let cid := cidOf (x0 + d.1) (y0 + d.2)
    if back then s.restoreAt cl cid d.1 d.2 else s.startAt cl cid d.1 d.2) s
  s.modCluster cl fun c => { c with st := .placed }

end State

/-- CLUSTER_PLACE: a park scheduler places the next cluster that can be placed (R44, R45). -/
def execClusterPlace (part park : Nat) (s : State) : Host.Outcome State Fault Refusal :=
  match s.nextPlace part park with
  | some (cl, x, y) =>
    let l := s.launch (s.cluster cl).launch
    let stale := (State.spots l).any fun d => s.needsReload (cidOf (x + d.1) (y + d.2)) l.ctx
    if stale || !s.dev.parksReady.contains park || s.dev.st != .service then .next s else .next (s.placeAt cl x y).settle
  | none => .next s

/-! ### Reloads (R58 to R61) -/

namespace State

/-- A core's queues are empty: no packet of it waits in the settle buffer (R58, R61). -/
def queuesEmpty (s : State) (cid : Nat) : Bool :=
  (s.teamsOn cid).isEmpty && !s.emptying cid && (svals s.packets).all fun p => !(p.held && p.src == .core cid)

/-- Both table slots of a core become invalid (R61, R262). -/
def dropTables (s : State) (cid : Nat) : State :=
  let invalid (t : TSlot) : TSlot := { t with loaded := t.gen, table := none }
  s.modCore cid fun k => { k with tslot0 := invalid k.tslot0, tslot1 := invalid k.tslot1 }

/-- A core is cleared for a context: its scratchpad but for the plane regions on it, its tile registers, its table slots
and its caches (R61). (DEDUCED, log entry 8) -/
def clearCore (s : State) (cid c : Nat) : State :=
  let keep := s.regionsOn cid fun _ _ => true
  let s := { s with
    scratch := s.scratch.filter fun e =>
      !(e.1 / 2 ^ 19 == cid && !(keep.any fun r => r.1 ≤ e.1 % 2 ^ 19 && e.1 % 2 ^ 19 < r.1 + r.2))
    tiles := s.tiles.filter fun e => e.1 / 2048 / 16 != cid
    tileLists := s.tileLists.filter fun e => e.1 / 16 != cid }
  (s.dropTables cid).modCore cid fun k =>
    { k with icache := [], tlb := k.tlb.filter (fun t => t.ctx == c), lastCtx := some c, clearing := none }

end State

/-- PARK_CORE_RELOAD: a park scheduler clears a core for the cluster it places next, once the core's queues have drained;
the wait and the clearing are charged to the incoming context (R61). (DEDUCED, log entry 40) -/
def execParkCoreReload (part park cid : Nat) (s : State) : Host.Outcome State Fault Refusal :=
  match s.nextPlace part park with
  | some (cl, x, y) =>
    let l := s.launch (s.cluster cl).launch
    let here := (State.spots l).any fun d => cidOf (x + d.1) (y + d.2) = cid
    let since := (((s.core cid).clearing.filter fun r => r.1 == l.ctx).map Prod.snd).getD s.clock
    if !here || !s.needsReload cid l.ctx then .next s
    else if s.queuesEmpty cid then
      let n := s.clock - since
      .next (((s.clearCore cid l.ctx).chargeFree l.ctx).modCtx l.ctx fun c => { c with used := c.used + BitVec.ofNat 64 n })
    else .next (s.modCore cid fun k => { k with clearing := some (l.ctx, since) })
  | none => .next s

/-- The packet that brings these bytes to an offset of a core for a context, next of its stream (R322). -/
def State.ctrlPacket (s : State) (cid ctx off : Nat) (data : List Byte) : Option Nat :=
  (s.packets.find? fun e => (s.deliverable e.1).any fun p =>
    p.load == .ctrl ctx off && p.dst == .core cid && p.bytes == data).map Prod.fst

/-- CTRL: what a system core writes of an incoming context's state reaches a core that holds no team; the first such write
begins the reload and clears the core, as R61 does, of what it held (R27), and one for another context, or to a core in use, has
no effect (R58, R320). Offsets from 0 name the core's scratchpad space. (DEDUCED, log entry 40) -/
def execCtrl (cid ctx off : Nat) (data : List Byte) (s : State) : Host.Outcome State Fault Refusal :=
  match s.ctrlPacket cid ctx off data with
  | some pkt =>
    deliver s pkt 15 noWait fun p s =>
      let s := s.answer p .ack []
      let k := s.core cid
      if isSys cid || k.fenced || !s.queuesEmpty cid || k.reload.any fun r => r.1 != ctx then s
      else
        let now := s.clock
        let s := if k.reload.isNone then s.clearCore cid ctx else s
        let s := s.modCore cid fun k => { k with reload := k.reload.or (some (ctx, now)) }
        if off + p.bytes.length ≤ Config.scratchBytes then (s.scrWrite cid off p.bytes).readyLaunches cid else s
  | none => .next s

/-- CORE_RELOAD_RELEASE: the core is released to the incoming context, which is charged the reload's cycles (R58).
(DEDUCED, log entry 40) -/
def execCoreReloadRelease (cid : Nat) (s : State) : Host.Outcome State Fault Refusal :=
  match (s.core cid).reload with
  | some (c, from_) =>
    let n := s.clock - from_
    let s := (s.dropTables cid).modCore cid fun k => { k with reload := none, lastCtx := some c, icache := [] }
    .next (s.modCtx c fun x => { x with used := x.used + BitVec.ofNat 64 n })
  | none => .next s

/-! ### Dispatch (R42) -/

namespace State

/-- The launch a partition's unit dispatches: the one begun, else the ready one of highest priority, accepted
earliest (R42). -/
def nextLaunch (s : State) (p : Nat) : Option Nat :=
  let mine (l : Launch) : Bool := l.part == p
  match (skeysWhere s.launches fun l => mine l && (l.st == .reserving || l.st == .dispatching)).head? with
  | some k => some k
  | none =>
    (byRank (fun k => [3 - (s.launch k).prio, (s.launch k).order, k])
      (skeysWhere s.launches fun l => mine l && l.st == .queued && (l.ready || s.depReady l))).head?

/-- The plane region of a launch is free on every core of its rectangle (R42). -/
def regionFree (s : State) (k : Nat) : Bool :=
  let l := s.launch k
  l.region.2 = 0 || (rectCells l.rect).all fun p =>
    let cid := cidOf p.1 p.2
    (s.teamsOn cid).all (fun t => !overlaps (s.teamRange t).1 (s.teamRange t).2 l.region.1 l.region.2 || (s.teamRange t).2 = 0)
      && (s.regionsOn cid fun n x => n != k && x.st != .reserving).all fun r => !overlaps r.1 r.2 l.region.1 l.region.2

/-- The parks that may take a block of a launch: their part inside the launch rectangle holds a cluster (R42). -/
def parksFor (s : State) (l : Launch) : List Nat :=
  (List.range 128).filter fun k => Rect.holds (Rect.inter (Rect.inter (parkRect k) l.rect) (s.part l.part).rect) l.cw l.ch

/-- The next park in the rotation after the last one that received a block (R42). -/
def nextPark (s : State) (l : Launch) : Option Nat :=
  let ks := s.parksFor l
  let last := (s.part l.part).lastPark
  (ks.find? fun k => last.all fun x => x < k).or ks.head?

/-- Hand one block to a park. -/
def handBlock (s : State) (k park : Nat) : State :=
  let l := s.launch k
  let gx := dfld (l.dw 0x10) 0 16
  let gy := dfld (l.dw 0x10) 16 16
  let n := l.handed
  let c := s.names.cluster
  let o := s.names.order + 1
  let cl : Cluster :=
    { Cluster.absent with
      launch := k, cx := n % gx, cy := n / gx % gy, cz := n / (gx * gy), st := .unstarted, part := l.part, park := park
      arrived := o }
  let s := { s with names := { s.names with cluster := c + 1, order := o }, clusters := sput s.clusters c cl }
  let s := s.modPart l.part fun p => { p with lastPark := some park }
  s.modLaunch k fun l => { l with handed := n + 1, st := if n + 1 = l.blocks then .running else .dispatching }

end State

/-- LAUNCH_DISPATCH: the plane region is reserved and the dispatch snapshot read, then the blocks are handed out, one
a step (R42). -/
def execLaunchDispatch (part : Nat) (s : State) : Host.Outcome State Fault Refusal :=
  if s.dev.st != .service then .next s
  else
    match s.nextLaunch part with
    | none => .next s
    | some k =>
      match (s.launch k).st with
      | .dispatching =>
        match s.nextPark (s.launch k) with
        | some park => .next (if s.dev.parksReady.contains park then s.handBlock k park else s)
        | none => .next s
      | _ =>
        if s.regionFree k then
          let h := s.hDev
          .next (s.modLaunch k fun l => { l with st := .dispatching, snapDispatch := h })
        else .next (s.modLaunch k fun l => { l with st := .reserving })

/-! ### The end of a team and of a grid (R26, R43, R190, R274, R306) -/

namespace State

/-- Every group of a team is done, and so are those of its twin. -/
def pairIdle (s : State) (tid : Nat) : Bool :=
  (s.teamGroups tid).all s.groupDone && ((s.team tid).pair.all fun t => (s.teamGroups t).all s.groupDone || !s.teamLive t)

/-- The sequencer of a team all of whose groups are done is stopped as MSTOP stops it (R274, R302). -/
def endStream (s : State) (tid : Nat) : State :=
  match (s.team tid).seqr with
  | none => s
  | some q =>
    let x := s.seqr q
    if !s.pairIdle tid then s
    else if x.st == .waiting || (x.st == .running && x.words.isEmpty) then s.seqStop q x.pc
    else if x.st == .running && x.stop.isNone then s.modSeqr q fun x => { x with stop := some (gidOf tid 0, 0, 0) }
    else s

/-- Nothing issued on a team's behalf is left to do (R26, R228). -/
def teamIdle (s : State) (tid : Nat) : Bool :=
  let t := s.team tid
  (s.teamGroups tid).all (fun g => s.groupDone g && (s.group g).ops.all Op.done && (s.group g).exits.isEmpty)
    && (svals s.cmds).all (fun k => k.tid != tid) && (svals s.mcmds).all (fun k => k.tid != tid && k.tid2 != some tid)
    && (t.seqr.all fun q => !s.pairIdle tid || (s.seqr q).st == .idle || (s.seqr q).st == .faulted)

/-- Every release of a team is installed, its CLUSTER releases too: the grid's arrival covers every write (R43, R188). -/
def allInstalled (s : State) (tid : Nat) : Bool := (svals s.rels).all fun r => r.tid != tid || r.st == .complete

/-- The status word of a submission entry (R378). -/
def entryWord (ident : Nat) (complete : Bool) (outcome : Nat) : List Byte :=
  leBytes 8 (ident % 2 ^ 32 * 2 ^ 32 + (if complete then 2 ^ 9 else 0) + 2 ^ 8 + outcome)

/-- What waits for the status words of a partition's entries to be visible at SYSTEM scope happens: SQ.HEAD advances, and
vectors are raised (R378). -/
def settleWords (s : State) (p : Nat) : State :=
  let due := (s.part p).sqWords.filter fun w => tsLe w.1 s.hSys
  let n := (due.filter fun w => w.2.1).length
  let h := s.hSys
  let s := s.modPart p fun x =>
    { x with sqWords := x.sqWords.filter (fun w => !tsLe w.1 h), sqHead := (x.sqHead + n) % 2 ^ 32 }
  (due.flatMap fun w => w.2.2).foldl (fun s v => s.emit (.irq (p + 1) v)) s

/-- The device writes a status word of an entry and releases it at SYSTEM scope (R378 steps 3 and 4). -/
def writeWord (s : State) (p pa : Nat) (bs : List Byte) (head : Bool) (vectors : List Nat) : State :=
  let (ts, s) := s.deviceCommit 0xFFF p (cellsAt (pa + 0x10) bs)
  (s.modPart p fun x => { x with sqWords := x.sqWords ++ [(ts, head, vectors)] }).settleWords p

/-- A grid completes: its region is released, its pins end, and it arrives on its DONE object and is reported (R43,
R200, R378). A frozen context's object takes the arrival too. (DESIGN CHOICE, log entry 86) -/
def gridDone (s : State) (k : Nat) : State :=
  let l := s.launch k
  let d := l.dw 0x30
  let s := s.dropPins k
  let s := s.modLaunch k fun l => { l with st := .complete }
  let s :=
    if dfld d 30 1 = 1 then
      s.sendNow { Packet.plain (.io 0) (.core (cidOf (dfld d 0 6) (dfld d 6 5))) 0 (.bar ⟨dfld d 11 19, 0, 1⟩) with ptag := l.part }
    else s
  match l.notify with
  | some pa => s.writeWord l.part pa (entryWord l.ident true 0) false [1]
  | none => s

/-- A cluster all of whose teams are done leaves its park. -/
def clusterEnd (s : State) (cl : Nat) : State :=
  let c := s.cluster cl
  if c.teams.all fun t => (s.team t).st == .done then
    let s := { s with clusters := sdel s.clusters cl }
    let s := s.modCtx (s.launch c.launch).ctx fun x => { x with slots := x.slots.filter fun n => !c.slots.contains n }
    let s := s.modLaunch c.launch fun l => { l with finished := l.finished + 1 }
    let l := s.launch c.launch
    if l.st == .running && l.finished = l.blocks then s.gridDone c.launch else s
  else s

/-- A team's release is complete: its resources are released (R26, R242, R339). -/
def teamEnd (s : State) (tid : Nat) : State :=
  let t := s.team tid
  let s := ((s.leaveCore tid).purgeTeam tid).eraseTeam tid
  let s := s.modTeam tid fun t => { t with st := .done, pending := [], overlay := [] }
  let s :=
    match t.seqr with
    | some q =>
      if t.pair.any fun o => !s.teamGone o then s
      else { s with seqrs := sdel s.seqrs q, mreg := s.mreg.filter (fun e => e.1 / 16 != q), wins := s.wins.filter fun e => e.1 / 16 != q }
    | none => s
  s.clusterEnd t.cluster

end State

/-- TEAM_DONE: a team whose groups are done and whose commands are complete releases at DEVICE scope, and its resources
are freed (R26, R56, R190, R274). -/
def execTeamDone (tid : Nat) (s : State) : Host.Outcome State Fault Refusal :=
  let t := s.team tid
  if isSys t.core || (s.ctx t.ctx).killing.isSome || !((s.teamGroups tid).all s.groupDone) then .next s
  else if t.st == .running then
    if (s.cluster t.cluster).vacating.isSome then .next s
    else if s.teamIdle tid then
      let (_, s) := s.openRelease tid none .device (.teamDone tid)
      let s := s.modTeam tid fun t => { t with st := .finishing }
      .next (match t.seqr with | some q => if t.pair.any s.teamLive then s.twinGone q t.twin else s | none => s).settle
    else .next (s.endStream tid).settle
  else if t.st == .finishing then
    match s.rels.find? fun e => e.2.purpose == .teamDone tid with
    | some (k, _) => .next (if s.relDone k && s.allInstalled tid then ((s.forgetRel k).teamEnd tid).settle else s)
    | none => .next s
  else .next s

end Sys2Proof.Machine
end

