-- ==== Sys2Proof/Machine/Vacate.lean ====
section
/-! DEFINITION. Vacation of clusters, the park quantum, and the steal traffic between parks (R46, R52, R256, R267, R274,
R313, R327, R328, R353 to R355). -/

namespace Sys2Proof.Machine

namespace State

/-! ### Selection (R353) -/

/-- Teams of a cluster that have not released their resources. -/
def liveTeams (s : State) (cl : Nat) : List Nat :=
  (s.cluster cl).teams.filter fun t => !s.teamGone t

/-- The lowest save slots of a context that are not in use. -/
def freeSlots (s : State) (c : Nat) : List Nat :=
  (List.range (dfld ((s.ctx c).saveslots.zeroExtend 64) 0 16)).filter fun n => !(s.ctx c).slots.contains n

/-- Begin the vacation of a cluster, its save slots set aside. -/
def beginVacate (s : State) (cl : Nat) (heir : Option Nat) : State :=
  let c := (s.launch (s.cluster cl).launch).ctx
  let n := (s.liveTeams cl).length
  let slots := (s.freeSlots c).take n
  let now := s.clock
  let s := s.modCtx c fun x => { x with slots := x.slots ++ slots }
  s.modCluster cl fun x => { x with vacating := some now, slots := slots, heir := heir }

/-- Enough save slots are free for the teams of a cluster. -/
def hasSlots (s : State) (cl : Nat) : Bool :=
  (s.liveTeams cl).length ≤ (s.freeSlots (s.launch (s.cluster cl).launch).ctx).length

/-- Running clusters of a launch, youngest first: by placement time, or with `start` by start time (R52, R353).
(DEDUCED, log entry 38) -/
def youngest (s : State) (k : Nat) (start : Bool) : List Nat :=
  (byRank (fun c => [if start then (s.cluster c).first else (s.cluster c).placed, c])
    (skeysWhere s.clusters fun c => c.launch == k && c.st == .placed && c.vacating.isNone)).reverse

/-- VACATE's choice: the clusters begun, the cores they hold, and the state (R353). (DEDUCED, log entry 38) -/
def selectVacate (s : State) (n : Nat) : List Nat → List Nat × Nat × State
  | [] => ([], 0, s)
  | cl :: rest =>
    let l := s.launch (s.cluster cl).launch
    let area := l.cw * l.ch
    if area ≤ n && s.hasSlots cl then
      let (cs, m, t) := selectVacate (s.beginVacate cl none) (n - area) rest
      (cl :: cs, area + m, t)
    else selectVacate s n rest

/-- The running grid of a partition with a LAUNCH.ID. -/
def gridOf (s : State) (p ident : Nat) : Option Nat :=
  (skeysWhere s.launches fun l => l.part == p && l.ident == ident && (l.st == .dispatching || l.st == .running)).head?

/-! ### When a cluster can be saved (R353 steps 1 and 2) -/

/-- The wait for a collective is over, 52,500 cycles after the vacation began (R267, R313).
(DEDUCED, log entry 38) -/
def waitedOut (s : State) (cl : Nat) : Bool := (s.cluster cl).vacating.any fun t => t + 52500 ≤ s.clock

/-- A command a vacated team keeps: a scroll, or a cross-rank copy that has outlasted the wait. -/
def keepsCmd (s : State) (cl : Nat) (k : Cmd) : Bool := k.kind == .scroll || (k.kind == .copyx && s.waitedOut cl)

/-- A NET drain of a team that has outlasted the wait: its command stays with the team (R313). -/
def keepsDrain (s : State) (cl : Nat) (k : MCmd) : Bool := k.child.isSome && s.waitedOut cl

/-- All that a sequencer's issued commands still wait for is such drains: an MSTOP that waits for them stays with the team
(R273, R313). -/
def drainsKept (s : State) (cl q : Nat) : Bool :=
  (svals s.mcmds).any (fun k => k.seqr == q) && (svals s.mcmds).all fun k => k.seqr != q || s.keepsDrain cl k

/-- An operation that vacation does not wait for: one that waits for a vacation or a kill, and a blocked ACCALLOC
(R341, R353, R357). -/
def spareOp (s : State) (gid : Nat) (o : Op) : Bool :=
  o.stages.any (fun x => match x with | .awaitVacate _ => true | .awaitKill _ => true | _ => false)
    || (s.team (tidOf gid)).accReq.any fun r => r.gid == gid && r.oid == o.oid

/-- A group has finished its clause and every operation it waits for (R353). -/
def groupQuiet (s : State) (cl gid : Nat) : Bool :=
  let k := s.core (s.team (tidOf gid)).core
  let kept (o : Op) : Bool := o.stages.any fun x =>
    match x with
    | .awaitCmd n => (sget s.cmds n).any (s.keepsCmd cl)
    | .awaitStream q => s.drainsKept cl q
    | _ => false
  !(k.pipe0.any fun r => r.gid == gid) && !(k.pipe1.any fun r => r.gid == gid) && (s.group gid).restarts.isEmpty
    && (s.group gid).ops.all fun o => o.done || kept o || s.spareOp gid o

/-- A sequencer can be saved: it stands between clauses, or a NET drain that has outlasted the wait holds its clause
(R274, R313). (DEDUCED, log entry 38) -/
def seqQuiet (s : State) (cl q : Nat) : Bool :=
  let x := s.seqr q
  x.st != .running || (x.fault.isNone && (x.words.isEmpty || (svals s.mcmds).any fun k => k.seqr == q && s.keepsDrain cl k))

/-- A team can be saved: its groups are quiet, its core is not stalled, its commands are complete or kept, with none of
their accesses in flight, and its sequencer stands between clauses (R274, R353). -/
def teamQuiet (s : State) (cl tid : Nat) : Bool :=
  let t := s.team tid
  t.st == .running && (s.core t.core).stalls.isEmpty && (s.teamGroups tid).all (s.groupQuiet cl)
    && (s.cmds.all fun e => e.2.tid != tid || (s.keepsCmd cl e.2 && !s.outstanding e.1))
    && (svals s.mcmds).all (fun k => (k.tid != tid && k.tid2 != some tid) || s.keepsDrain cl k)
    && t.seqr.all (s.seqQuiet cl)

/-- NET drains of a cluster's teams that have not contributed become commands that have ended with TIMEOUT (R313). -/
def dropDrains (s : State) (cl : Nat) : State :=
  let ts := (s.cluster cl).teams
  (s.mcmds.filter fun e => ts.contains e.2.tid && !e.2.performed && !e.2.net.isEmpty).foldl (fun s e =>
    let c : Cmd :=
      { blankCmd .copyx e.2.lead (gidOf e.2.lead 0) e.2.addr .l0 with
        src := netSource e.2.winA.rows, dst := e.2.net, started := true, err := some ⟨0⟩, status := some 1 }
    let (m, s) := s.queueCmd c
    { s with mcmds := smod s.mcmds e.1 fun k => { k with performed := true, child := some m } }) s

/-- Contributions of a cluster's teams not yet sent are discarded: their commands end with TIMEOUT (R267, R313).
(DEDUCED, log entry 38) -/
def dropUnsent (s : State) (cl : Nat) : State :=
  let ts := (s.cluster cl).teams
  let s := s.dropDrains cl
  { s with cmds := s.cmds.map fun (e : Nat × Cmd) =>
      if ts.contains e.2.tid && e.2.kind == .copyx && e.2.status.isNone && !e.2.sent then
        (e.1, { e.2 with status := some 1, err := e.2.err.or (some ⟨0⟩) })
      else e }

/-! ### Saving a team (R274, R354, R355) -/

/-- An object lies in a team's own allocation. -/
def ownObj (t : Team) (off : Nat) : Bool := t.scrBase ≤ off && off < t.scrBase + t.scrSize

/-- Registrations at plane-region objects are dropped on the old core and discarded (R355). -/
def dropPlaneRegs (s : State) (gid : Nat) : State :=
  let t := s.team (tidOf gid)
  ((s.group gid).regs.filter fun e => !ownObj t e.off).foldl (fun s e => s.dropLanes t.core gid e.off e.reg) s

/-- The twin bank that a team's save slot takes: twin 0's slot has it, or twin 1's once twin 0 is gone (R301, R354).
(DESIGN CHOICE, log entry 37) -/
def bankIn (s : State) (tid : Nat) : Option Nat :=
  let t := s.team tid
  match t.pair with
  | some u => if t.twin = 0 then some (s.team u).bank else if s.teamGone u then some t.bank else none
  | none => none

/-- What a team leaves in its save slot (R354). (DESIGN CHOICE, log entry 37) -/
def savedOf (s : State) (tid slot : Nat) : Saved :=
  let t := s.team tid
  let bank := s.bankIn tid
  { slot := slot, check := none, ts := none
    scratch := s.scrBytes t.core t.scrBase t.scrSize
    file := mreads s.tiles (t.core * 16 * 2048) 32768
    lists := (List.range 16).map fun i => sgetD s.tileLists (t.core * 16 + i) []
    bank := (bank.map fun b => mreads s.tiles (b * 16 * 2048) 16384).getD []
    bankLists := (bank.map fun b => (List.range 8).map fun i => sgetD s.tileLists (b * 16 + i) []).getD []
    accs := t.acc.map fun a =>
      { tile := a.1
        elems := (List.range 1024).map fun i => sgetD s.acc (accKey t.core a.2 + i) 0
        side := (List.range 32).map fun r => sgetD s.side (sideKey t.core a.2 + r) (0xFF800000, 0) }
    triggers := (s.core t.core).triggers.filter fun x => x.tid == tid && ownObj t x.off
    frames := (s.teamGroups tid).filterMap fun g => (s.group g).frame.map fun f => (g, s.scrBytes t.core (frameAt f) 2560) }

/-- Doublewords of a split stack, with its depth before them. -/
def stackImage (l : List Entry) : List DWord := BitVec.ofNat 64 l.length :: l.reverse.flatMap entryDwords

/-- Doublewords of a slice in a save slot: its record, and its restart copy (R354). -/
def sliceImage (x : Slice) : List DWord :=
  sliceRecord x ++ [x.restart.pc.zeroExtend 64, BitVec.ofNat 64 (x.restart.ix * 2 ^ 8 + x.restart.path.toNat * 2 ^ 4 + x.restart.exec.toNat)]
    ++ stackImage x.restart.stack

/-- Doublewords of a group's transaction in a save slot: what TXBEGIN recorded, and the write set (R193, R216, R354). -/
def txImage (g : Group) : List DWord :=
  match g.tx with
  | none => [0]
  | some t =>
    [1, BitVec.ofNat 64 t.sx, t.abort.zeroExtend 64,
      BitVec.ofNat 64 ((if t.expired then 1 else 0) + (if t.full then 2 else 0) + t.writes.length * 2 ^ 8)]
      ++ t.writes.flatMap (fun w => [BitVec.ofNat 64 w.1, w.2.zeroExtend 64])
      ++ t.slices.flatMap fun x => (x.exec ++ x.path).zeroExtend 64 :: stackImage x.stack

/-- Bytes of a group in a save slot: registers, slices, flags and counters, timer, transaction state and registration
entries (R354). -/
def groupImage (s : State) (gid : Nat) : List Byte :=
  let g := s.group gid
  let words (n w : Nat) (f : Nat → Nat → Word) : List Byte :=
    (List.range n).flatMap fun i => (List.range w).flatMap fun r => leBytes 4 (f i r).toNat
  words 32 64 (fun i r => s.rdV gid i r) ++ words 8 32 (fun i r => s.rdS gid i r)
    ++ words 8 8 (fun i r => (s.rdK gid i r).zeroExtend 32)
    ++ bytesOf (((List.range 8).flatMap fun i => sliceImage (s.slice gid i))
      ++ [BitVec.ofNat 64 (s.busyMask gid), BitVec.ofNat 64 (s.counter gid .copies), BitVec.ofNat 64 ((g.timer.map (· + 1)).getD 0),
        g.txStatus.zeroExtend 64]
      ++ txImage g
      ++ g.regs.flatMap fun e => [BitVec.ofNat 64 e.off, e.reg ++ e.arrm, e.ph.zeroExtend 64])

/-- Doublewords of a team's sequencer in a save slot: SEQ.STATUS, its program counter, m registers and bindings (R274,
R354). -/
def seqImage (s : State) (tid : Nat) : List DWord :=
  (s.seqStatusOf tid).zeroExtend 64 ::
    match (s.team tid).seqr with
    | none => []
    | some q =>
      (s.seqr q).pc.zeroExtend 64 :: (List.range 16).map (fun n => (s.rdM q n).zeroExtend 64)
        ++ (List.range 16).flatMap fun i =>
          let b := sgetD s.wins (q * 16 + i) (Binding.start (i % 8))
          [BitVec.ofNat 64 (b.tile + b.rows * 2 ^ 8), b.g.zeroExtend 64]

/-- Resume records of the scrolls that stay with a team (R256, R354). -/
def scrollImage (s : State) (tid : Nat) : List DWord :=
  ((svals s.cmds).filter fun k => k.tid == tid && k.kind == .scroll).flatMap resumeRecord

/-- What the device writes to a team's save slot (R354): the state in an order of the model's, then 64 bits of the
device's own, which with it make the check. (DESIGN CHOICE, log entry 37) -/
def slotImage (s : State) (tid : Nat) (v : Saved) : List Byte × State :=
  let t := s.team tid
  let (a, s) := s.freeWord
  let (b, s) := s.freeWord
  ((s.teamGroups tid).flatMap s.groupImage
    ++ bytesOf ([(t.fpAt s.clock).zeroExtend 64, t.fpTrapen.zeroExtend 64, t.scrStatus.zeroExtend 64] ++ s.seqImage tid ++ s.scrollImage tid)
    ++ v.scratch ++ v.file ++ bytesOf (v.lists.flatMap id) ++ v.bank ++ bytesOf (v.bankLists.flatMap id)
    ++ v.accs.flatMap (fun x => x.elems.flatMap (fun e => leBytes 4 e.toNat) ++ bytesOf (x.side.map fun p => p.1 ++ p.2))
    ++ bytesOf (v.triggers.flatMap fun t => t.word :: t.vals) ++ v.frames.flatMap Prod.snd ++ bytesOf [b ++ a], s)

/-- First byte of a save slot of a context (R354). -/
def slotAt (s : State) (c slot : Nat) : Nat := ((s.ctx c).savebase.extractLsb' 0 56).toNat + slot * 2 ^ 21

/-- Save one team in a slot and take it off its core; nothing of it runs from the moment its registrations at plane-region
objects are dropped (R274, R354, R355). (DESIGN CHOICE, log entry 37) -/
def saveTeam (s : State) (tid slot : Nat) : State :=
  let t := s.team tid
  let s := (s.teamGroups tid).foldl (fun s g => s.dropAccReq g) s
  let v := s.savedOf tid slot
  let s := (s.leaveCore tid).modTeam tid fun x => { x with st := .suspended }
  let s := (s.teamGroups tid).foldl (fun s g => s.dropPlaneRegs g) s
  let (img, s) := s.slotImage tid v
  let (ts, s) := s.deviceWriteVa t.ctx 0xFFF (s.slotAt t.ctx slot) img
  let v := { v with check := ts.map fun _ => img, ts := ts }
  let keeps (o : Op) : Bool := o.ctr == some .copies || o.stages.any fun x => match x with | .awaitStream _ => true | _ => false
  let s := (s.teamGroups tid).foldl (fun s g =>
    let s := s.stopCycles g
    (s.modSlices g (List.range 8) fun x => if x.st == .blockedAcc then { x with st := .ganged } else x).modGroup g fun x =>
      { x with timedFlags := [], frame := none
               ops := x.ops.filter fun o => !o.done && keeps o }) s
  s.modTeam tid fun t => { t with saved := some v }

/-- Save every live team of a cluster (R353 step 3). -/
def saveCluster (s : State) (cl : Nat) : State :=
  ((s.liveTeams cl).zip (s.cluster cl).slots).foldl (fun s p => s.saveTeam p.1 p.2) s

/-- The tables that translate a cluster's save slots can be read (R369). -/
def slotsReady (s : State) (cl : Nat) : Bool :=
  let c := (s.launch (s.cluster cl).launch).ctx
  (s.cluster cl).slots.all fun n => (List.range 33).all fun i => s.tablesReady (s.ctx c).root ((s.slotAt c n + 2 ^ 16 * i) % 2 ^ 56)

/-- A team's save slot is written: its commit is installed (R353 step 3). -/
def slotWritten (s : State) (tid : Nat) : Bool :=
  (s.team tid).saved.any fun v => v.ts.all fun ts =>
    (svals s.packets).all fun p => !((match p.load with | .commit _ => true | _ => false) && p.ts == ts)

/-- The waiting cluster is placed on the rectangle just freed, in the queue of that park (R52). -/
def placeHeir (s : State) (heir park x0 y0 : Nat) : State :=
  if (s.cluster heir).st != .suspended then s
  else
    let s := s.modCluster heir fun c => { c with park := park, suspended := 0 }
    if s.fitsAt heir (x0, y0) then s.placeAt heir x0 y0 else s

/-- Once its save slots are written, a cluster's cores are released, it is queued as suspended, and the cluster that waited
for its rectangle is placed (R52, R353 step 4). -/
def freeCluster (s : State) (cl : Nat) : State :=
  let c := s.cluster cl
  if c.vacating.isSome && (s.liveTeams cl).all s.slotWritten then
    let now := s.clock
    let s := s.modCluster cl fun c => { c with st := .suspended, vacating := none, suspended := now, heir := none }
    match c.heir with
    | some h => s.placeHeir h c.park c.x0 c.y0
    | none => s
  else s

end State

/-- Some array whose bytes a team's save slot takes is poisoned (R364). -/
def State.heldPoison (s : State) (tid : Nat) : Bool :=
  let t := s.team tid
  s.scrPoisoned t.core t.scrBase t.scrSize || s.tilePoisoned (t.core * 16 * 2048) 32768
    || (s.bankIn tid).any fun b => s.tilePoisoned (b * 16 * 2048) 16384
    || (svals t.acc).any fun p => s.arrPoisoned (accArr (accKey t.core p)) 4096

/-- CLUSTER_VACATE: a cluster that is being vacated is saved once its groups and commands are quiet, and queued as suspended
once its save slots are written (R353); an uncorrectable error in what a save slot would take is consumed (R364). -/
def execClusterVacate (cluster : Nat) (s : State) : Host.Outcome State Fault Refusal :=
  let s := if s.waitedOut cluster then s.dropUnsent cluster else s
  if (s.cluster cluster).vacating.isSome && (s.liveTeams cluster).all (s.teamQuiet cluster) && s.slotsReady cluster then
    match (s.liveTeams cluster).find? s.heldPoison with
    | some t => .next (s.consume t 0).settle
    | none => .next ((s.saveCluster cluster).freeCluster cluster).settle
  else .next (s.freeCluster cluster).settle

/-- VACATION_COLLECTIVE_TIMEOUT: vacation no longer waits for a collective (R267, R313). (DEDUCED, log entry 38) -/
def execVacationCollectiveTimeout (cluster : Nat) (s : State) : Host.Outcome State Fault Refusal :=
  .next (if s.waitedOut cluster then s.dropUnsent cluster else s)

/-- PARK_QUANTUM_EXPIRY: the youngest running cluster of a grid is vacated for one that has waited a quantum (R52). Of the
clusters overdue, in the order of the queue, the first that has one to vacate; where the youngest lacks free save slots,
the next youngest that has them is vacated (DESIGN CHOICE, log entry 74). -/
def execParkQuantumExpiry (part park : Nat) (s : State) : Host.Outcome State Fault Refusal :=
  let q := if (s.part part).quantum = 0 then 2 ^ 20 else (s.part part).quantum.toNat
  let overdue := (s.suspendedQ part park).filter fun c =>
    (s.cluster c).suspended + q ≤ s.clock && !((svals s.clusters).any fun x => x.heir == some c)
  let pick := overdue.findSome? fun h => ((s.youngest (s.cluster h).launch true).find? s.hasSlots).map fun v => (h, v)
  match pick with
  | some (h, v) => .next (s.beginVacate v (some h))
  | none => .next s

/-! ### Steals (R46, R327, R328) -/

namespace State

/-- C(v, p): unstarted blocks of park v whose launch rectangle reaches into park p (R46). -/
def reaching (s : State) (part v p : Nat) : List Nat :=
  (s.unstartedQ part v).filter fun c =>
    Rect.holds (Rect.inter (parkRect p) (s.launch (s.cluster c).launch).rect) 1 1

/-- Parks that reach into a partition. -/
def partParks (s : State) (part : Nat) : List Nat :=
  (List.range 128).filter fun k => Rect.holds (Rect.inter (parkRect k) (s.part part).rect) 1 1

/-- A packet between park schedulers of a partition, on REQ or RSP (R317, R327). (DEDUCED, log entry 40) -/
def parkPacket (part src dst vc : Nat) (load : Payload) : Packet :=
  { Packet.plain (.park src) (.park dst) vc load with ptag := part }

/-- A park scheduler is idle: both queues empty and a core without a team, whether or not it takes clusters (R19, R46). -/
def parkIdle (s : State) (part park : Nat) : Bool :=
  (s.suspendedQ part park).isEmpty && (s.unstartedQ part park).isEmpty
    && (rectCells (Rect.inter (parkRect park) (s.part part).rect)).any fun p =>
      let cid := cidOf p.1 p.2
      !(s.core cid).fenced && (s.teamsOn cid).isEmpty && !s.emptying cid

/-- The park with the highest count in a view, the lowest index on a tie; none when every count is 0. -/
def highest (view : Store Nat) : Option Nat :=
  (view.foldl (fun (best : Option (Nat × Nat)) p =>
    match best with
    | some (k, n) => if n < p.2 then some p else some (k, n)
    | none => if p.2 = 0 then none else some p) none).map Prod.fst

end State

/-- PARK_IDLE_STEAL: an idle scheduler asks the park with the highest count in its view (R46). -/
def execParkIdleSteal (part park : Nat) (s : State) : Host.Outcome State Fault Refusal :=
  let k := s.park part park
  if s.dev.st == .service && s.parkIdle part park && k.asking.isNone && k.retryAt = 0 then
    match State.highest (k.view.filter fun e => s.dev.parksReady.contains e.1) with
    | some v =>
      let n := k.reqn + 1
      .next ((s.modPark part park fun x => { x with asking := some n, reqn := n }).sendNow
        (State.parkPacket part park v 0 (.stealReq park n)))
    | none => .next s
  else .next s

/-- STEAL_RETRY_TIMEOUT: 1024 cycles after an empty reply the scheduler may ask again (R46). -/
def execStealRetryTimeout (part park : Nat) (s : State) : Host.Outcome State Fault Refusal :=
  let k := s.park part park
  .next (if k.retryAt != 0 && k.retryAt ≤ s.clock then s.modPark part park fun x => { x with retryAt := 0 } else s)

/-- COUNT_UPDATE_SEND: a park publishes a count that has changed to another (R46, R327). -/
def execCountUpdateSend (part src dst : Nat) (s : State) : Host.Outcome State Fault Refusal :=
  let n := (s.reaching part src dst).length
  let last := sgetD (s.park part src).sent dst (0, 0)
  if n != last.1 && (n = 0 || last.1 = 0 || last.2 + 256 ≤ s.clock) && src != dst
      && (s.partParks part).contains src && (s.partParks part).contains dst then
    let now := s.clock
    .next ((s.modPark part src fun x => { x with sent := sput x.sent dst (n, now) }).sendNow
      (State.parkPacket part src dst 0 (.countUpd src (Nat.min n 65535))))
  else .next s

/-- The index of a park endpoint. -/
def parkEnd : Endpoint → Nat | .park n => n | _ => 0

/-- A launch in a steal reply: its record as read, with LAUNCH.ID and, for SNAP = 1, the dispatch snapshot in the bytes that
acceptance gives no meaning (R328). -/
def launchBytes (l : Launch) : List Byte :=
  bytesOf (l.record.take 8 ++ [BitVec.ofNat 64 (l.ident % 2 ^ 32), BitVec.ofNat 64 (if l.policy 0 2 = 1 then l.snapDispatch else 0)]
    ++ List.replicate 6 0 ++ l.record.drop 16)

namespace State

/-- A block in a steal reply, as a number of 16 bytes: CLUSTER.X, CLUSTER.Y, CLUSTER.Z and LAUNCH.ID (R328). -/
def descriptor (s : State) (cl : Nat) : Nat :=
  let c := s.cluster cl
  c.cx % 2 ^ 16 + c.cy % 2 ^ 16 * 2 ^ 16 + c.cz % 2 ^ 8 * 2 ^ 32 + (s.launch c.launch).ident % 2 ^ 32 * 2 ^ 64

/-- Descriptors in lists of 16 at most (R328). -/
def blockPackets (l : List Nat) : List (List Nat) := (List.range ((l.length + 15) / 16)).map fun i => (l.drop (16 * i)).take 16

/-- The packets of a steal reply, in order: its head, its distinct launches, each under its own context, and its blocks
(R328). -/
def sendReply (s : State) (part v dst reqn : Nat) (blocks : List Nat) : State :=
  let ls := (blocks.map fun c => (s.cluster c).launch).eraseDups
  let s := s.sendNow (parkPacket part v dst 1 (.stealRep reqn blocks.length ls.length))
  let s := ls.foldl (fun s k => s.sendNow
    { parkPacket part v dst 1 .stealLaunch with ctx := (s.launch k).ctx, bytes := launchBytes (s.launch k), size := 256 }) s
  (blockPackets (blocks.map s.descriptor)).foldl (fun s l => s.sendNow
    { parkPacket part v dst 1 .stealBlocks with bytes := l.flatMap (leBytes 16), size := 16 * l.length }) s

/-- The block that a descriptor names, shipped to a park of a partition; none when its context has been killed (R47,
R328). -/
def namedBlock (s : State) (part k d : Nat) : Option Nat :=
  (skeys s.clusters).find? fun c =>
    (s.cluster c).part == part && (s.cluster c).park == 128 + k && (s.cluster c).st == .unstarted && s.descriptor c == d

/-- Blocks join the unstarted queue of a park in order, but for those whose context has been killed (R47, R328). -/
def takeBlocks (s : State) (part k : Nat) (ds : List Nat) : State :=
  (ds.filterMap (s.namedBlock part k)).foldl (fun s c =>
    let o := s.names.order + 1
    ({ s with names := { s.names with order := o } }).modCluster c fun x => { x with park := k, arrived := o }) s

/-- A packet of a steal reply at the asking park: a head of another request counts for nothing, an empty reply makes the
park wait 1024 cycles, and the blocks join the queue once the last has arrived (R46, R328). -/
def replyArrives (s : State) (part k : Nat) (p : Packet) : State :=
  let x := s.park part k
  let now := s.clock
  match p.load with
  | .stealRep reqn n m =>
    if x.asking != some reqn then s
    else if n = 0 then s.modPark part k fun x => { x with asking := none, retryAt := now + 1024, reply := none }
    else s.modPark part k fun x => { x with reply := some (n, m, []) }
  | .stealBlocks =>
    match x.reply with
    | none => s
    | some (n, m, got) =>
      let ds := got ++ (List.range (p.bytes.length / 16)).map fun i => leNat ((p.bytes.drop (16 * i)).take 16)
      if ds.length < n then s.modPark part k fun x => { x with reply := some (n, m, ds) }
      else (s.modPark part k fun x => { x with asking := none, retryAt := 0, reply := none }).takeBlocks part k ds
  | _ => s

end State

/-- TYPE SREQ: a steal request is served, half of the blocks that reach the requester's park leaving, the latest to arrive, or
a count of another park is received, whose rise ends the wait after an empty reply (R46, R327, R328).
(DEDUCED, log entry 40) -/
def State.parkAsked (s : State) (p : Packet) : State :=
  match p.load with
  | .stealReq from_ reqn =>
    let v := parkEnd p.dst
    let l := State.byRank (fun c => [(s.cluster c).arrived, c]) (s.reaching p.ptag v from_)
    let go := l.drop (l.length - l.length / 2)
    let s := go.foldl (fun s c => s.modCluster c fun x => { x with park := 128 + from_ }) s
    s.sendReply p.ptag v from_ reqn go
  | .countUpd v n =>
    s.modPark p.ptag (parkEnd p.dst) fun x =>
      { x with view := sput x.view v n, retryAt := if sgetD x.view v 0 < n then 0 else x.retryAt }
  | _ => s

/-- The packet is a count update. -/
def isCount (p : Packet) : Bool := match p.load with | .countUpd .. => true | _ => false

/-- SREQ: a steal request arrives (R46, R328). -/
def execSreq (pkt : Nat) (s : State) : Host.Outcome State Fault Refusal :=
  if (sget s.packets pkt).any isCount then .next s else deliver s pkt 10 noWait fun p s => s.parkAsked p

/-- COUNT_UPDATE: a count of another park arrives (R46, R327). -/
def execCountUpdate (pkt : Nat) (s : State) : Host.Outcome State Fault Refusal :=
  if (sget s.packets pkt).any isCount then deliver s pkt 10 noWait fun p s => s.parkAsked p else .next s

/-- SREP: a packet of a reply arrives (R46, R47, R328). (DEDUCED, log entry 40) -/
def execSrep (pkt : Nat) (s : State) : Host.Outcome State Fault Refusal :=
  deliver s pkt 11 noWait fun p s => s.replyArrives p.ptag (parkEnd p.dst) p

end Sys2Proof.Machine
end

