-- ==== Sys2Proof/Machine/System.lean ====
section
/-! DEFINITION. System instructions: OP 0x38 (R84, R335, R336, R349, R350, R357 to R361). -/

namespace Sys2Proof.Machine

/-! ### Privilege (R335) -/

/-- A level as a number. -/
def Level.num : Level → Nat | .l0 => 0 | .l1 => 1 | .l2 => 2

namespace State

/-- The privilege level of a group is at least `n`. -/
def atLevel (s : State) (gid n : Nat) : Bool := n ≤ Level.num (s.group gid).level

/-- Write a result, 32 or 64 bits wide, in every slice of the gang (R357). -/
def result (s : State) (iss : Iss) (wide : Bool) (d : Opnd) (x : DWord) : State :=
  iss.slices.foldl (fun s i => s.wrW wide iss.gid i 0 d x) s

end State

/-! ### Control registers (R336) -/

/-- Levels at which a register is read and written; none where it has no such access (R336).
(DEDUCED, log entry 42) -/
def cregLevels (n : Nat) : Option Nat × Option Nat :=
  if n < 0x010 then (some 0, some 0)
  else if n = 0x010 || n = 0x011 || n = 0x042 then (some 1, none)
  else if n = 0x043 then (none, some 1)
  else (some 1, some 1)

/-- The level an access is checked against: its own column's, else the other's. -/
def cregLevel (n : Nat) (write : Bool) : Nat :=
  let (r, w) := cregLevels n
  if write then (w.or r).getD 0 else (r.or w).getD 0

/-- TX.STATUS after a write: CODE and CAUSE take it, reserved bits stay 0, and a reserved CAUSE is ignored (R3, R217).
(DEDUCED, log entry 67) -/
def txStatusWrite (old x : Word) : Word :=
  if x.toNat % 16 ≤ 5 then x &&& 0xFF0F else (x &&& 0xFF00) ||| (old &&& 0xF)

namespace State

/-- The context that context-held registers name: the issuer's, or SYS.CTXSEL's on a system core. -/
def cregCtx (s : State) (iss : Iss) : Nat :=
  if iss.sys then dfld ((s.core iss.cid).ctxsel.zeroExtend 64) 0 12 else (s.team iss.tid).ctx

/-- The partition of an issuer. -/
def cregPart (s : State) (iss : Iss) : Nat := (s.team iss.tid).part

/-- TX.STATUS (R217). -/
def txStatusOf (s : State) (gid : Nat) : Word :=
  let g := s.group gid
  if g.tx.isSome then g.txStatus ||| 16 else g.txStatus

/-- TRAP.FRAME: the scratchpad offset of the current frame; 0 outside a handler and on a system core (R336, R343). -/
def frameReg (s : State) (gid : Nat) : Word :=
  match (s.group gid).frame with
  | some n => BitVec.ofNat 32 (0xC0000000 + n * 2560)
  | none => 0

/-- The value of control register `n` for an issuer (R336). (DEDUCED, log entry 42) -/
def cregRead (s : State) (iss : Iss) (n : Nat) : DWord :=
  let t := s.team iss.tid
  let k := s.core iss.cid
  let c := s.ctx (s.cregCtx iss)
  let p := s.part (s.cregPart iss)
  let w (x : Word) : DWord := x.zeroExtend 64
  match n with
  | 0x000 => w (t.fpAt s.clock)
  | 0x001 => w t.fpTrapen
  | 0x002 => w t.scrStatus
  | 0x003 => w (s.txStatusOf iss.gid)
  | 0x004 => w (s.seqStatusOf iss.tid)
  | 0x010 => w (s.group iss.gid).causeLow
  | 0x011 => w (s.frameReg iss.gid)
  | 0x020 => c.trapvec
  | 0x021 => c.faultrec
  | 0x022 => c.savebase
  | 0x023 => w c.saveslots
  | 0x024 => c.used
  | 0x030 => if k.age = 0 then 64 else w k.age
  | 0x031 => if p.quantum = 0 then 2 ^ 20 else w p.quantum
  | 0x040 => w k.ctxsel
  | 0x041 => p.ringBase
  | 0x042 => BitVec.ofNat 64 (p.head % 2 ^ 32)
  | 0x044 => k.trapvec
  | 0x045 => k.framebase
  | _ => 0

/-- A write to SEQ.STATUS: UNPAIRED, at the stream's next issue while it runs, else at once (R303). -/
def seqStatusWrite (s : State) (tid : Nat) (x : Word) : State :=
  match (s.team tid).seqr with
  | none => s
  | some q =>
    let b := x.getLsbD 15
    if (s.seqr q).st == .running then s.modSeqr q fun y => { y with wantUnpair := some b }
    else (s.pairWrite q b).settle

/-- Write a control register; reserved bits stay 0 (R3, R336). (DEDUCED, log entries 36 and 42) -/
def cregWrite (s : State) (iss : Iss) (n : Nat) (x : DWord) : State :=
  let w (m : Nat) : Word := BitVec.ofNat 32 (x.toNat % 2 ^ 32 &&& m)
  let va : DWord := BitVec.ofNat 64 (x.toNat % 2 ^ 56)
  let cx := s.cregCtx iss
  match n with
  | 0x000 => s.modTeam iss.tid fun t => { t with fpStatus := w 0x1F, fpLate := t.fpLate.filter fun p => s.clock < p.1 }
  | 0x001 => s.modTeam iss.tid fun t => { t with fpTrapen := w 0x1F }
  | 0x002 => s.modTeam iss.tid fun t => { t with scrStatus := w 3 }
  | 0x003 => s.modGroup iss.gid fun g => { g with txStatus := txStatusWrite g.txStatus (x.extractLsb' 0 32) }
  | 0x004 => s.seqStatusWrite iss.tid (x.extractLsb' 0 32)
  | 0x020 => s.modCtx cx fun c => { c with trapvec := va }
  | 0x021 => s.modCtx cx fun c => { c with faultrec := va }
  | 0x022 => s.modCtx cx fun c => { c with savebase := va }
  | 0x023 => s.modCtx cx fun c => { c with saveslots := w 0xFFFF }
  | 0x024 => s.modCtx cx fun c => { c with used := x }
  | 0x030 => s.modCore iss.cid fun k => { k with age := w 0xFFFF }
  | 0x031 => s.modPart (s.cregPart iss) fun p => { p with quantum := w 0xFFFFFFFF }
  | 0x040 => if iss.sys then s.modCore iss.cid fun k => { k with ctxsel := w 0xFFF } else s
  | 0x041 => s.modPart (s.cregPart iss) fun p => { p with ringBase := va }
  | 0x043 => (s.faultAct (s.cregPart iss) (fld x.toNat 0 6) (fld x.toNat 8 2)).settle
  | 0x044 => if iss.sys then s.modCore iss.cid fun k => { k with trapvec := va } else s
  | 0x045 => if iss.sys then s.modCore iss.cid fun k => { k with framebase := va } else s
  | _ => s

end State

/-- SYSRD (R336, R357, R358). -/
def execSysrd (c : Ctl) (d : Opnd) (num : BitVec 10) (s : State) : Host.Outcome State Fault Refusal :=
  let wide := (cregWide num).getD false
  let m := { Meta.system c [(d, wide)] [] with lat := some 8, exact := false }
  instr m s fun iss s =>
    if !s.atLevel iss.gid (cregLevel num.toNat false) then .trap s iss.priv
    else .done (s.result iss wide d (s.cregRead iss num.toNat))

/-- SYSWR (R336, R358). -/
def execSyswr (c : Ctl) (num : BitVec 10) (a : Opnd) (s : State) : Host.Outcome State Fault Refusal :=
  let wide := (cregWide num).getD false
  instr (.system c [] [(a, wide)]) s fun iss s =>
    if !s.atLevel iss.gid (cregLevel num.toNat true) then .trap s iss.priv
    else .done (s.cregWrite iss num.toNat (s.rdW wide iss.gid iss.lead 0 a))

/-! ### LAUNCH (R40, R358) -/

/-- What the read of a launch record comes to. -/
inductive RecRead
  | got (record : List DWord) (s : State)
  | wait
  | page (va : Nat) (s : State)
  | unreadable (s : State)
  | badGroup (va : Nat) (s : State)
  | poisoned (pa : Nat) (s : State)
  deriving DecidableEq, Repr

namespace State

/-- The 64 bytes of one line of a record as the issuing team reads them; a device register's are free (R186).
(DEDUCED, log entry 41) -/
def recordLine (s : State) (tid pa : Nat) : List Byte × State :=
  if devRegBase ≤ canonPa pa then
    (List.range 16).foldl (fun (r : List Byte × State) _ =>
      let (w, s) := r.2.freeWord
      (r.1 ++ leBytes 4 w.toNat, s)) ([], s)
  else ((List.range 64).map fun i => s.teamByte tid none (s.team tid).snap (pa + i), s)

/-- Read the lines of a launch record from an address, once the homes that hold them are ready (R40, R369).
(DEDUCED, log entry 41) -/
def readRecord (s : State) (iss : Iss) (va : Nat) : Nat → List Byte → RecRead
  | 0, bs => .got (dwords 32 bs) s
  | n + 1, bs =>
    let (r, s) := s.translate iss.cid iss.tid (s.group iss.gid).level .read1 va
    match r with
    | .page => .page va s
    | .wait => .wait
    | .perm => .unreadable s
    | .unbacked => .unreadable s
    | .badGroup => .badGroup va s
    | .poison pa => .poisoned pa s
    | .ok pa _ =>
      if !s.homesReady [pa] then .wait
      else if s.poisoned pa 64 then .poisoned pa s
      else
        let (l, s) := s.recordLine iss.tid pa
        readRecord s iss (va + 64) n (bs ++ l)

end State

/-- The pair LAUNCH writes: the outcome and the LAUNCH.ID (R358). -/
def launchResult (outcome ident : Nat) : DWord := BitVec.ofNat 64 (ident * 2 ^ 32 + outcome)

/-- The context LAUNCH submits in: the issuer's, or SYS.CTXSEL's on a system core (R358). -/
def State.launchCtx (s : State) (iss : Iss) : Nat := s.cregCtx iss

/-- LAUNCH (R40, R184, R188, R358): the core holds it at issue until its release is complete and H_dev has reached the
release's timestamp; the read of the record and the submission then come about in one step. (DEDUCED, log entries 16 and
41) -/
def execLaunch (c : Ctl) (d a : Opnd) (s : State) : Host.Outcome State Fault Refusal :=
  instr (.system c [(d, true)] [(a, true)]) s fun iss s =>
    releaseFirst .device iss s fun ts s =>
      let va := (s.rd64 iss.gid iss.lead 0 a).toNat % 2 ^ 56
      let give (s : State) (o n : Nat) : Res := .done (s.result iss true d (launchResult o n)).settle
      if !(tsLe ts s.hDev) then .hold
      else if va % 64 != 0 then give s 2 0
      else
        match s.readRecord iss va 4 [] with
        | .page p t => if iss.sys then give t 3 0 else .service t p .launchRecord
        | .wait => .hold
        | .unreadable t => give t 3 0
        | .badGroup p t => .trap t (State.memCause iss 11 2 p)
        | .poisoned pa t => .gone (t.consume iss.tid pa)
        | .got r t =>
          let (o, ident, _, u) := t.submit (t.launchCtx iss) r (tsMax (t.team iss.tid).snap ts)
          give u o ident

/-! ### VACATE, CTXKILL, HALTCORE (R352, R353, R358) -/

/-- VACATE (R353, R358). -/
def execVacate (c : Ctl) (d a b : Opnd) (s : State) : Host.Outcome State Fault Refusal :=
  let m := Meta.systemOp c [(d, false)] [(a, false), (b, false)]
  instr m s fun iss s =>
    if !s.atLevel iss.gid 1 then .trap s iss.priv
    else
      let id := (s.rd32 iss.gid iss.lead 0 a).toNat
      let n := (s.rd32 iss.gid iss.lead 0 b).toNat
      match s.gridOf (s.cregPart iss) id with
      | none => .done (s.result iss false d 0)
      | some k =>
        let (cs, area, s) := s.selectVacate n (s.youngest k false)
        .op (s.result iss false d (BitVec.ofNat 64 area)) (Op.of iss m [.awaitVacate cs])

namespace State

/-- A context is live in a partition (R358). (DEDUCED, log entry 43) -/
def ctxLive (s : State) (p cx : Nat) : Bool :=
  (svals s.launches).any (fun l => l.ctx == cx && l.part == p && l.st != .complete && l.st != LaunchSt.killed)
    || (svals s.teams).any fun t => t.ctx == cx && t.part == p && t.st != .done && t.st != TeamSt.killed

end State

/-- CTXKILL (R352, R358). (DEDUCED, log entry 43) -/
def execCtxkill (c : Ctl) (d a : Opnd) (s : State) : Host.Outcome State Fault Refusal :=
  let m := Meta.systemOp c [(d, false)] [(a, false)]
  instr m s fun iss s =>
    if !s.atLevel iss.gid 1 then .trap s iss.priv
    else
      let cx := (s.rd32 iss.gid iss.lead 0 a).toNat % 4096
      if s.ctxLive (s.cregPart iss) cx then
        let k : Kill := { kind := 3, launch := 0, reason := 0, gslot := 0, cid := iss.cid, body := [] }
        .op ((s.requestKill cx k).result iss false d 1) (Op.of iss m [.awaitKill cx])
      else .done (s.result iss false d 0)

/-- HALTCORE (R358). -/
def execHaltcore (c : Ctl) (halt : Bool) (d a : Opnd) (s : State) : Host.Outcome State Fault Refusal :=
  instr (.system c [(d, false)] [(a, false)]) s fun iss s =>
    if !s.atLevel iss.gid 2 then .trap s iss.priv
    else
      let x := (s.rd32 iss.gid iss.lead 0 a).toNat
      let cid := cidOf (fld x 0 6) (fld x 6 5)
      if (s.teamsOn cid).isEmpty && !s.emptying cid then
        .done ((s.modCore cid fun k => { k with parked := halt }).result iss false d 1)
      else .done (s.result iss false d 0)

/-! ### RTE (R349) -/

/-- What the read of a system core's frame comes to; `bad`: the address at which it cannot be read. -/
inductive FrameRead
  | got (bytes : List Byte) (s : State)
  | wait
  | poisoned (pa : Nat) (s : State)
  | bad (va : Nat)
  deriving DecidableEq, Repr

namespace State

/-- The snapshot under which a system core reads its frame back: its own, or the frame's commit if that is later, so that
the frame reads as it then is (R343, R349). -/
def frameSnap (s : State) (iss : Iss) : Nat := tsMax (s.team iss.tid).snap (s.core iss.cid).frameTs

/-- Read the bytes of a system core's frame once their homes are ready, under the snapshot that shows it (R343, R364,
R369). -/
def sysFrameBytes (s : State) (iss : Iss) (va : Nat) : Nat → List Byte → FrameRead
  | 0, bs => .got bs s
  | n + 1, bs =>
    let (r, s) := s.translate iss.cid iss.tid (s.group iss.gid).level .read1 va
    match r with
    | .ok pa _ =>
      if !s.homesReady [pa] then .wait
      else if s.poisoned pa 8 then .poisoned pa s
      else sysFrameBytes s iss (va + 8) n (bs ++ (List.range 8).map fun i => s.teamByte iss.tid none (s.frameSnap iss) (pa + i))
    | .wait => .wait
    | .poison pa => .poisoned pa s
    | _ => .bad va

/-- The 2560 bytes of a system core's frame as a fault record holds them; 0 where they cannot be read (R343, R351). -/
def sysFrameBody (s : State) (iss : Iss) : List Byte :=
  let base := (s.core iss.cid).framebase.toNat % 2 ^ 56
  (List.range 2560).map fun i =>
    ((s.translateDev (s.tableCtx iss.tid) (base + i)).map fun pa => s.teamByte iss.tid none (s.frameSnap iss) pa).getD 0

end State

/-- RTE (R349): a release at TEAM scope, and the frame is read once every access of the handler is performed.
(DEDUCED, log entry 16) -/
def execRte (c : Ctl) (s : State) : Host.Outcome State Fault Refusal :=
  instr { Meta.system c [] [] with bound := false } s fun iss s =>
    let g := s.group iss.gid
    if !s.atLevel iss.gid 1 then .trap s iss.priv
    else if iss.sys && !(s.core iss.cid).sysFrame then .trap s iss.illegal
    else if !s.allPerformed iss.gid then .hold
    else if iss.sys then
      if !(tsLe (s.core iss.cid).frameTs s.hDev) then .hold
      else
      match s.sysFrameBytes iss ((s.core iss.cid).framebase.toNat % 2 ^ 56) 52 [] with
      | .got bs t => .jump ((t.fenceNow iss.gid).returnFrom iss.gid (dwords 52 bs) (t.sysFrameBody iss))
      | .wait => .hold
      | .poisoned pa t => .gone (t.consume iss.tid pa)
      | .bad va => .trap s (State.memCause iss 11 4 va)
    else
      match g.frame with
      | none => .trap s iss.illegal
      | some n =>
        let body := s.scrBytes iss.cid (State.frameAt n) 2560
        .jump ((s.fenceNow iss.gid).returnFrom iss.gid (dwords 304 body) body)

/-! ### Caches (R84, R358, R360) -/

/-- ICINV (R84): only CONTEXT reaches what the sequencers hold. (DEDUCED, log entry 43) -/
def execIcinv (c : Ctl) (scope : IcScope) (s : State) : Host.Outcome State Fault Refusal :=
  instr (.system c [] []) s fun iss s =>
    let t := s.team iss.tid
    let hit (cid : Nat) : Bool :=
      match scope with
      | .core => cid == iss.cid
      | .cluster => cid == iss.cid || (!iss.sys && (s.teamsOn cid).any fun x => (s.team x).cluster == t.cluster)
      | .context => (s.teamsOn cid).any fun x => (s.team x).ctx == t.ctx
    let keep (k : Nat) : Bool := scope != .context && 4096 ≤ k
    let clear (e : Nat × Core) : Nat × Core :=
      if hit e.1 then (e.1, { e.2 with icache := e.2.icache.filter fun w => keep w.1 }) else e
    .done { s with cores := s.cores.map clear }

namespace State

/-- What stops a write-back of lines: the first page of a range that faults. (DEDUCED, log entry 43) -/
def flushPages (s : State) (iss : Iss) : List Nat → Option (Nat × Tr) × State
  | [] => (none, s)
  | va :: l =>
    let level := (s.group iss.gid).level
    let (r, s) := s.translate iss.cid iss.tid level .read1 va
    let (r, s) := if r == .perm then s.translate iss.cid iss.tid level .write1 va else (r, s)
    match r with
    | .ok _ _ => flushPages s iss l
    | _ => (some (va, r), s)

end State

/-- The addresses, one in each 64 KiB page, that a range of lines touches. -/
def pagesOf (va n : Nat) : List Nat :=
  va % 2 ^ 56 :: (List.range ((va % 65536 + n - 1) / 65536)).map fun i => ((va / 65536 + i + 1) * 65536) % 2 ^ 56

/-- DCFLUSH (R358): no cache of the model holds data, so what remains is what can stop it.
(DEDUCED, log entry 43) -/
def execDcflush (c : Ctl) (a b : Opnd) (s : State) : Host.Outcome State Fault Refusal :=
  instr (.system c [] [(a, true), (b, false)]) s fun iss s =>
    let va := (s.rd64 iss.gid iss.lead 0 a).toNat % 2 ^ 56
    let n := (s.rd32 iss.gid iss.lead 0 b).toNat
    match s.flushPages iss (pagesOf va (if n = 0 then 1 else n)) with
    | (none, s) => .done s
    | (some (_, .wait), _) => .hold
    | (some (p, .page), s) => .service s p .read
    | (some (p, .perm), s) => .trap s (State.memCause iss 10 0 p)
    | (some (p, .unbacked), s) => .trap s (State.memCause iss 11 1 p)
    | (some (_, .poison pa), s) => .gone (s.consume iss.tid pa)
    | (some (p, _), s) => .trap s (State.memCause iss 11 2 p)

namespace State

/-- The partition's contexts, by their teams, hold a cached entry (R360). -/
def inPartition (s : State) (p cx : Nat) : Bool := (s.ctx cx).part == p

/-- Accesses outstanding of teams that a filter on context takes: their groups and operations. -/
def openAccesses (s : State) (own : Nat → Bool) : List (Nat × Nat) :=
  s.groups.flatMap fun e =>
    if own (s.team (tidOf e.1)).ctx then (e.2.ops.filter fun o => !o.done && isAccess o).map fun o => (e.1, o.oid) else []

/-- Remove cached translations everywhere. -/
def dropTlb (s : State) (hit : TlbEntry → Bool) : State :=
  { s with
    cores := s.cores.map fun (e : Nat × Core) => (e.1, { e.2 with tlb := e.2.tlb.filter fun t => !hit t })
    dies := s.dies.map fun (e : Nat × List TlbEntry) => (e.1, e.2.filter fun t => !hit t) }

end State

/-- TLBINV (R360): the entries go, and it completes when every access translated before is performed. -/
def execTlbinv (c : Ctl) (scope : TlbScope) (a b : Option Opnd) (s : State) : Host.Outcome State Fault Refusal :=
  let srcs := (a.toList.map fun o => (o, true)) ++ b.toList.map fun o => (o, false)
  let m := Meta.systemOp c [] srcs
  instr m s fun iss s =>
    if !s.atLevel iss.gid 1 then .trap s iss.priv
    else
      let p := s.cregPart iss
      let cx := (b.map fun o => (s.rd32 iss.gid iss.lead 0 o).toNat % 4096).getD 0
      let va := (a.map fun o => (s.rd64 iss.gid iss.lead 0 o).toNat % 2 ^ 56).getD 0
      let own (x : Nat) : Bool := match scope with | .all => s.inPartition p x | _ => x == cx
      let hit (t : TlbEntry) : Bool :=
        own t.ctx && (match scope with | .page => t.va.toNat / 2 ^ t.bits == va / 2 ^ t.bits | _ => true)
      .op (s.dropTlb hit) (Op.of iss m [.awaitOps (s.openAccesses own)])

/-! ### Counters and timers (R350, R359) -/

/-- Counter `n` of an issuer (R359). (DEDUCED, log entry 43) -/
def State.pmonRead (s : State) (iss : Iss) (n : Nat) : DWord :=
  let t := s.team iss.tid
  let k := s.core iss.cid
  match n with
  | 0 => (s.ctx t.ctx).used
  | 1 => BitVec.ofNat 64 t.issued
  | 2 => BitVec.ofNat 64 t.clauses
  | 3 => BitVec.ofNat 64 k.strikes
  | 4 => BitVec.ofNat 64 s.dev.powerCycles
  | 5 => BitVec.ofNat 64 (s.ctx t.ctx).stallCycles
  | 6 => BitVec.ofNat 64 s.dev.corrected
  | 7 => BitVec.ofNat 64 t.restarts
  | _ => 0

/-- Clear counter `n` of an issuer. -/
def State.pmonClear (s : State) (iss : Iss) (n : Nat) : State :=
  let cx := (s.team iss.tid).ctx
  match n with
  | 0 => s.modCtx cx fun c => { c with used := 0 }
  | 1 => s.modTeam iss.tid fun t => { t with issued := 0 }
  | 2 => s.modTeam iss.tid fun t => { t with clauses := 0 }
  | 3 => s.modCore iss.cid fun k => { k with strikes := 0 }
  | 4 => s.modDev fun d => { d with powerCycles := 0 }
  | 5 => s.modCtx cx fun c => { c with stallCycles := 0 }
  | 6 => s.modDev fun d => { d with corrected := 0 }
  | 7 => s.modTeam iss.tid fun t => { t with restarts := 0 }
  | _ => s

/-- PMON (R359). (DEDUCED, log entry 43) -/
def execPmon (c : Ctl) (clr : Bool) (d a : Opnd) (s : State) : Host.Outcome State Fault Refusal :=
  instr { Meta.system c [(d, true)] [(a, false)] with exact := clr } s fun iss s =>
    let n := (s.rd32 iss.gid iss.lead 0 a).toNat
    if 8 ≤ n then .trap s iss.illegal
    else if (clr || n = 6) && !s.atLevel iss.gid 1 then .trap s iss.priv
    else
      let t := s.result iss true d (s.pmonRead iss n)
      .done (if clr then t.pmonClear iss n else t)

/-- TIMERRD (R358): the cycles left, 0 when disarmed. -/
def execTimerrd (c : Ctl) (d : Opnd) (s : State) : Host.Outcome State Fault Refusal :=
  instr { Meta.system c [(d, false)] [] with exact := false } s fun iss s =>
    let left := ((s.group iss.gid).timer.map fun n => n - s.cycles iss.gid).getD 0
    .done (s.result iss false d (BitVec.ofNat 64 left))

/-- TIMERSET (R350, R358). -/
def execTimerset (c : Ctl) (a : Opnd) (s : State) : Host.Outcome State Fault Refusal :=
  instr (.system c [] [(a, false)]) s fun iss s =>
    let n := (s.rd32 iss.gid iss.lead 0 a).toNat
    let now := s.cycles iss.gid
    .done (s.modGroup iss.gid fun g => { g with timer := if n = 0 then none else some (now + n) })

/-- TIMERCLR (R358). -/
def execTimerclr (c : Ctl) (s : State) : Host.Outcome State Fault Refusal :=
  instr (.system c [] []) s fun iss s => .done (s.modGroup iss.gid fun g => { g with timer := none })

end Sys2Proof.Machine
end

