-- ==== Sys2Proof/Machine/Clause.lean ====
section
/-! DEFINITION. Clauses: fetch, the checks of a clause, the selection of what an issue pipe starts, asynchronous traps,
path ageing, and the end of a REGANG wait (R31, R33, R48, R49, R62 to R65, R83, R84, R298, R315, R338, R341). -/

namespace Sys2Proof.Machine

/-! ### Who may issue -/

namespace State

/-- The module runs work (R368). -/
def working (s : State) : Bool := s.dev.st == .service || s.dev.st == .evacuating || s.dev.st == .boot

/-- A core whose pipes may issue: present, not stalled, halted or under test (R344, R365). -/
def coreIssues (s : State) (cid : Nat) : Bool :=
  let k := s.core cid
  !k.fenced && !k.held && !k.testing && k.stalls.isEmpty

/-- The group may issue: no trap of it waits for a frame slot, and its context is not being killed (R339, R352). -/
def groupIssues (s : State) (gid : Nat) : Bool :=
  (s.group gid).trapWait.isNone && (s.ctx (s.team (tidOf gid)).ctx).killing.isNone

/-- A clause of the group is in a pipe of its core. -/
def inPipe (s : State) (cid gid : Nat) : Bool :=
  let k := s.core cid
  k.pipe0.any (fun r => r.gid == gid) || k.pipe1.any fun r => r.gid == gid

/-- Its cluster is being vacated: a group issues nothing after its current clause (R353). -/
def leaving (s : State) (tid : Nat) : Bool :=
  !isSys (s.team tid).core && (s.cluster (s.team tid).cluster).vacating.isSome

/-- Gangs of a group that can issue, by their number. -/
def gangs (s : State) (gid : Nat) : List Nat :=
  (s.sliceNos gid).filter fun i => (s.slice gid i).st == .ganged && (s.slice gid i).gang == i && !s.restarting gid i

/-- The group of a core may be given a clause now. -/
def groupFree (s : State) (cid gid : Nat) : Bool :=
  (s.team (tidOf gid)).st == .running && s.coreIssues cid && s.groupIssues gid && !s.inPipe cid gid
    && !s.leaving (tidOf gid)

end State

/-! ### Headers (R62 to R65) -/

/-- COUNT: the number of instructions of a clause. -/
def hdrCount (h : DWord) : Nat := dfld h 53 4 + 1
/-- CLASS. -/
def hdrClass (h : DWord) : Nat := dfld h 57 3
/-- WAITF. -/
def hdrWaits (h : DWord) : Nat := dfld h 41 12
/-- The limit on a counter; 63 imposes no condition. -/
def hdrLimit (h : DWord) : Ctr → Nat
  | .loads => dfld h 35 6 | .stores => dfld h 29 6 | .copies => dfld h 23 6 | .tiles => dfld h 17 6

/-- OP of an instruction doubleword. -/
def wordOp (w : DWord) : Nat := dfld w 58 6

/-- An instruction marked E in the opcode map (R81). -/
def endsClause (w : DWord) : Bool :=
  let fn := dfld w 52 6
  match wordOp w with
  | 0x09 => fn ≤ 4
  | 0x0A => fn ≤ 7
  | 0x15 => fn = 1 || fn = 2
  | 0x17 => fn = 5
  | 0x30 => fn = 10
  | 0x31 => fn ≤ 1
  | 0x38 => fn = 4
  | _ => false

/-- The class an OP belongs to; 5 for 0x28 to 0x2F, which belong to none (R64). -/
def opClass (op : Nat) : Nat :=
  if op < 0x10 then 0 else if op < 0x20 then 1 else if op < 0x28 then 2 else if op < 0x30 then 5
  else if op < 0x38 then 3 else 4

/-- A clause that fails the checks of R64. -/
def clauseBad (h : DWord) (ws : List DWord) : Bool :=
  dfld h 60 4 != 10 || 4 < hdrClass h || dfld h 0 16 != 0 || ws.any (fun w => opClass (wordOp w) != hdrClass h)
    || ws.dropLast.any endsClause

/-- A clause that a matrix sequencer does not accept (R65). -/
def streamBad (h : DWord) (ws : List DWord) : Bool :=
  clauseBad h ws || hdrClass h != 3 || hdrWaits h != 0 || dfld h 17 24 != 2 ^ 24 - 1 || dfld h 16 1 != 0

/-! ### Fetch (R83, R84, R298) -/

/-- What a fetch comes to; `absent`: some of it is still to be read from memory, or its home is not ready (R369). -/
inductive Fetched
  | got (l : List DWord) (s : State)
  | absent
  | page (va : Nat) (s : State)
  | noExec (s : State)
  | unbacked (va : Nat) (s : State)
  | badGroup (va : Nat) (s : State)
  | poison (pa : Nat) (s : State)
  deriving DecidableEq, Repr

namespace State

/-- The doubleword a cache holds under a key: a context, or 4096 and a sequencer's number.
(DESIGN CHOICE, log entry 4; DEDUCED, log entry 23) -/
def cachedWord (s : State) (cid key pa : Nat) : Option DWord :=
  ((s.core cid).icache.find? fun e => e.1 == key && e.2.1 == canonPa pa).map fun e => e.2.2

/-- The newest doubleword at its home; a device register's is free. -/
def homeWord (s : State) (pa : Nat) : DWord × State :=
  if devRegBase ≤ canonPa pa then
    let (x, s) := s.freeWord
    let (y, s) := s.freeWord
    (y ++ x, s)
  else (s.newest64 pa, s)

/-- Keep a doubleword in a cache. -/
def cacheWord (s : State) (cid key pa : Nat) (w : DWord) : State :=
  s.modCore cid fun k =>
    { k with icache := (key, canonPa pa, w) :: k.icache.filter fun e => !(e.1 == key && e.2.1 == canonPa pa) }

/-- Fill a line with the newest versions at its home (R83); what it replaces loses its poison (R364). -/
def fillLine (s : State) (cid key pa : Nat) : State :=
  let line := canonPa pa / 64 * 64
  (List.range 8).foldl (fun s i =>
    let a := line + 8 * i
    let (w, s) := s.homeWord a
    s.cacheWord cid key a w) (s.arrClear (icacheArr cid line) 64)

/-- A doubleword is held in a cache and poisoned there (R364). -/
def cacheBad (s : State) (cid key pa : Nat) : Bool :=
  !s.arrPoison.isEmpty && (s.cachedWord cid key pa).isSome && s.arrPoisoned (icacheArr cid (canonPa pa)) 8

/-- A doubleword as a fetch gets it: from a line filled now, the newest; from one filled before, the doubleword it holds
or the newest, chosen freely (R83, R84). None when the line is absent and is not to be filled. -/
def fetchWord (s : State) (cid key pa : Nat) (fill : Bool) : Option (DWord × State) :=
  match s.cachedWord cid key pa with
  | none =>
    if fill then
      let s := s.fillLine cid key pa
      some ((s.cachedWord cid key pa).getD 0, s)
    else none
  | some o =>
    let (w, s) := s.homeWord pa
    if o = w then some (w, s)
    else
      let (b, s) := s.freeBool
      some (if b then (o, s) else (w, s.cacheWord cid key pa w))

/-- Fetch `n` doublewords for a team at a level, each translated with execute permission (R83).
(DEDUCED, log entry 23) -/
def fetchFrom (s : State) (cid tid : Nat) (level : Level) (key : Nat) (fill : Bool) (va : Nat) : Nat → List DWord → Fetched
  | 0, l => .got l s
  | n + 1, l =>
    let (r, s) := s.translate cid tid level ⟨false, false, true⟩ (va % 2 ^ 56)
    match r with
    | .page => .page (va % 2 ^ 56) s
    | .wait => .absent
    | .perm => .noExec s
    | .unbacked => .unbacked (va % 2 ^ 56) s
    | .badGroup => .badGroup (va % 2 ^ 56) s
    | .poison pa => .poison pa s
    | .ok pa _ =>
      if (s.cachedWord cid key pa).isNone && !s.homesReady [pa] then .absent
      else if s.poisoned pa 8 || s.cacheBad cid key pa then .poison pa s
      else
        match s.fetchWord cid key pa fill with
        | some (w, s) => fetchFrom s cid tid level key fill (va + 8) n (l ++ [w])
        | none => .absent

/-- Fetch a whole clause: its header, then COUNT + 1 doublewords (R83). (DEDUCED, log entry 23) -/
def fetchClause (s : State) (cid tid : Nat) (level : Level) (key : Nat) (fill : Bool) (pc : Addr) : Fetched :=
  match s.fetchFrom cid tid level key fill pc.toNat 1 [] with
  | .got l s => s.fetchFrom cid tid level key fill (pc.toNat + 8) (hdrCount (l.headD 0)) l
  | r => r

/-- The clause a gang of a group stands at, as its core fetches it from what it has cached. -/
def clauseAt (s : State) (cid gid gang : Nat) : Fetched :=
  s.fetchClause cid (tidOf gid) (s.group gid).level (s.team (tidOf gid)).ctx false (s.slice gid gang).pc

/-- The cause of a trap at a clause header (R337). (DEDUCED, log entry 23) -/
def hdrCause (code reason : Nat) (addr : Nat) (pc : Addr) : Cause :=
  { code := code, reason := reason, info := 0, addr := BitVec.ofNat 64 addr, fpc := pc, aux := [] }

/-- A gang's fetch ends. -/
def groupFetch (s : State) (gid lead : Nat) : State :=
  let t := s.team (tidOf gid)
  let x := s.slice gid lead
  let is := s.gangOf gid x.gang
  if x.st != .ganged || !s.groupFree t.core gid || x.pc.toNat % 8 != 0 then s
  else
    match s.fetchClause t.core (tidOf gid) (s.group gid).level t.ctx true x.pc with
    | .got _ s => s
    | .absent => s
    | .page va s => s.serviceFault ⟨t.core, 0, gid, is, x.pc, x.ix, 0⟩ va .fetch x.pc
    | .noExec s => s.takeTrap gid (hdrCause 6 0 x.pc.toNat x.pc)
    | .unbacked va s => s.takeTrap gid (hdrCause 11 1 va x.pc)
    | .badGroup va s => s.takeTrap gid (hdrCause 11 2 va x.pc)
    | .poison pa s => s.consume (tidOf gid) pa

/-- A sequencer at a clause boundary: an MSTOP that is due is answered first, also by one that is WAITING, or no longer runs;
then its fetch ends: it issues the clause, waits for an answer, or faults (R273, R298, R362). A multicast window without a
valid group gives reason 3. (DESIGN CHOICE, log entry 87) -/
def streamFetch (s : State) (q : Nat) : State :=
  let x := s.seqr q
  let tid := s.leadTeam q
  let t := s.team tid
  if (sget s.seqrs q).isNone || t.st != .running || (s.ctx t.ctx).killing.isSome then s
  else if s.stopDue q && (x.st == .idle || x.st == .faulted) then s.answerStop q 0
  else if s.stopDue q && (x.st == .waiting || x.words.isEmpty) then s.seqStop q x.pc
  else if x.st != .running || !x.words.isEmpty || x.fault.isSome || s.leaving tid then s
  else if x.pc.toNat % 8 != 0 then s.seqFault q 1 x.pc none
  else
    match s.fetchClause t.core tid .l0 (4096 + q) true x.pc with
    | .absent => s
    | .got l s =>
      if streamBad (l.headD 0) (l.drop 1) then s.seqFault q 1 x.pc none
      else s.modSeqr q fun x => { x with words := l.drop 1, ix := 0 }
    | .page _ s => s.modSeqr q fun x => { x with fault := some 0 }
    | .noExec s => s.seqFault q 3 x.pc none
    | .unbacked _ s => s.seqFault q 3 x.pc none
    | .badGroup _ s => s.seqFault q 3 x.pc none
    | .poison pa s => s.consume tid pa

end State

/-- CLAUSE_FETCH_DONE: a whole clause is fetched for the gang of a slice, or, for a slice number of 8 or more, for
sequencer `gid` (R83, R84, R298). (DEDUCED, log entry 23) -/
def execClauseFetchDone (gid slice : Nat) (s : State) : Host.Outcome State Fault Refusal :=
  .next (if 8 ≤ slice then (s.streamFetch gid).settle else s.groupFetch gid slice)

/-! ### Asynchronous traps (R338) -/

/-- The order in which pending asynchronous traps are taken: 17, 18, 14, 19 (R338). -/
def asyncRank (c : Cause) : Nat := match c.code with | 17 => 0 | 18 => 1 | 14 => 2 | _ => 3

/-- The first pending trap to take: its place in the list, and the trap. -/
def firstAsync (l : List Cause) : Option Cause :=
  l.foldl (fun best c =>
    match best with
    | some b => if asyncRank c < asyncRank b then some c else some b
    | none => some c) none

namespace State

/-- An instruction that an asynchronous trap waits for: TXCOMMIT, MSTOP or FENCE under way (R338).
(DEDUCED, log entry 21) -/
def completing (o : Op) : Bool :=
  !o.done && ((o.blocks && o.ctr.isNone) || o.stages.any fun x => match x with | .awaitStream _ => true | _ => false)

/-- A pending asynchronous trap may be taken: the group is in no handler, and waits for no instruction.
(DEDUCED, log entry 21) -/
def asyncDue (s : State) (gid : Nat) : Bool :=
  let g := s.group gid
  !g.asyncs.isEmpty && g.frame.isNone && g.trapWait.isNone && !g.ops.any completing

/-- A slice of the group is blocked where it takes the trap at once. -/
def hasBlocked (s : State) (gid : Nat) : Bool :=
  (s.sliceNos gid).any fun i =>
    match (s.slice gid i).st with
    | .regangWait => true | .blockedBwait => true | .blockedAcc => true | .ganged => false | .done => false

/-- Where the lowest live slice stands: a header, or the instruction that blocks it. (DEDUCED, log entry 21) -/
def standing (s : State) (gid : Nat) : Addr :=
  let x := s.slice gid ((s.liveSlices gid).headD 0)
  if x.st == .ganged && x.ix = 0 then x.pc else x.pc + BitVec.ofNat 56 (8 + 8 * x.ix)

/-- Take the first pending asynchronous trap of a group. (DEDUCED, log entry 21) -/
def takeAsync (s : State) (gid : Nat) : State :=
  match firstAsync (s.group gid).asyncs with
  | none => s
  | some c =>
    let pc := s.standing gid
    (s.modGroup gid fun g => { g with asyncs := g.asyncs.erase c }).takeTrap gid { c with fpc := pc }

/-! ### What may start (R48, R49) -/

end State

/-- A clause that a pipe may start: its gang, its doublewords, and whether its selection traps. -/
structure Cand where
  gid : Nat
  gang : Nat
  slices : List Nat
  hdr : Addr
  head : DWord
  words : List DWord
  bad : Bool
  deriving DecidableEq, Repr

namespace State

/-- The conditions of a header hold, and DIST of the first instruction has elapsed (R48). -/
def headerReady (s : State) (gid : Nat) (h first : DWord) : Bool :=
  let g := s.group gid
  (List.range 12).all (fun f => hdrWaits h / 2 ^ f % 2 = 0 || !s.flagBusy gid f)
    && [Ctr.loads, .stores, .copies, .tiles].all (fun k => hdrLimit h k = 63 || s.counter gid k ≤ hdrLimit h k)
    && g.lastC + g.lastL + dfld first 49 3 ≤ s.clock

/-- The candidate a gang of a group is, if it may start. -/
def candOf (s : State) (cid gid gang : Nat) : Option Cand :=
  let x := s.slice gid gang
  let is := s.gangOf gid gang
  let c (h : DWord) (ws : List DWord) (bad : Bool) : Cand :=
    { gid := gid, gang := gang, slices := is, hdr := x.pc, head := h, words := ws, bad := bad }
  if x.pc.toNat % 8 != 0 then some (c 0 [] true)
  else
    match s.clauseAt cid gid gang with
    | .got l _ =>
      let h := l.headD 0
      let ws := l.drop 1
      if clauseBad h ws || ws.length ≤ x.ix then some (c h ws true)
      else if s.headerReady gid h (ws.getD x.ix 0) then some (c h ws false)
      else none
    | _ => none

/-- Candidates of a core: of groups in no pipe, which may issue. -/
def cands (s : State) (cid : Nat) : List Cand :=
  ((s.groupsOn cid).filter fun g => s.groupFree cid g).flatMap fun g => (s.gangs g).filterMap (s.candOf cid g)

/-- GSCHED.AGE of a core; 0 reads as 64 (R336). -/
def ageOf (s : State) (cid : Nat) : Nat := if (s.core cid).age = 0 then 64 else (s.core cid).age.toNat

/-- The first of the least by a rank. -/
def leastBy (rank : Cand → Nat) (l : List Cand) : Option Cand :=
  l.foldl (fun best c =>
    match best with
    | some b => if rank c < rank b then some c else some b
    | none => some c) none

/-- The communication group of its team (R315). -/
def isComm (s : State) (gid : Nat) : Bool := (s.launchOf (tidOf gid)).comm && groupNo gid = 0

/-- The clauses a pipe chooses among, and whether their being class 2 decides: groups that have waited GSCHED.AGE come first,
then eligible class 2 clauses of a communication group (R49, R315). -/
def pickPool (s : State) (cid : Nat) (l : List Cand) : List Cand × Bool :=
  let old := l.filter fun c => (s.group c.gid).lastStart + s.ageOf cid ≤ s.clock
  let comm := l.filter fun c => s.isComm c.gid && !c.bad && hdrClass c.head = 2
  if !old.isEmpty then (old, false) else if !comm.isEmpty then (comm, true) else (l, false)

/-- The group a pipe selects: of those that have waited GSCHED.AGE the one that has waited longest, otherwise the next after
the last one the pipe selected (R49). Of groups that have waited equally long the one in the lowest slot is taken (DESIGN
CHOICE, log entry 70). -/
def pickGroup (s : State) (cid pipe : Nat) (l : List Cand) : Option Cand :=
  let slot (c : Cand) : Nat := (s.group c.gid).slot
  let rr := if pipe = 0 then (s.core cid).rr0 else (s.core cid).rr1
  let since (c : Cand) : Nat := (s.group c.gid).lastStart
  if l.any fun c => since c + s.ageOf cid ≤ s.clock then leastBy (fun c => since c * 32 + slot c) (s.pickPool cid l).1
  else leastBy (fun c => (slot c + 31 - rr % 32) % 32) (s.pickPool cid l).1

/-- What a pipe selects: within the group, the eligible gang that started a clause least recently, of those with a class 2
clause where that has put the group first (R49, R315); of gangs that started one equally long ago, the lowest in number
(DESIGN CHOICE, log entry 70). -/
def pick (s : State) (cid pipe : Nat) : Option Cand :=
  let l := s.cands cid
  let pool := s.pickPool cid l
  match s.pickGroup cid pipe l with
  | none => none
  | some g =>
    leastBy (fun c => (s.slice c.gid c.gang).lastStart) ((if pool.2 then pool.1 else l).filter fun c => c.gid == g.gid)

/-- A group with a blocked slice that takes a pending trap at once. (DEDUCED, log entry 21) -/
def blockedAsync (s : State) (cid : Nat) : Option Nat :=
  (s.groupsOn cid).find? fun g => s.groupFree cid g && s.asyncDue g && s.hasBlocked g

/-- Results that a clause's wait covers may be read from now on (R79). (DEDUCED, log entry 25) -/
def coverHazards (s : State) (gid : Nat) (h : DWord) : State :=
  let covered (x : Hazard) : Bool :=
    (x.sig.any fun f => hdrWaits h / 2 ^ f % 2 = 1)
      || x.ctr.any fun k => hdrLimit h k != 63 && hdrLimit h k ≤ x.after
  s.modGroup gid fun g => { g with hazards := g.hazards.filter fun x => !covered x }

/-- Start a candidate's clause in a pipe (R49); a clause with REGION = 1 is a region entry (R345). -/
def startClause (s : State) (cid pipe : Nat) (c : Cand) : State :=
  let now := s.clock
  let slot := (s.group c.gid).slot
  let r : Run := { gid := c.gid, slices := c.slices, hdr := c.hdr, words := c.words }
  let s := s.modCore cid fun k => if pipe = 0 then { k with pipe0 := some r, rr0 := slot } else { k with pipe1 := some r, rr1 := slot }
  let s := (s.modGroup c.gid fun g => { g with lastStart := now }).modSlices c.gid c.slices fun x => { x with lastStart := now }
  let s := (s.coverHazards c.gid c.head).modTeam (tidOf c.gid) fun t => { t with clauses := t.clauses + 1 }
  if dfld c.head 16 1 = 1 && (s.slice c.gid c.gang).ix = 0 then s.regionEntry c.gid c.slices else s

/-- The pipe's selection of a candidate: an asynchronous trap of its group, the trap of an illegal clause, or the start
of the clause. (DEDUCED, log entry 21) -/
def select (s : State) (cid pipe : Nat) (c : Cand) : State :=
  let s := match s.clauseAt cid c.gid c.gang with | .got _ t => t | _ => s
  if s.asyncDue c.gid then s.takeAsync c.gid
  else if c.bad then (s.standAt c.gid c.slices c.hdr 0).takeTrap c.gid (hdrCause 3 0 c.hdr.toNat c.hdr)
  else s.startClause cid pipe c

/-- A pipe of a core executes no clause: it has none, and the lanes of its last instruction are free (R29, R49). -/
def pipeFree (s : State) (cid pipe : Nat) : Bool :=
  let k := s.core cid
  let (r, p) := if pipe = 0 then (k.pipe0, k.pace0) else (k.pipe1, k.pace1)
  s.working && s.coreIssues cid && pipe < 2 && r.isNone && p.free ≤ s.clock

/-- A pipe may select now: pipe 1 only what pipe 0 has left (R49). -/
def mayPick (s : State) (cid pipe : Nat) : Bool := s.pipeFree cid pipe && !(pipe = 1 && s.pipeFree cid 0)

end State

/-- CLAUSE_START: an issue pipe that executes no clause selects an eligible group and starts a clause of its gang (R48,
R49, R64, R315, R338). -/
def execClauseStart (cid pipe : Nat) (s : State) : Host.Outcome State Fault Refusal :=
  if !s.mayPick cid pipe then .next s
  else
    match s.blockedAsync cid with
    | some g => .next (s.takeAsync g)
    | none =>
      match s.pick cid pipe with
      | some c => .next (s.select cid pipe c)
      | none => .next s

/-- TRAP_ENTRY: a group whose trap waited takes a frame slot that has become free (R339, R341).
(DEDUCED, log entry 22) -/
def execTrapEntry (gid : Nat) (s : State) : Host.Outcome State Fault Refusal :=
  match (s.group gid).trapWait, s.freeSlot (s.team (tidOf gid)).core with
  | some c, some slot => .next (s.enterFrame gid slot c)
  | _, _ => .next s

/-! ### Ageing (R33, R34) -/

/-- A slice's ageing counter has reached its threshold and the slice stands at a clause boundary. -/
def State.ageDue (s : State) (gid i : Nat) : Bool :=
  let x := s.slice gid i
  x.st == .ganged && x.ix = 0 && !s.restarting gid i
    && match x.stack with
      | [] => false
      | e :: _ => e.age + (s.launchOf (tidOf gid)).ageLimit ≤ s.cycles gid

/-- The ageing switch in one slice: the two paths change places, or, with no pending path, the counter restarts.
(DEDUCED, log entry 24) -/
def ageSwitch (now : Nat) (x : Slice) : Slice :=
  match x.stack with
  | [] => x
  | e :: rest =>
    match e.pend with
    | none => { x with stack := { e with age := now } :: rest }
    | some p =>
      { x with
        stack := { e with age := now, pend := some { pc := x.pc, path := x.path, exec := x.exec } } :: rest
        pc := p.pc
        path := less p.path x.exited
        exec := less p.exec x.exited }

/-- AGEING_SWITCH: the slices of a gang whose counters are due switch together; the gang parts by where they then stand
(R30, R33, R34). (DEDUCED, log entry 24) -/
def execAgeingSwitch (gid slice : Nat) (s : State) : Host.Outcome State Fault Refusal :=
  let cid := (s.team (tidOf gid)).core
  if s.ageDue gid slice && !s.inPipe cid gid then
    let is := s.gangOf gid (s.slice gid slice).gang
    let now := s.cycles gid
    .next ((s.modSlices gid (is.filter (s.ageDue gid)) (ageSwitch now)).formByPc gid is)
  else .next s

/-- The cycle count of the first arrival at REGANG. (DEDUCED, log entry 24) -/
def State.firstArrival (s : State) (gid : Nat) : Option Nat :=
  ((s.sliceNos gid).filter fun i => (s.slice gid i).st == .regangWait).foldl (fun best i =>
    let n := (s.slice gid i).waitFrom
    match best with
    | some b => some (Nat.min b n)
    | none => some n) none

/-- REGANG_TIMEOUT: the slices waiting at REGANG are released once the threshold has passed since the first arrival (R31).
(DEDUCED, log entry 24) -/
def execRegangTimeout (gid : Nat) (s : State) : Host.Outcome State Fault Refusal :=
  match s.firstArrival gid with
  | some n => .next (if n + (s.launchOf (tidOf gid)).ageLimit ≤ s.cycles gid then s.regangRelease gid else s)
  | none => .next s

end Sys2Proof.Machine
end

