-- ==== Sys2Proof/Machine/Field.lean ====
section
/-! DEFINITION. Strikes, array errors, failed routers and channels, field failures of cores, and the in-field test (R13,
R17, R19, R20, R24, R324, R362 to R367). -/

namespace Sys2Proof.Machine

/-! ### Remap tables (R17, R19, R20) -/

/-- Physical positions a table lists. -/
def nonVoid (t : List (Option Nat)) : List Nat := t.filterMap id

/-- Assign rising positions to the columns that are not UNBACKED. -/
def assignCols : List (Option Nat) → List Nat → List (Option Nat)
  | [], _ => []
  | none :: t, ps => none :: assignCols t ps
  | some _ :: t, p :: ps => some p :: assignCols t ps
  | some _ :: t, [] => none :: assignCols t []

/-- Insert a position among rising ones. -/
def insertAsc (x : Nat) : List Nat → List Nat
  | [] => [x]
  | y :: l => if x < y then x :: y :: l else y :: insertAsc x l

/-- The least of a list. -/
def least (l : List Nat) : Option Nat :=
  l.foldl (fun b x => match b with | some y => some (Nat.min x y) | none => some x) none

/-- The greatest of a list. -/
def greatest (l : List Nat) : Option Nat :=
  l.foldl (fun b x => match b with | some y => some (Nat.max x y) | none => some x) none

/-- The reserve taken for a failed position: the westernmost east of it, else the easternmost west of it (R19). -/
def takeReserve (px : Nat) (rs : List Nat) : Option Nat :=
  (least (rs.filter fun r => px < r)).or (greatest (rs.filter fun r => r < px))

namespace State

/-- Reserve positions a row has left; all four spares at manufacture (R13, R19).
(DEDUCED, log entry 33; DESIGN CHOICE, log entry 61) -/
def rowReserves (s : State) (row : Nat) : List Nat := sgetD s.dev.reserves row [64, 65, 66, 67]

/-- The table and the reserves a row will have once its pending rebuilds are made. (DESIGN CHOICE, log entry 61) -/
def nextTable (s : State) (row : Nat) : List (Option Nat) × List Nat :=
  match (s.dev.rebuilds.filter fun r => r.row = row).getLast? with
  | some r => (r.table, r.reserves)
  | none => (s.rowTable row, s.rowReserves row)

/-- The column of a row that a rebuild's failed position still carries; 64 when none does. -/
def failedCol (s : State) (r : Rebuild) : Nat := (s.rowTable r.row).idxOf (some r.failed)

/-- Columns whose physical column a rebuild changes. -/
def movingCols (s : State) (r : Rebuild) : List Nat :=
  (List.range 64).filter fun c => r.table.getD c none != (s.rowTable r.row).getD c none

/-- Begin the vacation of every running cluster with a team on one of these cores, where save slots allow. -/
def vacateOn (s : State) (cids : List Nat) (only : Option Nat) : State :=
  let hit (c : Cluster) : Bool :=
    c.st == .placed && c.vacating.isNone && (only.all fun p => c.part = p)
      && c.teams.any fun t => !s.teamGone t && cids.contains (s.team t).core
  (skeysWhere s.clusters hit).foldl (fun s c => if s.hasSlots c then s.beginVacate c none else s) s

/-- Record in the Gazebo's fault store: 0 a fence, 1 a shrink, 2 a retired channel (R21, R364). -/
def logFault (s : State) (kind a b : Nat) : State := s.modDev fun d => { d with faultLog := d.faultLog ++ [(kind, a, b)] }

/-- The partition whose rectangle includes a logical position. -/
def ownerOf (s : State) (x y : Nat) : Option Nat := (skeysWhere s.parts fun p => p.live && posIn (x, y) p.rect).head?

/-- The partition that gives up a column: the lowest priority among those that include the row and are wider than one
column, the highest number on a tie (R20). -/
def shrinkChoice (s : State) (row : Nat) : Option Nat :=
  let ok := skeysWhere s.parts fun p => p.live && p.y0 ≤ row && row < p.y0 + p.h && 1 < p.w
  ok.foldl (fun best p =>
    match best with
    | some b => if (s.part p).priority ≤ (s.part b).priority then some p else some b
    | none => some p) none

/-- Vacate what stands on the positions that a rebuild moves, and the clusters of a shrinking partition on the column it gives
up (R19, R20). -/
def vacateFor (s : State) (r : Rebuild) : State :=
  let s := s.vacateOn ((s.movingCols r).map fun c => cidOf c r.row) none
  match r.shrink with
  | some p => s.vacateOn ((List.range 32).map fun y => cidOf r.col y) (some p)
  | none => s

/-- Queue a rebuild, and vacate what it moves (R19, R20). -/
def pushRebuild (s : State) (r : Rebuild) : State :=
  (s.vacateFor r).modDev fun d => { d with rebuilds := d.rebuilds ++ [r] }

/-- The failed position becomes a void and no other moves: the column that the table to come gives it is UNBACKED (R20 steps
1 and 7). -/
def dropColumn (s : State) (y px : Nat) (base : List (Option Nat)) (rs : List Nat) : State :=
  let xf := base.idxOf (some px)
  ((s.logFault 1 y xf).pushRebuild { row := y, failed := px, table := base.set xf none, reserves := rs, shrink := none, col := xf }).emit
    (.report "Gazebo: column unbacked")

/-- The supervisor of a partition is told of a change to it (R20, R380). -/
def tellSupervisor (s : State) (p : Nat) (what : String) : State := (s.emit (.report what)).emit (.irq (p + 1) 3)

/-- The row gives up one logical column (R20); the fault store has it from now on (R21). -/
def shrinkRow (s : State) (x y px : Nat) (base : List (Option Nat)) (rs : List Nat) : State :=
  match s.ownerOf x y with
  | none => s.dropColumn y px base rs
  | some own =>
    match s.shrinkChoice y with
    | none =>
      let s := ((s.bringDown own).modPart own fun p => { p with live := false }).tellSupervisor own "supervisor: partition killed"
      (s.dropColumn y px base rs).emit (.report "Gazebo: partition killed by a field failure")
    | some p =>
      let q := s.part p
      let xe := q.x0 + q.w - 1
      let s := s.modPart p fun q => { q with w := q.w - 1 }
      let t := assignCols (base.set xe none) ((nonVoid base).erase px)
      (s.logFault 1 y xe).pushRebuild { row := y, failed := px, table := t, reserves := rs, shrink := some p, col := xe }

/-- A core fails in the field: it is fenced, and its row takes a reserve position or gives up a column (R19, R20).
(DEDUCED, log entries 32 and 33) -/
def fieldFail (s : State) (x y : Nat) : State :=
  let cid := cidOf x y
  match (s.rowTable y).getD x none with
  | none => s
  | some px =>
    if (s.core cid).fenced || 64 ≤ x || 32 ≤ y then s
    else
      let s := (s.modCore cid fun k => { k with fenced := true, pipe0 := none, pipe1 := none }).logFault 0 y px
      let (base, rs) := s.nextTable y
      match takeReserve px rs with
      | some r =>
        s.pushRebuild
          { row := y, failed := px, table := assignCols base (insertAsc r ((nonVoid base).erase px))
            reserves := rs.erase r, shrink := none, col := x }
      | none => s.shrinkRow x y px base rs

end State

/-- CORE_FIELD_FAILURE (R19, R20). (DESIGN CHOICE, log entry 31) -/
def execCoreFieldFailure (x y : Nat) (s : State) : Host.Outcome State Fault Refusal := .next (s.fieldFail x y).settle

/-! ### The rebuild (R19, R20) -/

namespace State

/-- The old column whose physical core a new table gives to column `c`; none when the core comes from a reserve. -/
def sourceCol (s : State) (r : Rebuild) (c : Nat) : Option Nat :=
  match r.table.getD c none with
  | none => none
  | some p => (List.range 64).find? fun d => (s.rowTable r.row).getD d none = some p

/-- The record of the core that will carry column `c`. (DEDUCED, log entry 33) -/
def movedCore (s : State) (r : Rebuild) (c : Nat) : Core :=
  if (r.table.getD c none).isNone then { Core.fresh with fenced := true }
  else match s.sourceCol r c with
    | some d => s.core (cidOf d r.row)
    | none => Core.fresh

/-- Scratchpad bytes (or sectors, with `unit` 32) of the moving positions: the plane regions stay with their position,
the rest goes with its core. (DEDUCED, log entry 33) -/
def movedKeys {α : Type} (s : State) (r : Rebuild) (unit : Nat) (m : List (Nat × α)) : List (Nat × α) :=
  let cols := s.movingCols r
  let per := 2 ^ 19 / unit
  let inRegion (cid o : Nat) : Bool := (s.regionsOn cid fun _ _ => true).any fun g => g.1 ≤ o && o < g.1 + g.2
  let backed (c : Nat) : Bool := (r.table.getD c none).isSome
  let stay := m.filter fun e =>
    let cid := e.1 / per
    !(cid / 64 = r.row && cols.contains (cid % 64)) || (backed (cid % 64) && inRegion cid (e.1 % per * unit))
  let go := cols.flatMap fun c =>
    match s.sourceCol r c with
    | some d => (m.filter fun e => e.1 / per = cidOf d r.row && !inRegion (cidOf c r.row) (e.1 % per * unit)).map fun e =>
        (cidOf c r.row * per + e.1 % per, e.2)
    | none => []
  stay ++ go

/-- Tile registers and outlier lists of the moving positions go with their core; `per` keys a core. -/
def movedTiles {α : Type} (s : State) (r : Rebuild) (per : Nat) (m : List (Nat × α)) : List (Nat × α) :=
  let cols := s.movingCols r
  let stay := m.filter fun e => !(e.1 / per / 64 = r.row && cols.contains (e.1 / per % 64))
  let go := cols.flatMap fun c =>
    match s.sourceCol r c with
    | some d => (m.filter fun e => e.1 / per = cidOf d r.row).map fun e => (cidOf c r.row * per + e.1 % per, e.2)
    | none => []
  stay ++ go

/-- Sectors of the failed position's plane regions that the failed core can no longer supply: a free choice (R19).
(DESIGN CHOICE, log entry 4; DEDUCED, log entry 33) -/
def lostSectors (s : State) (r : Rebuild) : List Nat × State :=
  let cid := cidOf (s.failedCol r) r.row
  let secs := ((s.regionsOn cid fun _ _ => true).flatMap fun g => (List.range (g.2 / 32)).map fun i => (scrKey cid g.1) / 32 + i).eraseDups
  secs.foldl (fun (p : List Nat × State) x =>
    let (b, s) := p.2.freeBool
    (if b then p.1 ++ [x] else p.1, s)) ([], s)

/-- Rebuild a row's table: the logical positions take their new cores. (DEDUCED, log entry 33) -/
def rebuildRow (s : State) (r : Rebuild) : State :=
  let lost : List Nat × State := if (r.table.getD (s.failedCol r) none).isSome then s.lostSectors r else ([], s)
  let s := lost.2
  let cores := (s.movingCols r).foldl (fun m c => sput m (cidOf c r.row) (s.movedCore r c)) s.cores
  let poison := (s.movedKeys r 32 (s.scrPoison.map fun x => (x, ()))).map Prod.fst
  let t := { s with
    cores := cores
    scratch := (s.movedKeys r 1 s.scratch).foldl (fun m (e : Nat × Byte) => mwrite m e.1 e.2) []
    tiles := (s.movedTiles r 32768 s.tiles).foldl (fun m (e : Nat × Byte) => mwrite m e.1 e.2) []
    tileLists := (s.movedTiles r 16 s.tileLists).foldl (fun m (e : Nat × List DWord) => sputD [] m e.1 e.2) []
    scrPoison := (poison ++ lost.1).eraseDups }
  t.modDev fun d =>
    { d with
      remap := sput d.remap r.row r.table
      reserves := sput d.reserves r.row r.reserves
      rebuilds := d.rebuilds.erase r }

/-- A launch of a partition cannot continue once column `col` is gone (R20 step 5). -/
def cutOff (s : State) (p col : Nat) (l : Launch) : Bool :=
  l.part = p && l.st != .complete && l.st != LaunchSt.killed
    && ((l.region.2 != 0 && l.rect.1 ≤ col && col < l.rect.1 + l.rect.2.2.1) || (s.parksFor l).isEmpty)

/-- Partitions that a shrink of partition `p` concerns: it, and those whose positions take other cores (R20). -/
def concerned (s : State) (p : Nat) (r : Rebuild) : List Nat :=
  (p :: (s.movingCols r).filterMap fun c => s.ownerOf c r.row).eraseDups

/-- What a shrink ends: the contexts of the launches it cuts off are killed with KIND 10, whose body is the LAUNCH.ID and
the column removed, as two doublewords; and the change is reported, to the supervisors `told` too (R20, R351).
(DEDUCED, log entry 35) -/
def afterShrink (s : State) (p col row : Nat) (told : List Nat) : State :=
  let cs := ((svals s.launches).filter (s.cutOff p col)).map fun l => (l.ctx, l.ident)
  let s := cs.foldl (fun s c =>
    s.requestKill c.1 { kind := 10, launch := c.2, reason := 0, gslot := 0, cid := cidOf col row, body := leBytes 8 c.2 ++ leBytes 8 col }) s
  told.foldl (fun s q => s.tellSupervisor q "supervisor: partition shrunk") (s.emit (.report "Gazebo: partition shrunk"))

/-- Nothing occupies the positions a rebuild changes, nor, of the shrinking partition, the column it gives up. -/
def rebuildFree (s : State) (r : Rebuild) : Bool :=
  (s.movingCols r).all (fun c => s.queuesEmpty (cidOf c r.row))
    && r.shrink.all fun p =>
      (List.range 32).all fun y =>
        !s.emptying (cidOf r.col y) && (s.teamsOn (cidOf r.col y)).all fun t => (s.team t).part != p

end State

/-- ROW_REMAP_REBUILD: the first rebuild that waits for a row is made once its positions are empty; until then what stands
there is vacated as save slots become free (R19, R20). (DEDUCED, log entry 33) -/
def execRowRemapRebuild (row : Nat) (s : State) : Host.Outcome State Fault Refusal :=
  match s.dev.rebuilds.find? fun r => r.row = row with
  | none => .next s
  | some r =>
    if !s.rebuildFree r then .next (s.vacateFor r)
    else
      match r.shrink with
      | some p => .next ((s.rebuildRow r).afterShrink p r.col row (s.concerned p r)).settle
      | none => .next (s.rebuildRow r)

/-! ### Strikes and power (R24, R362, R363) -/

namespace State

/-- What a group produced in the last 128 cycles comes anew 128 cycles later: registers, flags, counts and its next issue
(R362); its running cycles, and the time it has waited for a clause, stand still for as long (R382).
(DEDUCED, log entry 32) -/
def redoGroup (now : Nat) (g : Group) : Group :=
  let later (c : Nat) : Nat := if now ≤ c + Config.settleCycles then c + Config.settleCycles else c
  { g with
    lastC := later g.lastC
    lastStart := g.lastStart + Config.settleCycles
    cycAcc := if g.cycRun then g.cycAcc + (now - g.cycFrom) else g.cycAcc
    cycFrom := if g.cycRun then Nat.max g.cycFrom now + Config.settleCycles else g.cycFrom
    timedFlags := g.timedFlags.map fun f => (f.1, later f.2)
    hazards := g.hazards.map fun h => { h with ready := h.ready.map later } }

/-- What a sequencer has been given and has not yet taken out of the settle window is given anew (R362). -/
def redoSeqr (now : Nat) (x : Seqr) : Seqr :=
  let anew (c : Nat) : Nat := if now < c then now + Config.settleCycles else c
  { x with lastC := anew x.lastC, stop := x.stop.map fun p => (p.1, p.2.1, anew p.2.2) }

/-- A core discards what it produced in the last 128 cycles and re-executes: packets that wait in the settle buffer wait
anew, as do its own scratchpad writes and the commands handed to its engines; what has left the buffer stands. Values are those
that the re-execution gives; only their time shows (R362, R363). (DEDUCED, log entry 32) -/
def redo (s : State) (cid : Nat) : State :=
  let now := s.clock
  let mine (tid : Nat) : Bool := (s.team tid).core == cid && (s.team tid).st != .suspended
  let again (p : Packet) : Packet :=
    if !p.isRead && p.held && p.src == .core cid && now ≤ p.born + Config.settleCycles && !p.queued then { p with born := now } else p
  let s := { s with
    packets := s.packets.map fun (e : Nat × Packet) => (e.1, again e.2)
    cmds := s.cmds.map fun (e : Nat × Cmd) =>
      if mine e.2.tid && now < e.2.born + Config.settleCycles then (e.1, { e.2 with born := now }) else e
    seqrs := s.seqrs.map fun (e : Nat × Seqr) => if mine e.2.tid then (e.1, redoSeqr now e.2) else e
    settling := s.settling.map fun (x : Nat × Nat × Nat) => if x.1 / 2 ^ 19 = cid && now < x.2.2 then (x.1, x.2.1, now + Config.settleCycles) else x }
  let s := (s.groupsOn cid).foldl (fun s g => s.modGroup g (redoGroup now)) s
  (s.teamsOn cid).foldl (fun s t => s.modTeam t fun t =>
    { t with fpLate := t.fpLate.map fun (p : Nat × Word) => if now < p.1 then (p.1 + Config.settleCycles, p.2) else p }) s

/-- A recovery of a core is counted; more than 16 in 2^20 cycles fence it (R359, R363). -/
def recovered (s : State) (cid : Nat) : State :=
  let now := s.clock
  let s := s.modCore cid fun k =>
    { k with strikes := k.strikes + 1, strikeLog := now :: k.strikeLog.filter fun c => now < c + 2 ^ 20 }
  if 16 < (s.core cid).strikeLog.length && !isSys cid then (s.fieldFail (cid % 64) (cid / 64)).settle else s

end State

/-- STRIKE_REPORT: a core recovers from a strike; or the two copies of a sequencer of it disagree, and its instruction is issued again (R362, R363). (DESIGN CHOICE, log entry 31; DEDUCED, log entry 32) -/
def execStrikeReport (x : Strike) (s : State) : Host.Outcome State Fault Refusal :=
  match x with
  | .core cid => .next (if (s.core cid).fenced then s else (s.redo cid).recovered cid)
  | .seqr cid q =>
      let now := s.clock
      if !(s.core cid).fenced && (sget s.seqrs q).isSome && (s.team (s.seqr q).tid).core = cid then
        .next ((s.modSeqr q fun x => { x with lastC := now }).recovered cid)
      else .next s

/-- POWER_LIMIT: idle cycles are inserted into issue, across all cores alike, and counted (R24). CLOCK takes them; every
duration of the machine grows by them, so that nothing comes nearer its end (R382). -/
def execPowerLimit (cycles : Nat) (s : State) : Host.Outcome State Fault Refusal :=
  .next (s.modDev fun d => { d with powerCycles := d.powerCycles + cycles, inserted := d.inserted + cycles })

/-! ### Array errors (R364), routers (R324) -/

/-- First address that stands for a bit of a packet in flight: packet number times 2^16, and its bit. (DESIGN CHOICE, log
entry 31) -/
def wireBase : Nat := 2 ^ 70

namespace State

/-- A bit of a packet in flight changes (R321). -/
def flipBit (s : State) (k b : Nat) : State :=
  match sget s.packets k with
  | some p =>
    if p.held || p.wireBits ≤ b then s
    else { s with packets := sput s.packets k { p with flips := if p.flips.contains b then p.flips.erase b else b :: p.flips } }
  | none => s

/-- The 32-byte sector of a byte is poisoned: of memory, from 2^52 on of the scratchpads, from 2^53 on of the other arrays
(R364). (DESIGN CHOICE, log entry 31) -/
def poisonAt (s : State) (pa : Nat) : State :=
  if pa < 2 ^ 52 then
    let x := canonPa pa / 32
    if s.poison.contains x || !s.backed pa then s else { s with poison := x :: s.poison }
  else if pa < 2 ^ 53 then
    let x := (pa - 2 ^ 52) / 32
    if s.scrPoison.contains x then s else { s with scrPoison := x :: s.scrPoison }
  else if s.arrPoison.contains (pa / 32) then s else { s with arrPoison := pa / 32 :: s.arrPoison }

end State

/-- ARRAY_UNCORRECTABLE_ERROR: an array error, or a changed bit on a link. One that the check bits correct is written back
and logged in the Gazebo's error log; any other poisons its sector (R321, R364). (DESIGN CHOICE, log entry 31) -/
def execArrayUncorrectableError (x : ArrayError) (s : State) : Host.Outcome State Fault Refusal :=
  let hit (pa : Nat) (t : State) : State :=
    if wireBase ≤ pa then s.flipBit ((pa - wireBase) / 2 ^ 16) ((pa - wireBase) % 2 ^ 16) else t
  .next
    (match x with
    | .corrected pa => hit pa (s.modDev fun d => { d with errorLog := d.errorLog ++ [pa] })
    | .uncorrectable pa => hit pa (s.poisonAt pa))

namespace State

/-- A channel fails: every line it owns is poisoned, and it is recorded as retired (R364).
(DEDUCED, log entry 34) -/
def channelFail (s : State) (chan : Nat) : State :=
  if 2048 ≤ chan || s.dev.failedChans.contains chan then s
  else
    ((s.modDev fun d => { d with failedChans := chan :: d.failedChans }).logFault 2 chan 0).emit (.report "Fjondan: channel failed")

end State

/-- HOME_CHANNEL_FAILURE (R364). (DESIGN CHOICE, log entry 31; DEDUCED, log entry 34) -/
def execHomeChannelFailure (chan : Nat) (s : State) : Host.Outcome State Fault Refusal := .next (s.channelFail chan)

/-- Routers around a position. -/
def aroundRouter (px py : Nat) : List (Nat × Nat) :=
  [(px + 1, py), (px - 1, py), (px, py + 1), (px, py - 1)].filter fun p => p != (px, py) && p.1 < 68 && p.2 < 32

/-- ROUTER_DEATH: Fjondan installs detour entries around the router, traffic follows them on ESC, and the position's home and channel are out of reach (R324, R364). The
channels are those of the positions active at manufacture (R178); packets in flight whose route meets it move to ESC.
(DESIGN CHOICE, log entry 31; DEDUCED, log entry 34) -/
def execRouterDeath (px py : Nat) (s : State) : Host.Outcome State Fault Refusal :=
  if 68 ≤ px || 32 ≤ py || s.dev.deadRouters.contains (px, py) then .next s
  else
    let s := s.modDev fun d =>
      { d with
        deadRouters := (px, py) :: d.deadRouters
        detours := d.detours ++ (aroundRouter px py).map fun p => (p, (px, py)) }
    let s := { s with packets := s.packets.map fun e =>
      (e.1, { e.2 with esc := e.2.esc || (!e.2.held && s.routeDead e.2.src e.2.dst) }) }
    let col := (sgetD s.dev.made py ((List.range 64).map some)).idxOf (some px)
    .next (if col < 64 then s.channelFail (py * 64 + col) else s)

/-- ESC_TIMEOUT: the head of a stream that has been held there for 2048 cycles travels on ESC from then on (R324). -/
def execEscTimeout (pkt : Nat) (s : State) : Host.Outcome State Fault Refusal :=
  match s.deliverable pkt with
  | some p => .next (if !p.esc && p.since + 2048 ≤ s.clock then { s with packets := sput s.packets pkt { p with esc := true } } else s)
  | none => .next s

/-! ### The in-field test (R365 to R367) -/

/-- TEST_WINDOW_START: the next park's window starts TEST.INTERVAL cycles after the previous one (R365).
(DEDUCED, log entry 50) -/
def execTestWindowStart (s : State) : Host.Outcome State Fault Refusal :=
  if s.dev.st != .service || s.clock < s.dev.testNext || !s.dev.testLeft.isEmpty then .next s
  else
    let now := s.clock
    let k := if s.dev.testWindows.isEmpty then 0 else (s.dev.testPark + 1) % 128
    let cores := ((rectCells (parkRect k)).map fun p => cidOf p.1 p.2).filter fun c => !(s.core c).fenced
    .next (s.modDev fun d =>
      { d with
        testPark := k, testLeft := cores, testFrom := now, testFailed := false, testNext := now + d.testInterval
        testWindows := sput d.testWindows k (sgetD d.testWindows k 0 + 1)
        testStart := sput (sput d.testStart (2 * k + 1) (sgetD d.testStart (2 * k) 0)) (2 * k) now })

/-- CORE_TEST_START: the core whose turn it is starts its test once it is empty; after 2^22 cycles the cluster that
holds it is vacated (R365). (DEDUCED, log entry 50) -/
def execCoreTestStart (cid : Nat) (s : State) : Host.Outcome State Fault Refusal :=
  if s.dev.testLeft.head? != some cid || (s.core cid).testing then .next s
  else if s.queuesEmpty cid then
    let now := s.clock
    .next ((s.modCore cid fun k => { k with testing := true }).modDev fun d => { d with testFrom := now })
  else if s.dev.testFrom + 2 ^ 22 ≤ s.clock then .next (s.vacateOn [cid] none)
  else .next s

/-- The entry of a tainted export (R367). -/
def taintBytes (l : Launch) (cid seq : Nat) (ex : List (Nat × Nat)) : List Byte :=
  let (cx, cy) := State.corePos cid
  bytesOf
    [BitVec.ofNat 64 ((ex.headD (0, 0)).1 % 2 ^ 48),
      BitVec.ofNat 64 (l.ident % 2 ^ 32 * 2 ^ 32 + 6 * 2 ^ 28 + cy * 2 ^ 18 + cx * 2 ^ 12 + l.ctx % 4096),
      BitVec.ofNat 64 (Nat.min ex.length 65535 * 2 ^ 48 + (ex.getLastD (0, 0)).1 % 2 ^ 48), BitVec.ofNat 64 (seq % 2 ^ 32)]

namespace State

/-- Launches with a team on a core since a cycle. -/
def hostedSince (s : State) (cid from_ : Nat) : List Nat := ((s.core cid).hosted.filter fun h => from_ ≤ h.2).map Prod.fst

/-- Non-replayable launches among them with exports in the span, and those exports. -/
def taintedOf (s : State) (ls : List Nat) (from_ : Nat) : List (Nat × List (Nat × Nat)) :=
  (ls.map fun k => (k, ((s.launch k).exports.filter fun e => from_ ≤ e.2))).filter fun p =>
    !rollsBack (s.launch p.1) && !p.2.isEmpty

/-- A partition's ring has room for `n` entries: at most 64 stand unanswered (R346). (DEDUCED, log entry 50) -/
def ringRoom (s : State) (p n : Nat) : Bool := ((svals (s.part p).ring).filter fun e => !e.answered).length + n ≤ 64

/-- Report a tainted export to the partition and to Fjondan (R367, R380). -/
def reportTaint (s : State) (cid : Nat) (x : Nat × List (Nat × Nat)) : State :=
  let l := s.launch x.1
  let h := (s.part l.part).head
  let entry := taintBytes l cid h x.2
  let s := (s.ringWrite l.part entry).modPart l.part fun p => { p with ring := sdel p.ring (h % 64) }
  let s := s.modDev fun d => { d with taintLog := d.taintLog ++ [entry] }
  ((s.emit (.report "supervisor: service ring")).emit (.report "Fjondan: tainted export")).emit (.irq (l.part + 1) 3)

end State

/-- CORE_TEST_DONE: the test of 2^16 cycles ends; a core that fails becomes a void, and what it may have touched is rolled
back or reported (R365, R367). (DEDUCED, log entry 50) -/
def execCoreTestDone (cid : Nat) (pass : Bool) (s : State) : Host.Outcome State Fault Refusal :=
  let from_ := sgetD s.dev.testStart (2 * s.dev.testPark + 1) 0
  let ls := s.hostedSince cid from_
  let bad := if pass then [] else s.taintedOf ls from_
  let parts := bad.map fun x => (s.launch x.1).part
  let room := parts.all fun p => s.ringRoom p (parts.filter fun q => q = p).length
  if !(s.core cid).testing || s.clock < s.dev.testFrom + 2 ^ 16 || !room then .next s
  else
    let now := s.clock
    let s := (s.modCore cid fun k => { k with testing := false }).modDev fun d =>
      { d with testLeft := d.testLeft.erase cid, testFrom := now, testFailed := d.testFailed || !pass }
    if pass then .next s
    else
      let s := s.fieldFail (cid % 64) (cid / 64)
      let again := ls.filter fun k => State.rollsBack (s.launch k) && (s.launch k).st != .complete && (s.launch k).st != LaunchSt.killed
      let s := again.foldl (fun s k => s.rollback k) s
      .next (bad.foldl (fun s x => s.reportTaint cid x) s).settle

end Sys2Proof.Machine
end

