-- ==== Sys2Proof/Machine/Platform.lean ====
section
/-! DEFINITION. Power, images, identity, partitions and evacuation (R16, R21, R343, R368 to R375). -/

namespace Sys2Proof.Machine

/-! ### Module state (R368) -/

namespace State

/-- Enter a module state, as seen from a state before: the readiness summary shows it, and the Gazebo and PF0 are told (R368,
R369, R380). -/
def enterFrom (old s : State) (st : ModState) : State :=
  old.tellReady (((s.modDev fun d => { d with st := st }).emit (.report "Gazebo: module state")).emit (.irq 0 2))

/-- Enter a module state. -/
def enter (s : State) (st : ModState) : State := s.enterFrom s st

/-- Remap tables and reserves with every pending rebuild applied: what the fault store brings back (R21).
(DEDUCED, log entry 46) -/
def settledRows (d : Dev) : Store (List (Option Nat)) × Store (List Nat) :=
  d.rebuilds.foldl (fun m r => (sput m.1 r.row r.table, sput m.2 r.row r.reserves)) (d.remap, d.reserves)

/-- Everything that holds without main power: the fault store and what it records, the stored minima, the enrolled keys
and the identity store. The rest of the state is that of reset. (DEDUCED, log entry 46) -/
def powerDown (s : State) (st : ModState) : State :=
  let d := s.dev
  let (remap, reserves) := settledRows d
  { State.reset with
    dev :=
      { State.reset.dev with
        st := st, minima := d.minima, keys := d.keys, made := d.made, remap := remap, reserves := reserves
        deadRouters := d.deadRouters, detours := d.detours, retired := d.retired, failedChans := d.failedChans, identity := d.identity
        faultLog := d.faultLog, coords := d.coords }
    out := s.out
    names := s.names
    agenda := s.agenda
    turn := s.turn
    free := s.free }

end State

/-- BUS_POWER_APPLIED (R368). -/
def execBusPowerApplied (s : State) : Host.Outcome State Fault Refusal :=
  .next (if s.dev.st == .off then s.enter .standby else s)

/-- MAIN_POWER_APPLIED: the channels that failed before are retired, so that their addresses are unbacked (R364, R368).
(DEDUCED, log entry 34) -/
def execMainPowerApplied (s : State) : Host.Outcome State Fault Refusal :=
  if s.dev.st != .standby then .next s
  else
    .next ((s.modDev fun d => { d with retired := (d.failedChans ++ d.retired).eraseDups, failedChans := [] }).enter .verify)

/-- MAIN_POWER_REMOVED (R368). (DEDUCED, log entry 46) -/
def execMainPowerRemoved (s : State) : Host.Outcome State Fault Refusal :=
  .next (if s.dev.st == .off then s else s.enterFrom (s.powerDown .standby) .standby)

/-- BUS_POWER_REMOVED (R368). (DEDUCED, log entry 46) -/
def execBusPowerRemoved (s : State) : Host.Outcome State Fault Refusal :=
  .next (if s.dev.st == .off then s else s.enterFrom (s.powerDown .off) .off)

/-! ### System cores (R16, R57, R191, R343) -/

namespace State

/-- A system core leaves reset or is started: its one group stands at an entry address (R57, R191).
(DEDUCED, log entries 8 and 44) -/
def startSys (s : State) (n : Nat) (entry : Addr) (level : Level) (ctx part : Nat) : State :=
  let cid := sysBase + n
  let s := s.eraseTeam n
  let h := s.hDev
  let now := s.clock
  let t : Team := { Team.absent with st := .running, core := cid, ctx := ctx, part := part, groups := 1, snap := h }
  let s := { s with
    teams := sput s.teams n t
    groups := sput s.groups (gidOf n 0) (Group.start 0 level now)
    cores := sput s.cores cid Core.fresh }
  s.modSlice (gidOf n 0) 0 fun _ => Slice.start entry

end State

/-! ### Images (R370) -/

/-- A little-endian field of an image. -/
def imgField (im : List Byte) (off n : Nat) : Nat := leNat ((im.drop off).take n)

/-- The body of an image. -/
def imgBody (im : List Byte) : List Byte := im.drop 0x74E0

/-- The 64 bytes of SHAKE256 over some bytes (R370, R372). -/
def digest (l : List Byte) : List Byte := leBytes 64 (Config.shake256 l).toNat

namespace State

/-- The key in a slot: the Jorvel key in slot 0, an enrolled one in slots 1 to 7 (R370). -/
def keyIn (s : State) (slot : Nat) : Option (List Byte) :=
  if slot = 0 then some [] else (sget s.dev.keys slot).map Prod.fst

/-- Bytes of a configuration body as the model lays it out: 32 remap tables of 64 entries, the harvest map's byte for each
row, in which bit i says that the i-th spare position is disabled, 128 bytes of identity, and the device's coordinates.
(DESIGN CHOICE, log entry 61) -/
def configBytes : Nat := 2048 + 32 + 128 + 3

/-- The body of a configuration image is whole, and every table entry is 0 to 67 or 0xFF (R17). -/
def configOk (body : List Byte) : Bool :=
  configBytes ≤ body.length && (body.take 2048).all fun b => b.toNat ≤ 67 || b == 0xFF

/-- The Gazebo accepts an image of a kind, for a partition's key slots where it is a partition system image (R370).
(DESIGN CHOICE, log entry 6; DEDUCED, log entry 44) -/
def imageOk (s : State) (kind : Nat) (slots : List Nat) (im : List Byte) : Bool :=
  let key := imgField im 6 2
  im.take 4 == [0x4A, 0x56, 0x49, 0x4D] && imgField im 4 2 = kind && key ≤ 7
    && imgField im 0x0C 4 = 0 && imgField im 0x60 32 = 0 && (kind = 3 || kind = 4 || imgField im 0x18 8 = 0)
    && 0x74E0 ≤ im.length && imgField im 0x10 8 = (imgBody im).length
    && (im.drop 0x20).take 64 == digest (imgBody im)
    && (s.keyIn key).any (fun k => Config.imageSigned (im.take 0x74E0) k)
    && sgetD s.dev.minima (kind * 8 + key) 0 ≤ imgField im 8 4
    && (kind != 4 || slots.contains key) && (kind != 1 || configOk (imgBody im))

/-- Record an image as verified since power-on (R372). (DEDUCED, log entry 44) -/
def noteImage (s : State) (kind : Nat) (part : Option Nat) (im : List Byte) : State :=
  s.modDev fun d => { d with images := d.images ++ [(kind, part, (im.drop 0x20).take 64, imgField im 8 4)] }

/-- A verification fails: every compute and system core is held in reset (R21, R368). -/
def holdAll (s : State) : State :=
  let s := { s with cores := (List.range 2064).map fun c => (c, { s.core c with held := true }) }
  (s.enter .held).emit (.report "Gazebo: verification failed")

/-- The remap table of a row in a configuration body (R17). -/
def imageTable (body : List Byte) (row : Nat) : List (Option Nat) :=
  ((body.drop (64 * row)).take 64).map fun b => if b == 0xFF then none else some b.toNat

/-- The reserve positions of a row in a configuration body: its spares that are not disabled (R13). -/
def imageReserves (body : List Byte) (row : Nat) : List Nat :=
  let used := nonVoid (imageTable body row)
  let spares := (List.range 68).filter fun p => !used.contains p
  ((List.range spares.length).filter fun i => !(body.getD (2048 + row) 0).getLsbD i).map fun i => spares.getD i 0

/-- A row's table and reserves with the recorded fences and shrinks applied in order: a fence takes a reserve, or, with a
shrink recorded after it, gives up that column (R19 to R21). -/
def replayRow (row : Nat) (t : List (Option Nat)) (rs : List Nat) : List (Nat × Nat × Nat) → List (Option Nat) × List Nat
  | [] => (t, rs)
  | e :: l =>
    if e.1 = 0 && e.2.1 = row then
      let left := (nonVoid t).erase e.2.2
      match takeReserve e.2.2 rs, l.head? with
      | some r, _ => replayRow row (assignCols t (insertAsc r left)) (rs.erase r) l
      | none, some (1, _, col) => replayRow row (assignCols (t.set col none) left) rs l
      | none, _ => replayRow row (t.set (t.idxOf (some e.2.2)) none) rs l
    else replayRow row t rs l

/-- The columns that a table leaves UNBACKED have no core (R20). -/
def fenceUnbacked (s : State) (row : Nat) : State :=
  ((List.range 64).filter fun c => ((s.rowTable row).getD c none).isNone).foldl (fun s c =>
    s.modCore (cidOf c row) fun k => { k with fenced := true }) s

/-- The Gazebo takes the remap tables, the harvest map, the identity and the coordinates of a configuration image, and
applies the fences and shrinks of its fault store on top (R17, R21, R329, R371). (DESIGN CHOICE, log entry 61) -/
def configure (s : State) (body : List Byte) : State :=
  let s := (List.range 32).foldl (fun s row =>
    let t := imageTable body row
    let now := replayRow row t (imageReserves body row) s.dev.faultLog
    s.modDev fun d =>
      { d with made := sput d.made row t, remap := sput d.remap row now.1, reserves := sput d.reserves row now.2 }) s
  let at_ (i : Nat) : Nat := (body.getD i 0).toNat
  let s := s.modDev fun d =>
    { d with
      identity := (List.range 128).foldl (fun m i => sputD 0 m i (body.getD (2080 + i) 0)) d.identity
      coords := (at_ 2208, at_ 2209 % 128, at_ 2210 % 128) }
  (List.range 32).foldl fenceUnbacked s

end State

/-- IMAGE_VERIFY_DONE: in VERIFY the firmware and then the configuration image, in BOOT Fjondan's, are verified; a failure
holds the module (R16, R21, R368, R370). -/
def execImageVerifyDone (kind : Nat) (image : List Byte) (s : State) : Host.Outcome State Fault Refusal :=
  let firmware := s.dev.images.any fun x => x.1 = 2
  let due :=
    match s.dev.st with
    | .verify => if firmware then some 1 else some 2
    | .boot => if s.dev.images.any fun x => x.1 = 3 then none else some 3
    | _ => none
  match due with
  | none => .next s
  | some k =>
    if kind != k || !s.imageOk k [] image then .next s.holdAll
    else
      let s := s.noteImage k none image
      if k = 1 then .next ((s.configure (imgBody image)).enter .boot)
      else if k = 3 then
        let e := BitVec.ofNat 56 (imgField image 0x18 8)
        .next ((s.startSys 0 e .l2 0xFFF 31).startSys 1 e .l2 0xFFF 31)
      else .next s

/-- FJONDAN_RUNNING: the module enters SERVICE (R368). (DEDUCED, log entry 44; DESIGN CHOICE, log entry 62) -/
def execFjondanRunning (s : State) : Host.Outcome State Fault Refusal :=
  .next (if s.dev.st == .boot && s.dev.images.any (fun x => x.1 = 3) then s.enter .service else s)

/-- FUNCTION_SELF_TEST_DONE: a channel (unit kind 0), a park (1) or a col port (2) becomes ready, or never does: a failed
channel is retired, and the cores of a failed park are field failures (R369). -/
def execFunctionSelfTestDone (unitKind unitNo : Nat) (pass : Bool) (s : State) : Host.Outcome State Fault Refusal :=
  let known :=
    (unitKind = 0 && (unitNo < 2048 && !s.dev.retired.contains unitNo)) || (unitKind = 1 && unitNo < 128) || (unitKind = 2 && unitNo < 18)
  let seen := s.dev.unitsFailed.contains (unitKind, unitNo)
    || (match unitKind with
      | 0 => s.dev.chansReady.contains unitNo
      | 1 => s.dev.parksReady.contains unitNo
      | _ => s.dev.colsReady.contains unitNo)
  if !known || seen || !(s.dev.st == .boot || s.dev.st == .service) then .next s
  else if pass then
    .next (s.tellReady (s.modDev fun d =>
      match unitKind with
      | 0 => { d with chansReady := unitNo :: d.chansReady }
      | 1 => { d with parksReady := unitNo :: d.parksReady }
      | _ => { d with colsReady := unitNo :: d.colsReady }).flushPorts)
  else
    let s := s.modDev fun d => { d with unitsFailed := (unitKind, unitNo) :: d.unitsFailed }
    match unitKind with
    | 0 => .next (s.channelFail unitNo)
    | 1 => .next ((rectCells (parkRect unitNo)).foldl (fun s p => s.fieldFail p.1 p.2) s)
    | _ => .next s

/-- SYSTEM_CORE_RESTART: Fjondan restarts a halted system core of a partition at the entry of its image (R343, R373). -/
def execSystemCoreRestart (n : Nat) (s : State) : Host.Outcome State Fault Refusal :=
  match (skeysWhere s.parts fun p => p.live && p.sysCores.contains n).head? with
  | some p =>
    if 2 ≤ n && n < 16 && (s.core (sysBase + n)).held then
      .next (s.startSys n (s.part p).entry .l1 (s.team n).ctx p)
    else .next s
  | none => .next s

/-- Fjondan runs on system core 0 (R16). -/
def fjondanRuns (s : State) : Bool := (s.team 0).st == .running && !(s.core sysBase).held

/-- STORED_MINIMUM_RAISE: Fjondan has the minimum SVN of a kind and key slot raised (R370). -/
def execStoredMinimumRaise (kind slot svn : Nat) (s : State) : Host.Outcome State Fault Refusal :=
  if 1 ≤ kind && kind ≤ 4 && slot ≤ 7 && fjondanRuns s then
    .next (s.modDev fun d => { d with minima := sput d.minima (kind * 8 + slot) (Nat.max (sgetD d.minima (kind * 8 + slot) 0) (svn % 2 ^ 32)) })
  else .next s

/-- KEY_SLOT_ENROLMENT: Fjondan enrols a key in a slot from 1 to 7, and assigns it to a partition or to none (R370). -/
def execKeySlotEnrolment (slot : Nat) (key : List Byte) (part : Option Nat) (s : State) : Host.Outcome State Fault Refusal :=
  if 1 ≤ slot && slot ≤ 7 && fjondanRuns s then .next (s.modDev fun d => { d with keys := sput d.keys slot (key, part) }) else .next s

/-! ### Identity and evidence (R371, R372) -/

namespace State

/-- A byte of the identity store (R371): the ordering number, the counts the Gazebo keeps, and what manufacture wrote.
(DESIGN CHOICE, log entry 47) -/
def identityByte (s : State) (off : Nat) : Byte :=
  let count (k : Nat) : Nat := (s.dev.faultLog.filter fun x => x.1 = k).length
  if off < 16 then ([0x4A, 0x56, 0x2D, 0x32, 0x30, 0x34, 0x38] : List Byte).getD off 0
  else if 0x80 ≤ off && off < 0xA0 then BitVec.ofNat 8 (68 - (nonVoid (s.rowTable (off - 0x80))).length)
  else if 0xA0 ≤ off && off < 0xA8 then (leBytes 2 (count 2) ++ leBytes 2 (count 0) ++ leBytes 4 (count 1)).getD (off - 0xA0) 0
  else if off < 0x80 then sgetD s.dev.identity off 0
  else 0

/-- The evidence report over a nonce (R372): the key's digest, the images verified, the fault store and the state.
(DESIGN CHOICE, log entries 6 and 47) -/
def evidenceBytes (s : State) (nonce : List Byte) (part : Option Nat) : List Byte :=
  let mine (x : Nat × Option Nat × List Byte × Nat) : Bool := part.isNone || x.2.1.isNone || x.2.1 == part
  let image (x : Nat × Option Nat × List Byte × Nat) : List Byte :=
    x.2.2.1 ++ leBytes 4 x.2.2.2 ++ (match x.2.1 with | some p => leBytes 1 p | none => [])
  let store := s.dev.faultLog.flatMap fun x => leBytes 1 x.1 ++ leBytes 2 x.2.1 ++ leBytes 2 x.2.2
  let key := (List.range 64).map fun i => s.identityByte (0x20 + i)
  let report := nonce ++ digest key ++ (s.dev.images.filter mine).flatMap image ++ digest store
    ++ leBytes 1 (stateCode s.dev.st)
  report ++ Config.evidenceSignature report

end State

/-- EVIDENCE_REQUEST: the Gazebo signs a report over a 32-byte nonce (R372, R380). -/
def execEvidenceRequest (nonce : List Byte) (part : Option Nat) (s : State) : Host.Outcome State Fault Refusal :=
  if nonce.length != 32 || s.dev.st == .off || s.dev.st == .standby then .next s
  else .next ((s.emit (.evidence (s.evidenceBytes nonce part))).emit (.irq 0 3))

/-- IDENTITY_STORE_READ: a block read, in every state (R371). -/
def execIdentityStoreRead (off count : Nat) (s : State) : Host.Outcome State Fault Refusal :=
  .next (s.emit (.identity ((List.range (Nat.min count (256 - off))).map fun i => s.identityByte (off + i))))

/-! ### Partitions (R373) -/

/-- Two lists have a member in common. -/
def meets (a b : List Nat) : Bool := a.any b.contains

/-- Two rectangles share a position. -/
def rectsMeet (a b : Rect) : Bool := Rect.holds (Rect.inter a b) 1 1

/-- The physical address of byte `off` of ranges laid end to end (R377). (DEDUCED, log entry 49) -/
def endToEnd (off : Nat) : List (Nat × Nat) → Option Nat
  | [] => none
  | (base, size) :: l => if off < size then some (base + off) else endToEnd (off - size) l

/-- Bytes of ranges. -/
def rangeBytes (l : List (Nat × Nat)) : Nat := l.foldl (fun n r => n + r.2) 0

namespace State

/-- The bytes of a partition's image in its memory: the body from the start of its ranges, laid end to end.
(DEDUCED, log entry 44) -/
def imageCells (p : PartitionSpec) : Store Byte :=
  let body := imgBody p.image
  (List.range body.length).filterMap fun i => (endToEnd i p.memory).map fun a => (a, body.getD i 0)

/-- Fjondan may create a partition from these elements: no position of its rectangle is unbacked, or will be once the pending
rebuilds are made, its memory holds the image's body, its system cores start at the image's ENTRY, and the image can be placed
at once (R20, R370, R373). (DEDUCED, log entry 44) -/
def specOk (s : State) (p : PartitionSpec) : Bool :=
  let r : Rect := (p.x0, p.y0, p.w, p.h)
  let live := (svals s.parts).filter Part.live
  p.number ≤ 30 && !(s.part p.number).live && 1 ≤ p.w && 1 ≤ p.h && rectIn r (0, 0, 64, 32)
    && (rectCells r).all (fun c => ((s.rowTable c.2).getD c.1 none).isSome && ((s.nextTable c.2).1.getD c.1 none).isSome)
    && live.all (fun q => !rectsMeet r q.rect && !meets p.sysCores q.sysCores && (p.ctxHi < q.ctxLo || q.ctxHi < p.ctxLo))
    && p.sysCores.all (fun n => 2 ≤ n && n < 16) && p.priority ≤ 3 && p.ctxLo ≤ p.ctxHi && p.ctxHi ≤ 4094
    && p.keySlots.all (fun k => (sget s.dev.keys k).any fun x => x.2 == some p.number)
    && (svals s.ctxs).all (fun c => c.part != p.number || c.killing.isNone)
    && s.imageOk 4 p.keySlots p.image && p.entry == BitVec.ofNat 56 (imgField p.image 0x18 8)
    && 30 ≤ p.bar2Bits && p.bar2Bits ≤ 44 && 0 < (imgBody p.image).length && (imgBody p.image).length ≤ rangeBytes p.memory
    && (skeys (imageCells p)).all fun a => s.backed a && !s.lineBusy a && !s.orangeryFull (homeOf a)

/-- Install a partition: its tables and contexts, its image at the start of its memory, and its system cores
at L1 (R373). (DEDUCED, log entry 44) -/
def install (s : State) (p : PartitionSpec) : State :=
  let part : Part :=
    { Part.none with
      live := true, x0 := p.x0, y0 := p.y0, w := p.w, h := p.h, priority := p.priority, sysCores := p.sysCores
      memory := p.memory, ctxLo := p.ctxLo, ctxHi := p.ctxHi, keySlots := p.keySlots, entry := p.entry
      bar2 := true, bar2Bits := p.bar2Bits }
  let s := { s with parts := sput s.parts p.number part }
  let root (c : Nat) : Nat := ((p.roots.find? fun r => r.1 = c).map Prod.snd).getD 0
  let cs := (List.range (p.ctxHi + 1 - p.ctxLo)).map (p.ctxLo + ·)
  let s := { s with
    ctxs := (p.sysCtx :: cs).foldl (fun m c => sput m c { Context.none with root := root c, part := p.number }) s.ctxs }
  let s := s.noteImage 4 (some p.number) p.image
  let s := (s.deviceCommit 0xFFF p.number (imageCells p)).2
  p.sysCores.foldl (fun s n => s.startSys n p.entry .l1 p.sysCtx p.number) s

end State

/-- PARTITION_CREATE (R373); Fjondan refuses elements that the manual forbids (R20). (DEDUCED, log entry 44) -/
def execPartitionCreate (p : PartitionSpec) (s : State) : Host.Outcome State Fault Refusal :=
  .next (if s.dev.st == .service && s.specOk p then s.install p else s)

/-- PARTITION_DESTROY: the contexts are killed, the system cores held in reset and the tables removed; those of a context
that is still to be killed go when its kill is complete (R373). -/
def execPartitionDestroy (part : Nat) (s : State) : Host.Outcome State Fault Refusal :=
  if !(s.part part).live then .next s
  else
    let s := s.bringDown part
    let s := s.modPart part fun p => { p with live := false, mcast := [], bar2 := false, msix := [], sqEn := false }
    let s := { s with ctxs := s.ctxs.filter fun e => e.2.part != part || e.2.killing.isSome }
    .next (s.dropTlb fun t => s.inPartition part t.ctx)

/-! ### Evacuation (R374, R375) -/

/-- Cycles in the 30 s of R374, at the core clock of 1.05 GHz (R22). (DEDUCED, log entry 48) -/
def evacCycles : Nat := 31500000000

/-- Begin the vacation of every running cluster for which save slots are free (R374 step 1). -/
def State.vacateAll (s : State) : State :=
  (skeysWhere s.clusters fun c => c.st == .placed && c.vacating.isNone).foldl (fun s c => if s.hasSlots c then s.beginVacate c none else s) s

/-- With a receiver that accepts, dispatch stops and every running cluster is vacated (R374). -/
def State.evacuate (s : State) (receiver : Nat × Nat × Nat) (accepted : Bool) : State :=
  if s.dev.st != .service || !accepted then s
  else
    let now := s.clock
    ((s.modDev fun d => { d with evac := some (receiver, now, false, false) }).enter .evacuating).vacateAll

/-- EVACUATION_COMMAND (R374). -/
def execEvacuationCommand (receiver : Nat × Nat × Nat) (accepted : Bool) (s : State) : Host.Outcome State Fault Refusal :=
  .next (s.evacuate receiver accepted)

namespace State

/-- A byte of a core's scratchpad space, by its key, lies in a plane region. -/
def inRegion (s : State) (key : Nat) : Bool :=
  (s.regionsOn (key / 2 ^ 19) fun _ _ => true).any fun g => g.1 ≤ key % 2 ^ 19 && key % 2 ^ 19 < g.1 + g.2

/-- Everything the device ships (R374 step 2): every cluster is vacated by now. (DEDUCED, log entry 48) -/
def shipmentOf (s : State) : Shipment :=
  let d := s.dev
  { clock := s.clock, names := s.names, mem := s.mem, lineTs := s.lineTs
    byteTs := s.byteTs, orangery := s.orangery, poison := s.poison, launches := s.launches, clusters := s.clusters
    parks := s.parks, parts := s.parts, ctxs := s.ctxs
    planes := s.scratch.filter fun e => s.inRegion e.1, planePoison := s.scrPoison.filter fun x => s.inRegion (32 * x)
    teams := s.teams.filter fun e => 2 ≤ e.1, groups := s.groups.filter fun e => 2 ≤ tidOf e.1
    slices := s.slices.filter fun e => 2 ≤ tidOf (e.1 / 8), vreg := s.vreg.filter fun e => 2 ≤ tidOf (e.1 / 64 / 32)
    sreg := s.sreg.filter fun e => 2 ≤ tidOf (e.1 / 32 / 8), kreg := s.kreg.filter fun e => 2 ≤ tidOf (e.1 / 8 / 8)
    seqrs := s.seqrs, mreg := s.mreg, wins := s.wins, cmds := s.cmds
    keys := d.keys, windows := d.windows, hostRanges := d.hostRanges, cxlRanges := d.cxlRanges }

end State

/-- RECEIVER_ACKNOWLEDGEMENT: the shipment has left and the receiver holds everything; the sender sends route withdrawal on
every col port that carries traffic (R369, R374 steps 2 and 3). -/
def execReceiverAcknowledgement (s : State) : Host.Outcome State Fault Refusal :=
  match s.dev.evac with
  | some (r, c, false, _) =>
    if s.dev.st == .evacuating && !((svals s.clusters).any fun c => c.st == .placed) then
      let t := (s.modDev fun d => { d with evac := some (r, c, true, true) }).emit (.shipment s.sundial s.dev.coords s.shipmentOf)
      .next (((List.range 18).filter s.dev.colsReady.contains).foldl (fun t p => t.emit (.withdraw p)) t)
    else .next s
  | _ => .next s

/-- A packet bound for another device. -/
def outbound (p : Packet) : Bool := match p.dst with | .io _ => true | _ => false

/-- The queues of the col ports are empty, and so is what leads to them (R374 step 3). -/
def State.portsEmpty (s : State) : Bool :=
  !((svals s.packets).any outbound) && s.dev.ports.isEmpty && (svals s.copies).all Copy.sent

/-- EVACUATION_DRAINED: while clusters are still to be vacated, those for which save slots have become free; once routes are
withdrawn and every col port queue is empty, UNLATCH (R374 steps 1, 3 and 4). -/
def execEvacuationDrained (s : State) : Host.Outcome State Fault Refusal :=
  match s.dev.evac with
  | some (_, _, true, true) =>
    if s.dev.st == .evacuating && s.portsEmpty then
      .next ((s.modDev fun d => { d with unlatchOk := true, evac := none }).enter .unlatch)
    else .next s
  | some _ => .next (if s.dev.st == .evacuating then s.vacateAll else s)
  | none => .next s

/-- EVACUATION_FAILURE: before route withdrawal the sender returns to SERVICE (R374). -/
def execEvacuationFailure (s : State) : Host.Outcome State Fault Refusal :=
  match s.dev.evac with
  | some (_, _, _, false) =>
    if s.dev.st == .evacuating then .next ((s.modDev fun d => { d with evac := none }).enter .service) else .next s
  | _ => .next s

/-- EVACUATION_DEADLINE: 30 s after the command, packets still undelivered are discarded and logged, what waits for a port
among them, and UNLATCH.OK is raised (R374). (DEDUCED, log entry 48) -/
def execEvacuationDeadline (s : State) : Host.Outcome State Fault Refusal :=
  match s.dev.evac with
  | some (_, from_, _, _) =>
    if s.dev.st == .evacuating && from_ + evacCycles ≤ s.clock then
      let s := { s with packets := s.packets.filter fun e => !outbound e.2 }
      let s := (skeysWhere s.copies fun c => !c.sent).foldl (fun s k => s.copyAccepted k) s
      .next (((s.modDev fun d => { d with unlatchOk := true, evac := none, ports := [] }).emit (.report "Gazebo: evacuation deadline")).enter
        .unlatch)
    else .next s
  | none => .next s

/-- Counters that name nothing that exists on either of two devices. -/
def Names.above (a b : Names) : Names :=
  { op := Nat.max a.op b.op, pkt := Nat.max a.pkt b.pkt, copy := Nat.max a.copy b.copy, rel := Nat.max a.rel b.rel
    cmd := Nat.max a.cmd b.cmd, team := Nat.max a.team b.team, cluster := Nat.max a.cluster b.cluster
    launch := Nat.max a.launch b.launch, seqr := Nat.max a.seqr b.seqr, order := Nat.max a.order b.order }

namespace State

/-- Byte memory from shipped cells: its canonical form (R27). -/
def fillMem (m : Store Byte) (l : Store Byte) : Store Byte := l.foldl (fun m (e : Nat × Byte) => mwrite m e.1 e.2) m

/-- Two stores as one; the second's entries stand where both have the key. -/
def joinStores {α : Type} (a b : Store α) : Store α := b.foldl (fun m e => sput m e.1 e.2) a

/-- Cycles of another device's count as cycles of this one's. -/
def rebase (s : State) (x : Shipment) (c : Nat) : Nat := s.clock + c - x.clock

/-- A team as the receiver has it (R160, R374). -/
def teamAt (at_ : Nat → Nat) (t : Team) : Team :=
  { t with born := at_ t.born, fpLate := t.fpLate.map fun (p : Nat × Word) => (at_ p.1, p.2) }

/-- A hazard as the receiver has it. -/
def hazardAt (at_ : Nat → Nat) (h : Hazard) : Hazard := { h with ready := h.ready.map at_ }

/-- A group as the receiver has it. -/
def groupAtReceiver (at_ : Nat → Nat) (g : Group) : Group :=
  { g with
    lastC := at_ g.lastC, lastStart := at_ g.lastStart, hazards := g.hazards.map (hazardAt at_)
    ops := g.ops.map fun o =>
      { o with lost := o.lost.map fun (x : Reg × Nat × Nat) => (x.1, x.2.1, at_ x.2.2), olds := o.olds.map (hazardAt at_) } }

/-- A sequencer as the receiver has it. -/
def seqrAt (at_ : Nat → Nat) (x : Seqr) : Seqr :=
  { x with
    lastC := at_ x.lastC, mbusy := x.mbusy.map fun (p : Nat × Nat) => (p.1, at_ p.2)
    stop := x.stop.map fun (p : Nat × Nat × Nat) => (p.1, p.2.1, at_ p.2.2) }

/-- Records of a store changed one by one. -/
def onAll {α : Type} (f : α → α) (m : Store α) : Store α := m.map fun (e : Nat × α) => (e.1, f e.2)

/-- A device takes a shipment: memory with all its versions, a Sundial above the shipped value, queues, tables, plane
regions and suspended teams. The system cores of the partitions stay in reset until Fjondan restarts them
(R374). (DEDUCED, log entry 48) -/
def receive (s : State) (sundial : Nat) (coords : Nat × Nat × Nat) (x : Shipment) : State :=
  let at_ := s.rebase x
  let held := (svals x.parts).flatMap fun p => if p.live then p.sysCores else []
  let s := { s with
    sundial := (tsMax s.sundial sundial + 1) % 2 ^ 48, names := s.names.above x.names
    mem := fillMem [] x.mem, lineTs := x.lineTs, byteTs := x.byteTs, orangery := x.orangery, poison := x.poison
    launches := onAll (fun l : Launch => { l with exports := l.exports.map fun (p : Nat × Nat) => (p.1, at_ p.2) }) x.launches
    clusters := onAll (fun c : Cluster =>
      { c with suspended := at_ c.suspended, placed := at_ c.placed, first := at_ c.first, vacating := none }) x.clusters
    parks := onAll (fun k : Park => { k with retryAt := at_ k.retryAt, asking := none, reply := none }) x.parks
    parts := x.parts, ctxs := x.ctxs, scratch := fillMem s.scratch x.planes, scrPoison := (x.planePoison ++ s.scrPoison).eraseDups
    teams := joinStores s.teams (onAll (teamAt at_) x.teams), groups := joinStores s.groups (onAll (groupAtReceiver at_) x.groups)
    slices := joinStores s.slices (onAll (fun y : Slice => { y with lastStart := at_ y.lastStart }) x.slices)
    vreg := joinStores s.vreg x.vreg, sreg := joinStores s.sreg x.sreg, kreg := joinStores s.kreg (x.kreg.filter fun e => e.1 % 8 != 0)
    seqrs := onAll (seqrAt at_) x.seqrs, mreg := x.mreg, wins := x.wins
    cmds := onAll (fun k : Cmd => { k with born := at_ k.born }) x.cmds }
  let s := (skeys s.cores).foldl (fun s c => s.dropTables c) s
  let s := held.foldl (fun s n => s.modCore (sysBase + n) fun k => { k with held := true }) s
  s.modDev fun d =>
    { d with coords := coords, keys := x.keys, windows := x.windows, hostRanges := x.hostRanges, cxlRanges := x.cxlRanges }

end State

/-- EVACUATION_RECEIVE: a device in SERVICE without partitions takes what another shipped, and then places the suspended
clusters (R374). (DEDUCED, log entry 48) -/
def execEvacuationReceive (sundial : Nat) (coords : Nat × Nat × Nat) (shipped : Shipment) (s : State) : Host.Outcome State Fault Refusal :=
  .next (if s.dev.st != .service || (svals s.parts).any Part.live then s else s.receive sundial coords shipped)

end Sys2Proof.Machine
end

