-- ==== Sys2Proof/Machine/HostPort.lean ====
section
/-! DEFINITION. The host port: windows, doorbells, the submission ring, the mailbox and resets (R369, R376 to R380). -/

namespace Sys2Proof.Machine

/-! ### Windows (R377, R379) -/

/-- The function number that stands for CXL.mem accesses of the host; PF0 is 0 and VFn is n.
(DEDUCED, log entry 49) -/
def cxlMem : Nat := 32

/-- First address that names a register of a function's BAR0 page in the model. (DEDUCED, log entry 49) -/
def bar0Base : Nat := 2 ^ 44

/-- First address that names a byte of a function's configuration space in the model. (DEDUCED, log entry 49) -/
def confBase : Nat := 2 ^ 45

namespace State

/-- The host link is live: the module has main power (R368). -/
def hostLive (s : State) : Bool := s.dev.st != .off && s.dev.st != .standby

/-- Fjondan's mailbox is there once Fjondan can run (R368, R377). (DEDUCED, log entry 49) -/
def mailLive (s : State) : Bool := s.hostLive && s.dev.st != .verify && s.dev.st != .held

/-- The physical address a host access reaches through a window; none when it is refused. No window reaches the CXL windows or
device registers, and CXL.mem reaches the interleaved view and the second tier alone, each in the ranges that Fjondan has
opened or programmed (R377, R379). -/
def hostPa (s : State) (fn addr : Nat) : Option Nat :=
  let opened (l : List (Nat × Nat)) : Bool := l.any fun r => r.1 ≤ addr && addr < r.1 + r.2
  if fn = cxlMem then
    if opened s.dev.cxlRanges && (addr < Config.packageBytes || (tier2Base ≤ addr && addr < tier2Base + Config.secondTierBytes)) then
      some addr
    else none
  else if fn = 0 then if opened s.dev.hostRanges && canonPa addr < cxlBase then some addr else none
  else
    let p := s.part (fn - 1)
    if p.live && p.bar2 && addr < 2 ^ p.bar2Bits then (endToEnd addr p.memory).filter fun a => canonPa a < cxlBase else none

/-- The physical addresses of a run of bytes; none when one of them is refused. (DEDUCED, log entry 49) -/
def hostPas (s : State) (fn addr n : Nat) : Option (List Nat) :=
  let l := (List.range n).map fun i => s.hostPa fn (addr + i)
  if l.all fun x => x.any s.backed then some (l.filterMap id) else none

/-- A refusal: Fjondan is told (R379). (DEDUCED, log entry 49) -/
def refuse (s : State) (fn addr : Nat) : State := (s.emit (.refused fn addr)).emit (.report "Fjondan: host access refused")

/-- The byte of a function's MSI-X table that an offset of its BAR0 page names: 32 vectors of PF0, 8 of a VF (R376, R377).
(PRESUMED, log entry 80) -/
def msixAt (fn off : Nat) : Option Nat :=
  let base := if fn = 0 then 0x100000 else 0x8000
  let n := if fn = 0 then 512 else 128
  if base ≤ off && off < base + n then some (off - base) else none

/-- A byte of a function's configuration space: the class code 0x12_0000 where the standard places it, else what the host
has written there (R376, R380). (PRESUMED, log entry 89) -/
def confByte (s : State) (fn off : Nat) : Byte :=
  if 4096 ≤ off then 0xFF
  else if off = 0x0B then 0x12 else if off = 0x0A || off = 0x09 then 0 else sgetD s.dev.config (fn * 4096 + off) 0

/-- The function has a configuration space: PF0, and each VF while its partition exists (R376). -/
def hasConf (s : State) (fn : Nat) : Bool := fn = 0 || (fn < 32 && (s.part (fn - 1)).live)

/-- A host write to configuration space; the class code is read-only. (PRESUMED, log entry 89) -/
def confWrite (s : State) (fn off : Nat) (bytes : List (Option Byte)) : State :=
  if !s.hasConf fn then s
  else
    let open_ := (List.range bytes.length).map fun i =>
      if (0x09 ≤ off + i && off + i ≤ 0x0B) || 4096 ≤ off + i then none else bytes.getD i none
    s.modDev fun d => { d with config := putBytes d.config (fn * 4096 + off) open_ }

/-- The registers of a doorbell page as they lie there, with the doorbell's last value given (R378). -/
def pageRegs (p : Part) (tail : Nat) : List Byte :=
  leBytes 8 p.sqBase.toNat ++ leBytes 4 p.sqOrder.toNat ++ leBytes 4 (if p.sqEn then 1 else 0) ++ leBytes 4 tail
    ++ leBytes 4 (p.sqHead % 2 ^ 32) ++ leBytes 4 p.ctxRange.toNat

/-- Byte `off` of a function's BAR0 page; SQ.TAIL is only written (R377, R378). -/
def pageByte (s : State) (fn off : Nat) : Byte :=
  if fn = 0 then
    match msixAt fn off with
    | some i => sgetD s.dev.msix i 0
    | none =>
      if off < 8 then (leBytes 8 s.readiness).getD off 0
      else if 0x1000 ≤ off && off < 0x2000 then sgetD s.dev.mailbox (off - 0x1000) 0
      else 0
  else
    let p := s.part (fn - 1)
    if !p.live then 0
    else
      match msixAt fn off with
      | some i => sgetD p.msix i 0
      | none => (pageRegs p 0).getD off 0

end State

/-! ### The submission ring (R378) -/

namespace State

/-- A doorbell: the acquire at SYSTEM scope, or, with more entries outstanding than the ring holds, its end. -/
def doorbell (s : State) (part : Nat) (tail : Word) : State :=
  let p := s.part part
  let h := s.hSys
  if !p.live then s
  else if !p.sqEn then s.modPart part fun p => { p with sqTail := tail.toNat, sqSnap := h }
  else if 2 ^ (p.sqOrder.toNat % 16) < (tail.toNat + 2 ^ 32 - p.sqHead % 2 ^ 32) % 2 ^ 32 then
    (s.modPart part fun p => { p with sqEn := false }).emit (.irq (part + 1) 2)
  else s.modPart part fun p => { p with sqTail := tail.toNat, sqSnap := h }

/-- Enable or disable a ring. -/
def ringEnable (s : State) (part : Nat) (on : Bool) : State :=
  if (s.part part).live then s.modPart part fun p => { p with sqEn := on } else s

/-- What the read of a submission's record comes to. -/
inductive RingRead
  | got (bytes : List Byte)
  | page (va : Nat)
  | wait
  | poisoned (pa : Nat)
  | unreadable
  deriving DecidableEq, Repr

/-- Translate a record's line in a context, without a core's caches: at L0, for a partition. -/
def walkIn (s : State) (part ctx va : Nat) : Tr :=
  if !s.tablesReady (s.ctx ctx).root (va % 2 ^ 56) then .wait
  else
    match s.walk (s.ctx ctx).root (va % 2 ^ 56) with
    | .fault => .page
    | .wait => .wait
    | .poison pa => .poison pa
    | .leaf e bits => s.judge part .l0 .read1 (va % 2 ^ 56) e bits

/-- Read the lines of a record in a context, once the homes of its tables and its own are ready (R364, R369, R378). -/
def readIn (s : State) (part ctx snap va : Nat) : Nat → List Byte → RingRead
  | 0, l => .got l
  | n + 1, l =>
    match s.walkIn part ctx va with
    | .ok pa _ =>
      if devRegBase ≤ canonPa pa then .unreadable
      else if !s.homesReady [pa] then .wait
      else if s.poisoned pa 64 then .poisoned pa
      else readIn s part ctx snap (va + 64) n (l ++ s.snapBytes snap pa 64)
    | .page => .page (va % 2 ^ 56)
    | .wait => .wait
    | .poison pa => .poisoned pa
    | _ => .unreadable

/-- Take an entry: its status word is written and released at SYSTEM scope; then SQ.HEAD advances, and vector 0 is raised where
the entry asks for it (R378 step 3). -/
def finishEntry (s : State) (part pa : Nat) (irq : Bool) (ident outcome : Nat) : State :=
  (s.modPart part fun p => { p with sqRefused := false }).writeWord part pa (entryWord ident false outcome) true (if irq then [0] else [])

/-- Submit an entry's record in its context (R40, R378 step 2); a poisoned byte that its read uses is consumed by that context
(R364). -/
def submitEntry (s : State) (part pa : Nat) (e : List DWord) : State :=
  let p := s.part part
  let c := dfld (e.getD 1 0) 0 12
  let irq := dfld (e.getD 1 0) 16 1 = 1
  let va := dfld (e.getD 0 0) 0 56
  let fin (s : State) (ident o : Nat) : State := s.finishEntry part pa irq ident o
  if va % 64 != 0 then fin s 0 2
  else if p.sqRefused then fin s 0 3
  else
    match s.readIn part c p.sqSnap va 4 [] with
    | .page a => s.modPart part fun p => { p with sqFault := some (BitVec.ofNat 56 a, none) }
    | .wait => s
    | .poisoned a => fin (s.consumeCtx c a) 0 3
    | .unreadable => fin s 0 3
    | .got bs =>
      let (o, ident, k, s) := s.submit c (dwords 32 bs) p.sqSnap
      let s := if o = 0 && dfld (e.getD 1 0) 17 1 = 1 then s.modLaunch k fun l => { l with notify := some pa } else s
      fin s ident o

/-- A field of an entry that must be 0 is not. -/
def entryBad (e : List DWord) : Bool :=
  dfld (e.getD 0 0) 56 8 != 0 || dfld (e.getD 1 0) 18 46 != 0 || dfld (e.getD 1 0) 12 4 != 0
    || (e.drop 3).any fun d => d != 0

/-- A context lies outside CTX.RANGE; 0 is no range. -/
def outOfRange (r : Word) (c : Nat) : Bool :=
  r = 0 || c < dfld (r.zeroExtend 64) 0 12 || dfld (r.zeroExtend 64) 16 12 < c

end State

/-- SQ_TAIL (R378). -/
def execSqTail (part : Nat) (tail : Word) (s : State) : Host.Outcome State Fault Refusal := .next (s.doorbell part tail)

/-- SQ_EN (R378). -/
def execSqEn (part : Nat) (enable : Bool) (s : State) : Host.Outcome State Fault Refusal := .next (s.ringEnable part enable)

/-- SUBMISSION_ENTRY_TAKE: what waits for the status words of earlier entries happens, and then the launch unit takes the next
entry of an enabled ring, once the one before has been released (R378). A poisoned byte of an entry is consumed by the context
that the entry names (DESIGN CHOICE, log entry 91). -/
def execSubmissionEntryTake (part : Nat) (s : State) : Host.Outcome State Fault Refusal :=
  let s := s.settleWords part
  let p := s.part part
  let pa := s.sqEntry part
  if !p.live || !p.sqEn || p.sqHead % 2 ^ 32 = p.sqTail % 2 ^ 32 || p.sqFault.isSome || s.dev.st != .service
      || p.sqWords.any (fun w => w.2.1) || !s.homesReady [pa] then .next s
  else
    let e := dwords 8 (s.snapBytes p.sqSnap pa 64)
    let irq := dfld (e.getD 1 0) 16 1 = 1
    let c := dfld (e.getD 1 0) 0 12
    if s.poisoned pa 64 then .next ((s.consumeCtx c pa).finishEntry part pa irq 0 3)
    else if State.entryBad e then .next (s.finishEntry part pa irq 0 5)
    else if State.outOfRange p.ctxRange c then .next (s.finishEntry part pa irq 0 4)
    else .next (s.submitEntry part pa e).settle

/-! ### Host accesses (R377 to R379) -/

namespace State

/-- A write to a doorbell page: each register it touches takes its bytes, SQ.BASE and SQ.ORDER while the ring is not
enabled, and the doorbell comes last (R378). -/
def pageWrite (s : State) (part off : Nat) (bytes : List (Option Byte)) : State :=
  let p := s.part part
  let given (i : Nat) : Option Byte := if off ≤ i then bytes.getD (i - off) none else none
  let old := pageRegs p p.sqTail
  let hit (a n : Nat) : Bool := (List.range n).any fun i => (given (a + i)).isSome
  let value (a n : Nat) : Nat := leNat ((List.range n).map fun i => (given (a + i)).getD (old.getD (a + i) 0))
  let s := if hit 0 8 && !p.sqEn then s.modPart part fun p => { p with sqBase := BitVec.ofNat 64 (value 0 8 / 4096 * 4096) } else s
  let s := if hit 8 4 && !p.sqEn then s.modPart part fun p => { p with sqOrder := BitVec.ofNat 32 (value 8 4 % 16) } else s
  let s := if hit 12 4 then s.ringEnable part (value 12 4 % 2 = 1) else s
  if hit 16 4 then s.doorbell part (BitVec.ofNat 32 (value 16 4)) else s

/-- Message bytes go into the mailbox (R377). -/
def mailIn (s : State) (off : Nat) (bytes : List (Option Byte)) : State :=
  (s.modDev fun d => { d with mailbox := putBytes d.mailbox off (bytes.take (4096 - off)) }).emit (.report "Fjondan: mailbox message")

/-- The host's evacuation command: its eight bytes name the receiver, whose answer is free, and evacuation begins where it
accepts (R374, R377). (DESIGN CHOICE, log entry 90) -/
def evacAsk (s : State) (off : Nat) (bytes : List (Option Byte)) : State :=
  let x := leNat ((List.range 8).map fun i => if off ≤ i then (bytes.getD (i - off) none).getD 0 else 0)
  let (b, s) := (s.emit (.report "Fjondan: evacuation command")).freeBool
  s.evacuate (x / 2 ^ 14 % 2 ^ 8, x / 2 ^ 7 % 2 ^ 7, x % 2 ^ 7) b

/-- A host write to a function's BAR0 page. -/
def pageAccess (s : State) (fn off : Nat) (bytes : List (Option Byte)) : State :=
  if fn = 0 then
    match msixAt fn off with
    | some i => s.modDev fun d => { d with msix := putBytes d.msix i (bytes.take (512 - i)) }
    | none =>
      if 0x1000 ≤ off && off < 0x2000 then (if s.mailLive then s.mailIn (off - 0x1000) bytes else s)
      else if 0x2000 ≤ off && off < 0x2008 && s.dev.evacEnabled then s.evacAsk (off - 0x2000) bytes
      else s
  else if (s.part (fn - 1)).live then
    match msixAt fn off with
    | some i => s.modPart (fn - 1) fun p => { p with msix := putBytes p.msix i (bytes.take (128 - i)) }
    | none => s.pageWrite (fn - 1) off bytes
  else s

end State

/-- HOST_WRITE: a write through a window is committed at its homes with a timestamp taken then, with the bytes it enables;
it waits for homes that are not ready, for a commit on its way to one of its lines, and for space (R198, R369). An
address from 2^44 names a register of the function's BAR0 page, one from 2^45 a byte of its configuration space (R376 to R379).
(DEDUCED, log entry 49; DESIGN CHOICE, log entry 63) -/
def execHostWrite (fn : Nat) (addr : Nat) (bytes : List (Option Byte)) (s : State) : Host.Outcome State Fault Refusal :=
  if !s.hostLive then .next s
  else if confBase ≤ addr then .next (s.confWrite fn (addr - confBase) bytes)
  else if bar0Base ≤ addr then .next (s.pageAccess fn (addr - bar0Base) bytes)
  else
    match s.hostPas fn addr bytes.length with
    | none => .next (s.refuse fn addr)
    | some pas =>
      if pas.any s.lineBusy || !s.homesReady pas then .next s
      else
        match s.spaceFor pas with
        | some t => .next t
        | none =>
          let (ts, s) := s.takeTs
          let cells := (pas.zip bytes).foldl (fun m (x : Nat × Option Byte) => match x.2 with | some b => sput m x.1 b | none => m) []
          .next ((s.noteOutside ts cells).commitAt ts none cells)

/-- HOST_READ: the newest version installed at the home; through CXL.mem the host may keep the lines it reads (R379).
(DEDUCED, log entry 49; DESIGN CHOICE, log entry 63) -/
def execHostRead (fn : Nat) (addr count : Nat) (s : State) : Host.Outcome State Fault Refusal :=
  if !s.hostLive then .next s
  else if confBase ≤ addr then
    .next (s.emit (.hostData ((List.range count).map fun i => if s.hasConf fn then s.confByte fn (addr - confBase + i) else 0xFF)))
  else if bar0Base ≤ addr then .next (s.emit (.hostData ((List.range count).map fun i => s.pageByte fn (addr - bar0Base + i))))
  else
    match s.hostPas fn addr count with
    | none => .next ((s.emit (.hostData (List.replicate count 0xFF))).refuse fn addr)
    | some pas =>
      if !s.homesReady pas then .next s
      else
      let s := s.emit (.hostData (pas.map s.newest))
      let lines := (pas.map fun a => canonPa a / 64).eraseDups
      .next (if fn = cxlMem then s.modDev fun d => { d with hostCached := (lines ++ d.hostCached).eraseDups } else s)

/-- FJONDAN_MAILBOX: the host writes a message into the mailbox (R377). -/
def execFjondanMailbox (off : Nat) (bytes : List Byte) (s : State) : Host.Outcome State Fault Refusal :=
  .next (if off < 4096 && s.mailLive then s.mailIn off (bytes.map some) else s)

/-! ### Resets (R380) -/

namespace State

/-- A function-level reset of a VF: its ring, its window and its interrupt state; a word already written still raises its
vectors. -/
def resetVf (s : State) (part : Nat) : State :=
  if (s.part part).live then
    s.modPart part fun p =>
      { p with
        sqEn := false, sqBase := 0, sqOrder := 0, sqHead := 0, sqTail := 0, sqFault := none, sqRefused := false, bar2 := false
        msix := [], sqWords := p.sqWords.map fun (w : Nat × Bool × List Nat) => (w.1, false, w.2.2) }
  else s

/-- A function-level reset of PF0: its mailbox and interrupt state. -/
def resetPf (s : State) : State := s.modDev fun d => { d with mailbox := [], msix := [] }

end State

/-- VF_FUNCTION_LEVEL_RESET (R380). -/
def execVfFunctionLevelReset (part : Nat) (s : State) : Host.Outcome State Fault Refusal := .next (s.resetVf part)

/-- PF0_FUNCTION_LEVEL_RESET (R380). -/
def execPf0FunctionLevelReset (s : State) : Host.Outcome State Fault Refusal := .next s.resetPf

/-- CONVENTIONAL_RESET: a function-level reset of every function, and configuration space has its reset values again
(R380). -/
def execConventionalReset (s : State) : Host.Outcome State Fault Refusal :=
  .next (((skeys s.parts).foldl (fun s p => s.resetVf p) s.resetPf).modDev fun d => { d with config := [] })

end Sys2Proof.Machine
end

