-- ==== Sys2Proof/Machine/Agents.lean ====
section
/-! DEFINITION. Which agent moves next: the gang or sequencer whose instruction issues in this cycle, the event that
is due, or time alone. -/

namespace Sys2Proof.Machine

/-- What the next step is. -/
inductive Move
  | issue (i : Issuer)
  | event (e : Instr)
  | time
  deriving DecidableEq, Repr

/-- The meaning of an instruction, as `exec` gives it. -/
abbrev Meaning := Instr → State → Host.Outcome State Fault Refusal

namespace State

/-! ### Issuers (R49, R269) -/

/-- The issuer of a clause in a pipe, when its next instruction is due (R49). -/
def pipeIssuer (s : State) (cid pipe : Nat) (r : Option Run) : Option Issuer :=
  r.bind fun r =>
    let i := r.slices.headD 0
    let ix := (s.slice r.gid i).ix
    let g := s.group r.gid
    let due := g.lastC + g.lastL + dfld (r.words.getD ix 0) 49 3
    if s.groupIssues r.gid && due ≤ s.clock then some (.gang cid pipe r.gid r.slices r.hdr ix r.words.length) else none

/-- Gangs whose next instruction is due. -/
def dueGangs (s : State) : List Issuer :=
  (s.cores.filter fun e => s.coreIssues e.1).flatMap fun e =>
    (s.pipeIssuer e.1 0 e.2.pipe0).toList ++ (s.pipeIssuer e.1 1 e.2.pipe1).toList

/-- Sequencers whose next instruction is due. -/
def dueSeqrs (s : State) : List Issuer :=
  (s.seqrs.filter fun e =>
    e.2.st == .running && (s.team (s.leadTeam e.1)).st == .running && !e.2.words.isEmpty && e.2.fault.isNone && (s.ctx (s.team e.2.tid).ctx).killing.isNone
      && e.2.lastC + 1 + dfld (e.2.words.getD e.2.ix 0) 49 3 ≤ s.clock).map fun e => .seqr e.1

/-- The instruction doubleword an issuer is at. -/
def wordAt (s : State) : Issuer → DWord
  | .gang cid pipe _ _ _ ix _ =>
    (((if pipe = 0 then (s.core cid).pipe0 else (s.core cid).pipe1).map Run.words).getD []).getD ix 0
  | .seqr q => (s.seqr q).words.getD (s.seqr q).ix 0
  | .none => 0

/-- What an issuer's doubleword decodes to: a group stream's or a matrix stream's (R74, R82). -/
def decodedAt (s : State) (i : Issuer) : Decoded :=
  match i with
  | .seqr _ => decodeM (s.wordAt i)
  | _ => decodeG (s.wordAt i)

/-- A doubleword that is no instruction: ILLINSTR of its gang, or reason 2 of its sequencer (R80, R82, R298). -/
def rejectWord (s : State) : State :=
  match s.cur with
  | .seqr q => s.seqFault q 2 (s.seqAddr q) none
  | _ =>
    match s.issOf with
    | some iss => s.takeTrap iss.gid iss.illegal
    | none => s

/-- An issuer executes the instruction it is at. -/
def issueOne (run : Meaning) (s : State) (i : Issuer) : Host.Outcome State Fault Refusal :=
  let s := { s with cur := i }
  match s.decodedAt i with
  | .ok x => run x s
  | .rejected _ => .next s.rejectWord

/-- The issuer's instruction issues in this cycle: it is not held, and waits for no register (R49 to R51).
(DEDUCED, log entry 10) -/
def issuesNow (run : Meaning) (s : State) (i : Issuer) : Bool :=
  match issueOne run s i with
  | .next t => t.clock == s.clock && t != { s with cur := i }
  | _ => true

/-- A list from its place `n` on, and then from its start. -/
def turned {α : Type} (n : Nat) (l : List α) : List α := l.drop (n % l.length) ++ l.take (n % l.length)

/-- The issuer of this step, in rotation over those whose instructions issue in this cycle.
(DESIGN CHOICE, log entry 9) -/
def dueIssuer (run : Meaning) (s : State) : Option Issuer :=
  if s.working then (turned (s.turn / 2) (s.dueGangs ++ s.dueSeqrs)).find? (issuesNow run s) else none

/-! ### Events (spec/95_what_each_step_holds.md) -/

/-- The step a packet asks for: its drain, or its delivery as its TYPE has it (R320). -/
def packetEvents (k : Nat) (p : Packet) : List Instr :=
  if p.held then [.settleBufferDrain k]
  else
    let d : Instr :=
      match p.load with
      | .countUpd .. => .countUpdate k
      | .ctrl c off => .ctrl (coreOf p.dst) c off p.bytes
      | l =>
        match l.typ with
        | 0 => .rd k
        | 1 => .wr k
        | 2 => .cmt k
        | 3 => .atom k
        | 4 => .red k
        | 5 => .win k
        | 6 => .bar k
        | 7 => .data k
        | 8 => .ack k
        | 9 => .blk (.packet k)
        | 10 => .sreq k
        | 11 => .srep k
        | 12 => .cont (.packet k)
        | 13 => .cres (.packet k)
        | _ => .cstat (.packet k)
    [d, .escTimeout k]

/-- Steps of an engine command. -/
def cmdEvents (n : Nat) (k : Cmd) : List Instr :=
  (match k.kind with
    | .scroll => [.scrollStep n]
    | .copy => [.blk (.element n)]
    | .copyx => [.blk (.element n)]
    | .dtload => [.dtloadTableWrite n]
    | .decode => [.copyDecDecode n]) ++ [.engineCommandEnd n]

/-- Gangs of a group whose clause is still to be fetched (R83). -/
def fetchEvents (s : State) (gid : Nat) : List Instr :=
  let there (i : Nat) : Bool := match s.clauseAt (s.team (tidOf gid)).core gid i with | .got .. => true | _ => false
  ((s.gangs gid).filter fun i => s.working && !there i).map fun i => .clauseFetchDone gid i

/-- Steps of a group. -/
def groupEvents (s : State) (gid : Nat) : List Instr :=
  [.trapEntry gid, .implicitDrop gid, .groupTimerExpiry gid, .regangTimeout gid] ++ s.fetchEvents gid
    ++ (s.sliceNos gid).flatMap fun i => [.ageingSwitch gid i, .barrierWatchdogExpiry gid i]

/-- Steps of a sequencer. -/
def seqrEvents (s : State) (q : Nat) : List Instr :=
  [.seqStatusUnpair q, .seqStatusRepair q]
    ++ (if s.working then [.clauseFetchDone q 8] else [])

/-- Steps of one park of a partition. -/
def parkEvents (s : State) (p k : Nat) : List Instr :=
  let reloads := match s.nextPlace p k with
    | some (cl, x, y) =>
      (spots (s.launch (s.cluster cl).launch)).map fun d => Instr.parkCoreReload p k (cidOf (x + d.1) (y + d.2))
    | none => []
  reloads ++ [.clusterPlace p k, .parkQuantumExpiry p k, .parkIdleSteal p k, .stealRetryTimeout p k]

/-- Steps of a partition: its launch unit, its parks and the counts they publish, its rings. -/
def partEvents (s : State) (p : Nat) : List Instr :=
  let ks := s.partParks p
  let busy := ks.filter fun k => (svals s.clusters).any (fun c => c.part == p && c.park == k) || !(s.park p k).sent.isEmpty
  [.launchDispatch p, .serviceRequestAppend p, .submissionEntryTake p] ++ ks.flatMap (s.parkEvents p)
    ++ busy.flatMap fun a => ks.map fun b => .countUpdateSend p a b

/-- Steps of the module itself. -/
def deviceEvents (s : State) : List Instr :=
  (skeys s.lacking).map Instr.orangeryRevoke ++ (((skeys s.orangery).map fun l => homeOf (l * 64)).eraseDups.map .collectorReclaim)
    ++ (s.dev.rebuilds.map fun r => .rowRemapRebuild r.row) ++ [.testWindowStart] ++ (s.dev.testLeft.take 1).map .coreTestStart
    ++ (skeys s.rslots).map .reductionSlotTimeout ++ (s.dev.packs.map fun p => .packResultWritten p.oid)
    ++ [.evacuationDrained, .evacuationDeadline]

/-- Every step that something in the machine may ask for; what the environment decides on comes by the agenda.
(DESIGN CHOICE, log entry 9) -/
def candidates (s : State) : List Instr :=
  s.packets.flatMap (fun e => packetEvents e.1 e.2) ++ (skeys s.rels).map .releaseCommit
    ++ s.cmds.flatMap (fun e => cmdEvents e.1 e.2) ++ (skeys s.mcmds).map .matrixCommandComplete
    ++ (skeys s.seqrs).flatMap s.seqrEvents
    ++ (skeys s.cores).flatMap (fun c => [.clauseStart c 0, .clauseStart c 1] ++ (s.groupsOn c).flatMap s.groupEvents)
    ++ (skeys s.teams).flatMap (fun t => [.teamDone t, .snapshotAgeRevoke t])
    ++ (skeys s.clusters).flatMap (fun c => [.clusterVacate c, .vacationCollectiveTimeout c])
    ++ (skeys s.ctxs).flatMap (fun c => [.contextKill c, .killComplete c])
    ++ (skeys s.parts).flatMap s.partEvents ++ s.deviceEvents

/-- The event would change the machine. -/
def moves (run : Meaning) (s : State) (e : Instr) : Bool :=
  match run e s with
  | .next t => t != s
  | _ => false

/-- The event that is due, in rotation over those that would change the machine.
(DESIGN CHOICE, log entry 9; DEDUCED, log entry 10) -/
def dueEvent (run : Meaning) (s : State) : Option Instr := (turned (s.turn / 2) s.candidates).find? (moves run s)

/-- Counts of pairs that reach their limit in this cycle: what comes in the cycle goes before them (R305, R307). -/
def lateEvents (s : State) : List Instr := (skeys s.seqrs).flatMap fun q => [.pairTimeout q, .mpairTimeout q]

/-- The next step: of the issuer already chosen, else by turns of an issuer and an event, then a count that has reached its
limit, else time alone. (DESIGN CHOICE, log entry 9) -/
def move (run : Meaning) (s : State) : Move :=
  match s.cur with
  | .none =>
    let i := (s.dueIssuer run).map Move.issue
    let e := (s.dueEvent run).map Move.event
    let late := (s.lateEvents.find? (moves run s)).map Move.event
    ((if s.turn % 2 = 0 then i.or e else e.or i).or late).getD .time
  | i => .issue i

end State

/-- A row of the table that has no encoding: an event of the part, which the environment may decide on. -/
def isEvent (i : Instr) : Bool := (encode i).isNone

end Sys2Proof.Machine
end

