-- ==== Sys2Proof/Machine/LocalLoad.lean ====
section
/-! DEFINITION. Loads from the team's own scratchpad (R134, R136, R176, R364). -/

namespace Sys2Proof.Machine

/-- LDS (R136); a poisoned byte is consumed (R200, R364). -/
def execLds (c : Ctl) (sz : Size) (sx : Bool) (d a : Opnd) (off : BitVec 11) (s : State) : Host.Outcome State Fault Refusal :=
  instr (.scr c true false (some 4) [(d, Size.wide sz)] [(a, false)]) s fun iss s =>
    if s.loadPoisoned iss true c sz a off then .gone (s.consume iss.tid 0) else .done (s.ownLoad iss true c sz sx d a off)

/-- LDSS (R136); a poisoned byte is consumed (R200, R364). -/
def execLdss (c : Ctl) (sz : Size) (sx : Bool) (d a : Opnd) (off : BitVec 11) (s : State) : Host.Outcome State Fault Refusal :=
  instr (.scr c false false (some 4) [(d, Size.wide sz)] [(a, false)]) s fun iss s =>
    if s.loadPoisoned iss false c sz a off then .gone (s.consume iss.tid 0) else .done (s.ownLoad iss false c sz sx d a off)

end Sys2Proof.Machine
end

