-- ==== Sys2Proof/Machine/Dispatch.lean ====
section
/-! DEFINITION. The dispatch: one arm per row of the opcode table. -/

namespace Sys2Proof.Machine

/-- The meaning of every row. -/
def exec (i : Instr) (s : State) : Host.Outcome State Fault Refusal :=
  match i with
  | .add c ty sat d a b => Sys2Proof.Machine.execAdd c ty sat d a b s
  | .sub c ty sat d a b => Sys2Proof.Machine.execSub c ty sat d a b s
  | .mul c ty sat d a b => Sys2Proof.Machine.execMul c ty sat d a b s
  | .mulh c ty d a b => Sys2Proof.Machine.execMulh c ty d a b s
  | .mad c ty sat d a b e => Sys2Proof.Machine.execMad c ty sat d a b e s
  | .min c ty d a b => Sys2Proof.Machine.execMin c ty d a b s
  | .max c ty d a b => Sys2Proof.Machine.execMax c ty d a b s
  | .and c ty d a b => Sys2Proof.Machine.execAnd c ty d a b s
  | .or c ty d a b => Sys2Proof.Machine.execOr c ty d a b s
  | .xor c ty d a b => Sys2Proof.Machine.execXor c ty d a b s
  | .not c ty d a => Sys2Proof.Machine.execNot c ty d a s
  | .shl c ty d a b => Sys2Proof.Machine.execShl c ty d a b s
  | .shr c ty d a b => Sys2Proof.Machine.execShr c ty d a b s
  | .sar c ty d a b => Sys2Proof.Machine.execSar c ty d a b s
  | .rol c ty d a b => Sys2Proof.Machine.execRol c ty d a b s
  | .clz c ty d a => Sys2Proof.Machine.execClz c ty d a s
  | .popc c ty d a => Sys2Proof.Machine.execPopc c ty d a s
  | .brev c ty d a => Sys2Proof.Machine.execBrev c ty d a s
  | .bfe c ty d a b => Sys2Proof.Machine.execBfe c ty d a b s
  | .bfi c ty d a b e => Sys2Proof.Machine.execBfi c ty d a b e s
  | .sel c ty d a b e => Sys2Proof.Machine.execSel c ty d a b e s
  | .addx c ty d a b => Sys2Proof.Machine.execAddx c ty d a b s
  | .subx c ty d a b => Sys2Proof.Machine.execSubx c ty d a b s
  | .mov c ty d a => Sys2Proof.Machine.execMov c ty d a s
  | .lea c ty sh d a b => Sys2Proof.Machine.execLea c ty sh d a b s
  | .leax c ty sh d a b e => Sys2Proof.Machine.execLeax c ty sh d a b e s
  | .addImm c ty sat d a imm => Sys2Proof.Machine.execAddImm c ty sat d a imm s
  | .subImm c ty sat d a imm => Sys2Proof.Machine.execSubImm c ty sat d a imm s
  | .mulImm c ty sat d a imm => Sys2Proof.Machine.execMulImm c ty sat d a imm s
  | .minImm c ty d a imm => Sys2Proof.Machine.execMinImm c ty d a imm s
  | .maxImm c ty d a imm => Sys2Proof.Machine.execMaxImm c ty d a imm s
  | .andImm c ty d a imm => Sys2Proof.Machine.execAndImm c ty d a imm s
  | .orImm c ty d a imm => Sys2Proof.Machine.execOrImm c ty d a imm s
  | .xorImm c ty d a imm => Sys2Proof.Machine.execXorImm c ty d a imm s
  | .shlImm c ty d a imm => Sys2Proof.Machine.execShlImm c ty d a imm s
  | .shrImm c ty d a imm => Sys2Proof.Machine.execShrImm c ty d a imm s
  | .sarImm c ty d a imm => Sys2Proof.Machine.execSarImm c ty d a imm s
  | .rolImm c ty d a imm => Sys2Proof.Machine.execRolImm c ty d a imm s
  | .movImm c ty d imm => Sys2Proof.Machine.execMovImm c ty d imm s
  | .leaImm c sh d a imm => Sys2Proof.Machine.execLeaImm c sh d a imm s
  | .movw c d imm => Sys2Proof.Machine.execMovw c d imm s
  | .movwx c d imm => Sys2Proof.Machine.execMovwx c d imm s
  | .addwx c d imm => Sys2Proof.Machine.execAddwx c d imm s
  | .movwh c d imm => Sys2Proof.Machine.execMovwh c d imm s
  | .cmp c ty cond d a b => Sys2Proof.Machine.execCmp c ty cond d a b s
  | .kand c d a b => Sys2Proof.Machine.execKand c d a b s
  | .kor c d a b => Sys2Proof.Machine.execKor c d a b s
  | .kxor c d a b => Sys2Proof.Machine.execKxor c d a b s
  | .knot c d a => Sys2Proof.Machine.execKnot c d a s
  | .kmov c d a => Sys2Proof.Machine.execKmov c d a s
  | .execget c d => Sys2Proof.Machine.execExecget c d s
  | .execset c a => Sys2Proof.Machine.execExecset c a s
  | .ktest c d a b => Sys2Proof.Machine.execKtest c d a b s
  | .shfl c mode seg d a b => Sys2Proof.Machine.execShfl c mode seg d a b s
  | .ballot c d a => Sys2Proof.Machine.execBallot c d a s
  | .vote c form d a => Sys2Proof.Machine.execVote c form d a s
  | .psum c ty sat exc d a => Sys2Proof.Machine.execPsum c ty sat exc d a s
  | .pmax c ty exc d a => Sys2Proof.Machine.execPmax c ty exc d a s
  | .laneid c form d => Sys2Proof.Machine.execLaneid c form d s
  | .fadd c ty rnd sat md d a b => Sys2Proof.Machine.execFadd c ty rnd sat md d a b s
  | .fsub c ty rnd sat md d a b => Sys2Proof.Machine.execFsub c ty rnd sat md d a b s
  | .fmul c ty rnd sat md d a b => Sys2Proof.Machine.execFmul c ty rnd sat md d a b s
  | .ffma c ty rnd sat md negc d a b e => Sys2Proof.Machine.execFfma c ty rnd sat md negc d a b e s
  | .fmin c ty sat md d a b => Sys2Proof.Machine.execFmin c ty sat md d a b s
  | .fmax c ty sat md d a b => Sys2Proof.Machine.execFmax c ty sat md d a b s
  | .fcmp c cond md d a b => Sys2Proof.Machine.execFcmp c cond md d a b s
  | .frcp c rnd sat nega absa d a => Sys2Proof.Machine.execFrcp c rnd sat nega absa d a s
  | .frsq c rnd sat nega absa d a => Sys2Proof.Machine.execFrsq c rnd sat nega absa d a s
  | .fexp2 c rnd sat nega absa d a => Sys2Proof.Machine.execFexp2 c rnd sat nega absa d a s
  | .flog2 c rnd sat nega absa d a => Sys2Proof.Machine.execFlog2 c rnd sat nega absa d a s
  | .fsin c sat nega absa d a => Sys2Proof.Machine.execFsin c sat nega absa d a s
  | .fcos c sat nega absa d a => Sys2Proof.Machine.execFcos c sat nega absa d a s
  | .ftanh c sat nega absa d a => Sys2Proof.Machine.execFtanh c sat nega absa d a s
  | .cvt c dt st_ rnd d a => Sys2Proof.Machine.execCvt c dt st_ rnd d a s
  | .pack c slot d a => Sys2Proof.Machine.execPack c slot d a s
  | .unpack c rnd slot d a => Sys2Proof.Machine.execUnpack c rnd slot d a s
  | .bra c off => Sys2Proof.Machine.execBra c off s
  | .brx c joff off => Sys2Proof.Machine.execBrx c joff off s
  | .call c d off => Sys2Proof.Machine.execCall c d off s
  | .braz c a off => Sys2Proof.Machine.execBraz c a off s
  | .branz c a off => Sys2Proof.Machine.execBranz c a off s
  | .join c => Sys2Proof.Machine.execJoin c s
  | .regang c => Sys2Proof.Machine.execRegang c s
  | .ret c a => Sys2Proof.Machine.execRet c a s
  | .jmpi c a => Sys2Proof.Machine.execJmpi c a s
  | .calli c d a => Sys2Proof.Machine.execCalli c d a s
  | .exit c => Sys2Proof.Machine.execExit c s
  | .yield c => Sys2Proof.Machine.execYield c s
  | .trap c a => Sys2Proof.Machine.execTrap c a s
  | .nop c => Sys2Proof.Machine.execNop c s
  | .lds c sz sx d a off => Sys2Proof.Machine.execLds c sz sx d a off s
  | .sts c sz d a off => Sys2Proof.Machine.execSts c sz d a off s
  | .ldw c sz dir sx d a off => Sys2Proof.Machine.execLdw c sz dir sx d a off s
  | .stw c sz dir d a off => Sys2Proof.Machine.execStw c sz dir d a off s
  | .ldss c sz sx d a off => Sys2Proof.Machine.execLdss c sz sx d a off s
  | .stss c sz d a off => Sys2Proof.Machine.execStss c sz d a off s
  | .ldws c sz dir sx d a off => Sys2Proof.Machine.execLdws c sz dir sx d a off s
  | .stws c sz dir d a off => Sys2Proof.Machine.execStws c sz dir d a off s
  | .ld c sz ord scope sx d a off => Sys2Proof.Machine.execLd c sz ord scope sx d a off s
  | .ldsc c sz ord scope sx d a off => Sys2Proof.Machine.execLdsc c sz ord scope sx d a off s
  | .pref c sz scope a off => Sys2Proof.Machine.execPref c sz scope a off s
  | .ldt c ord scope d a b off => Sys2Proof.Machine.execLdt c ord scope d a b off s
  | .snap c ord scope newest d a off => Sys2Proof.Machine.execSnap c ord scope newest d a off s
  | .st c sz ord scope d a off => Sys2Proof.Machine.execSt c sz ord scope d a off s
  | .stsc c sz ord scope d a off => Sys2Proof.Machine.execStsc c sz ord scope d a off s
  | .stt c ord scope d a b off => Sys2Proof.Machine.execStt c ord scope d a b off s
  | .atomAdd c sz ord scope d a b off => Sys2Proof.Machine.execAtomAdd c sz ord scope d a b off s
  | .atomMin c sz ord scope d a b off => Sys2Proof.Machine.execAtomMin c sz ord scope d a b off s
  | .atomMax c sz ord scope d a b off => Sys2Proof.Machine.execAtomMax c sz ord scope d a b off s
  | .atomMinn c sz ord scope d a b off => Sys2Proof.Machine.execAtomMinn c sz ord scope d a b off s
  | .atomMaxn c sz ord scope d a b off => Sys2Proof.Machine.execAtomMaxn c sz ord scope d a b off s
  | .atomAnd c sz ord scope d a b off => Sys2Proof.Machine.execAtomAnd c sz ord scope d a b off s
  | .atomOr c sz ord scope d a b off => Sys2Proof.Machine.execAtomOr c sz ord scope d a b off s
  | .atomXor c sz ord scope d a b off => Sys2Proof.Machine.execAtomXor c sz ord scope d a b off s
  | .atomSwap c sz ord scope d a b off => Sys2Proof.Machine.execAtomSwap c sz ord scope d a b off s
  | .atomCas c sz ord scope d a b off => Sys2Proof.Machine.execAtomCas c sz ord scope d a b off s
  | .atomFadd c ord scope d a b off => Sys2Proof.Machine.execAtomFadd c ord scope d a b off s
  | .redAdd c sz ord scope d a off => Sys2Proof.Machine.execRedAdd c sz ord scope d a off s
  | .redMin c sz ord scope d a off => Sys2Proof.Machine.execRedMin c sz ord scope d a off s
  | .redMax c sz ord scope d a off => Sys2Proof.Machine.execRedMax c sz ord scope d a off s
  | .redMinn c sz ord scope d a off => Sys2Proof.Machine.execRedMinn c sz ord scope d a off s
  | .redMaxn c sz ord scope d a off => Sys2Proof.Machine.execRedMaxn c sz ord scope d a off s
  | .redAnd c sz ord scope d a off => Sys2Proof.Machine.execRedAnd c sz ord scope d a off s
  | .redOr c sz ord scope d a off => Sys2Proof.Machine.execRedOr c sz ord scope d a off s
  | .redXor c sz ord scope d a off => Sys2Proof.Machine.execRedXor c sz ord scope d a off s
  | .redFadd c ord scope d a off => Sys2Proof.Machine.execRedFadd c ord scope d a off s
  | .fence c ord scope => Sys2Proof.Machine.execFence c ord scope s
  | .txbegin c off => Sys2Proof.Machine.execTxbegin c off s
  | .txcommit c scope => Sys2Proof.Machine.execTxcommit c scope s
  | .txabort c b => Sys2Proof.Machine.execTxabort c b s
  | .binit c d a off => Sys2Proof.Machine.execBinit c d a off s
  | .breg c a off => Sys2Proof.Machine.execBreg c a off s
  | .barr c d a b off => Sys2Proof.Machine.execBarr c d a b off s
  | .barrd c d a off => Sys2Proof.Machine.execBarrd c d a off s
  | .bexp c d a off => Sys2Proof.Machine.execBexp c d a off s
  | .bwait c d a off => Sys2Proof.Machine.execBwait c d a off s
  | .btest c d a b off => Sys2Proof.Machine.execBtest c d a b off s
  | .trig c d a b off => Sys2Proof.Machine.execTrig c d a b off s
  | .implicitDrop gid => Sys2Proof.Machine.execImplicitDrop gid s
  | .barrierWatchdogExpiry gid slice => Sys2Proof.Machine.execBarrierWatchdogExpiry gid slice s
  | .accalloc c d a => Sys2Proof.Machine.execAccalloc c d a s
  | .accfree c a => Sys2Proof.Machine.execAccfree c a s
  | .scrl c d a => Sys2Proof.Machine.execScrl c d a s
  | .scrlr c d a => Sys2Proof.Machine.execScrlr c d a s
  | .copy c a b => Sys2Proof.Machine.execCopy c a b s
  | .copyx c a b => Sys2Proof.Machine.execCopyx c a b s
  | .dtload c acq scope slot a => Sys2Proof.Machine.execDtload c acq scope slot a s
  | .copyDec c a b => Sys2Proof.Machine.execCopyDec c a b s
  | .planeq c d a => Sys2Proof.Machine.execPlaneq c d a s
  | .scrollStep cmd => Sys2Proof.Machine.execScrollStep cmd s
  | .engineCommandEnd cmd => Sys2Proof.Machine.execEngineCommandEnd cmd s
  | .dtloadTableWrite cmd => Sys2Proof.Machine.execDtloadTableWrite cmd s
  | .copyDecDecode cmd => Sys2Proof.Machine.execCopyDecDecode cmd s
  | .mshape dist d a b e => Sys2Proof.Machine.execMshape dist d a b e s
  | .mldt dist d a b e => Sys2Proof.Machine.execMldt dist d a b e s
  | .mzero dist d => Sys2Proof.Machine.execMzero dist d s
  | .mma dist sa sb d a b => Sys2Proof.Machine.execMma dist sa sb d a b s
  | .mmaPair dist sa sb d a b => Sys2Proof.Machine.execMmaPair dist sa sb d a b s
  | .msoft dist mask slot d a b e => Sys2Proof.Machine.execMsoft dist mask slot d a b e s
  | .mdrain dist rscope norm guide add dest slot d a b e => Sys2Proof.Machine.execMdrain dist rscope norm guide add dest slot d a b e s
  | .mwait dist d a => Sys2Proof.Machine.execMwait dist d a s
  | .marr dist d a b => Sys2Proof.Machine.execMarr dist d a b s
  | .msig dist mask => Sys2Proof.Machine.execMsig dist mask s
  | .mend dist => Sys2Proof.Machine.execMend dist s
  | .mpair dist => Sys2Proof.Machine.execMpair dist s
  | .mbra dist off => Sys2Proof.Machine.execMbra dist off s
  | .mloop dist a off => Sys2Proof.Machine.execMloop dist a off s
  | .mmov dist d imm => Sys2Proof.Machine.execMmov dist d imm s
  | .mmovHi dist d imm => Sys2Proof.Machine.execMmovHi dist d imm s
  | .madd dist d a imm => Sys2Proof.Machine.execMadd dist d a imm s
  | .mstart c d a b => Sys2Proof.Machine.execMstart c d a b s
  | .mstop c d => Sys2Proof.Machine.execMstop c d s
  | .matrixCommandComplete cmd => Sys2Proof.Machine.execMatrixCommandComplete cmd s
  | .pairTimeout seqr => Sys2Proof.Machine.execPairTimeout seqr s
  | .mpairTimeout seqr => Sys2Proof.Machine.execMpairTimeout seqr s
  | .seqStatusUnpair seqr => Sys2Proof.Machine.execSeqStatusUnpair seqr s
  | .seqStatusRepair seqr => Sys2Proof.Machine.execSeqStatusRepair seqr s
  | .sysrd c d num => Sys2Proof.Machine.execSysrd c d num s
  | .syswr c num a => Sys2Proof.Machine.execSyswr c num a s
  | .launch c d a => Sys2Proof.Machine.execLaunch c d a s
  | .vacate c d a b => Sys2Proof.Machine.execVacate c d a b s
  | .rte c => Sys2Proof.Machine.execRte c s
  | .icinv c scope => Sys2Proof.Machine.execIcinv c scope s
  | .dcflush c a b => Sys2Proof.Machine.execDcflush c a b s
  | .ctxkill c d a => Sys2Proof.Machine.execCtxkill c d a s
  | .pmon c clr d a => Sys2Proof.Machine.execPmon c clr d a s
  | .tlbinv c scope a b => Sys2Proof.Machine.execTlbinv c scope a b s
  | .haltcore c halt d a => Sys2Proof.Machine.execHaltcore c halt d a s
  | .timerrd c d => Sys2Proof.Machine.execTimerrd c d s
  | .timerset c a => Sys2Proof.Machine.execTimerset c a s
  | .timerclr c => Sys2Proof.Machine.execTimerclr c s
  | .groupTimerExpiry gid => Sys2Proof.Machine.execGroupTimerExpiry gid s
  | .launchDispatch part => Sys2Proof.Machine.execLaunchDispatch part s
  | .clusterPlace part park => Sys2Proof.Machine.execClusterPlace part park s
  | .parkCoreReload part park cid => Sys2Proof.Machine.execParkCoreReload part park cid s
  | .teamDone tid => Sys2Proof.Machine.execTeamDone tid s
  | .parkQuantumExpiry part park => Sys2Proof.Machine.execParkQuantumExpiry part park s
  | .parkIdleSteal part park => Sys2Proof.Machine.execParkIdleSteal part park s
  | .stealRetryTimeout part park => Sys2Proof.Machine.execStealRetryTimeout part park s
  | .countUpdateSend part src dst => Sys2Proof.Machine.execCountUpdateSend part src dst s
  | .clauseStart cid pipe => Sys2Proof.Machine.execClauseStart cid pipe s
  | .clauseFetchDone gid slice => Sys2Proof.Machine.execClauseFetchDone gid slice s
  | .ageingSwitch gid slice => Sys2Proof.Machine.execAgeingSwitch gid slice s
  | .regangTimeout gid => Sys2Proof.Machine.execRegangTimeout gid s
  | .trapEntry gid => Sys2Proof.Machine.execTrapEntry gid s
  | .serviceRequestAppend part => Sys2Proof.Machine.execServiceRequestAppend part s
  | .clusterVacate cluster => Sys2Proof.Machine.execClusterVacate cluster s
  | .vacationCollectiveTimeout cluster => Sys2Proof.Machine.execVacationCollectiveTimeout cluster s
  | .contextKill ctx => Sys2Proof.Machine.execContextKill ctx s
  | .killComplete ctx => Sys2Proof.Machine.execKillComplete ctx s
  | .orangeryRevoke chan => Sys2Proof.Machine.execOrangeryRevoke chan s
  | .snapshotAgeRevoke tid => Sys2Proof.Machine.execSnapshotAgeRevoke tid s
  | .collectorReclaim chan => Sys2Proof.Machine.execCollectorReclaim chan s
  | .releaseCommit rel => Sys2Proof.Machine.execReleaseCommit rel s
  | .settleBufferDrain pkt => Sys2Proof.Machine.execSettleBufferDrain pkt s
  | .escTimeout pkt => Sys2Proof.Machine.execEscTimeout pkt s
  | .rowRemapRebuild row => Sys2Proof.Machine.execRowRemapRebuild row s
  | .testWindowStart => Sys2Proof.Machine.execTestWindowStart s
  | .coreTestStart cid => Sys2Proof.Machine.execCoreTestStart cid s
  | .rd pkt => Sys2Proof.Machine.execRd pkt s
  | .wr pkt => Sys2Proof.Machine.execWr pkt s
  | .cmt pkt => Sys2Proof.Machine.execCmt pkt s
  | .atom pkt => Sys2Proof.Machine.execAtom pkt s
  | .red pkt => Sys2Proof.Machine.execRed pkt s
  | .win pkt => Sys2Proof.Machine.execWin pkt s
  | .bar pkt => Sys2Proof.Machine.execBar pkt s
  | .data pkt => Sys2Proof.Machine.execData pkt s
  | .ack pkt => Sys2Proof.Machine.execAck pkt s
  | .blk x => Sys2Proof.Machine.execBlk x s
  | .sreq pkt => Sys2Proof.Machine.execSreq pkt s
  | .countUpdate pkt => Sys2Proof.Machine.execCountUpdate pkt s
  | .srep pkt => Sys2Proof.Machine.execSrep pkt s
  | .cont x => Sys2Proof.Machine.execCont x s
  | .cres x => Sys2Proof.Machine.execCres x s
  | .cstat x => Sys2Proof.Machine.execCstat x s
  | .reductionSlotTimeout slot => Sys2Proof.Machine.execReductionSlotTimeout slot s
  | .evacuationDrained => Sys2Proof.Machine.execEvacuationDrained s
  | .evacuationDeadline => Sys2Proof.Machine.execEvacuationDeadline s
  | .submissionEntryTake part => Sys2Proof.Machine.execSubmissionEntryTake part s
  | .packResultWritten op => Sys2Proof.Machine.execPackResultWritten op s
  | .ctrl cid ctx off data => Sys2Proof.Machine.execCtrl cid ctx off data s
  | .coreReloadRelease cid => Sys2Proof.Machine.execCoreReloadRelease cid s
  | .translationWalkDone cid ctx va kind => Sys2Proof.Machine.execTranslationWalkDone cid ctx va kind s
  | .faultActRetry part idx => Sys2Proof.Machine.execFaultActRetry part idx s
  | .faultActTrap part idx => Sys2Proof.Machine.execFaultActTrap part idx s
  | .faultActKill part idx => Sys2Proof.Machine.execFaultActKill part idx s
  | .strikeReport x => Sys2Proof.Machine.execStrikeReport x s
  | .powerLimit cycles => Sys2Proof.Machine.execPowerLimit cycles s
  | .arrayUncorrectableError x => Sys2Proof.Machine.execArrayUncorrectableError x s
  | .homeChannelFailure chan => Sys2Proof.Machine.execHomeChannelFailure chan s
  | .routerDeath px py => Sys2Proof.Machine.execRouterDeath px py s
  | .coreFieldFailure x y => Sys2Proof.Machine.execCoreFieldFailure x y s
  | .coreTestDone cid pass => Sys2Proof.Machine.execCoreTestDone cid pass s
  | .multicastWriteArrival group src pa bytes => Sys2Proof.Machine.execMulticastWriteArrival group src pa bytes s
  | .colPortDown port => Sys2Proof.Machine.execColPortDown port s
  | .busPowerApplied => Sys2Proof.Machine.execBusPowerApplied s
  | .mainPowerApplied => Sys2Proof.Machine.execMainPowerApplied s
  | .mainPowerRemoved => Sys2Proof.Machine.execMainPowerRemoved s
  | .busPowerRemoved => Sys2Proof.Machine.execBusPowerRemoved s
  | .imageVerifyDone kind image => Sys2Proof.Machine.execImageVerifyDone kind image s
  | .fjondanRunning => Sys2Proof.Machine.execFjondanRunning s
  | .functionSelfTestDone unitKind unitNo pass => Sys2Proof.Machine.execFunctionSelfTestDone unitKind unitNo pass s
  | .evacuationCommand receiver accepted => Sys2Proof.Machine.execEvacuationCommand receiver accepted s
  | .evacuationFailure => Sys2Proof.Machine.execEvacuationFailure s
  | .evacuationReceive sundial coords shipped => Sys2Proof.Machine.execEvacuationReceive sundial coords shipped s
  | .evidenceRequest nonce part => Sys2Proof.Machine.execEvidenceRequest nonce part s
  | .identityStoreRead off count => Sys2Proof.Machine.execIdentityStoreRead off count s
  | .partitionCreate p => Sys2Proof.Machine.execPartitionCreate p s
  | .partitionDestroy part => Sys2Proof.Machine.execPartitionDestroy part s
  | .sqTail part tail => Sys2Proof.Machine.execSqTail part tail s
  | .sqEn part enable => Sys2Proof.Machine.execSqEn part enable s
  | .hostWrite fn addr bytes => Sys2Proof.Machine.execHostWrite fn addr bytes s
  | .hostRead fn addr count => Sys2Proof.Machine.execHostRead fn addr count s
  | .fjondanMailbox off bytes => Sys2Proof.Machine.execFjondanMailbox off bytes s
  | .conventionalReset => Sys2Proof.Machine.execConventionalReset s
  | .vfFunctionLevelReset part => Sys2Proof.Machine.execVfFunctionLevelReset part s
  | .pf0FunctionLevelReset => Sys2Proof.Machine.execPf0FunctionLevelReset s
  | .backInvalidationDone ts => Sys2Proof.Machine.execBackInvalidationDone ts s
  | .farMemoryCompletion ts => Sys2Proof.Machine.execFarMemoryCompletion ts s
  | .receiverAcknowledgement => Sys2Proof.Machine.execReceiverAcknowledgement s
  | .systemCoreRestart n => Sys2Proof.Machine.execSystemCoreRestart n s
  | .storedMinimumRaise kind slot svn => Sys2Proof.Machine.execStoredMinimumRaise kind slot svn s
  | .keySlotEnrolment slot key part => Sys2Proof.Machine.execKeySlotEnrolment slot key part s

end Sys2Proof.Machine
end

