-- ==== Sys2Proof/Machine/Step.lean ====
section
/-! DEFINITION. One step of the machine: an event the environment has decided on, the instruction of the gang or
sequencer whose turn it is, the event that is due, or one cycle of time. -/

namespace Sys2Proof.Machine

/-- After an instruction nobody is at issue, and the turn passes. -/
def settled (n : Nat) (o : Host.Outcome State Fault Refusal) : Host.Outcome State Fault Refusal :=
  match o with
  | .next t => .next { t with cur := .none, turn := n }
  | o => o

/-- One step. -/
def step (s : State) : Host.Outcome State Fault Refusal :=
  let n := s.turn + 1
  match s.agenda with
  | e :: rest =>
    let s := { s with agenda := rest, cur := .none }
    if isEvent e then settled n (exec e s) else .next { s with turn := n }
  | [] =>
    match s.move exec with
    | .issue i => settled n (State.issueOne exec s i)
    | .event e => settled n (exec e s)
    | .time => .next { s with clock := s.clock + 1, turn := n }

/-- The team a fetched word is given to: one group on core 0, at the level of an ordinary launch. -/
def State.withFetchTeam (s : State) (w : DWord) : State :=
  let tid := 16
  let gid := gidOf tid 0
  let s := { s with
    teams := sput s.teams tid { Team.absent with st := .running, core := 0, groups := 1, scrSize := 32, born := s.clock }
    groups := sput s.groups gid (Group.start 0 .l0 s.clock) }
  let s := (List.range 8).foldl (fun s i => s.modSlice gid i fun _ => Slice.start 0) s
  let s := s.modCore 0 fun _ =>
    { Core.fresh with pipe0 := some { gid := gid, slices := List.range 8, hdr := 0, words := [w] }, lastCtx := some 0 }
  { s with cur := .gang 0 0 gid (List.range 8) 0 0 1 }

/-- The sequencer a fetched word of a matrix stream is given to. -/
def State.withFetchSeqr (s : State) (w : DWord) : State :=
  let s := s.withFetchTeam 0
  let s := s.modCore 0 fun k => { k with pipe0 := none }
  let s := s.modTeam 16 fun t => { t with seqr := some 0 }
  { s with seqrs := sput s.seqrs 0 { Seqr.idleFor 16 with st := .running, words := [w] }, cur := .seqr 0 }

/-- `s` with the instruction of these bits where the next step fetches it: a resident team's gang, or a running
matrix sequencer, stands at a clause that holds just it, and the module is in SERVICE with every home ready (log entry 7). -/
def State.withFetchWord (s : State) (_nbits w : Nat) : State :=
  let d := BitVec.ofNat 64 w
  let s := { s with agenda := [], turn := 0, dev := { s.dev with st := .service, chansReady := List.range 2048 } }
  if streamOp (dfld d 58 6) then s.withFetchSeqr d else s.withFetchTeam d

end Sys2Proof.Machine
end

