-- ==== Sys2Proof/Safety.lean ====
section
/-! DEFINITION. What a run keeps, when an instruction may complete, and the frames that say what a completed one has
left alone: the terms the statements are written in. -/

namespace Sys2Proof.Machine

/-! ### What every step keeps -/

/-- Every byte memory is in canonical form, and no k0 is stored (R27, log entry 1). -/
def Inv (s : State) : Prop :=
  s.mem.wf ∧ s.scratch.wf ∧ s.tiles.wf ∧ ∀ p ∈ s.kreg, p.1 % 8 ≠ 0

/-- A step that stops is one no run of the part takes. -/
def Stops (s : State) : Prop := ∃ f, step s = .fault f

/-! ### An instruction at issue -/

/-- The state at the instruction's issue cycle (R49). -/
def State.issuing (s : State) (m : Meta) (iss : Iss) : State := { s with clock := s.issueAt m iss }

/-- A gang is at issue with an instruction that runs: neither turned away (R57, R70) nor held (R50, R51, R78), with
every earlier result readable by then (R51), with no array error pending (R364), and with a lane to act on (R28). -/
structure Ready (s : State) (m : Meta) (iss : Iss) : Prop where
  issuer : s.issOf = some iss
  gang : iss.slices.Nodup ∧ iss.slices ≠ [] ∧ ∀ i ∈ iss.slices, i < 8
  legal : s.illegalHere m iss = false
  free : s.heldBack m iss = false
  results : ∀ h ∈ (s.group iss.gid).hazards, State.readable (s.issueAt m iss) h = true
  sound : s.arrPoison = []
  acts : m.vec = true → s.issueL m iss ≠ 0

/-- Registers an instruction writes. -/
def dstRegs (m : Meta) : List Reg := m.dsts.flatMap regsOf

/-- All of a state but its v, s and k registers. -/
def State.regless (s : State) : State := { s with vreg := [], sreg := [], kreg := [] }

/-- All of a state but the records an issue changes: slices, groups, teams and cores. -/
def State.quiet (s : State) : State := { s with slices := [], groups := [], teams := [], cores := [] }

/-- All of a group but what an issue notes in it: the issue cycle and L, flags and results due (R49 to R51). -/
def Group.quiet (g : Group) : Group := { g with lastC := 0, lastL := 0, timedFlags := [], hazards := [] }

/-- All of a core but its issue pipes and what paces them. -/
def Core.quiet (c : Core) : Core := { c with pipe0 := none, pipe1 := none, pace0 := ⟨0, 0, 0⟩, pace1 := ⟨0, 0, 0⟩ }

/-- `t` differs from `s` in the destination registers alone, at the lanes and slices the instruction acts on: every
other register, and everything that is no register, is as it was. -/
structure RegsOnly (m : Meta) (iss : Iss) (s t : State) : Prop where
  rest : t.regless = s.regless
  vregs : ∀ g l n, l < 32 → n < 64 → (g = iss.gid → l ∈ s.lanesAt m iss → Reg.v n ∉ dstRegs m) → t.rdV g l n = s.rdV g l n
  sregs : ∀ g i n, i < 8 → n < 32 → (g = iss.gid → i ∈ iss.slices → Reg.s n ∉ dstRegs m) → t.rdS g i n = s.rdS g i n
  kregs : ∀ g i n, i < 8 → n < 8 → (g = iss.gid → i ∈ iss.slices → Reg.k n ∉ dstRegs m) → t.rdK g i n = s.rdK g i n

/-- `v` differs from `t` as an early or overtaken instruction leaves it (R51): its destinations in its gang's slices hold
free values, the operations whose results it overtakes never write there, and a register written whole loses its poison
(R364). -/
structure Spoiled (m : Meta) (iss : Iss) (t v : State) : Prop where
  rest : { v.regless with free := 0, groups := [], arrPoison := [] } = { t.regless with free := 0, groups := [], arrPoison := [] }
  poison : ∀ x ∈ v.arrPoison, x ∈ t.arrPoison
  vregs : ∀ g l n, l < 32 → n < 64 → (g = iss.gid → l / 4 ∈ iss.slices → Reg.v n ∉ dstRegs m) → v.rdV g l n = t.rdV g l n
  sregs : ∀ g i n, i < 8 → n < 32 → (g = iss.gid → i ∈ iss.slices → Reg.s n ∉ dstRegs m) → v.rdS g i n = t.rdS g i n
  kregs : ∀ g i n, i < 8 → n < 8 → (g = iss.gid → i ∈ iss.slices → Reg.k n ∉ dstRegs m) → v.rdK g i n = t.rdK g i n
  groups : ∀ g, g ≠ iss.gid → v.group g = t.group g
  group : { v.group iss.gid with ops := [] } = { t.group iss.gid with ops := [] }
  ops : (v.group iss.gid).ops.map (fun o => { o with lost := [] }) = (t.group iss.gid).ops.map fun o => { o with lost := [] }

/-- No register reads differently. -/
def SameRegs (s t : State) : Prop :=
  (∀ g l n, t.rdV g l n = s.rdV g l n) ∧ (∀ g i n, t.rdS g i n = s.rdS g i n) ∧ (∀ g i n, t.rdK g i n = s.rdK g i n)
    ∧ ∀ q n, t.rdM q n = s.rdM q n

/-- No byte of memory, of a scratchpad or of a tile register differs. -/
def SameBytes (s t : State) : Prop := t.mem = s.mem ∧ t.scratch = s.scratch ∧ t.tiles = s.tiles

/-- Where a slice stands after an instruction that does not transfer control: at the next of its clause, or past it
(R63). -/
def Slice.after (iss : Iss) (x : Slice) : Slice :=
  if iss.ix + 1 < iss.len then { x with ix := iss.ix + 1 } else { x with pc := iss.fall, ix := 0 }

/-- `u` is `t`, the state an instruction's own effect leaves, after what every issue adds: the issue is noted in the
group, the team has issued one more, and the gang stands at what follows. Nothing else differs. -/
structure Retired (iss : Iss) (t u : State) : Prop where
  rest : u.quiet = t.quiet
  slices : ∀ g i, i < 8 → u.slice g i = if g = iss.gid ∧ i ∈ iss.slices then Slice.after iss (t.slice g i) else t.slice g i
  groups : ∀ g, g ≠ iss.gid → u.group g = t.group g
  group : (u.group iss.gid).quiet = (t.group iss.gid).quiet
  issued : (u.group iss.gid).lastC = t.clock
  teams : ∀ k, u.team k = if k = iss.tid then { t.team k with issued := (t.team k).issued + 1 } else t.team k
  cores : ∀ c, c ≠ iss.cid → u.core c = t.core c
  core : (u.core iss.cid).quiet = (t.core iss.cid).quiet

/-- A value as a destination of a width holds it. -/
def fit (wide : Bool) (x : DWord) : DWord := if wide then x else (x.extractLsb' 0 32).zeroExtend 64

/-- `i` runs to its end at `s`: it answers a next state in which no register but its destinations has changed, and
nothing beyond them but the issue; before the issue was noted, `post` held of it. -/
def Completes (i : Instr) (m : Meta) (s : State) (iss : Iss) (post : State → Prop) : Prop :=
  ∃ t u, exec i s = .next u ∧ RegsOnly m iss (s.issuing m iss) t ∧ Retired iss t u ∧ post t

/-- Wherever `i` may complete it does, and its destination has the value `f` gives at every lane or slice it acts on. -/
def WritesAt (i : Instr) (m : Meta) (wide : Bool) (d : Opnd) (f : State → Iss → Nat → Nat → DWord) : Prop :=
  ∀ s iss, i.wf = true → Ready s m iss → Completes i m s iss fun t =>
    ∀ p ∈ s.targets iss m.vec m.c.pm, t.rdW wide iss.gid p.1 p.2 d = fit wide (f (s.issuing m iss) iss p.1 p.2)

/-- The same, for a value that depends on the place alone. -/
def Writes (i : Instr) (m : Meta) (wide : Bool) (d : Opnd) (f : State → Nat → Nat → Nat → DWord) : Prop :=
  WritesAt i m wide d fun s iss => f s iss.gid

/-- Wherever `i` may complete it does, and k register `n` of every slice has the mask `f` gives. -/
def WritesMask (i : Instr) (m : Meta) (n : BitVec 3) (f : State → Nat → Nat → Mask) : Prop :=
  ∀ s iss, i.wf = true → Ready s m iss → Completes i m s iss fun t =>
    ∀ j ∈ iss.slices, t.rdK iss.gid j n.toNat = f (s.issuing m iss) iss.gid j

/-- Wherever `i` may complete it does: in vector form every active lane's bit of k register `n` is the verdict `f`
gives and the other bits stay, in slice-scalar form all four bits are. -/
def WritesBits (i : Instr) (m : Meta) (n : BitVec 3) (f : State → Iss → Nat → Nat → Bool) : Prop :=
  ∀ s iss, i.wf = true → Ready s m iss → Completes i m s iss fun t =>
    ∀ j ∈ iss.slices, ∀ l < 4, (t.rdK iss.gid j n.toNat).getLsbD l =
      if m.vec then
        if (s.enabled iss.gid j m.c.pm).getLsbD l then f (s.issuing m iss) iss j l else (s.rdK iss.gid j n.toNat).getLsbD l
      else f (s.issuing m iss) iss j 0

/-- `t` differs from `s` in FP.STATUS of the issuing team alone, which has `conds` too from cycle `at_` on (R160, R174). -/
def RaisesOnly (iss : Iss) (conds at_ : Nat) (s t : State) : Prop :=
  { t with teams := [] } = { s with teams := [] } ∧ ∀ k,
    { t.team k with fpStatus := 0, fpLate := [] } = { s.team k with fpStatus := 0, fpLate := [] }
      ∧ ∀ c, s.clock ≤ c → (t.team k).fpAt c =
        if k = iss.tid ∧ at_ ≤ c then (s.team k).fpAt c ||| BitVec.ofNat 32 conds else (s.team k).fpAt c

/-- `t` differs from `s` in SCR.STATUS of the issuing team alone, where `bits` have been set (R137, R176). -/
def RangeOnly (iss : Iss) (bits : Word) (s t : State) : Prop :=
  { t with teams := [] } = { s with teams := [] } ∧ ∀ k, t.team k =
    if k = iss.tid then { s.team k with scrStatus := (s.team k).scrStatus ||| bits } else s.team k

/-- Conditions of all the places an instruction acts on. -/
def condsOf (s : State) (m : Meta) (iss : Iss) (f : State → Nat → Nat → Nat → DWord × Nat) : Nat :=
  (s.targets iss m.vec m.c.pm).foldl (fun a p => a ||| (f (s.issuing m iss) iss.gid p.1 p.2).2) 0

/-- The cycle at which the results of `m` are written (R79). -/
def State.writtenAt (s : State) (m : Meta) (iss : Iss) : Nat := m.readyAt (s.issueAt m iss) (s.issueL m iss)

/-- Wherever `i` may complete, and no condition it raises has its trap enabled, it does: its destination has the value
`f` gives at every place, and FP.STATUS the conditions once the results are written (R160). -/
def WritesF (i : Instr) (m : Meta) (wide : Bool) (d : Opnd) (f : State → Nat → Nat → Nat → DWord × Nat) : Prop :=
  ∀ s iss, i.wf = true → Ready s m iss → condsOf s m iss f &&& (s.team iss.tid).fpTrapen.toNat % 32 = 0 →
    ∃ v t u, exec i s = .next u ∧ RegsOnly m iss (s.issuing m iss) v ∧ RaisesOnly iss (condsOf s m iss f) (s.writtenAt m iss) v t ∧ Retired iss t u
      ∧ ∀ p ∈ s.targets iss m.vec m.c.pm, v.rdW wide iss.gid p.1 p.2 d = fit wide (f (s.issuing m iss) iss.gid p.1 p.2).1

/-- Wherever `i` may complete and no condition has its trap enabled, it does, whatever its operands hold: registers change
in its destination alone, and FP.STATUS takes the conditions it raises, if any, when the result is written (R160). -/
def CompletesF (i : Instr) (m : Meta) : Prop :=
  ∀ s iss, i.wf = true → Ready s m iss → (s.team iss.tid).fpTrapen.toNat % 32 = 0 →
    ∃ v t u conds, exec i s = .next u ∧ RegsOnly m iss (s.issuing m iss) v ∧ RaisesOnly iss conds (s.writtenAt m iss) v t
      ∧ Retired iss t u

/-- `i` takes a group trap: the effect `pre` and no more, the issue noted, and then the trap's own (R337, R341). -/
def Traps (i : Instr) (m : Meta) (s : State) (iss : Iss) (c : Cause) (pre : State → Prop) : Prop :=
  ∃ t, pre t ∧ exec i s = .next ((t.noteIssue iss (s.issueL m iss)).takeTrap iss.gid c)

/-- Wherever `i` would complete but that a condition it raises has its trap enabled, it writes no destination, FP.STATUS
takes the conditions, and the group takes the arithmetic trap with the enabled ones (R160). -/
def TrapsF (i : Instr) (m : Meta) (f : State → Nat → Nat → Nat → DWord × Nat) : Prop :=
  ∀ s iss, i.wf = true → Ready s m iss →
    let on := condsOf s m iss f &&& (s.team iss.tid).fpTrapen.toNat % 32
    on ≠ 0 → Traps i m s iss (iss.cause 2 0 (BitVec.ofNat 32 on) 0) (RaisesOnly iss (condsOf s m iss f) (s.issueAt m iss) (s.issuing m iss))

/-- `u` is `t` retired, and where the next instruction is a region entry, entered (R345). -/
def Ended (m : Meta) (iss : Iss) (t u : State) : Prop :=
  if m.bound then ∃ v, Retired iss t v ∧ u = v.regionEntry iss.gid iss.slices else Retired iss t u

/-- `i` runs to its end at `s` with an effect of its own, of which `post` holds. -/
def Finishes (i : Instr) (m : Meta) (s : State) (iss : Iss) (post : State → Prop) : Prop :=
  ∃ t u, exec i s = .next u ∧ Ended m iss t u ∧ post t

/-! ### Operations that go on after their issue -/

/-- What an instruction that begins an operation leaves alone: registers, bytes, accumulators, sequencers, contexts,
partitions and the module; other groups, and of its own group and team all that no operation changes; its gang
stands at what follows. -/
structure Sent (m : Meta) (iss : Iss) (s u : State) : Prop where
  regs : SameRegs s u
  bytes : SameBytes s u
  units : u.acc = s.acc ∧ u.side = s.side ∧ u.seqrs = s.seqrs ∧ u.wins = s.wins ∧ u.ctxs = s.ctxs ∧ u.parts = s.parts
  slices : ∀ g i, i < 8 → u.slice g i =
    if g = iss.gid ∧ i ∈ iss.slices then
      (if m.bound then State.saveRestart (s.names.op + 1) (Slice.after iss (s.slice g i)) else Slice.after iss (s.slice g i))
    else s.slice g i
  groups : ∀ g, g ≠ iss.gid → u.group g = s.group g
  group : (u.group iss.gid).level = (s.group iss.gid).level ∧ (u.group iss.gid).frame = (s.group iss.gid).frame
    ∧ (u.group iss.gid).causeLow = (s.group iss.gid).causeLow ∧ (u.group iss.gid).regs = (s.group iss.gid).regs
    ∧ (u.group iss.gid).timer = (s.group iss.gid).timer
  teams : ∀ k, (u.team k).fpStatus = (s.team k).fpStatus ∧ (u.team k).fpTrapen = (s.team k).fpTrapen
    ∧ (u.team k).scrStatus = (s.team k).scrStatus ∧ (u.team k).acc = (s.team k).acc

/-- `i` begins an operation at `s`, which its group then has outstanding under the next number, not done; of it and of
the state `post` holds. -/
def Begins (i : Instr) (m : Meta) (s : State) (iss : Iss) (post : Op → State → Prop) : Prop :=
  ∃ o u, exec i s = .next u ∧ Sent m iss s u ∧ o ∈ (u.group iss.gid).ops ∧ o.oid = s.names.op ∧ o.ctr = m.ctr
    ∧ o.done = false ∧ post o u

/-- A packet of an access is on its way, or in its settle buffer, for operation `oid`. -/
def OnItsWay (u : State) (iss : Iss) (oid : Nat) (load : Payload → Prop) (a : Access) : Prop :=
  ∃ k p, sget u.packets k = some p ∧ p.gid = iss.gid ∧ p.oid = oid ∧ p.lane = a.lane ∧ p.pa = a.pa ∧ p.size = a.size
    ∧ p.bytes = a.data ∧ load p.load

/-- The accesses of an instruction pass every check of R203 and reach memory: `acc`, with the translation caches filled. -/
def Reaches (s : State) (iss : Iss) (need : Need) (noGroup : Bool) (size : Nat) (l : List Want) (acc : List Access) : Prop :=
  (∃ v, checked s iss need noGroup size l = .ok (acc, v)) ∧ ∀ a ∈ acc, canonPa a.pa < devRegBase

/-- The group has nothing outstanding, and no gang of it waits to be restarted. -/
def Idle (s : State) (iss : Iss) : Prop := (s.group iss.gid).ops = [] ∧ (s.group iss.gid).restarts = []

/-- Every packet that has not arrived goes where its partition has a route (R323). -/
def Contained (s : State) : Prop := ∀ e ∈ s.packets, s.inReach e.2.ptag e.2.dst = true

/-- No group has an operation outstanding. -/
def Quiescent (s : State) : Prop := ∀ e ∈ s.groups, e.2.ops = []

/-- Scratchpad bytes outside the `n` at a byte of a core's space are as they were. -/
def ScratchOutside (cid off n : Nat) (s t : State) : Prop :=
  ∀ k, ¬(State.scrKey cid off ≤ k ∧ k < State.scrKey cid off + n) → mread t.scratch k = mread s.scratch k

/-- No register but the s register (or pair) of one slice reads differently. -/
def SameRegsBut (g i n : Nat) (wide : Bool) (s t : State) : Prop :=
  (∀ h l r, t.rdV h l r = s.rdV h l r) ∧ (∀ h j r, t.rdK h j r = s.rdK h j r) ∧ (∀ q r, t.rdM q r = s.rdM q r)
    ∧ ∀ h j r, j < 8 → r < 32 → ¬(h = g ∧ j = i ∧ (r = n ∨ (wide = true ∧ r = n + 1))) → t.rdS h j r = s.rdS h j r

/-! ### Events -/

/-- Event `i` comes about at `s`; `post` holds of the state after it. -/
def Occurs (i : Instr) (s : State) (post : State → Prop) : Prop := ∃ u, exec i s = .next u ∧ post u

/-- Event `i` comes about at `s`; `post` holds of the state its effect leaves, in which every operation then goes on that
it lets go on (R50, R78). -/
def Happens (i : Instr) (s : State) (post : State → Prop) : Prop := ∃ t, exec i s = .next t.settle ∧ post t

/-- Packet `k` is `p`, next of its stream at its destination, undamaged, its home ready and its team alive (R322, R325,
R352, R369). -/
structure Arrives (s : State) (k : Nat) (p : Packet) : Prop where
  next : s.deliverable k = some p
  clean : p.err = .clean
  ready : s.homeReady p = true
  alive : (s.team p.tid).st ≠ .killed

/-- A packet answers `p`, with a load and bytes. -/
def Answered (t : State) (p : Packet) (load : Payload) (bytes : List Byte) : Prop :=
  ∃ n q, sget t.packets n = some q ∧ q.src = p.dst ∧ q.dst = p.src ∧ q.vc = 1 ∧ q.gid = p.gid ∧ q.oid = p.oid ∧ q.lane = p.lane
    ∧ q.load = load ∧ q.bytes = bytes

/-- The object at an offset after an update. -/
def Obj.settled (o : Obj) : Obj := if o.full then o.next else o

/-- No update of a core's objects is frozen, and no trigger stands on the object at an offset (R223, R235, R238). -/
def Untriggered (s : State) (cid off : Nat) : Prop := (s.core cid).frozen = none ∧ ∀ t ∈ (s.core cid).triggers, t.off ≠ off

/-- A packet of `t` that `s` had not, with a destination, channel and load. -/
def SentOut (s t : State) (dst : Endpoint) (vc : Nat) (load : Payload) : Prop :=
  ∃ q, sget t.packets s.names.pkt = some q ∧ q.dst = dst ∧ q.vc = vc ∧ q.load = load ∧ q.held = false

/-! ### The matrix stream -/

/-- A sequencer is at issue, no write to its UNPAIRED waiting, no twin of a pair gone and no array error pending (R303,
R306, R364). -/
structure StreamReady (s : State) (q : Nat) : Prop where
  issuer : s.cur = .seqr q
  there : (sget s.seqrs q).isSome = true
  steady : (s.seqr q).wantUnpair = none
  sound : s.arrPoison = []
  twins : s.paired q = true → s.twinLive q 0 = true ∧ s.twinLive q 1 = true

/-- The state at cycle `c`, a sequencer's issue noted (R269). -/
def State.seqNoted (s : State) (q c : Nat) : State :=
  { s with clock := c }.modSeqr q fun x => { x with lastC := c, mbusy := x.mbusy.filter fun p => c < p.2 }

/-- `i` issues for sequencer `q` at some cycle; `post` holds of the state at issue and of that its effect leaves, after
which the stream stands at the next instruction (R63, R269). -/
def Streams (i : Instr) (q : Nat) (s : State) (post : State → State → Prop) : Prop :=
  ∃ c t, s.clock ≤ c ∧ exec i s = .next (t.seqAdvance q) ∧ post (s.seqNoted q c) t

/-- `t` differs from `s` in m register `n` of sequencer `q` alone, and in when it may be read. -/
structure MRegOnly (q n : Nat) (s t : State) : Prop where
  rest : { t with mreg := [], seqrs := [] } = { s with mreg := [], seqrs := [] }
  regs : ∀ p r, r < 16 → ¬(p = q ∧ r = n) → t.rdM p r = s.rdM p r
  seqrs : ∀ p, { t.seqr p with mbusy := [] } = { s.seqr p with mbusy := [] }

/-- Sequencer `q` stops before `i` with a fault: FAULTED, the reason in SEQ.STATUS, and the matrix-fault trap posted to
the first group of the lead twin's team (R298, R299). -/
def StreamFaults (i : Instr) (q reason : Nat) (s : State) : Prop :=
  ∃ u, exec i s = .next u ∧ (u.seqr q).st = .faulted ∧ (u.seqr q).reason = reason ∧ (u.seqr q).words = []
    ∧ SameRegs s u ∧ SameBytes s u ∧ u.mcmds = s.mcmds
    ∧ ∃ k, (u.group (gidOf (s.leadTeam q) 0)).asyncs = (s.group (gidOf (s.leadTeam q) 0)).asyncs ++ [k]
      ∧ k.code = 18 ∧ k.reason = reason ∧ k.addr = (s.seqAddr q).zeroExtend 64

/-! ### Control flow -/

/-- `t` differs from `s` in the slices of the issuing gang alone, each changed by `f`. -/
structure SlicesOnly (iss : Iss) (f : Nat → Slice → Slice) (s t : State) : Prop where
  rest : { t with slices := [] } = { s with slices := [] }
  slices : ∀ g i, i < 8 → t.slice g i = if g = iss.gid ∧ i ∈ iss.slices then f i (s.slice g i) else s.slice g i

/-- All of a slice but its gang. -/
def Slice.ungang (x : Slice) : Slice := { x with gang := 0 }

/-- `u` is `t`, where an instruction has sent its slices, after what every transfer of control adds: the issue is noted,
the clause leaves its pipe, and the slices still ganged, once gang `old`, are ganged by where they stand (R30). -/
structure Jumped (iss : Iss) (old : Nat) (t u : State) : Prop where
  rest : u.quiet = t.quiet
  others : ∀ g i, i < 8 → ¬(g = iss.gid ∧ i ∈ iss.slices) → u.slice g i = t.slice g i
  slices : ∀ i ∈ iss.slices, (u.slice iss.gid i).ungang = (t.slice iss.gid i).ungang
  gangs : ∀ i ∈ iss.slices, ∀ j ∈ iss.slices,
    (t.slice iss.gid i).st = .ganged → (t.slice iss.gid i).gang = old →
    (t.slice iss.gid j).st = .ganged → (t.slice iss.gid j).gang = old →
    ((u.slice iss.gid i).gang = (u.slice iss.gid j).gang ↔
      (t.slice iss.gid i).pc = (t.slice iss.gid j).pc ∧ (t.slice iss.gid i).ix = (t.slice iss.gid j).ix)
  groups : ∀ g, g ≠ iss.gid → u.group g = t.group g
  group : (u.group iss.gid).quiet = (t.group iss.gid).quiet
  issued : (u.group iss.gid).lastC = t.clock
  teams : ∀ k, u.team k = if k = iss.tid then { t.team k with issued := (t.team k).issued + 1 } else t.team k
  cores : ∀ c, c ≠ iss.cid → u.core c = t.core c
  core : (u.core iss.cid).quiet = (t.core iss.cid).quiet
  out : ((u.core iss.cid).pipe0.all fun r => r.gid != iss.gid) ∧ ((u.core iss.cid).pipe1.all fun r => r.gid != iss.gid)

/-- A slice sent to an address. -/
def Slice.to (pc : Addr) (x : Slice) : Slice := { x with pc := pc, ix := 0 }

end Sys2Proof.Machine
end

