-- ==== Sys2Proof/Certificates/Slice0/Obligations.lean ====
section
/-! DEFINITION. The statements for the provers. Each says of every form of the instructions it names where they
complete, what they leave in their destinations, and what they leave alone. -/

open Sys2Proof Sys2Proof.Machine

/-- R49, R66, R82: a step with nothing decided runs the instruction that the doubleword of the issuer whose turn it is
decodes to, or turns a word that is none away with the illegal-instruction trap, or takes the event that is due, or
lets a cycle pass; after it nobody is at issue. (That an event the environment has decided on comes first, that issuers and
events take turns by `turn`, and that a count which reaches its limit comes last in its cycle, is the model's choice: log
entry 9.) -/
def Obligations.StepRunsDecoded : Prop :=
  ∀ (s : State) (who : Issuer) (i : Instr) (l : List Instr) (r : Reject) (iss : Iss),
    let after (o : Host.Outcome State Fault Refusal) : Prop :=
      (∀ t, o = .next t → step s = .next { t with cur := .none, turn := s.turn + 1 }) ∧ ∀ f, o = .fault f → step s = .fault f
    let turn : Prop := s.agenda = [] ∧ (s.cur = who ∧ who ≠ .none
      ∨ s.cur = .none ∧ s.dueIssuer exec = some who ∧ (s.turn % 2 = 0 ∨ s.dueEvent exec = none))
    (turn → s.decodedAt who = .ok i → after (exec i { s with cur := who }))
      ∧ (turn → s.decodedAt who = .rejected r → (∀ q, who ≠ .seqr q) → ({ s with cur := who } : State).issOf = some iss →
        after (.next (({ s with cur := who } : State).takeTrap iss.gid iss.illegal)))
      ∧ (s.agenda = i :: l → isEvent i = true → after (exec i { s with agenda := l, cur := .none }))
      ∧ (s.agenda = [] → s.cur = .none → s.dueEvent exec = some i → (s.turn % 2 = 1 ∨ s.dueIssuer exec = none) → after (exec i s))
      ∧ (s.agenda = [] → s.cur = .none → s.dueEvent exec = none → s.dueIssuer exec = none →
        let late := s.lateEvents.find? (State.moves exec s)
        (late = some i → after (exec i s)) ∧ (late = none → step s = .next { s with clock := s.clock + 1, turn := s.turn + 1 }))

/-- R66, R69, R70: words of the manual's own examples, and words composed from its encodings, decode to the instructions
they stand for. -/
def Obligations.ManualWordsDecode : Prop :=
  let c : Ctl := ⟨0, 15, 0⟩
  decodeTableWord 64 0x1801E00C04080000 = some (.fadd c .f32 .rne false ⟨false, false, false, false⟩ (.v 3) (.v 1) (.v 2))
    ∧ decodeTableWord 64 0x2401E00003FFFFF0 = some (.bra c (-16))
    ∧ decodeTableWord 64 0x1831E01404080C52 = some (.ffma c .f32 .rtz false ⟨true, false, false, true⟩ false (.v 5) (.v 1) (.v 2) (.v 3))
    ∧ decodeTableWord 64 0x0171E1124C000180 = some (.mov c .i64 (.s 4) (.sp .paramLo))
    ∧ decodeTableWord 64 0x0401E00A09000007 = some (.addImm c .i32 false (.v 2) (.sp .groupId) 7)
    ∧ decodeTableWord 64 0x4808000910025000 = some (.st ⟨4, 0, 0⟩ .w .rel .device (.v 2) (.s 4) 0)
    ∧ decodeTableWord 64 0x2851E00000000000 = some (.exit c)
    ∧ decodeTableWord 64 0x0C01E18407280110 = some (.cmp c .i32 .lt (.k 1) (.v 1) (.pos 10))
    ∧ decodeTableWord 64 0x2415E40024000006 = some (.brx ⟨2, 15, 1⟩ 9 6)
    ∧ decodeTableWord 64 0xE041E00000000000 = some (.rte c)

/-- R182, R183, R368: right after reset the module is OFF, every line reads as one version with timestamp 0, the Sundial
and the clock stand at 0, and no team, launch, partition or packet exists. (What the manual gives no reset value reads
0: log entries 1 and 2.) -/
def Obligations.ResetState : Prop :=
  State.reset.dev.st = .off ∧ State.reset.sundial = 0 ∧ State.reset.clock = 0 ∧ State.reset.teams = [] ∧ State.reset.launches = []
    ∧ State.reset.parts = [] ∧ State.reset.packets = []
    ∧ (∀ pa, State.reset.lineStamp pa = 0 ∧ State.reset.newest pa = 0 ∧ ∀ h, State.reset.byteAt h pa = State.reset.newest pa)
    ∧ (∀ g l n, State.reset.rdV g l n = 0) ∧ (∀ g i n, State.reset.rdS g i n = 0) ∧ (∀ q n, State.reset.rdM q n = 0)
    ∧ ∀ g i n, State.reset.rdK g i n = if n = 0 then 15 else 0

/-- R27: the invariant holds right after reset. -/
def Obligations.InvariantHoldsAtReset : Prop := Inv State.reset

/-- R27: every step of the machine keeps the canonical form of each byte memory, and never stores k0, so that k0 reads all
ones after it as before. -/
def Obligations.EveryStepKeepsTheInvariant : Prop :=
  ∀ s t : State, Inv s → step s = .next t → Inv t ∧ ∀ g i, t.rdK g i 0 = 15

/-- R66 to R82: decoding the word that encodes a well-formed instruction gives it back, with every operand, in its own
stream; every instruction that is no event has a word; and what a word decodes to is well formed and encodes to that
word. -/
def Obligations.DecodingAndEncodingAgree : Prop :=
  ∀ (i : Instr) (w : DWord),
    (i.wf = true → encode i = some w → decodeWord w = .ok i ∧ decodeTableWord 64 w.toNat = some i)
      ∧ (isEvent i = false → (encode i).isSome = true) ∧ (isEvent i = true → encode i = none)
      ∧ (decodeWord w = .ok i → i.wf = true ∧ encode i = some w ∧ isEvent i = false)

/-- R1, R80: a step refuses nothing, and leaves nobody at issue; it can stop only where an instruction of a stream is at
issue whose issuer does not exist. (That such a step stops is the model's choice, log entry 7.) -/
def Obligations.OnlyAMissingIssuerStops : Prop :=
  ∀ s : State, (∀ r, step s ≠ .refused r) ∧ (∀ t, step s = .next t → t.cur = .none)
    ∧ ∀ f, step s = .fault f → s.agenda = [] ∧ (s.cur ≠ .none
      ∨ ∃ e ∈ s.cores, ∃ r, (e.2.pipe0 = some r ∨ e.2.pipe1 = some r) ∧ sget s.groups r.gid = none)

/-- R28, R35, R50, R51, R57, R70, R80, R364: an instruction that issues in the common frame takes the illegal-instruction
trap where its core has not its form or registers; waits, changing nothing, where an operation holds it; consumes the
error where it reads a poisoned register; only moves its gang on where no lane is active, the masks it reads having
arrived. Done at once, it still
completes where a result it overwrites was to arrive later, with all but its destinations as its effect leaves it; and
where a result it reads was still to arrive, with its destinations free values (R51 calls them UNDEFINED) and no other
effect (R2; log entry 66). -/
def Obligations.IssueFrame : Prop :=
  ∀ (i : Instr) (m : Meta) (body : Iss → State → Res) (s : State) (iss : Iss),
    let unread := fun h => !State.readable (s.issueAt m iss) h
    let idle : Prop := m.vec = true ∧ s.issueL m iss = 0 ∧ (m.exact = true ∨ (s.maskHazards m iss).any unread = false)
    (∀ s, exec i s = instr m s body) → s.issOf = some iss → iss.slices.Nodup → (∀ j ∈ iss.slices, j < 8) →
    (s.illegalHere m iss = true → exec i s = .next (s.takeTrap iss.gid iss.illegal))
      ∧ (s.illegalHere m iss = false → s.heldBack m iss = true → exec i s = .next s)
      ∧ (s.illegalHere m iss = false → s.heldBack m iss = false →
        (s.readsPoison m iss = true → exec i s = .next (s.consume iss.tid 0))
        ∧ (s.readsPoison m iss = false → idle → ∃ u, exec i s = .next u ∧ Ended m iss (s.issuing m iss) u)
        ∧ ∀ t, s.readsPoison m iss = false → ¬idle → m.bound = false →
          body iss (s.issuing m iss) = .done t →
          (∀ r ∈ dstRegs m, (∀ n, r = .v n → n < 64) ∧ ∀ n, r = .s n → n < 32) →
          let early := !m.exact && (s.maskHazards m iss ++ s.srcHazards m iss).any unread
          (early = false → ∃ v u, exec i s = .next u ∧ Spoiled m iss t v ∧ Retired iss v u)
            ∧ (early = true → m.ctr = none → m.opFlag = false →
              ∃ v u, exec i s = .next u ∧ Spoiled m iss (s.issuing m iss) v ∧ Retired iss v u))

/-- R106, R108, R111: ADD, SUB, MUL, MULH, MAD, MIN and MAX write r, computed exactly and, under SAT, clamped, in every
lane of ACTIVE or once per slice, and write D and nothing else. -/
def Obligations.IntegerArithmeticWritesExactResult : Prop :=
  ∀ (c : Ctl) (ty : IntTy) (sat : Bool) (d a b e : Opnd),
    let src2 := [(a, ty.wide), (b, ty.wide)]
    let v2 := isVec [d, a, b]
    let r (f : Int → Int → Int) (s : State) (g i l : Nat) : Int := f (rdI ty s g i l a) (rdI ty s g i l b)
    Writes (.add c ty sat d a b) (.reg c v2 (intLat false ty) [(d, ty.wide)] src2) ty.wide d
        (fun s g i l => wrI ty sat (r (fun x y => x + y) s g i l))
      ∧ Writes (.sub c ty sat d a b) (.reg c v2 (intLat false ty) [(d, ty.wide)] src2) ty.wide d
        (fun s g i l => wrI ty sat (r (fun x y => x - y) s g i l))
      ∧ Writes (.mul c ty sat d a b) (.reg c v2 (intLat true ty) [(d, ty.wide)] src2) ty.wide d
        (fun s g i l => wrI ty sat (r (fun x y => x * y) s g i l))
      ∧ Writes (.mulh c ty d a b) (.reg c v2 (intLat true ty) [(d, ty.wide)] src2) ty.wide d
        (fun s g i l => ty.wr (r (fun x y => (x * y).fdiv (2 ^ ty.bits)) s g i l))
      ∧ Writes (.mad c ty sat d a b e) (.reg c (isVec [d, a, b, e]) 4 [(d, ty.wide)] (src2 ++ [(e, ty.wide)])) ty.wide d
        (fun s g i l => wrI ty sat (r (fun x y => x * y) s g i l + rdI ty s g i l e))
      ∧ Writes (.min c ty d a b) (.reg c v2 (intLat false ty) [(d, ty.wide)] src2) ty.wide d
        (fun s g i l => ty.wr (r (fun x y => if x ≤ y then x else y) s g i l))
      ∧ Writes (.max c ty d a b) (.reg c v2 (intLat false ty) [(d, ty.wide)] src2) ty.wide d
        (fun s g i l => ty.wr (r (fun x y => if x ≤ y then y else x) s g i l))

/-- R108, R111: AND, OR, XOR and NOT work on the n-bit patterns, bit by bit; the shifts and ROL move the pattern by s = B
mod n; CLZ and POPC count its bits and BREV turns it round. R108, R109: MOV copies; BFE extracts the field a
descriptor names, extended by the signedness of TYPE, BFI replaces it by the low bits of b, an empty field giving 0
and a; SEL takes a where its condition holds, else b. -/
def Obligations.IntegerBitAndFieldForms : Prop :=
  (
    ∀ (c : Ctl) (ty : IntTy) (d a b : Opnd),
      let n := ty.bits
      let m2 : Meta := .reg c (isVec [d, a, b]) (intLat false ty) [(d, ty.wide)] [(a, ty.wide), (b, ty.wide)]
      let ms : Meta := .reg c (isVec [d, a, b]) (intLat false ty) [(d, ty.wide)] [(a, ty.wide), (b, false)]
      let m1 : Meta := .reg c (isVec [d, a]) (intLat false ty) [(d, ty.wide)] [(a, ty.wide)]
      let p (s : State) (g i l : Nat) (o : Opnd) : Nat := pat ty (rdI ty s g i l o)
      let by_ (s : State) (g i l : Nat) : Nat := (s.rd32 g i l b).toNat % n
      let w (x : Nat) : DWord := ty.wr x
      Writes (.and c ty d a b) m2 ty.wide d (fun s g i l => w (p s g i l a &&& p s g i l b))
        ∧ Writes (.or c ty d a b) m2 ty.wide d (fun s g i l => w (p s g i l a ||| p s g i l b))
        ∧ Writes (.xor c ty d a b) m2 ty.wide d (fun s g i l => w (p s g i l a ^^^ p s g i l b))
        ∧ Writes (.not c ty d a) m1 ty.wide d (fun s g i l => w (p s g i l a ^^^ (2 ^ n - 1)))
        ∧ Writes (.shl c ty d a b) ms ty.wide d (fun s g i l => w (p s g i l a <<< by_ s g i l))
        ∧ Writes (.shr c ty d a b) ms ty.wide d (fun s g i l => w (p s g i l a >>> by_ s g i l))
        ∧ Writes (.sar c ty d a b) ms ty.wide d
          (fun s g i l => w ((BitVec.ofNat n (p s g i l a)).sshiftRight (by_ s g i l)).toNat)
        ∧ Writes (.rol c ty d a b) ms ty.wide d
          (fun s g i l => w ((BitVec.ofNat n (p s g i l a)).rotateLeft (by_ s g i l)).toNat)
        ∧ Writes (.clz c ty d a) m1 ty.wide d
          (fun s g i l => w (((List.range n).map fun k => n - 1 - k).takeWhile fun k => !(p s g i l a).testBit k).length)
        ∧ Writes (.popc c ty d a) m1 ty.wide d
          (fun s g i l => w ((List.range n).filter fun k => (p s g i l a).testBit k).length)
        ∧ Writes (.brev c ty d a) m1 ty.wide d
          (fun s g i l => w (BitVec.ofNat n (p s g i l a)).reverse.toNat)) ∧ (
    ∀ (c : Ctl) (ty : IntTy) (d a b e : Opnd),
      let n := ty.bits
      let lo (fd : Word) : Nat := min (fd.toNat % 256) n
      let hi (fd : Word) : Nat := min (fd.toNat % 256 + fd.toNat / 256 % 256) n
      let p (s : State) (g i l : Nat) (o : Opnd) : Nat := pat ty (rdI ty s g i l o)
      let vec := isVec [d, a, b, e]
      Writes (.mov c ty d a) (.reg c (isVec [d, a]) (intLat false ty) [(d, ty.wide)] [(a, ty.wide)]) ty.wide d
          (fun s g i l => ty.wr (rdI ty s g i l a))
        ∧ Writes (.bfe c ty d a b) (.reg c (isVec [d, a, b]) (intLat false ty) [(d, ty.wide)] [(a, ty.wide), (b, false)]) ty.wide d
          (fun s g i l =>
            let fd := s.rd32 g i l b
            let k := hi fd - lo fd
            let x := p s g i l a >>> lo fd % 2 ^ k
            ty.wr (if k = 0 then 0 else if ty.signed && x.testBit (k - 1) then (x : Int) - 2 ^ k else x))
        ∧ Writes (.bfi c ty d a b e)
            (.reg c vec (intLat false ty) [(d, ty.wide)] [(a, ty.wide), (b, ty.wide), (e, false)]) ty.wide d
          (fun s g i l =>
            let fd := s.rd32 g i l e
            ty.wr ((List.range n).foldl (fun (r : Int) k =>
              let bit := if lo fd ≤ k && k < hi fd then (p s g i l b).testBit (k - lo fd) else (p s g i l a).testBit k
              r + if bit then 2 ^ k else 0) 0))
        ∧ Writes (.sel c ty d a b e)
            { Meta.reg c vec (intLat false ty) [(d, ty.wide)] [(a, ty.wide), (b, ty.wide), (e, false)] with readsExec := e.isK }
            ty.wide d
          (fun s g i l =>
            let holds := match e with
              | .k k => if vec then (s.rdK g i k.toNat).getLsbD l else (s.rdK g i k.toNat &&& (s.slice g i).exec) != 0
              | o => s.rd32 g i l o != 0
            ty.wr (if holds then rdI ty s g i l a else rdI ty s g i l b)))

/-- R110, R111: the address forms add to the pair A the extended index, scaled by 2^SH, modulo 2^64. R112: MOVW writes
IMM34[31:0], MOVWX the pair from the sign-extended immediate, ADDWX adds it to the pair, and MOVWH writes D+1 and
leaves D. -/
def Obligations.AddressFormsAndWideImmediates : Prop :=
  (
    ∀ (c : Ctl) (ty : IntTy) (sh : BitVec 3) (d a b e : Opnd) (imm : BitVec 18),
      let x (s : State) (g i l : Nat) (o : Opnd) : DWord :=
        if ty.signed then (s.rd32 g i l o).signExtend 64 else (s.rd32 g i l o).zeroExtend 64
      let scale : DWord := BitVec.ofNat 64 (2 ^ sh.toNat)
      let m (lat : Nat) : Meta := .reg c (isVec [d, a, b]) lat [(d, true)] [(a, true), (b, false)]
      Writes (.addx c ty d a b) (m 4) true d (fun s g i l => s.rd64 g i l a + x s g i l b)
        ∧ Writes (.subx c ty d a b) (m 4) true d (fun s g i l => s.rd64 g i l a - x s g i l b)
        ∧ Writes (.lea c ty sh d a b) (m 2) true d (fun s g i l => s.rd64 g i l a + x s g i l b * scale)
        ∧ Writes (.leax c ty sh d a b e)
            (.reg c (isVec [d, a, b, e]) 4 [(d, true)] [(a, true), (b, false), (e, false)]) true d
          (fun s g i l => s.rd64 g i l a + x s g i l b * x s g i l e * scale)
        ∧ Writes (.leaImm c sh d a imm) (.reg c (isVec [d, a]) 2 [(d, true)] [(a, true)]) true d
          (fun s g i l => s.rd64 g i l a + imm.signExtend 64 * scale)) ∧ (
    ∀ (c : Ctl) (d : Opnd) (lo : BitVec 32) (imm : BitVec 34),
      Writes (.movw c d lo) (.reg c (isVec [d]) 2 [(d, false)] []) false d (fun _ _ _ _ => lo.zeroExtend 64)
        ∧ Writes (.movwx c d imm) (.reg c (isVec [d]) 4 [(d, true)] []) true d (fun _ _ _ _ => imm.signExtend 64)
        ∧ Writes (.addwx c d imm) (.reg c (isVec [d]) 4 [(d, true)] [(d, true)]) true d
          (fun s g i l => s.rd64 g i l d + imm.signExtend 64)
        ∧ Writes (.movwh c d lo) (.reg c (isVec [d]) 4 [(highOf d, false)] []) false (highOf d) (fun _ _ _ _ => lo.zeroExtend 64))

/-- R108, R111: the immediate forms of OP 0x01 compute as their register forms, with b the sign-extended IMM18 read under
TYPE and a shift amount taken from it modulo n. -/
def Obligations.IntegerImmediateForms : Prop :=
  ∀ (c : Ctl) (ty : IntTy) (sat : Bool) (d a : Opnd) (imm : BitVec 18),
    let n := ty.bits
    let m (slow : Bool) : Meta := .reg c (isVec [d, a]) (intLat slow ty) [(d, ty.wide)] [(a, ty.wide)]
    let b : Int := ty.rd (imm.signExtend 64)
    let amt : Nat := (imm.signExtend 32).toNat % n
    let p (s : State) (g i l : Nat) : Nat := pat ty (rdI ty s g i l a)
    let q : Nat := pat ty b
    let w (x : Nat) : DWord := ty.wr x
    Writes (.addImm c ty sat d a imm) (m false) ty.wide d (fun s g i l => wrI ty sat (rdI ty s g i l a + b))
      ∧ Writes (.subImm c ty sat d a imm) (m false) ty.wide d (fun s g i l => wrI ty sat (rdI ty s g i l a - b))
      ∧ Writes (.mulImm c ty sat d a imm) (m true) ty.wide d (fun s g i l => wrI ty sat (rdI ty s g i l a * b))
      ∧ Writes (.minImm c ty d a imm) (m false) ty.wide d
        (fun s g i l => ty.wr (if rdI ty s g i l a ≤ b then rdI ty s g i l a else b))
      ∧ Writes (.maxImm c ty d a imm) (m false) ty.wide d
        (fun s g i l => ty.wr (if rdI ty s g i l a ≤ b then b else rdI ty s g i l a))
      ∧ Writes (.andImm c ty d a imm) (m false) ty.wide d (fun s g i l => w (p s g i l &&& q))
      ∧ Writes (.orImm c ty d a imm) (m false) ty.wide d (fun s g i l => w (p s g i l ||| q))
      ∧ Writes (.xorImm c ty d a imm) (m false) ty.wide d (fun s g i l => w (p s g i l ^^^ q))
      ∧ Writes (.shlImm c ty d a imm) (m false) ty.wide d (fun s g i l => w (p s g i l <<< amt))
      ∧ Writes (.shrImm c ty d a imm) (m false) ty.wide d (fun s g i l => w (p s g i l >>> amt))
      ∧ Writes (.sarImm c ty d a imm) (m false) ty.wide d
        (fun s g i l => w ((BitVec.ofNat n (p s g i l)).sshiftRight amt).toNat)
      ∧ Writes (.rolImm c ty d a imm) (m false) ty.wide d
        (fun s g i l => w ((BitVec.ofNat n (p s g i l)).rotateLeft amt).toNat)
      ∧ Writes (.movImm c ty d imm) (.reg c (isVec [d]) (intLat false ty) [(d, ty.wide)] []) ty.wide d
        (fun _ _ _ _ => ty.wr b)

/-- R113: CMP sets the bits of kD to the truth of Rd(A) COND Rd(B): each active lane's bit in vector form, all four in
slice-scalar form; bits of lanes not in ACTIVE are unchanged. R159, R163: FCMP compares FP32 values, raising nothing;
with a NaN only NE and UNORD hold, and zeros are equal whatever their signs. -/
def Obligations.ComparesSetMaskBits : Prop :=
  (
    ∀ (c : Ctl) (ty : IntTy) (cond : Cond) (n : BitVec 3) (a b : Opnd),
      WritesBits (.cmp c ty cond (.k n) a b)
        { Meta.reg c (isVec [a, b]) (intLat false ty) [(.k n, false)] [(a, ty.wide), (b, ty.wide)] with exact := true } n
        fun s iss i l =>
          let x := rdI ty s iss.gid i l a
          let y := rdI ty s iss.gid i l b
          match cond with
          | .eq => decide (x = y)
          | .ne => decide (x ≠ y)
          | .lt => decide (x < y)
          | .le => decide (x ≤ y)
          | .gt => decide (x > y)
          | .ge => decide (x ≥ y)) ∧ (
    ∀ (c : Ctl) (cond : FCond) (md : FMods) (n : BitVec 3) (a b : Opnd),
      WritesBits (.fcmp c cond md (.k n) a b)
        { Meta.reg c (isVec [a, b]) 4 [(.k n, false)] [(a, false), (b, false)] with exact := true } n
        fun s iss i l =>
          let x := fpVal .f32 (modBits .f32 md.nega md.absa (s.rd32 iss.gid i l a).toNat)
          let y := fpVal .f32 (modBits .f32 md.negb md.absb (s.rd32 iss.gid i l b).toNat)
          if x.isNan || y.isNan then (match cond with | .ne => true | .unord => true | _ => false)
          else match cond with
            | .eq => !x.lt y && !y.lt x
            | .ne => x.lt y || y.lt x
            | .lt => x.lt y
            | .le => !y.lt x
            | .gt => y.lt x
            | .ge => !x.lt y
            | .unord => false
            | .ord => true)

/-- R115: the mask instructions compute in every slice of the gang on its own four bits, whatever EXEC is; KTEST gives 1
where kA and kB meet, and EXECGET gives EXEC to a k or an s register. R115, R116: EXECSET makes EXEC of every slice
the lanes of its operand that are in the path mask, and leaves the path mask, the split stack, the k registers and all
else. -/
def Obligations.MaskInstructions : Prop :=
  (
    ∀ (c : Ctl) (n x y : BitVec 3) (r : BitVec 5) (a : Opnd),
      let m2 : Meta := .mask c [(.k n, false)] [(.k x, false), (.k y, false)]
      WritesMask (.kand c (.k n) (.k x) (.k y)) m2 n (fun s g i => s.rdK g i x.toNat &&& s.rdK g i y.toNat)
        ∧ WritesMask (.kor c (.k n) (.k x) (.k y)) m2 n (fun s g i => s.rdK g i x.toNat ||| s.rdK g i y.toNat)
        ∧ WritesMask (.kxor c (.k n) (.k x) (.k y)) m2 n (fun s g i => s.rdK g i x.toNat ^^^ s.rdK g i y.toNat)
        ∧ WritesMask (.knot c (.k n) (.k x)) (.mask c [(.k n, false)] [(.k x, false)]) n (fun s g i => ~~~(s.rdK g i x.toNat))
        ∧ WritesMask (.kmov c (.k n) a) (.mask c [(.k n, false)] [(a, false)]) n
          (fun s g i => BitVec.ofNat 4 (s.rd32 g i 0 a).toNat)
        ∧ WritesMask (.execget c (.k n)) { Meta.mask c [(.k n, false)] [] with readsExec := true } n
          (fun s g i => (s.slice g i).exec)
        ∧ Writes (.execget c (.s r)) { Meta.mask c [(.s r, false)] [] with readsExec := true } false (.s r)
          (fun s g i _ => BitVec.ofNat 64 (s.slice g i).exec.toNat)
        ∧ Writes (.ktest c (.s r) (.k x) (.k y)) (.mask c [(.s r, false)] [(.k x, false), (.k y, false)]) false (.s r)
          (fun s g i _ => if s.rdK g i x.toNat &&& s.rdK g i y.toNat = 0 then 0 else 1)) ∧ (
    ∀ (c : Ctl) (a : Opnd) (s : State) (iss : Iss),
      let m : Meta := { Meta.mask c [] [(a, false)] with setsExec := true }
      (Instr.execset c a).wf = true → Ready s m iss →
        ∃ t u, exec (.execset c a) s = .next u
          ∧ SlicesOnly iss (fun i x => { x with exec := BitVec.ofNat 4 (s.rd32 iss.gid i 0 a).toNat &&& x.path })
              (s.issuing m iss) t
          ∧ Retired iss t u)

/-- R117 to R119, R121: each active lane receives from SHFL the source of the lane its MODE names where that lane is
active, else its own; from BALLOT the active lanes whose predicate holds; from LANEID its number, rank, count or mask;
VOTE sets its bit to the verdict over the active lanes. R120: PSUM gives each active lane the exact sum over the
active lanes up to it, clamped at the end under SAT, and PMAX the greatest of them, the least value of TYPE where
there is none. -/
def Obligations.LaneExchangeAndPrefix : Prop :=
  (
    ∀ (c : Ctl) (d a b : Opnd) (n : BitVec 3),
      let lanes (s : State) (k : Iss) : List Nat := (s.active k.gid k.slices c.pm).map fun p => 4 * p.1 + p.2
      let src (s : State) (k : Iss) (o : Opnd) (j : Nat) : Word := s.rd32 k.gid (j / 4) (j % 4) o
      let bits (l : List Nat) : DWord := BitVec.ofNat 64 ((l.map fun j => 2 ^ j).sum)
      (∀ mode seg, WritesAt (.shfl c mode seg d a b) (.reg c true 6 [(d, false)] [(a, false), (b, false)]) false d
          fun s k i l =>
            let me := 4 * i + l
            let w := match seg with | .w32 => 32 | .w16 => 16 | .w8 => 8 | .w4 => 4
            let base := me - me % w
            let at_ := me % w
            let n := (src s k b me).toNat
            let from_ : Option Nat := match mode with
              | .idx => some (base + n % w)
              | .up => if n ≤ at_ then some (me - n) else none
              | .down => if at_ + n < w then some (me + n) else none
              | .xor => some (base + (at_ ^^^ (n % w)))
            let j := match from_ with | some j => if j ∈ lanes s k then j else me | none => me
            (src s k a j).zeroExtend 64)
        ∧ WritesAt (.ballot c d a) (.reg c true 6 [(d, false)] [(a, false)]) false d
          (fun s k _ _ => bits ((lanes s k).filter fun j =>
            match a with
            | .k n => (s.rdK k.gid (j / 4) n.toNat).getLsbD (j % 4)
            | o => src s k o j != 0))
        ∧ (∀ form, WritesBits (.vote c form (.k n) a) { Meta.reg c true 6 [(.k n, false)] [(a, false)] with exact := true } n
          fun s k _ _ => match form with
            | .any => (lanes s k).any fun j => src s k a j != 0
            | .all => (lanes s k).all fun j => src s k a j != 0
            | .uni => (lanes s k).all fun j => (lanes s k).all fun h => src s k a j == src s k a h)
        ∧ (∀ form, WritesAt (.laneid c form d) (.reg c true 6 [(d, false)] []) false d fun s k i l =>
            match form with
            | .id => BitVec.ofNat 64 (4 * i + l)
            | .rank => BitVec.ofNat 64 ((lanes s k).countP fun j => j < 4 * i + l)
            | .count => BitVec.ofNat 64 (lanes s k).length
            | .mask => bits (lanes s k))) ∧ (
    ∀ (c : Ctl) (ty : IntTy) (exc : Bool) (d a : Opnd),
      let m : Meta := .reg c true 12 [(d, ty.wide)] [(a, ty.wide)]
      let vals (s : State) (k : Iss) (me : Nat) : List Int :=
        (((s.active k.gid k.slices c.pm).map fun p => 4 * p.1 + p.2).filter fun j => j < me || (!exc && j = me)).map fun j =>
          rdI ty s k.gid (j / 4) (j % 4) a
      (∀ sat, WritesAt (.psum c ty sat exc d a) m ty.wide d fun s k i l => wrI ty sat (vals s k (4 * i + l)).sum)
        ∧ WritesAt (.pmax c ty exc d a) m ty.wide d fun s k i l => ty.wr ((vals s k (4 * i + l)).max?.getD ty.lo))

/-- R159, R161, R162: FADD, FSUB, FMUL and FFMA compute exactly on the modified elements and round once; FMIN and FMAX
give the lesser or greater, a number before a NaN. Under SAT the result is clamped to 0 to 1; FP.STATUS takes the
conditions of every element. -/
def Obligations.FloatArithmeticRoundsOnce : Prop :=
  ∀ (c : Ctl) (ty : FTy) (rnd : Rnd) (sat negc : Bool) (md : FMods) (d a b e : Opnd),
    let F := ty.fmt
    let m2 : Meta := .reg c (isVec [d, a, b]) 4 [(d, false)] [(a, false), (b, false)]
    let x (s : State) (g i l : Nat) : List Nat := (elems ty (fconv ty a (s.rd32 g i l a))).map (modBits F md.nega md.absa)
    let y (s : State) (g i l : Nat) : List Nat := (elems ty (fconv ty b (s.rd32 g i l b))).map (modBits F md.negb md.absb)
    let z (s : State) (g i l : Nat) : List Nat := (elems ty (fconv ty e (s.rd32 g i l e))).map (modBits F negc false)
    let out (r : Nat × Nat) : Nat × Nat := (fsat F sat r.1, r.2)
    let with_ (nv : Bool) (r : Nat × Nat) : Nat × Nat := (r.1, r.2 ||| if nv then NV else 0)
    let sum (p q : XR) : Nat × Nat := with_ (p.isInf && q.isInf && p.sign != q.sign) (round F rnd (p.add rnd q))
    let bad (p q : XR) : Bool := (p.isZero && q.isInf) || (p.isInf && q.isZero)
    let two (f : XR → XR → Nat × Nat) (s : State) (g i l : Nat) : DWord × Nat :=
      fpack ty (((x s g i l).zip (y s g i l)).map fun p => out (f (fpVal F p.1) (fpVal F p.2)))
    let pick (f : Nat → Nat → Nat) (s : State) (g i l : Nat) : DWord × Nat :=
      fpack ty (((x s g i l).zip (y s g i l)).map fun p => out (f p.1 p.2, 0))
    let lt (p q : Nat) : Bool :=
      (fpVal F p).lt (fpVal F q) || ((fpVal F p).isZero && (fpVal F q).isZero && (fpVal F p).sign && !(fpVal F q).sign)
    let num (f : Nat → Nat → Nat) (p q : Nat) : Nat :=
      match fpVal F p, fpVal F q with
      | .nan, .nan => F.nan
      | .nan, _ => q
      | _, .nan => p
      | _, _ => f p q
    WritesF (.fadd c ty rnd sat md d a b) m2 false d (two sum)
      ∧ WritesF (.fsub c ty rnd sat md d a b) m2 false d (fun s g i l =>
          fpack ty (((x s g i l).zip (y s g i l)).map fun p => out (sum (fpVal F p.1) (fpVal F (modBits F true false p.2)))))
      ∧ WritesF (.fmul c ty rnd sat md d a b) m2 false d (two fun p q => with_ (bad p q) (round F rnd (p.mul q)))
      ∧ WritesF (.ffma c ty rnd sat md negc d a b e)
          (.reg c (isVec [d, a, b, e]) 4 [(d, false)] [(a, false), (b, false), (e, false)]) false d (fun s g i l =>
          fpack ty (((x s g i l).zip ((y s g i l).zip (z s g i l))).map fun p =>
            let u := fpVal F p.1
            let v := fpVal F p.2.1
            out (if bad u v then (F.nan, NV) else sum (u.mul v) (fpVal F p.2.2))))
      ∧ WritesF (.fmin c ty sat md d a b) m2 false d (pick (num fun p q => if lt q p then q else p))
      ∧ WritesF (.fmax c ty sat md d a b) m2 false d (pick (num fun p q => if lt p q then q else p))

/-- R160: where a condition that FADD, FSUB, FMUL, FFMA, a special function or CVT raises has its trap enabled, FP.STATUS takes
every condition raised, no destination is written, and the group takes the arithmetic trap with the enabled conditions. -/
def Obligations.EnabledConditionTrapsAndWritesNothing : Prop :=
  ∀ (c : Ctl) (ty : FTy) (rnd : Rnd) (sat negc : Bool) (md : FMods) (d a b e : Opnd),
    let m2 : Meta := .reg c (isVec [d, a, b]) 4 [(d, false)] [(a, false), (b, false)]
    let x (s : State) (g i l : Nat) : List Nat := fmod ty md.nega md.absa (fsrc ty s g i l a)
    let y (s : State) (g i l : Nat) : List Nat := fmod ty md.negb md.absb (fsrc ty s g i l b)
    let two (f : Nat → Nat → Nat × Nat) (s : State) (g i l : Nat) : DWord × Nat :=
      fpack ty (((x s g i l).zip (y s g i l)).map fun p => (fsat ty.fmt sat (f p.1 p.2).1, (f p.1 p.2).2))
    TrapsF (.fadd c ty rnd sat md d a b) m2 (two (faddE ty.fmt rnd))
      ∧ TrapsF (.fsub c ty rnd sat md d a b) m2 (two fun p q => faddE ty.fmt rnd p (modBits ty.fmt true false q))
      ∧ TrapsF (.fmul c ty rnd sat md d a b) m2 (two (fmulE ty.fmt rnd))
      ∧ TrapsF (.ffma c ty rnd sat md negc d a b e)
          (.reg c (isVec [d, a, b, e]) 4 [(d, false)] [(a, false), (b, false), (e, false)]) (fun s g i l =>
          fpack ty (((x s g i l).zip ((y s g i l).zip (fmod ty negc false (fsrc ty s g i l e)))).map fun p =>
            (fsat ty.fmt sat (ffmaE ty.fmt rnd p.1 p.2.1 p.2.2).1, (ffmaE ty.fmt rnd p.1 p.2.1 p.2.2).2)))
      ∧ ∀ (dt sty : CvtTy) (nega absa : Bool),
        let m1 (lat : Nat) : Meta := .reg c (isVec [d, a]) lat [(d, false)] [(a, false)]
        let sf (f : Nat → Nat × Nat) (s : State) (g i l : Nat) : DWord × Nat :=
          let r := f (modBits .f32 nega absa (s.rd32 g i l a).toNat)
          (BitVec.ofNat 64 (fsat .f32 sat r.1), r.2)
        TrapsF (.frcp c rnd sat nega absa d a) (m1 16) (sf (frcpE rnd)) ∧ TrapsF (.frsq c rnd sat nega absa d a) (m1 16) (sf (frsqE rnd))
          ∧ TrapsF (.fexp2 c rnd sat nega absa d a) (m1 16) (sf (fexp2E rnd))
          ∧ TrapsF (.flog2 c rnd sat nega absa d a) (m1 16) (sf (flog2E rnd))
          ∧ TrapsF (.fsin c sat nega absa d a) (m1 20) (sf fsinE) ∧ TrapsF (.fcos c sat nega absa d a) (m1 20) (sf fcosE)
          ∧ TrapsF (.ftanh c sat nega absa d a) (m1 20) (sf ftanhE)
          ∧ TrapsF (.cvt c dt sty rnd d a) (.reg c (isVec [d, a]) 4 [(d, dt.wide)] [(a, sty.wide)])
            (fun s g i l => cvtE dt sty rnd (s.rdW sty.wide g i l a))

/-- R165 to R167: FRCP, FRSQ, FEXP2 and FLOG2 give the special cases of R166, FEXP2 of an integer and FLOG2 of a power of
two exactly; otherwise FRCP and FRSQ round the function's value, FEXP2 one within a 2^200th of it, FLOG2 one within
2^-190. FSIN, FCOS and FTANH give the cases R167 fixes, and elsewhere a value that depends on the operand alone.
R168, R169: CVT rounds to a float from a float or an integer; to an integer it rounds as RND says and clamps, a NaN
giving 0 and an infinity an end of the range, both with NV as for any value outside it, else NX where inexact. R160:
with no trap enabled each of FRCP, FRSQ, FEXP2, FLOG2, FSIN, FCOS, FTANH and CVT completes, whatever its operands hold. -/
def Obligations.SpecialFunctionsAndConversion : Prop :=
  (
    ∀ (c : Ctl) (rnd : Rnd) (sat nega absa : Bool) (d a : Opnd),
      let m (lat : Nat) : Meta := .reg c (isVec [d, a]) lat [(d, false)] [(a, false)]
      let sf (f : Nat → Nat × Nat) (s : State) (g i l : Nat) : DWord × Nat :=
        let r := f (modBits .f32 nega absa (s.rd32 g i l a).toNat)
        (BitVec.ofNat 64 (fsat .f32 sat r.1), r.2)
      let inf (neg : Bool) : Nat := if neg then 0xFF800000 else 0x7F800000
      let nan : Nat := 0x7FC00000
      let one (neg : Bool) : Nat := if neg then 0xBF800000 else 0x3F800000
      let bounded (lim : Bool → Nat → Nat → Option (Nat × Nat)) (atInf : Bool → Nat × Nat) (f : Nat → Nat) (x : Nat) : Nat × Nat :=
        match fpVal .f32 x with
        | .nan => (nan, 0)
        | .inf neg => atInf neg
        | .fin neg p q => (lim neg p q).getD (f x, NX)
      WritesF (.frcp c rnd sat nega absa d a) (m 16) false d (sf fun x =>
          match fpVal .f32 x with
          | .nan => (nan, 0)
          | .inf neg => round .f32 rnd (.fin neg 0 1)
          | .fin neg p q => if p = 0 then (inf neg, DZ) else round .f32 rnd (.fin neg q p))
        ∧ WritesF (.frsq c rnd sat nega absa d a) (m 16) false d (sf fun x =>
          match fpVal .f32 x with
          | .nan => (nan, 0)
          | .inf neg => if neg then (nan, NV) else (0, 0)
          | .fin neg p q => if p = 0 then (inf neg, DZ) else if neg then (nan, NV) else round .f32 rnd (rsqrtX p q))
        ∧ (∃ f : Nat → Nat × Nat, WritesF (.fexp2 c rnd sat nega absa d a) (m 16) false d (sf fun x =>
            match fpVal .f32 x with
            | .nan => (nan, 0)
            | .inf neg => if neg then (0, 0) else (inf false, 0)
            | .fin _ p _ => if p = 0 then (one false, 0) else f x)
          ∧ ∀ x neg p q, fpVal .f32 x = .fin neg p q → p ≠ 0 →
            let k : Int := if neg then -(p / q : Nat) else (p / q : Nat)
            let v : ℝ := (2 : ℝ) ^ (if neg then -((p : ℝ) / q) else (p : ℝ) / q)
            (p % q = 0 → -149 ≤ k → k ≤ 127 → f x = (if -126 ≤ k then ((k + 127) * 2 ^ 23).toNat else 2 ^ (k + 149).toNat, 0))
              ∧ (512 * q ≤ p → f x = round .f32 rnd (.ofScaled false 1 (if neg then -512 else 512)))
              ∧ (p % q = 0 → p < 512 * q → f x = round .f32 rnd (.ofScaled false 1 k))
              ∧ (p % q ≠ 0 → p < 512 * q →
                ∃ y z : Nat, 0 < z ∧ f x = round .f32 rnd (.fin false y z) ∧ |(y : ℝ) / z - v| ≤ v / 2 ^ 200))
        ∧ (∃ f : Nat → Nat × Nat, WritesF (.flog2 c rnd sat nega absa d a) (m 16) false d (sf fun x =>
            match fpVal .f32 x with
            | .nan => (nan, 0)
            | .inf neg => if neg then (nan, NV) else (inf false, 0)
            | .fin neg p q => if p = 0 then (inf true, DZ) else if neg then (nan, NV) else if p = q then (0, 0) else f x)
          ∧ ∀ x p q, fpVal .f32 x = .fin false p q → p ≠ 0 → p ≠ q →
            (∀ k : Nat, (p = q * 2 ^ k → f x = ((round .f32 rnd (.fin false k 1)).1, 0))
              ∧ (q = p * 2 ^ k → f x = ((round .f32 rnd (.fin true k 1)).1, 0)))
            ∧ ((∀ k, p ≠ q * 2 ^ k ∧ q ≠ p * 2 ^ k) →
              ∃ (neg : Bool) (y z : Nat), 0 < z ∧ f x = round .f32 rnd (.fin neg y z)
                ∧ |(if neg then -((y : ℝ) / z) else (y : ℝ) / z) - Real.logb 2 ((p : ℝ) / q)| ≤ 1 / 2 ^ 190))
        ∧ (∃ f : Nat → Nat, WritesF (.fsin c sat nega absa d a) (m 20) false d (sf fun x => bounded
            (fun _ p q => if p = 0 then some (x, 0) else if p * 4096 < q then some (x, NX) else none) (fun _ => (nan, NV)) f x))
        ∧ (∃ f : Nat → Nat, WritesF (.fcos c sat nega absa d a) (m 20) false d (sf fun x => bounded
            (fun _ p q => if p = 0 then some (one false, 0) else if p * 4096 < q then some (one false, NX) else none)
            (fun _ => (nan, NV)) f x))
        ∧ (∃ f : Nat → Nat, WritesF (.ftanh c sat nega absa d a) (m 20) false d (sf fun x => bounded
            (fun neg p q => if p = 0 then some (x, 0) else if p * 4096 < q then some (x, NX)
              else if 10 * q ≤ p then some (one neg, NX) else none) (fun neg => (one neg, 0)) f x))) ∧ (
    ∀ (c : Ctl) (dt sty : CvtTy) (rnd : Rnd) (d a : Opnd),
      WritesF (.cvt c dt sty rnd d a) (.reg c (isVec [d, a]) 4 [(d, dt.wide)] [(a, sty.wide)]) dt.wide d
        fun s g i l =>
          let x := s.rdW sty.wide g i l a
          let v : XR := match sty.int with
            | some t => .ofInt (t.rd x)
            | none => fpVal sty.fmt (x.toNat % 2 ^ sty.fmt.bits)
          match dt.int with
          | none => (BitVec.ofNat 64 (round dt.fmt rnd v).1, (round dt.fmt rnd v).2)
          | some u =>
            match v with
            | .nan => (u.wr 0, NV)
            | .inf neg => (u.wr (if neg then u.lo else u.hi), NV)
            | .fin neg p q =>
              let r := roundInt rnd neg p q
              (u.wr (max u.lo (min u.hi r.1)), if sty.isInt then 0 else if r.1 < u.lo ∨ u.hi < r.1 then NV else if r.2 then 0 else NX)) ∧ (
    ∀ (c : Ctl) (dt sty : CvtTy) (rnd : Rnd) (sat nega absa : Bool) (d a : Opnd),
      let m (lat : Nat) : Meta := .reg c (isVec [d, a]) lat [(d, false)] [(a, false)]
      CompletesF (.frcp c rnd sat nega absa d a) (m 16) ∧ CompletesF (.frsq c rnd sat nega absa d a) (m 16)
        ∧ CompletesF (.fexp2 c rnd sat nega absa d a) (m 16) ∧ CompletesF (.flog2 c rnd sat nega absa d a) (m 16)
        ∧ CompletesF (.fsin c sat nega absa d a) (m 20) ∧ CompletesF (.fcos c sat nega absa d a) (m 20)
        ∧ CompletesF (.ftanh c sat nega absa d a) (m 20)
        ∧ CompletesF (.cvt c dt sty rnd d a) (.reg c (isVec [d, a]) 4 [(d, dt.wide)] [(a, sty.wide)]))

/-- R124: BRA sends every slice of the gang to its target; BRAZ and BRANZ send a slice there when its s register is zero
or not, else to the fall-through address; EXEC and the split stack are not touched. -/
def Obligations.DirectBranches : Prop :=
  ∀ (c : Ctl) (a : Opnd) (off : BitVec 26) (s : State) (iss : Iss),
    let target : Addr := iss.hdr + BitVec.ofInt 56 (8 * off.toInt)
    let old := (s.slice iss.gid iss.lead).gang
    let goes (i : Instr) (m : Meta) (pc : Nat → Addr) : Prop := i.wf = true → Ready s m iss →
      ∃ t u, exec i s = .next u ∧ SlicesOnly iss (fun j x => Slice.to (pc j) x) (s.issuing m iss) t ∧ Jumped iss old t u
    goes (.bra c off) (.flow c [] []) (fun _ => target)
      ∧ goes (.braz c a off) (.flow c [] [(a, false)]) (fun j => if s.rd32 iss.gid j 0 a = 0 then target else iss.fall)
      ∧ goes (.branz c a off) (.flow c [] [(a, false)]) (fun j => if s.rd32 iss.gid j 0 a = 0 then iss.fall else target)

/-- R127: CALL and CALLI write the return pair, the fall-through address with bits [63:56] zero, and go to the target,
which CALLI reads at issue; RET and JMPI go where their pair says. They touch neither masks nor stack. -/
def Obligations.CallsAndIndirectTransfers : Prop :=
  ∀ (c : Ctl) (d a : Opnd) (off : BitVec 26) (s : State) (iss : Iss),
    let old := (s.slice iss.gid iss.lead).gang
    let pair (j : Nat) : Addr := BitVec.ofNat 56 (s.rd64 iss.gid j 0 a).toNat
    let aligned : Prop := ∀ j ∈ iss.slices, (s.rd64 iss.gid j 0 a).toNat % 8 = 0
    let calls (i : Instr) (m : Meta) (pc : Nat → Addr) : Prop := i.wf = true → Ready s m iss →
      ∃ v t u, exec i s = .next u ∧ RegsOnly m iss (s.issuing m iss) v
        ∧ (∀ j ∈ iss.slices, v.rd64 iss.gid j 0 d = BitVec.ofNat 64 iss.fall.toNat)
        ∧ SlicesOnly iss (fun j x => Slice.to (pc j) x) v t ∧ Jumped iss old t u
    let goes (i : Instr) (m : Meta) (pc : Nat → Addr) : Prop := i.wf = true → Ready s m iss →
      ∃ t u, exec i s = .next u ∧ SlicesOnly iss (fun j x => Slice.to (pc j) x) (s.issuing m iss) t ∧ Jumped iss old t u
    calls (.call c d off) (.flow c [(d, true)] []) (fun _ => iss.hdr + BitVec.ofInt 56 (8 * off.toInt))
      ∧ (aligned → calls (.calli c d a) (.flow c [(d, true)] [(a, true)]) pair)
      ∧ (aligned → goes (.ret c a) (.flow c [] [(a, true)]) pair)
      ∧ (aligned → goes (.jmpi c a) (.flow c [] [(a, true)]) pair)

/-- R125: in every slice whose EXEC is not zero BRX pushes the join, the path mask and, where the lanes part, the path not
taken; the taken path becomes current; a slice with EXEC zero goes on at the fall-through address. A full stack raises
the overflow trap with nothing pushed (R32). -/
def Obligations.BrxPushesAndParts : Prop :=
  ∀ (c : Ctl) (joff : BitVec 16) (off : BitVec 26) (s : State) (iss : Iss),
    let m : Meta := { Meta.flow c [] [] with readsExec := true, readsPm := true }
    let full : Prop := ∃ j ∈ iss.slices, (s.slice iss.gid j).exec ≠ 0 ∧ 16 ≤ (s.slice iss.gid j).stack.length
    let target : Addr := iss.hdr + BitVec.ofInt 56 (8 * off.toInt)
    let join : Addr := iss.hdr + BitVec.ofInt 56 (8 * joff.toInt)
    let brx (j : Nat) (x : Slice) : Slice :=
      let t : Mask := x.exec &&& s.rdK iss.gid j c.pm.toNat
      let f : Mask := x.exec &&& ~~~(s.rdK iss.gid j c.pm.toNat)
      let e : Entry :=
        { join := join, restore := x.path, age := (s.issuing m iss).cycles iss.gid
          pend := if t ≠ 0 ∧ f ≠ 0 then some { pc := iss.fall, path := f, exec := f } else none }
      if x.exec = 0 then Slice.to iss.fall x
      else if t ≠ 0 then { x with stack := e :: x.stack, pc := target, ix := 0, exec := t, path := t }
      else { x with stack := e :: x.stack, pc := iss.fall, ix := 0, exec := f, path := f }
    (Instr.brx c joff off).wf = true → Ready s m iss →
      (¬full → ∃ t u, exec (.brx c joff off) s = .next u ∧ SlicesOnly iss brx (s.issuing m iss) t
          ∧ Jumped iss (s.slice iss.gid iss.lead).gang t u)
        ∧ (full → Traps (.brx c joff off) m s iss (iss.cause 7 0 0 0) fun t => t = s.issuing m iss)

/-- R126: JOIN switches to the pending path of the top entry, or pops it and goes to its join, masks less exited lanes,
the entry then on top restarting its age; an empty stack raises the illegal-join trap. -/
def Obligations.JoinSwitchesOrPops : Prop :=
  ∀ (c : Ctl) (s : State) (iss : Iss),
    let m : Meta := .flow c [] []
    let now := (s.issuing m iss).cycles iss.gid
    let join (_ : Nat) (x : Slice) : Slice :=
      match x.stack with
      | [] => x
      | e :: rest =>
        match e.pend with
        | some p =>
          { x with pc := p.pc, ix := 0, path := p.path &&& ~~~x.exited, exec := p.exec &&& ~~~x.exited
                   stack := { e with pend := none, age := now } :: rest }
        | none =>
          { x with pc := e.join, ix := 0, path := e.restore &&& ~~~x.exited, exec := e.restore &&& ~~~x.exited
                   stack := match rest with | [] => [] | f :: l => { f with age := now } :: l }
    (Instr.join c).wf = true → Ready s m iss →
      ((∀ j ∈ iss.slices, (s.slice iss.gid j).stack ≠ []) →
          ∃ t u, exec (.join c) s = .next u ∧ SlicesOnly iss join (s.issuing m iss) t
            ∧ Jumped iss (s.slice iss.gid iss.lead).gang t u)
        ∧ ((∃ j ∈ iss.slices, (s.slice iss.gid j).stack = []) →
          Traps (.join c) m s iss (iss.cause 8 0 0 0) fun t => t = s.issuing m iss)

/-- R128: EXIT ends every lane of the path mask and takes it out of EXEC and of the split stack; with an empty stack the
slice is done, else the JOIN step applies until lanes run again; a group none of whose slices is left gives up its
frame slot. With a transaction open it traps (R219). R31, R129, R130, R132: a slice at REGANG waits until every live
slice of its group does, and then all go on at their fall-through addresses with masks and stack unchanged; YIELD
marks its group as selected last and goes on; NOP changes nothing. -/
def Obligations.ExitRegangYieldNop : Prop :=
  (
    ∀ (c : Ctl) (s : State) (iss : Iss),
      let m : Meta := .flow c [] []
      let now := (s.issuing m iss).cycles iss.gid
      let gone (x : Slice) : Slice :=
        { x with exited := x.exited ||| x.path, exec := x.exec &&& ~~~x.path, path := 0
                 stack := x.stack.map fun e =>
                   { e with restore := e.restore &&& ~~~x.path
                            pend := e.pend.map fun p => { p with path := p.path &&& ~~~x.path, exec := p.exec &&& ~~~x.path } } }
      (Instr.exit c).wf = true → Ready s m iss →
        ((s.group iss.gid).tx = none →
          (∀ j ∈ s.sliceNos iss.gid, j ∉ iss.slices → (s.slice iss.gid j).st = .done) →
          (∀ j ∈ iss.slices, (s.slice iss.gid j).stack = []) →
            ∃ t u, exec (.exit c) s = .next u ∧ Jumped iss (s.slice iss.gid iss.lead).gang t u ∧ SameRegs s t ∧ SameBytes s t
              ∧ (t.group iss.gid).frame = none
              ∧ ∀ g j, j < 8 → t.slice g j =
                if g = iss.gid ∧ j ∈ iss.slices then { gone (s.slice g j) with st := .done } else s.slice g j)
          ∧ ((s.group iss.gid).tx = none →
            (∃ j ∈ s.liveSlices iss.gid, j ∉ iss.slices ∧ (s.slice iss.gid j).st ≠ .regangWait) →
              ∃ t u, exec (.exit c) s = .next u ∧ Jumped iss (s.slice iss.gid iss.lead).gang t u
                ∧ { t with slices := [], groups := [] } = { s.issuing m iss with slices := [], groups := [] }
                ∧ (∀ g, g ≠ iss.gid → t.group g = s.group g) ∧ { t.group iss.gid with exits := [] } = { s.group iss.gid with exits := [] }
                ∧ ∀ g j, j < 8 → t.slice g j = if g = iss.gid ∧ j ∈ iss.slices then exitSlice now (s.slice g j) else s.slice g j)
          ∧ (∀ x : Slice, x.stack = [] → exitSlice now x = { gone x with st := .done })
          ∧ (∀ x : Slice, (gone x).stack ≠ [] → ((joinStep now (gone x)).1.exec ≠ 0 ∨ (joinStep now (gone x)).2 = true) →
            exitSlice now x = (joinStep now (gone x)).1)
          ∧ ((s.group iss.gid).tx ≠ none →
            Traps (.exit c) m s iss (iss.cause 15 4 0 0) fun t => t = (s.issuing m iss).closeTx iss.gid)) ∧ (
    ∀ (c : Ctl) (s : State) (iss : Iss),
      let m : Meta := .flow c [] []
      let old := (s.slice iss.gid iss.lead).gang
      ((Instr.regang c).wf = true → Ready s m iss → (∀ j ∈ iss.slices, j ∈ s.liveSlices iss.gid) →
        (∃ j ∈ s.liveSlices iss.gid, j ∉ iss.slices ∧ (s.slice iss.gid j).st ≠ .regangWait) →
          ∃ t u, exec (.regang c) s = .next u ∧ Jumped iss old t u
            ∧ SlicesOnly iss (fun _ x => { x with st := .regangWait, waitFrom := (s.issuing m iss).cycles iss.gid })
                (s.issuing m iss) t)
        ∧ ((Instr.regang c).wf = true → Ready s m iss → (∀ j ∈ iss.slices, j ∈ s.liveSlices iss.gid) →
          (∀ j ∈ s.liveSlices iss.gid, j ∉ iss.slices → (s.slice iss.gid j).st = .regangWait) →
          ∃ t u, exec (.regang c) s = .next u ∧ Jumped iss old t u ∧ SameRegs s t ∧ SameBytes s t
            ∧ ∀ j ∈ s.liveSlices iss.gid, (t.slice iss.gid j).st = .ganged
              ∧ (t.slice iss.gid j).pc = State.fallOf (s.slice iss.gid j) ∧ (t.slice iss.gid j).ix = 0
              ∧ (t.slice iss.gid j).exec = (s.slice iss.gid j).exec ∧ (t.slice iss.gid j).path = (s.slice iss.gid j).path
              ∧ (t.slice iss.gid j).stack = (s.slice iss.gid j).stack)
        ∧ ((Instr.yield c).wf = true → Ready s m iss →
          ∃ t u, exec (.yield c) s = .next u ∧ Jumped iss old t u ∧ SameRegs s t ∧ SameBytes s t
            ∧ (∀ g j, j < 8 → t.slice g j =
                if g = iss.gid ∧ j ∈ iss.slices then Slice.to iss.fall (s.slice g j) else s.slice g j)
            ∧ (t.group iss.gid).lastStart = t.clock
            ∧ (if iss.pipe = 0 then (t.core iss.cid).rr0 else (t.core iss.cid).rr1) = (s.group iss.gid).slot)
        ∧ ((Instr.nop c).wf = true → Ready s m iss → Finishes (.nop c) m s iss fun t => t = s.issuing m iss))

/-- R131, R337: TRAP raises the TRAP trap of its gang, which records A's value as the code, with the slices standing at
the fall-through address. R123: an indirect target that is no multiple of 8 raises the illegal-clause trap, which
records it, with the slices standing at their targets. (INFO of a gang whose slices hold different A, and FPC of the
second trap, are the model's choices: log entries 76 and 78.) -/
def Obligations.TrapInstructionAndMisalignedTargets : Prop :=
  (
    ∀ (c : Ctl) (a : Opnd) (s : State) (iss : Iss),
      let m : Meta := .flow c [] [(a, false)]
      (Instr.trap c a).wf = true → Ready s m iss →
        Traps (.trap c a) m s iss (iss.cause 1 0 (s.rd32 iss.gid iss.lead 0 a) 0)
          (SlicesOnly iss (fun _ x => Slice.to iss.fall x) (s.issuing m iss))) ∧ (
    ∀ (c : Ctl) (d a : Opnd) (s : State) (iss : Iss),
      let pair (j : Nat) : Addr := BitVec.ofNat 56 (s.rd64 iss.gid j 0 a).toNat
      let traps (i : Instr) (m : Meta) : Prop := i.wf = true → Ready s m iss →
        ∀ j ∈ iss.slices, (s.rd64 iss.gid j 0 a).toNat % 8 ≠ 0 →
          (∀ l₁ l₂, iss.slices = l₁ ++ j :: l₂ → ∀ h ∈ l₁, (s.rd64 iss.gid h 0 a).toNat % 8 = 0) →
          Traps i m s iss
            { code := 3, reason := 0, info := 0, addr := BitVec.ofNat 64 (pair j).toNat, fpc := pair j, aux := [] }
            (SlicesOnly iss (fun h x => Slice.to (pair h) x) (s.issuing m iss))
      traps (.ret c a) (.flow c [] [(a, true)])
        ∧ traps (.jmpi c a) (.flow c [] [(a, true)])
        ∧ traps (.calli c d a) (.flow c [(d, true)] [(a, true)]))

/-- R339, R340, R341: taking a trap on a compute core, outside a handler, with a frame slot free and a vector set, writes
the frame to the lowest free slot, its head and a record for every slice, live or done, with each entry of its split
stack; marks the slot taken and the group in its handler at L1; and sends every live slice to the vector in one gang
with EXEC and path its live lanes and an empty stack. No register and no byte of memory changes. With TRAP.VEC 0 it
writes the same frame and asks for the context to be killed with KIND 9. R342, R339: a trap of a group already in its
handler asks for its context to be killed as a double trap, unless a kill is asked for already; with every frame slot
taken the trap waits in its group. (That the lowest free slot is taken is the model's choice: log entry 22.) -/
def Obligations.TakingATrap : Prop :=
  (
    ∀ (s : State) (gid slot : Nat) (c : Cause),
      let t := s.team (tidOf gid)
      let vec := (s.ctx t.ctx).trapvec.extractLsb' 0 56
      isSys t.core = false → (s.group gid).frame = none → s.freeSlot t.core = some slot →
      (t.accReq.all fun r => r.gid != gid) → c.aux.length ≤ 6 → (s.group gid).restarts = [] →
      (∀ i ∈ s.sliceNos gid, (s.slice gid i).stack.length ≤ 16) →
        let u := s.takeTrap gid c
        let word (i k : Nat) : DWord := (dwords 36 (u.scrBytes t.core (State.frameAt slot + 0x080 + 0x120 * i) 288)).getD k 0
        let framed : Prop := u.scrBytes t.core (State.frameAt slot) 128 = bytesOf (s.frameHead gid c) ∧ ∀ i < 8,
          let x := s.slice gid i
          word i 0 = BitVec.ofNat 64 (x.ix % 16 * 2 ^ 56 + x.pc.toNat)
            ∧ word i 1 = BitVec.ofNat 64 ((match x.st with | .ganged => 0 | .regangWait => 1 | .done => 3 | _ => 2) * 2 ^ 20
              + x.gang % 8 * 2 ^ 17 + x.stack.length * 2 ^ 12 + x.exited.toNat * 2 ^ 8 + x.path.toNat * 2 ^ 4 + x.exec.toNat)
            ∧ word i 2 = 0 ∧ word i 3 = 0 ∧ ∀ e < 16, let low := word i (4 + 2 * e); let high := word i (5 + 2 * e)
              match x.stack.reverse[e]? with
              | none => low = 0 ∧ high = 0
              | some q => low.extractLsb' 0 56 = q.join ∧ low.extractLsb' 56 4 = q.restore
                ∧ match q.pend with
                  | none => low.extractLsb' 60 4 = 0 ∧ high = 0
                  | some p => low.extractLsb' 60 4 = p.path ∧ high.extractLsb' 0 56 = p.pc ∧ high.extractLsb' 56 3 = 0
                    ∧ high.extractLsb' 59 4 = p.exec ∧ high.getLsbD 63 = true
        framed ∧ (vec = 0 → (s.ctx t.ctx).killed = false → (s.ctx t.ctx).killing = none →
            ∃ k, (u.ctx t.ctx).killing = some k ∧ k.kind = 9 ∧ k.reason = c.reason ∧ k.gslot = (s.group gid).slot
              ∧ k.cid = t.core ∧ SameRegs s u ∧ u.mem = s.mem ∧ u.slices = s.slices)
          ∧ (vec ≠ 0 → (u.core t.core).frames = (s.core t.core).frames.set slot (some gid)
          ∧ (u.group gid).frame = some slot ∧ (u.group gid).level = .l1 ∧ (u.group gid).trapWait = none
          ∧ (u.group gid).causeLow = (causeDword (s.group gid).slot c).extractLsb' 0 32
          ∧ (∀ i ∈ s.liveSlices gid, (u.slice gid i).pc = vec ∧ (u.slice gid i).ix = 0 ∧ (u.slice gid i).stack = []
            ∧ (u.slice gid i).exec = s.live gid i ∧ (u.slice gid i).path = s.live gid i ∧ (u.slice gid i).st = .ganged
            ∧ (u.slice gid i).gang = (s.liveSlices gid).foldl Nat.min 7)
          ∧ (∀ g i, i < 8 → g ≠ gid → u.slice g i = s.slice g i)
          ∧ SameRegs s u ∧ u.mem = s.mem ∧ u.tiles = s.tiles)
          ∧ ∀ k, ¬(State.scrKey t.core (State.frameAt slot) ≤ k ∧ k < State.scrKey t.core (State.frameAt slot) + 2560) →
            mread u.scratch k = mread s.scratch k) ∧ (
    ∀ (s : State) (gid : Nat) (c : Cause),
      let t := s.team (tidOf gid)
      isSys t.core = false →
        (∀ slot, (s.group gid).frame = some slot → (s.ctx t.ctx).killed = false → (s.ctx t.ctx).killing = none →
          ∃ k, ((s.takeTrap gid c).ctx t.ctx).killing = some k ∧ k.kind = 2 ∧ k.reason = c.reason
            ∧ SameRegs s (s.takeTrap gid c) ∧ SameBytes s (s.takeTrap gid c) ∧ (s.takeTrap gid c).slices = s.slices)
          ∧ ((s.group gid).frame = none → s.freeSlot t.core = none →
            ((s.takeTrap gid c).group gid).trapWait = some c
              ∧ SameRegs s (s.takeTrap gid c) ∧ SameBytes s (s.takeTrap gid c) ∧ (s.takeTrap gid c).slices = s.slices))

/-- R136, R176: LDS and LDSS give each lane or slice the bytes at its offset of the core's scratchpad, little-endian,
zero- or sign-extended; an offset out of range reads 0 and sets WRAPOUT. No byte changes. R136, R176: STS and STSS
store the low bytes of each lane's or slice's register at its offset, a later place over an earlier one; an offset out
of range stores nothing and sets WRAPOUT. No register changes, and no byte of memory, of a tile or of the scratchpad
outside the stored bytes. R137: outside the cluster a window load gives 0 and a window store is discarded, WINOUT is
set and nothing is sent; inside it each place sends one access to the neighbour's core, at the neighbour's own mapping
of the offset, a store with the low bytes of its register. -/
def Obligations.ScratchpadAndWindowAccesses : Prop :=
  (
    ∀ (c : Ctl) (sz : Size) (sx : Bool) (d a : Opnd) (off : BitVec 11) (s : State) (iss : Iss),
      let n := Size.bytes sz
      let at_ (p : Nat × Nat) : Option Nat :=
        s.mapOff iss.tid (s.group iss.gid).level (effOff (s.rd32 iss.gid p.1 p.2 a) off n)
      let bytes (p : Nat × Nat) : List Byte := match at_ p with | some b => s.scrBytes iss.cid b n | none => List.replicate n 0
      let loads (i : Instr) (vec : Bool) : Prop :=
        let m : Meta := .scr c vec false (some 4) [(d, Size.wide sz)] [(a, false)]
        i.wf = true → Ready s m iss → s.loadPoisoned iss vec c sz a off = false →
          Finishes i m s iss fun t => ∃ v, RegsOnly m iss (s.issuing m iss) v
            ∧ (∀ p ∈ s.targets iss vec c.pm,
                v.rdW (Size.wide sz) iss.gid p.1 p.2 d = fit (Size.wide sz) (loadVal n sx (bytes p)))
            ∧ RangeOnly iss (if ∃ p ∈ s.targets iss vec c.pm, at_ p = none then 2 else 0) v t
      loads (.lds c sz sx d a off) true ∧ loads (.ldss c sz sx d a off) false) ∧ (
    ∀ (c : Ctl) (sz : Size) (d a : Opnd) (off : BitVec 11) (s : State) (iss : Iss),
      let n := Size.bytes sz
      let at_ (p : Nat × Nat) : Option Nat :=
        s.mapOff iss.tid (s.group iss.gid).level (effOff (s.rd32 iss.gid p.1 p.2 a) off n)
      let inside (k : Nat) (p : Nat × Nat) : Prop :=
        ∃ b, at_ p = some b ∧ State.scrKey iss.cid b ≤ k ∧ k < State.scrKey iss.cid b + n
      let stores (i : Instr) (vec : Bool) : Prop :=
        let m : Meta := .scr c vec true none [] [(d, Size.wide sz), (a, false)]
        i.wf = true → Ready s m iss →
          Finishes i m s iss fun t => SameRegs s t ∧ t.mem = s.mem ∧ t.tiles = s.tiles
            ∧ (∀ k, (∀ p ∈ s.targets iss vec c.pm, ¬inside k p) → mread t.scratch k = mread s.scratch k)
            ∧ (∀ l₁ p l₂ b, s.targets iss vec c.pm = l₁ ++ p :: l₂ → at_ p = some b →
                ∀ j < n, (∀ q ∈ l₂, ¬inside (State.scrKey iss.cid b + j) q) →
                  mread t.scratch (State.scrKey iss.cid b + j)
                    = BitVec.ofNat 8 ((s.rdW (Size.wide sz) iss.gid p.1 p.2 d).toNat / 2 ^ (8 * j)))
            ∧ ((∃ p ∈ s.targets iss vec c.pm, at_ p = none) → (t.team iss.tid).scrStatus = (s.team iss.tid).scrStatus ||| 2)
            ∧ ((∀ p ∈ s.targets iss vec c.pm, at_ p ≠ none) → (t.team iss.tid).scrStatus = (s.team iss.tid).scrStatus)
      stores (.sts c sz d a off) true ∧ stores (.stss c sz d a off) false) ∧ (
    ∀ (c : Ctl) (sz : Size) (dir : Dir) (sx : Bool) (d a : Opnd) (off : BitVec 11) (s : State) (iss : Iss),
      let n := Size.bytes sz
      let w := Size.wide sz
      let ml (vec : Bool) : Meta := { Meta.scr c vec false none [(d, w)] [(a, false)] with ctr := some .loads, opFlag := true }
      let ms (vec : Bool) : Meta := { Meta.scr c vec true none [] [(d, w), (a, false)] with ctr := some .stores, opFlag := true }
      let lost (i : Instr) (m : Meta) (load : Bool) : Prop :=
        i.wf = true → Ready s m iss → Idle s iss → s.neighbour iss.tid dir = none →
          ∃ u, exec i s = .next u ∧ SameBytes s u ∧ u.packets = s.packets
            ∧ (u.team iss.tid).scrStatus = (s.team iss.tid).scrStatus ||| 1
            ∧ (if load then ∀ p ∈ s.targets iss m.vec c.pm, u.rdW w iss.gid p.1 p.2 d = 0 else SameRegs s u)
      let sent (i : Instr) (m : Meta) (load : Payload) (store : Bool) : Prop :=
        ∀ (nb : Nat) (b : Nat × Nat → Nat), i.wf = true → Ready s m iss → Idle s iss → s.neighbour iss.tid dir = some nb →
          Contained s → s.inReach (s.team iss.tid).part (.core (s.team nb).core) = true →
          (∀ p ∈ s.targets iss m.vec c.pm,
            s.mapOff nb (s.group iss.gid).level (effOff (s.rd32 iss.gid p.1 p.2 a) off n) = some (b p)) →
          Begins i m s iss fun o u => o.wait = (s.targets iss m.vec c.pm).length
            ∧ ∀ p ∈ s.targets iss m.vec c.pm, ∃ k q, sget u.packets k = some q
              ∧ q.dst = .core (s.team nb).core ∧ q.load = load ∧ q.oid = o.oid ∧ q.gid = iss.gid ∧ q.pa = b p ∧ q.size = n
              ∧ q.lane = (if m.vec then 4 * p.1 + p.2 else p.1)
              ∧ q.bytes = (if store then leBytes n (s.rdW w iss.gid p.1 p.2 d).toNat else [])
      lost (.ldw c sz dir sx d a off) (ml true) true ∧ lost (.ldws c sz dir sx d a off) (ml false) true
        ∧ lost (.stw c sz dir d a off) (ms true) false ∧ lost (.stws c sz dir d a off) (ms false) false
        ∧ sent (.ldw c sz dir sx d a off) (ml true) (.winLoad sx true) false
        ∧ sent (.ldws c sz dir sx d a off) (ml false) (.winLoad sx false) false
        ∧ sent (.stw c sz dir d a off) (ms true) (.winStore true) true
        ∧ sent (.stws c sz dir d a off) (ms false) (.winStore false) true)

/-- R203 to R209: LD, LDSC and SNAP send one read for each lane or slice whose checks hold, at A plus the scaled offset,
and LDT its 64 granules; until the answers come nothing but their outlier list changes. PREF changes nothing. -/
def Obligations.GlobalLoadsSendReads : Prop :=
  ∀ (c : Ctl) (sz : Size) (ord : Order) (scope : Scope) (sx newest : Bool) (d a b : Opnd) (off : BitVec 11) (s : State) (iss : Iss),
    let fresh : Prop := (s.team iss.tid).revoked = false ∨ (ord = .acq ∧ (scope = .device ∨ scope = .system))
    let open_ := (s.group iss.gid).tx.isSome
    let none_ (_ _ : Nat) : List Byte := []
    let reads (i : Instr) (m : Meta) (act : Act) (size : Nat) (l : List Want) : Prop :=
      ∀ acc, i.wf = true → Ready s m iss → Idle s iss → Contained s → fresh →
        Reaches (s.issuing m iss) iss .read1 open_ size l acc →
          acc.map (fun x => (x.lane, x.va)) = l.map (fun x => (x.lane, x.va))
            ∧ Begins i m s iss fun o u => o.wait = acc.length
              ∧ ∀ x ∈ acc, OnItsWay u iss s.names.op (fun p => ∃ tx, p = .read act tx) x
    let wants (vec : Bool) (size : Nat) : List Want := s.wants iss vec c.pm a off size none_ none_
    let mt : Meta := { Meta.glob c false true (some .tiles) [] [(a, true), (b, false)] with sys := false }
    reads (.ld c sz ord scope sx d a off) (.glob c true false (some .loads) [(d, Size.wide sz)] [(a, true)]) (.load sx)
        (Size.bytes sz) (wants true (Size.bytes sz))
      ∧ reads (.ldsc c sz ord scope sx d a off) (.glob c false false (some .loads) [(d, Size.wide sz)] [(a, true)]) (.load sx)
        (Size.bytes sz) (wants false (Size.bytes sz))
      ∧ reads (.snap c ord scope newest d a off) (.glob c false false (some .loads) [(d, true)] [(a, true)]) (.stamp newest)
        8 (wants false 8)
      ∧ (∀ l, tileAccesses (s.issuing mt iss) iss a b off (fun _ => []) = .ok l →
        reads (.ldt c ord scope d a b off) mt (.tileIn (s.bankOf iss.tid (tileNo d)) (tileNo d)) 32 l)
      ∧ (let m : Meta := .glob c (isVec [a]) false none [] [(a, true)]
        (Instr.pref c sz scope a off).wf = true → Ready s m iss →
          Finishes (.pref c sz scope a off) m s iss fun t => t = s.issuing m iss)

/-- R203 to R205, R208, R210: outside a transaction ST and STSC send one write for each lane or slice, with the low bytes
of its register, and STT one for each granule of its tile; each team-visible byte changes only as a write reaches its
home. R203: the first lane, in order, whose address is no multiple of the access size raises the misalignment trap,
which records the address; nothing is sent and no register is written. -/
def Obligations.GlobalStoresAndMisalignment : Prop :=
  (
    ∀ (c : Ctl) (sz : Size) (ord : Order) (scope : Scope) (d a b : Opnd) (off : BitVec 11) (s : State) (iss : Iss),
      let n := Size.bytes sz
      let data (i l : Nat) : List Byte := leBytes n (s.rdW (Size.wide sz) iss.gid i l d).toNat
      let writes (i : Instr) (m : Meta) (size : Nat) (l : List Want) : Prop :=
        ∀ acc, i.wf = true → Ready s m iss → Idle s iss → Contained s → (s.group iss.gid).tx = none →
          Reaches (s.issuing m iss) iss .write1 false size l acc →
            acc.map (fun x => (x.lane, x.va, x.data)) = l.map (fun x => (x.lane, x.va, x.data))
              ∧ Begins i m s iss fun o u => o.wait = acc.length ∧ (o.blocks = true ↔ ord = .rel)
                ∧ ∀ x ∈ acc, OnItsWay u iss s.names.op (fun p => p = .write) x
      let m (vec : Bool) : Meta :=
        { Meta.glob c vec true (some .stores) [] [(d, Size.wide sz), (a, true)] with bound := ord == .rel }
      let mt : Meta := { Meta.glob c false true (some .tiles) [] [(a, true), (b, false)] with sys := false, bound := ord == .rel }
      let key := tileKey (s.bankOf iss.tid (tileNo d)) (tileNo d)
      writes (.st c sz ord scope d a off) (m true) n (s.wants iss true c.pm a off n data fun _ _ => [])
        ∧ writes (.stsc c sz ord scope d a off) (m false) n (s.wants iss false c.pm a off n data fun _ _ => [])
        ∧ (∀ l, tileAccesses (s.issuing mt iss) iss a b off (fun g => mreads s.tiles (key + 32 * g) 32) = .ok l →
          writes (.stt c ord scope d a b off) mt 32 l)) ∧ (
    ∀ (c : Ctl) (sz : Size) (ord : Order) (scope : Scope) (sx : Bool) (d a : Opnd) (off : BitVec 11) (s : State) (iss : Iss),
      let n := Size.bytes sz
      let ea (p : Nat × Nat) : Nat := effAddr (s.rd64 iss.gid p.1 p.2 a) off n
      let traps (i : Instr) (m : Meta) (vec : Bool) : Prop :=
        ∀ l₁ p l₂, i.wf = true → Ready s m iss → s.targets iss vec c.pm = l₁ ++ p :: l₂ → ea p % n ≠ 0 →
          (∀ q ∈ l₁, ea q % n = 0) →
            Traps i m s iss (iss.cause 12 0 0 (BitVec.ofNat 64 (ea p))) fun t => t = s.issuing m iss
      traps (.ld c sz ord scope sx d a off) (.glob c true false (some .loads) [(d, Size.wide sz)] [(a, true)]) true
        ∧ traps (.ldsc c sz ord scope sx d a off) (.glob c false false (some .loads) [(d, Size.wide sz)] [(a, true)]) false
        ∧ traps (.st c sz ord scope d a off)
          { Meta.glob c true true (some .stores) [] [(d, Size.wide sz), (a, true)] with bound := ord == .rel } true
        ∧ traps (.stsc c sz ord scope d a off)
          { Meta.glob c false true (some .stores) [] [(d, Size.wide sz), (a, true)] with bound := ord == .rel } false)

/-- R204, R211, R212: outside a transaction an ATOM sends one atomic for each lane or slice, with its function, its
operand and CAS's comparand, at once when its ORDER asks for no release or the scope is TEAM; otherwise it first
starts the release. Anything but RLX holds back what follows. R204, R214: outside a transaction a RED sends one
reduction for each lane or slice with its function and operand, at once unless it is REL at a scope above TEAM, when
it first starts the release. It writes no register. -/
def Obligations.AtomicsAndReductions : Prop :=
  (
    ∀ (c : Ctl) (op : AOp) (sz : Size) (ord : Order) (scope : Scope) (d a b : Opnd) (off : BitVec 11) (s : State) (iss : Iss),
      let i : Instr := match op with
        | .add => .atomAdd c sz ord scope d a b off
        | .min => .atomMin c sz ord scope d a b off
        | .max => .atomMax c sz ord scope d a b off
        | .minn => .atomMinn c sz ord scope d a b off
        | .maxn => .atomMaxn c sz ord scope d a b off
        | .and => .atomAnd c sz ord scope d a b off
        | .or => .atomOr c sz ord scope d a b off
        | .xor => .atomXor c sz ord scope d a b off
        | .swap => .atomSwap c sz ord scope d a b off
        | .cas => .atomCas c sz ord scope d a b off
        | .fadd => .atomFadd c ord scope d a b off
      let size : Size := if op = .fadd then .w else sz
      let n := Size.bytes size
      let w := Size.wide size
      let m := Meta.atomic c op w d a b
      let val (o : Opnd) (i l : Nat) : List Byte := leBytes n ((s.issuing m iss).rdW w iss.gid i l o).toNat
      let l := s.wants iss m.vec c.pm a off n (if op = .cas then val d else val b) (if op = .cas then val b else fun _ _ => [])
      let rel : Bool := ord = .rel ∨ ord = .acqrel ∨ ord = .sc
      ∀ acc, i.wf = true → Ready s m iss → Idle s iss → Contained s → (s.group iss.gid).tx = none →
        Reaches (s.issuing m iss) iss .both true n l acc →
          Begins i m s iss fun o u => (o.blocks = true ↔ ord ≠ .rlx)
            ∧ (rel = false ∨ scope = .team → o.wait = acc.length
              ∧ ∀ x ∈ acc, OnItsWay u iss s.names.op (fun p => p = .atomic op x.cmp) x)
            ∧ (rel = true → scope ≠ .team → u.packets = s.packets ∧ ∃ k r, o.stages.head? = some (.awaitRel k)
              ∧ sget u.rels k = some r ∧ r.tid = iss.tid ∧ r.scope = s.scopeOf iss.tid scope ∧ r.st = .waiting)) ∧ (
    ∀ (c : Ctl) (op : AOp) (sz : Size) (ord : Order) (scope : Scope) (d a : Opnd) (off : BitVec 11) (s : State) (iss : Iss),
      let i : Instr := match op with
        | .add => .redAdd c sz ord scope d a off
        | .min => .redMin c sz ord scope d a off
        | .max => .redMax c sz ord scope d a off
        | .minn => .redMinn c sz ord scope d a off
        | .maxn => .redMaxn c sz ord scope d a off
        | .and => .redAnd c sz ord scope d a off
        | .or => .redOr c sz ord scope d a off
        | .xor => .redXor c sz ord scope d a off
        | _ => .redFadd c ord scope d a off
      let fop : AOp := if op = .swap ∨ op = .cas then .fadd else op
      let size : Size := if fop = .fadd then .w else sz
      let n := Size.bytes size
      let w := Size.wide size
      let m : Meta := { Meta.glob c (isVec [d, a]) true (some .stores) [] [(d, w), (a, true)] with bound := true }
      let l := s.wants iss m.vec c.pm a off n (fun i l => leBytes n ((s.issuing m iss).rdW w iss.gid i l d).toNat)
        (fun _ _ => [])
      ∀ acc, i.wf = true → Ready s m iss → Idle s iss → Contained s → (s.group iss.gid).tx = none →
        Reaches (s.issuing m iss) iss .write1 false n l acc →
          Begins i m s iss fun o u => o.dest = none ∧ (o.blocks = true ↔ ord = .rel)
            ∧ (ord ≠ .rel ∨ scope = .team → o.wait = acc.length
              ∧ ∀ x ∈ acc, OnItsWay u iss s.names.op (fun p => p = .reduce fop) x)
            ∧ (ord = .rel → scope ≠ .team → u.packets = s.packets ∧ ∃ k r, o.stages.head? = some (.awaitRel k)
              ∧ sget u.rels k = some r ∧ r.tid = iss.tid ∧ r.scope = s.scopeOf iss.tid scope ∧ r.st = .waiting))

/-- R215, R189: with nothing outstanding FENCE.ACQ acquires at once, raising the team's snapshot to the horizon of its
scope; any fence that releases above TEAM scope starts the release and holds back what follows until it is done. R193,
R216, R218, R219: TXBEGIN by the whole group opens a transaction with the team's snapshot, the abort address, an empty
write set and TX.STATUS cleared; TXABORT closes it, discards the write set, notes cause 3 with its code and sends
every live slice to the abort address with the masks of TXBEGIN; TXCOMMIT at TEAM scope joins the write set to the
pending set, and above it takes the next timestamp and sends each byte to its home in a commit of it. -/
def Obligations.FencesAndTransactions : Prop :=
  (
    ∀ (c : Ctl) (ord : Order) (scope : Scope) (s : State) (iss : Iss),
      let m : Meta := { Meta.glob c false true none [] [] with opFlag := true, bound := ord != .acq }
      let t := s.team iss.tid
      (Instr.fence c ord scope).wf = true → Ready s m iss → Idle s iss →
        (ord = .acq → scope ≠ .team → t.revoked = false →
          ∃ u, exec (.fence c ord scope) s = .next u ∧ (u.group iss.gid).ops = []
            ∧ (u.team iss.tid).snap = tsMax t.snap (s.horizon iss.tid (s.scopeOf iss.tid scope))
            ∧ SameRegs s u ∧ SameBytes s u ∧ u.packets = s.packets ∧ u.rels = s.rels)
          ∧ (scope = .team → ∃ u, exec (.fence c ord scope) s = .next u ∧ (u.group iss.gid).ops = []
            ∧ (u.team iss.tid).snap = t.snap ∧ SameRegs s u ∧ SameBytes s u ∧ u.packets = s.packets ∧ u.rels = s.rels)
          ∧ (ord ≠ .acq → scope ≠ .team → Begins (.fence c ord scope) m s iss fun o u => o.blocks = true
            ∧ u.packets = s.packets ∧ ∃ k r, o.stages.head? = some (.awaitRel k)
              ∧ sget u.rels k = some r ∧ r.tid = iss.tid ∧ r.scope = s.scopeOf iss.tid scope ∧ r.st = .waiting)) ∧ (
    ∀ (c : Ctl) (off : BitVec 26) (scope : Scope) (b : Opnd) (s : State) (iss : Iss),
      let g := s.group iss.gid
      let whole : Prop := ∀ i ∈ s.liveSlices iss.gid, i ∈ iss.slices
      let mb : Meta := { Meta.glob c false true none [] [] with readsExec := true }
      let mc : Meta := { Meta.glob c false true none [] [] with opFlag := true, bound := true }
      let ma : Meta := { Meta.glob c false true none [] [(b, false)] with bound := true }
      ((Instr.txbegin c off).wf = true → Ready s mb iss → whole → g.tx = none →
          Finishes (.txbegin c off) mb s iss fun t => ∃ x, (t.group iss.gid).tx = some x
            ∧ x.sx = (s.team iss.tid).snap ∧ x.abort = iss.hdr + BitVec.ofInt 56 (8 * off.toInt) ∧ x.writes = [] ∧ x.full = false
            ∧ (t.group iss.gid).txStatus = 0 ∧ { t with groups := [] } = { s.issuing mb iss with groups := [] }
            ∧ ∀ h, h ≠ iss.gid → t.group h = s.group h)
        ∧ ((Instr.txbegin c off).wf = true → Ready s mb iss → g.tx ≠ none →
          Traps (.txbegin c off) mb s iss (iss.cause 15 1 0 0) fun t => t = (s.issuing mb iss).closeTx iss.gid)
        ∧ (∀ x, (Instr.txabort c b).wf = true → Ready s ma iss → whole → g.tx = some x →
          ((s.team iss.tid).accReq.all fun r => r.gid != iss.gid) →
          ∃ u, exec (.txabort c b) s = .next u ∧ (u.group iss.gid).tx = none
            ∧ (u.group iss.gid).txStatus = BitVec.ofNat 32 ((s.rd32 iss.gid iss.lead 0 b).toNat % 256 * 256 + 3)
            ∧ SameRegs s u ∧ SameBytes s u ∧ (u.team iss.tid).pending = (s.team iss.tid).pending
            ∧ ∀ i ∈ s.liveSlices iss.gid, (u.slice iss.gid i).pc = x.abort ∧ (u.slice iss.gid i).ix = 0
              ∧ ∀ r, x.slices[i]? = some r → (u.slice iss.gid i).exec = r.exec &&& ~~~(s.slice iss.gid i).exited
                ∧ (u.slice iss.gid i).path = r.path &&& ~~~(s.slice iss.gid i).exited ∧ (u.slice iss.gid i).stack = r.stack)
        ∧ (∀ x, (Instr.txcommit c scope).wf = true → Ready s mc iss → Idle s iss → whole → g.tx = some x →
          s.seenAt iss.tid (s.scopeOf iss.tid scope) = true → s.atomicAhead iss.tid (skeys x.writes) = false →
          x.revs = (s.team iss.tid).revs → x.expired = false → x.full = false →
          (∀ p ∈ x.writes, tsLe (sgetD s.byteTs p.1 0) x.sx = true ∧ s.commitAhead x.sx p.1 = false) →
          Rising x.writes → (∀ p ∈ x.writes, canonPa p.1 = p.1) → (∀ p ∈ x.writes, s.orangeryFull (homeOf p.1) = false) →
          ∃ u, exec (.txcommit c scope) s = .next u ∧ (u.group iss.gid).tx = none ∧ SameRegs s u ∧ SameBytes s u
            ∧ (scope = .team → ∀ p ∈ x.writes, ∃ n, sget (u.team iss.tid).pending p.1 = some (p.2, n))
            ∧ (scope ≠ .team → x.writes ≠ [] → ∃ k r, sget u.rels k = some r ∧ r.st = .committing ∧ r.ts = (s.sundial + 1) % 2 ^ 48
              ∧ u.sundial = r.ts ∧ ∀ p ∈ x.writes, ∃ e ∈ u.packets, e.2.load = .commit (some k) ∧ e.2.ts = r.ts
                ∧ e.2.pa = p.1 / 32 * 32 ∧ e.2.lane.testBit (p.1 % 32) = true ∧ e.2.bytes.getD (p.1 % 32) 0 = p.2)))

/-- R225 to R234: a slice's BINIT makes the object fresh with its count; BREG registers its live lanes; BARR arrives for
those not arrived in this phase and returns the phase that will complete; BARRD takes its registered lanes, and their
arrivals, back; BEXP adds to the bytes expected; BTEST gives 1 once the phase is reached. A gang's slices do it one after
another, in ascending SLICE.ID, each on what the one before it left; checks that fail stop all of it. R234, R337: a wrong
expected count (1), an arrival too many (2), a seventeenth entry (4), BINIT under a waiter (5) or with a count out of
range (7), and a drop below 0 (6) raise BARMISMATCH with that reason and the object's offset, and nothing is changed.
(Which of several reasons is reported is the model's choice: log entries 17 and 83.) -/
def Obligations.BarrierInstructionsAndTheirChecks : Prop :=
  (
    ∀ (c : Ctl) (d a : Opnd) (b : Option Opnd) (e : Opnd) (n : BitVec 5) (off : BitVec 11) (s : State) (iss : Iss) (i x : Nat),
      let g := s.group iss.gid
      let place : Nat := objOff (s.rd32 iss.gid i 0 a) off
      let o := s.objAt iss.cid x
      let entry := s.entryFor iss.gid x o.phase
      let stored := s.storedEntry iss.gid x o.phase
      let live := s.liveIn iss.gid i
      let ready (m : Meta) (k : Instr) : Prop :=
        k.wf = true ∧ Ready s m iss ∧ iss.slices = [i] ∧ s.mapOff iss.tid g.level place = some x
          ∧ (s.core iss.cid).frozen = none ∧ (∀ t ∈ (s.core iss.cid).triggers, t.off ≠ x)
      let room : Prop := g.regs.length < 16 ∨ ∃ r ∈ g.regs, r.off = x
      let keeps (t : State) : Prop := t.mem = s.mem ∧ t.tiles = s.tiles ∧ ScratchOutside iss.cid x 16 s t
      let after (u : Obj) : Obj := if u.full then u.next else u
      let m0 (bound : Bool) : Meta := .bar c bound [] [(d, false), (a, false)]
      let ms : Meta := .bar c true [(.s n, false)] ((a, false) :: b.toList.map fun b => (b, false))
      let md : Meta := .bar c true [(.s n, false)] [(a, false)]
      let mt : Meta := .bar c false [(.s n, false)] [(a, false), (e, false)]
      let count : Nat := (s.rd32 iss.gid i 0 d).toNat
      let new : BitVec 32 := live &&& ~~~entry.arrm
      let gone : BitVec 32 := live &&& entry.reg
      (ready (m0 true) (.binit c d a off) → s.someBlocked iss.cid x = false → 0 < count → count < 65536 →
          Finishes (.binit c d a off) (m0 true) s iss fun t => t.objAt iss.cid x = ⟨0, count, 0, 0, 0⟩ ∧ SameRegs s t ∧ keeps t
            ∧ ∀ h ∈ s.groupsOn iss.cid, ∀ r ∈ (t.group h).regs, r.off ≠ x)
        ∧ (ready (.bar c true [] [(a, false)]) (.breg c a off) → room →
          Finishes (.breg c a off) (.bar c true [] [(a, false)]) s iss fun t => SameRegs s t ∧ SameBytes s t
            ∧ (live ≠ 0 → { stored with reg := stored.reg ||| live } ∈ (t.group iss.gid).regs))
        ∧ (ready ms (.barr c (.s n) a b off) → s.allPerformed iss.gid = true → room →
          (∀ v, b = some v → (s.rd32 iss.gid i 0 v).toNat = o.exp) → o.arr + count32 new < 65536 →
          Finishes (.barr c (.s n) a b off) ms s iss fun t =>
            t.objAt iss.cid x = after { o with arr := o.arr + count32 new } ∧ keeps t
              ∧ t.rdS iss.gid i n.toNat = BitVec.ofNat 32 (o.phase + 1) ∧ SameRegsBut iss.gid i n.toNat false s t
              ∧ (live ≠ 0 → ∃ r ∈ (t.group iss.gid).regs, r.off = x ∧ r.reg = entry.reg ||| live ∧ r.arrm = entry.arrm ||| live))
        ∧ (ready md (.barrd c (.s n) a off) → s.allPerformed iss.gid = true → room → count32 gone ≤ o.exp →
          Finishes (.barrd c (.s n) a off) md s iss fun t =>
            t.objAt iss.cid x = after { o with exp := o.exp - count32 gone, arr := o.arr - count32 (gone &&& entry.arrm) } ∧ keeps t
              ∧ t.rdS iss.gid i n.toNat = BitVec.ofNat 32 (o.phase + 1) ∧ SameRegsBut iss.gid i n.toNat false s t)
        ∧ (ready (m0 true) (.bexp c d a off) →
          Finishes (.bexp c d a off) (m0 true) s iss fun t =>
            t.objAt iss.cid x = after { o with expb := min (o.expb + count) (2 ^ 32 - 1) } ∧ SameRegs s t ∧ keeps t)
        ∧ (ready mt (.btest c (.s n) a e off) →
          Finishes (.btest c (.s n) a e off) mt s iss fun t =>
            t.rdS iss.gid i n.toNat = (if satisfied o.phase (s.rd32 iss.gid i 0 e).toNat then 1 else 0)
              ∧ SameRegsBut iss.gid i n.toNat false s t ∧ SameBytes s t)) ∧ (
    ∀ (c : Ctl) (d a : Opnd) (b : Option Opnd) (off : BitVec 11) (s : State) (iss : Iss) (i x : Nat),
      let g := s.group iss.gid
      let place : Nat := objOff (s.rd32 iss.gid i 0 a) off
      let o := s.objAt iss.cid x
      let entry := s.entryFor iss.gid x o.phase
      let live := s.liveIn iss.gid i
      let traps (k : Instr) (m : Meta) (reason : Nat) (when_ : Prop) : Prop :=
        k.wf = true → Ready s m iss → iss.slices = [i] → s.mapOff iss.tid g.level place = some x → when_ →
          Traps k m s iss (iss.cause 9 reason 0 (BitVec.ofNat 64 place)) fun t => t = s.issuing m iss
      let full : Prop := 16 ≤ g.regs.length ∧ ∀ r ∈ g.regs, r.off ≠ x
      let done : Prop := s.allPerformed iss.gid = true
      let m0 : Meta := .bar c true [] [(d, false), (a, false)]
      let ms : Meta := .bar c true [(d, false)] ((a, false) :: b.toList.map fun b => (b, false))
      let md : Meta := .bar c true [(d, false)] [(a, false)]
      let right : Prop := ∀ v, b = some v → (s.rd32 iss.gid i 0 v).toNat = o.exp
      let count : Nat := (s.rd32 iss.gid i 0 d).toNat
      let fits : Prop := o.arr + count32 (live &&& ~~~entry.arrm) < 65536
      traps (.barr c d a b off) ms 1 (done ∧ ¬right)
        ∧ traps (.barr c d a b off) ms 2 (done ∧ right ∧ ¬fits)
        ∧ traps (.barr c d a b off) ms 4 (done ∧ right ∧ fits ∧ full)
        ∧ traps (.breg c a off) (.bar c true [] [(a, false)]) 4 full
        ∧ traps (.binit c d a off) m0 5 (s.someBlocked iss.cid x = true)
        ∧ traps (.binit c d a off) m0 7 (s.someBlocked iss.cid x = false ∧ (count = 0 ∨ 65535 < count))
        ∧ traps (.barrd c d a off) md 4 (done ∧ full)
        ∧ traps (.barrd c d a off) md 6 (done ∧ ¬full ∧ o.exp < count32 (live &&& entry.reg))) ∧ (
    ∀ (c : Ctl) (d a : Opnd) (b : Option Opnd) (e : Opnd) (off : BitVec 11) (s : State) (iss : Iss),
      let m0 (bound : Bool) : Meta := .bar c bound [] [(d, false), (a, false)]
      let ms : Meta := .bar c true [(d, false)] ((a, false) :: b.toList.map fun b => (b, false))
      let md : Meta := .bar c true [(d, false)] [(a, false)]
      let mt : Meta := .bar c false [(d, false)] [(a, false), (e, false)]
      let gang (k : Instr) (m : Meta) (arrives : Bool) (f : Nat → State → Except Cause State) : Prop :=
        k.wf = true → Ready s m iss → (arrives = true → s.allPerformed iss.gid = true) →
          (∀ ts : List State, ts.length = iss.slices.length + 1 → ts[0]? = some (s.issuing m iss) →
            (∀ n i u v, iss.slices[n]? = some i → ts[n]? = some u → ts[n + 1]? = some v → f i u = .ok v) →
              Finishes k m s iss fun t => ∀ u, ts[iss.slices.length]? = some u → t = if arrives then u.fenceNow iss.gid else u)
            ∧ ∀ (ts : List State) (n i : Nat) (u : State) (q : Cause), ts[0]? = some (s.issuing m iss) →
              (∀ n' i u v, n' < n → iss.slices[n']? = some i → ts[n']? = some u → ts[n' + 1]? = some v → f i u = .ok v) →
              ts.length = n + 1 → iss.slices[n]? = some i → ts[n]? = some u → f i u = .error q →
                Traps k m s iss q fun t => t = s.issuing m iss
      gang (.binit c d a off) (m0 true) false (binitSlice iss d a off)
        ∧ gang (.breg c a off) (.bar c true [] [(a, false)]) false (bregSlice iss a off)
        ∧ gang (.barr c d a b off) ms true (barrSlice iss d a b off) ∧ gang (.barrd c d a off) md true (barrdSlice iss d a off)
        ∧ gang (.bexp c d a off) (m0 true) false (bexpSlice iss d a off)
        ∧ gang (.btest c d a e off) mt false (btestSlice iss d a e off))

/-- R222, R223, R231: an update of a barrier object outside a freeze, with no trigger on it, stores the changed object,
its phase advanced and its counts cleared where it is complete, and lets every slice go on that waits for the phase it
has then; no register, no byte of memory and no other byte of a scratchpad changes. R228, R235: the lanes of an EXIT
whose window accesses are performed leave the objects they are registered at, their expectation and arrivals taken
back; a wait that reaches the watchdog limit
first of its context freezes updates on its core and asks for the context to be killed. -/
def Obligations.ObjectsCompleteDropAndExpire : Prop :=
  (
    ∀ (s : State) (ctx cid off : Nat) (f : Obj → Obj),
      let o := f (s.objAt cid off)
      let new : Obj := if o.exp ≤ o.arr ∧ o.expb ≤ o.landed then ⟨(o.phase + 1) % 2 ^ 32, o.exp, 0, 0, 0⟩ else o
      s.isFrozen cid ctx = false → (∀ t ∈ (s.core cid).triggers, t.off ≠ off) →
      o.phase < 2 ^ 32 → o.exp < 2 ^ 16 → o.arr < 2 ^ 16 → o.expb < 2 ^ 32 → o.landed < 2 ^ 32 →
        let u := s.objUpdate ctx cid off f
        u.objAt cid off = new ∧ SameRegs s u ∧ u.mem = s.mem ∧ u.tiles = s.tiles ∧ ScratchOutside cid off 16 s u
          ∧ ∀ g ∈ s.groupsOn cid, ∀ i ∈ s.sliceNos g,
            let x := s.slice g i
            if x.st = .blockedBwait ∧ x.waitObj = some off ∧ satisfied new.phase x.waitTgt.toNat = true then
              (u.slice g i).st = .ganged ∧ (u.slice g i).pc = State.fallOf x ∧ (u.slice g i).ix = 0
            else (u.slice g i).st = x.st ∧ (u.slice g i).pc = x.pc ∧ (u.slice g i).ix = x.ix) ∧ (
    (∀ (s : State) (gid : Nat) (e : RegEntry) (x : BitVec 32),
        let cid := (s.team (tidOf gid)).core
        let o := s.objAt cid e.off
        let l := x &&& e.reg
        let new : Obj := { o with exp := o.exp - count32 l, arr := o.arr - if e.ph.toNat = o.phase then count32 (l &&& e.arrm) else 0 }
        s.dropDue gid = some x → (s.group gid).regs = [e] → l ≠ 0 → Quiescent s → (s.core cid).frozen = none → (∀ t ∈ (s.core cid).triggers, t.off ≠ e.off) →
          ∃ u, exec (.implicitDrop gid) s = .next u ∧ u.objAt cid e.off = (if new.full then new.next else new)
            ∧ (∀ r ∈ (u.group gid).regs, r.reg &&& x = 0) ∧ SameRegs s u ∧ u.mem = s.mem ∧ ScratchOutside cid e.off 16 s u)
      ∧ ∀ (s : State) (gid slice : Nat),
        let t := s.team (tidOf gid)
        (s.expired t.ctx).head? = some (gid, slice) → (s.ctx t.ctx).killing = none → (s.ctx t.ctx).killed = false →
          ∃ u k, exec (.barrierWatchdogExpiry gid slice) s = .next u ∧ (u.core t.core).frozen = some t.ctx
            ∧ (u.ctx t.ctx).killing = some k ∧ k.kind = 1 ∧ k.cid = t.core ∧ SameRegs s u ∧ SameBytes s u)

/-- R231: a slice at BWAIT goes on at the fall-through address once the object's phase has reached its target, and
otherwise blocks where it stands, with the object and the target. R237: TRIG by one slice, with both offsets in range,
a record whose word is an instruction of the engine and room for it, arms a trigger that waits for the threshold in
the object's present phase and gives 1; with 32 armed it gives 0. -/
def Obligations.WaitsAndTriggers : Prop :=
  (
    ∀ (c : Ctl) (d a : Opnd) (off : BitVec 11) (s : State) (iss : Iss) (at_ : Nat → Nat),
      let m : Meta := { Meta.bar c false [] [(d, false), (a, false)] with quick := 1 }
      (Instr.bwait c d a off).wf = true → Ready s m iss →
      (∀ i ∈ iss.slices, s.mapOff iss.tid (s.group iss.gid).level (objOff (s.rd32 iss.gid i 0 a) off) = some (at_ i)) →
        ∃ t u, exec (.bwait c d a off) s = .next u ∧ Jumped iss (s.slice iss.gid iss.lead).gang t u
          ∧ SlicesOnly iss (fun i x =>
              let tgt := s.rd32 iss.gid i 0 d
              if satisfied (s.objAt iss.cid (at_ i)).phase tgt.toNat then Slice.to iss.fall x
              else { x with st := .blockedBwait, waitObj := some (at_ i), waitTgt := tgt
                            waitFrom := (s.issuing m iss).cycles iss.gid })
            (s.issuing m iss) t) ∧ (
    ∀ (c : Ctl) (n : BitVec 5) (a b : Opnd) (off : BitVec 11) (s : State) (iss : Iss) (i x y : Nat),
      let m : Meta := .bar c true [(.s n, false)] [(a, true), (b, false)]
      let level := (s.group iss.gid).level
      let pair := s.rd64 iss.gid i 0 a
      let r0 : Nat := objOff (pair.extractLsb' 32 32) off
      let r : List DWord := dwords 6 (s.scrBytes iss.cid y 48)
      let thr := s.rd32 iss.gid i 0 b
      let o := s.objAt iss.cid x
      (Instr.trig c (.s n) a b off).wf = true → Ready s m iss → iss.slices = [i] → s.allPerformed iss.gid = true →
      s.mapOff iss.tid level (objOff (pair.extractLsb' 0 32) off) = some x →
      (∀ k < 48, s.mapOff iss.tid level ((r0 + k) % 2 ^ 32) = some (y + k)) →
      trigWordOk (r.getD 0 0) = true → r.getD 5 0 = 0 →
        (32 ≤ (s.core iss.cid).triggers.length → Finishes (.trig c (.s n) a b off) m s iss fun t =>
            t.rdS iss.gid i n.toNat = 0 ∧ SameRegsBut iss.gid i n.toNat false s t ∧ SameBytes s t
              ∧ (t.core iss.cid).triggers = (s.core iss.cid).triggers)
          ∧ ((s.core iss.cid).triggers.length < 32 → (if thr.getLsbD 31 then o.landed else o.arr) < thr.toNat % 2 ^ 31 →
            Finishes (.trig c (.s n) a b off) m s iss fun t =>
              t.rdS iss.gid i n.toNat = 1 ∧ SameRegsBut iss.gid i n.toNat false s t ∧ SameBytes s t
                ∧ ∃ q, (t.core iss.cid).triggers = (s.core iss.cid).triggers ++ [q] ∧ q.tid = iss.tid ∧ q.off = x
                  ∧ q.phase.toNat = o.phase ∧ q.landed = thr.getLsbD 31 ∧ q.thresh = thr.toNat % 2 ^ 31
                  ∧ q.word = r.getD 0 0 ∧ q.vals = (r.drop 1).take 4))

/-- R240 to R242: ACCALLOC of 1 to 64 tiles within ACCS, nobody waiting and enough free, writes the mask of the tiles
granted, the lowest the team does not hold, which read +0; beyond ACCS it writes 0. ACCFREE gives up the tiles of its
mask. -/
def Obligations.AccumulatorAllocation : Prop :=
  ∀ (c : Ctl) (r : BitVec 5) (a : Opnd) (s : State) (iss : Iss),
    let m : Meta := .accum c [(.s r, true)] [(a, false)]
    let mf : Meta := .accum c [] [(a, true)]
    let n : Nat := (s.rd32 iss.gid iss.lead 0 a).toNat
    let t := s.team iss.tid
    let nums := ((List.range 64).filter fun k => (sget t.acc k).isNone).take n
    let quota : Nat := (s.launchOf iss.tid).shape 18 7
    let gone := t.acc.filter fun e => (s.rd64 iss.gid iss.lead 0 a).getLsbD e.1
    ((Instr.accalloc c (.s r) a).wf = true → Ready s m iss → 0 < n → n ≤ 64 → t.acc.length + n ≤ quota → t.core = iss.cid →
        (∀ k ∈ s.teamsOn iss.cid, (s.team k).accReq = none) → n ≤ (s.accFree iss.cid).length →
        Finishes (.accalloc c (.s r) a) m s iss fun u =>
          (∀ i ∈ iss.slices, u.rdS64 iss.gid i r.toNat = BitVec.ofNat 64 ((nums.map fun k => 2 ^ k).sum))
            ∧ (∀ k ∈ nums, ∃ p ∈ s.accFree iss.cid, sget (u.team iss.tid).acc k = some p
              ∧ ∀ e, sgetD u.acc (State.accKey iss.cid p + e % 1024) 0 = 0)
            ∧ (∀ k, k ∉ nums → sget (u.team iss.tid).acc k = sget t.acc k) ∧ SameBytes s u)
      ∧ ((Instr.accalloc c (.s r) a).wf = true → Ready s m iss → 0 < n → n ≤ 64 → quota < t.acc.length + n →
        Finishes (.accalloc c (.s r) a) m s iss fun u =>
          (∀ i ∈ iss.slices, u.rdS64 iss.gid i r.toNat = 0) ∧ (u.team iss.tid).acc = t.acc ∧ SameBytes s u)
      ∧ ((Instr.accfree c a).wf = true → Ready s mf iss → s.mcmds = [] → (∀ k ∈ s.teamsOn t.core, (s.team k).accReq = none) →
        Finishes (.accfree c a) mf s iss fun u => SameRegs s u ∧ SameBytes s u
          ∧ ∀ k, sget (u.team iss.tid).acc k = if k ∈ skeys gone then none else sget t.acc k)

/-- R170, R171, R172, R173: PACK under a slot of a format begins an operation that holds, for each active lane, the packed word
and the lane's outlier value; when its result is written each lane's pair has it. UNPACK gives each lane its value
times SCALE, rounded. An undefined slot is ILLINSTR. (R170 gives A its kinds; that PACK takes an A that is no v register,
which R173 lists as illegal, is the model's choice: log entry 77.) -/
def Obligations.PackAndUnpack : Prop :=
  (∀ (c : Ctl) (rnd : Rnd) (slot : BitVec 3) (d a : Opnd) (n : BitVec 6) (s : State) (iss : Iss),
      let mp : Meta := { Meta.reg c true 0 [(d, true)] [(a, false)] with lat := none, opFlag := true }
      let mu : Meta := unpackMeta c slot d (.v n) s
      let val (l : Nat) : XR := fpVal .f32 ((s.issuing mp iss).rd32 iss.gid (l / 4) (l % 4) a).toNat
      let sl := s.slotOf iss.tid slot
      let lanes := s.lanesAt mp iss
      ((Instr.pack c slot d a).wf = true → Ready s mp iss → Idle s iss → slotKind sl ≠ 0 →
          Begins (.pack c slot d a) mp s iss fun o u => o.wait = 1 ∧ ∃ p ∈ u.dev.packs, p.gid = iss.gid ∧ p.oid = o.oid
            ∧ p.results.map Prod.fst = lanes
            ∧ (slotKind sl ≠ 1 → ∀ r ∈ p.results, r.2 = BitVec.ofNat 64
                (round (slotFmt sl) .rne ((val r.1).div (slotScale sl))).1)
            ∧ (slotKind sl = 1 → ∀ r ∈ p.results,
                let base := r.1 - r.1 % slotN sl
                let b := packBlock .rne sl ((List.range (slotN sl)).map fun k =>
                  if base + k ∈ lanes then val (base + k) else .fin false 0 1)
                let bytes := recordBytes sl b
                let w := blockP (slotN sl) (slotW sl) / 4
                let k := r.1 - base
                (k < w → r.2.extractLsb' 0 32 = BitVec.ofNat 32 (leNat ((bytes.drop (4 * k)).take 4)))
                  ∧ (w ≤ k → k = slotN sl - 1 → r.2.extractLsb' 0 32 = BitVec.ofNat 32 (laneBits (b.outliers.map Prod.fst)))
                  ∧ (w ≤ k → k ≠ slotN sl - 1 → r.2.extractLsb' 0 32 = 0)
                  ∧ ((∀ o ∈ b.outliers, o.1 ≠ k) → r.2.extractLsb' 32 32 = 0)))
        ∧ ((Instr.unpack c rnd slot d (.v n)).wf = true → Ready s mu iss → slotKind sl ≠ 0 →
          Completes (.unpack c rnd slot d (.v n)) mu s iss fun t => ∀ p ∈ s.targets iss true c.pm,
            t.rdW false iss.gid p.1 p.2 d = BitVec.ofNat 64
              (round .f32 rnd ((unpackLane (s.issuing mu iss) iss.gid iss.slices sl n (4 * p.1 + p.2)).mul (slotScale sl))).1)
        ∧ ((Instr.pack c slot d a).wf = true → Ready s mp iss → slotKind sl = 0 →
          Traps (.pack c slot d a) mp s iss (iss.cause 4 0 0 0) fun t => t = s.issuing mp iss)
        ∧ ((Instr.unpack c rnd slot d (.v n)).wf = true → Ready s mu iss → slotKind sl = 0 →
          Traps (.unpack c rnd slot d (.v n)) mu s iss (iss.cause 4 0 0 0) fun t => t = s.issuing mu iss))
    ∧ ∀ (s : State) (op : Nat) (p : PackRes) (o : Op) (n : Nat),
      (s.dev.packs.find? fun p => p.oid == op) = some p → (s.group p.gid).ops = [o] → o.oid = op → o.wait = 1 → o.stages = [] →
      o.done = false → o.lost = [] → o.olds = [] → (∀ h ∈ (s.group p.gid).hazards, h.ready.isNone = true → op ≤ h.oid) →
      o.dest = some (.v n, true) → n % 2 = 0 → n < 64 →
      (p.results.map Prod.fst).Nodup → (∀ r ∈ p.results, r.1 < 32) →
        ∃ u, exec (.packResultWritten op) s = .next u ∧ (∀ r ∈ p.results, u.rdV64 p.gid r.1 n = r.2)
          ∧ (u.group p.gid).ops = [] ∧ (∀ q ∈ u.dev.packs, q.oid ≠ op) ∧ SameBytes s u

/-- R246 to R248, R252, R257, R260, R262, R263, R265: a class 2 instruction whose record is whole and passes the checks is
accepted: a command with the record's values joins its core's queue and the copies counter, and a DTLOAD raises its
slot's generation; a record at an offset no multiple of 16 or out of range, or one that a check refuses, raises the
plane-command trap with the reason and the record's offset, and nothing is queued. R268: PLANEQ writes the s register
of every slice of its gang: of selector 0 the plane rectangle, or 0 without a plane; of 1 and 2 a table slot's
generation, with bit 31 while that generation's table is valid. It changes nothing else. -/
def Obligations.PlaneCommandsAndQuery : Prop :=
  (
    ∀ (c : Ctl) (acq : Bool) (scope : Scope) (slot : Bool) (d : Option Opnd) (a b : Opnd) (s : State) (iss : Iss),
      let level := (s.group iss.gid).level
      let oa := s.rd32 iss.gid iss.lead 0 a
      let ob := s.rd32 iss.gid iss.lead 0 b
      let base : Option DWord := d.map fun d => s.rd64 iss.gid iss.lead 0 d
      let ms : Meta := .plane c ((a, false) :: d.toList.map fun d => (d, true))
      let mc : Meta := .plane c [(a, false), (b, false)]
      let md : Meta := .plane c [(a, true)]
      let queued (i : Instr) (m : Meta) (P : Cmd → Prop) : Prop := Begins i m s iss fun o u =>
        o.stages = [.awaitCmd s.names.cmd] ∧ u.packets = s.packets
          ∧ ∃ k, sget u.cmds s.names.cmd = some k ∧ k.gid = iss.gid ∧ k.tid = iss.tid ∧ k.oid = some o.oid ∧ k.addr = iss.addr
            ∧ k.written = false ∧ k.err = none ∧ k.fault = none ∧ P k
      let copies (i : Instr) (kind : CmdKind) (n : Nat) : Prop := i.wf = true → Ready s mc iss → Idle s iss →
        (∀ src dst, s.record iss.tid level oa 8 = some src → s.record iss.tid level ob n = some dst →
            s.copyReason iss.tid kind src dst = none →
            queued i mc fun k => k.kind = kind ∧ k.src = src ∧ k.dst = dst ∧ k.pos = 0)
          ∧ (∀ src dst r side, s.record iss.tid level oa 8 = some src → s.record iss.tid level ob n = some dst →
            s.copyReason iss.tid kind src dst = some (r, side) →
            Traps i mc s iss (iss.cause 16 r 0 ((if side then ob else oa).zeroExtend 64)) fun t => t = s.issuing mc iss)
          ∧ (s.record iss.tid level oa 8 = none →
            Traps i mc s iss (iss.cause 16 1 0 (oa.zeroExtend 64)) fun t => t = s.issuing mc iss)
          ∧ (oa.toNat % 16 ≠ 0 → s.record iss.tid level oa 8 = none)
      copies (.copy c a b) .copy 8 ∧ copies (.copyDec c a b) .decode 8 ∧ copies (.copyx c a b) .copyx 12
        ∧ ((Instr.scrl c d a).wf = true → Ready s ms iss → Idle s iss →
          (∀ r, s.record iss.tid level oa 4 = some r → s.scrollReason iss.tid r base = none →
            queued (.scrl c d a) ms fun k => k.kind = .scroll ∧ k.src = r ∧ k.pos = 0 ∧ k.blocks = rectCells (dwRect (r.getD 0 0))
              ∧ k.spill = (base.getD 0).toNat % 2 ^ 56)
            ∧ (∀ r n, s.record iss.tid level oa 4 = some r → s.scrollReason iss.tid r base = some n →
              Traps (.scrl c d a) ms s iss (iss.cause 16 n 0 (oa.zeroExtend 64)) fun t => t = s.issuing ms iss))
        ∧ ((Instr.scrlr c d a).wf = true → Ready s ms iss → Idle s iss →
          ∀ r, s.record iss.tid level oa 6 = some r → base ≠ none → s.scrollReason iss.tid r base = none →
            dfld (r.getD 4 0) 16 47 = 0 → dfld (r.getD 5 0) 56 8 = 0 →
            let done := dfld (r.getD 4 0) 0 16
            (dfld (r.getD 4 0) 63 1 = 1 → done < scrSteps (r.getD 2 0) → queued (.scrlr c d a) ms fun k =>
                k.kind = .scroll ∧ k.src = r.take 4 ∧ k.pos = done
                  ∧ (k.blocks, k.spilled) = scrAfter (scrFrame (s.planeRect iss.tid) (r.getD 1 0)) (r.getD 2 0)
                    (rectCells (dwRect (r.getD 0 0))) 0 0 done)
              ∧ ((dfld (r.getD 4 0) 63 1 = 0 ∨ scrSteps (r.getD 2 0) ≤ done) →
                Traps (.scrlr c d a) ms s iss (iss.cause 16 8 0 (oa.zeroExtend 64)) fun t => t = s.issuing ms iss))
        ∧ ((Instr.dtload c acq scope slot a).wf = true → Ready s md iss → Idle s iss → (s.team iss.tid).core = iss.cid →
          queued (.dtload c acq scope slot a) md fun k => k.kind = .dtload ∧ k.src = [s.rd64 iss.gid iss.lead 0 a]
            ∧ k.slot = (if slot then 1 else 0) ∧ k.gen = (s.tslot iss.cid (if slot then 1 else 0)).gen + 1)) ∧ (
    ∀ (c : Ctl) (n : BitVec 5) (a : Opnd) (s : State) (iss : Iss),
      let m : Meta := { Meta.plane c [] with dsts := [(.s n, false)], ctr := none }
      let sel : Nat := (s.rd32 iss.gid iss.lead 0 a).toNat
      let l := s.launchOf iss.tid
      let slot (t : TSlot) : Word :=
        BitVec.ofNat 32 ((if t.table.isSome = true ∧ t.loaded = t.gen then 2 ^ 31 else 0) + t.gen % 2 ^ 31)
      let gives (v : Word) : Prop := Finishes (.planeq c (.s n) a) m s iss fun t =>
        RegsOnly m iss (s.issuing m iss) t ∧ ∀ i ∈ iss.slices, t.rdS iss.gid i n.toNat = v
      (Instr.planeq c (.s n) a).wf = true → Ready s m iss →
        (sel = 0 → l.plane 46 14 = 0 → gives 0)
          ∧ (sel = 0 → l.plane 46 14 ≠ 0 →
            gives (BitVec.ofNat 32 (l.rect.2.2.2 * 2 ^ 24 + l.rect.2.2.1 * 2 ^ 16 + l.rect.2.1 * 2 ^ 8 + l.rect.1)))
          ∧ (sel = 1 → gives (slot (s.core iss.cid).tslot0)) ∧ (sel = 2 → gives (slot (s.core iss.cid).tslot1))
          ∧ (3 ≤ sel → ∃ v, gives v))

/-- R248, R249, R252, R258 to R264, R317: a step of a scroll moves every block to its destination, all read before any is
written, one that stays on its core at once and another by a block on PLANE between the two cores; BLK copies the next element, as it is or as
the copy's own earlier write leaves it, and a decode the next symbol, each written with the others of its 32-byte granule at
the last of them; the end of reading an image loads its
slot; and a command that has ended leaves its queue. -/
def Obligations.EngineSteps : Prop :=
  ∀ (s : State) (n : Nat) (k : Cmd), sget s.cmds n = some k →
    let cid := (s.team k.tid).core
    let outsideElems (s : State) (k : Cmd) (cid y a : Nat) : Prop := ∀ i ≤ k.pos, ∀ b, s.shapeScr k k.dst (shOffset k.dst i) = (cid, some b) →
      b / 32 = y / 32 → ¬(State.scrKey cid b ≤ a ∧ a < State.scrKey cid b + shES k.dst)
    (k.kind = .scroll → s.cmdRuns n k = true → k.pos < scrSteps (k.src.getD 2 0) → scrEdge (k.src.getD 2 0) ≠ 1 →
        let off := (s.planeBase k.tid + dfld (k.src.getD 0 0) 40 14) * 32
        let size := dfld (k.src.getD 0 0) 32 8 * 32
        let dest := scrDest (scrFrame (s.planeRect k.tid) (k.src.getD 1 0)) (scrEdge (k.src.getD 2 0))
          (scrMove (k.src.getD 2 0) (k.pos + 1))
        off + size ≤ 2 ^ 19 → (∀ p ∈ k.blocks, s.scrPoisoned (cidOf p.1 p.2) off size = false) →
        (∀ p ∈ k.blocks, p.1 < 64) → (∀ p ∈ k.blocks, ∀ q, dest p = some q → q.1 < 64) →
        (∀ p ∈ k.blocks, ∀ q ∈ k.blocks, dest p = dest q → dest p ≠ none → p = q) → dfld (k.src.getD 2 0) 21 1 = 0 →
        (∀ p ∈ k.blocks, s.scrSettling (cidOf p.1 p.2) off size = false) →
        (∀ p ∈ k.blocks, ∀ q, dest p = some q → s.inReach (s.team k.tid).part (.core (cidOf q.1 q.2)) = true) →
          ∃ u, exec (.scrollStep n) s = .next u
            ∧ (∀ p ∈ k.blocks, ∀ q, dest p = some q →
              if cidOf q.1 q.2 = cidOf p.1 p.2 then u.scrBytes (cidOf q.1 q.2) off size = s.scrBytes (cidOf p.1 p.2) off size
              else ∃ e ∈ u.packets, e.2.src = .core (cidOf p.1 p.2) ∧ e.2.dst = .core (cidOf q.1 q.2) ∧ e.2.vc = 2 ∧ e.2.load = .block
                ∧ e.2.cmd = some (.cmd n) ∧ e.2.pa = off ∧ e.2.bytes = s.scrBytes (cidOf p.1 p.2) off size)
            ∧ (∃ x, sget u.cmds n = some x ∧ x.pos = k.pos + 1 ∧ x.blocks = k.blocks.filterMap dest
                ∧ (x.written = true ↔ k.pos + 1 = scrSteps (k.src.getD 2 0)))
            ∧ SameRegs s u ∧ u.mem = s.mem ∧ u.tiles = s.tiles)
      ∧ (k.kind = .copy → s.cmdRuns n k = true → k.pos < shCount k.src → shSpace k.src = 1 → shSpace k.dst = 1 →
        shES k.dst = shES k.src → shFlag k.dst 5 = false →
        ∀ x y, s.shapeScr k k.src (shOffset k.src k.pos) = (cid, some x) → k.result.length = k.pos * shES k.src →
          s.shapeScr k k.dst (shOffset k.dst k.pos) = (cid, some y) → s.scrPoisoned cid x (shES k.src) = false →
          shCount k.dst = shCount k.src → y < 2 ^ 19 →
          let later : Prop := ∃ i, k.pos < i ∧ i < shCount k.src ∧ s.granuleOf k k.dst i = s.granuleOf k k.dst k.pos
          let v := (s.ownElem n k).getD (s.scrBytes cid x (shES k.src))
          ∃ u, exec (.blk (.element n)) s = .next u ∧ (¬later → u.scrBytes cid y (shES k.src) = v)
            ∧ (later → u.scratch = s.scratch) ∧ (∀ a, outsideElems s k cid y a → mread u.scratch a = mread s.scratch a)
            ∧ SameRegs s u ∧ u.mem = s.mem ∧ u.tiles = s.tiles
            ∧ ∃ e, sget u.cmds n = some e ∧ e.pos = k.pos + 1 ∧ e.result = k.result ++ v
              ∧ (e.written = true ↔ k.pos + 1 = shCount k.src))
      ∧ (∀ bs t, k.kind = .dtload → s.cmdRuns n k = true → s.tableBusy n k = false →
        s.readImage n k ((k.src.getD 0 0).toNat % 2 ^ 56) 288 10 = .ok (bs, t) → (t.team k.tid).core = cid →
          ∃ u, exec (.dtloadTableWrite n) s = .next u ∧ SameRegs t u ∧ SameBytes t u
            ∧ (u.tslot cid k.slot).loaded = k.gen ∧ (u.tslot cid k.slot).table = tableOf bs
            ∧ ∀ e, sget u.cmds n = some e → e.written = true)
      ∧ (∀ t b len t', k.kind = .decode → s.cmdRuns n k = true → (s.tslot cid k.slot).loaded = k.gen →
        (s.tslot cid k.slot).table = some t → s.nextSymbol n k t ⟨0, 0, 0⟩ k.bits 0 16 = .ok (some (b, len), t') →
        shSpace k.dst = 1 → shES k.dst = 1 → shFlag k.dst 5 = false → k.result.length = k.pos → k.pos < shCount k.dst →
        (t'.team k.tid).core = cid →
        ∀ y, t'.shapeScr k k.dst (shOffset k.dst k.pos) = (cid, some y) → y < 2 ^ 19 →
          let later : Prop := ∃ i, k.pos < i ∧ i < shCount k.dst ∧ t'.granuleOf k k.dst i = t'.granuleOf k k.dst k.pos
          ∃ u, exec (.copyDecDecode n) s = .next u ∧ (¬later → mread u.scratch (State.scrKey cid y) = b)
            ∧ (later → u.scratch = t'.scratch) ∧ (∀ a, outsideElems t' k cid y a → mread u.scratch a = mread t'.scratch a)
            ∧ SameRegs t' u ∧ u.mem = t'.mem
            ∧ ∀ e, sget t'.cmds n = some e → ∃ f, sget u.cmds n = some f ∧ f.pos = e.pos + 1 ∧ f.bits = e.bits + len)
      ∧ (∀ (o : Op) (x : Nat), k.kind = .copy → s.cmdEnds n k = true → k.rel = none → k.err = none → k.status = none →
        sget s.mcmds n = none → (s.group k.gid).ops = [o] → o.stages = [.awaitCmd n] → o.wait = 0 → o.done = false →
        (∀ e ∈ s.groups, e.1 ≠ k.gid → e.2.ops = []) → shFlag k.dst 8 = false → shFlag k.dst 9 = true →
        s.mapOff k.tid k.level (dfld (k.dst.getD 7 0) 0 32) = some x → (s.core cid).frozen = none →
        (∀ t ∈ (s.core cid).triggers, t.off ≠ x) →
          let new : Obj := { s.objAt cid x with arr := min ((s.objAt cid x).arr + 1) 65535 }
          ∃ u, exec (.engineCommandEnd n) s = .next u ∧ sget u.cmds n = none ∧ (u.group k.gid).ops = []
            ∧ u.objAt cid x = (if new.full then new.next else new) ∧ SameRegs s u ∧ u.mem = s.mem ∧ u.tiles = s.tiles
            ∧ ScratchOutside cid x 16 s u)

/-- R275, R276: MMOV writes the sign-extended immediate, MMOV.HI the high half of its register and MADD the sum; a result
whose own operand is still to be written is free. MBRA goes to its target, and MLOOP counts its register down and goes
there until it is 0. R283, R286, R288, R298, R299, R307, R308, R314: an undefined slot (2), one of the wrong kind (6),
a span past t15 (5), a window whose tile the team does not hold (4), and a paired form without a pair (9) stop the
stream before the instruction: FAULTED, with the reason and the trap, and no command. (Which reason is given where several
hold is the model's choice, log entry 26: MMA tests 2 and 6 before 5, and 5 before 4; MSOFT 2 and 6 before 4; MDRAIN and
MMA.PAIR 9 before 4.) -/
def Obligations.MatrixScalarWorkAndFaults : Prop :=
  (
    ∀ (dist : BitVec 3) (n r : BitVec 4) (lo : BitVec 18) (hi : BitVec 16) (off : BitVec 26) (s : State) (q : Nat),
      let late (s : State) (r : BitVec 4) : Prop := ∃ p ∈ (s.seqr q).mbusy, p.1 = r.toNat
      let sent (s : State) : State :=
        s.modSeqr q fun x => { x with pc := x.pc + BitVec.ofInt 56 (8 * off.toInt), ix := 0, words := [] }
      StreamReady s q →
        Streams (.mmov dist (.m n) lo) q s (fun s t => MRegOnly q n.toNat s t ∧ t.rdM q n.toNat = lo.signExtend 32)
          ∧ Streams (.mmovHi dist (.m n) hi) q s (fun s t => ¬late s n →
            MRegOnly q n.toNat s t ∧ t.rdM q n.toNat = hi ++ (s.rdM q n.toNat).extractLsb' 0 16)
          ∧ Streams (.madd dist (.m n) (.m r) lo) q s (fun s t => ¬late s r →
            MRegOnly q n.toNat s t ∧ t.rdM q n.toNat = s.rdM q r.toNat + lo.signExtend 32)
          ∧ (∃ c, s.clock ≤ c ∧ exec (.mbra dist off) s = .next (sent (s.seqNoted q c)))
          ∧ (s.rdM q n.toNat = 1 → Streams (.mloop dist (.m n) off) q s fun s t => MRegOnly q n.toNat s t ∧ t.rdM q n.toNat = 0)
          ∧ (s.rdM q n.toNat ≠ 1 → ∃ c t, exec (.mloop dist (.m n) off) s = .next (sent t)
            ∧ MRegOnly q n.toNat (s.seqNoted q c) t ∧ t.rdM q n.toNat = s.rdM q n.toNat - 1)) ∧ (
    ∀ (dist sa sb slot : BitVec 3) (mask norm guide add : Bool) (rscope : RScope) (dest : DrainDest) (d a b e : Opnd) (s : State)
        (q : Nat) (rest : List Nat),
      let lead := s.leadTeam q
      let k (n : BitVec 3) : Nat := slotKind (s.slotOf lead n)
      let unheld (o : Opnd) : Prop := ∀ t ∈ s.streamTeams q,
        sget (s.team t).acc (sgetD s.wins ((q * 2 + (s.team t).twin) * 8 + winNo o) (Binding.start (winNo o))).tile = none
      let ok : Prop := k sa ≠ 0 ∧ k sb ≠ 0 ∧ k sa ≠ 4 ∧ k sb ≠ 4
      let fits : Prop := ok ∧ tileNo b + spanLen (s.slotOf lead sb) (slotK (s.slotOf lead sa)) ≤ 16
      let mma : Instr := .mma dist sa sb d a b
      let pair : Instr := .mmaPair dist sa sb d a b
      let soft : Instr := .msoft dist mask slot d a b e
      let drain : Instr := .mdrain dist rscope norm guide add dest slot d a b e
      StreamReady s q → (s.seqr q).st = .running → (s.seqr q).stop = none → s.streamTeams q = lead :: rest →
        (∃ g ∈ s.teamGroups lead, s.groupDone g = false) → s.groupDone (gidOf lead 0) = false →
        let f (i : Instr) (reason : Nat) (P : Prop) : Prop := i.wf = true → P → StreamFaults i q reason s
        f mma 2 (k sa = 0 ∨ k sb = 0) ∧ f mma 6 (k sa ≠ 0 ∧ k sb ≠ 0 ∧ (k sa = 4 ∨ k sb = 4)) ∧ f mma 5 (ok ∧ ¬fits)
          ∧ f mma 4 (fits ∧ unheld d) ∧ f (.mzero dist d) 4 (unheld d)
          ∧ f pair 9 (fits ∧ (s.twinMode q = false ∨ 8 ≤ tileNo a ∨ tileNo b < 8))
          ∧ f soft 2 (k slot = 0) ∧ f soft 6 (k slot ≠ 0 ∧ (k slot = 4 ∨ slotK (s.slotOf lead slot) ≠ 32))
          ∧ f soft 4 (k slot ≠ 0 ∧ k slot ≠ 4 ∧ slotK (s.slotOf lead slot) = 32 ∧ unheld a)
          ∧ f drain 2 (k slot = 0) ∧ f drain 6 (k slot ≠ 0 ∧ add = true ∧ k slot ≠ 4)
          ∧ f drain 9 (k slot ≠ 0 ∧ add = false ∧ s.twinMode q = false ∧ (guide = true ∨ dest = .net))
          ∧ f drain 4 (k slot ≠ 0 ∧ add = false ∧ guide = false ∧ dest = .scr ∧ unheld a)
          ∧ f (.mpair dist) 9 (s.twinMode q = false))

/-- R280 to R282, R283, R286, R288, R296, R304, R308: MSHAPE binds its window for each live twin, rows 0 meaning 32. MLDT,
MZERO, MMA, MMA.PAIR, MSOFT and MDRAIN to scratchpad or memory, with their slots, tiles and pairing right, issue a
command for each live twin, with the bindings and m registers it has then; nothing else changes. -/
def Obligations.MatrixCommandsAreQueued : Prop :=
  ∀ (dist sa sb slot : BitVec 3) (mask norm add : Bool) (rscope : RScope) (dest : DrainDest) (d a b e : Opnd) (s : State) (q : Nat),
    let teams := s.streamTeams q
    let lead := s.leadTeam q
    let bind (t : Nat) (o : Opnd) : Binding := sgetD s.wins ((q * 2 + (s.team t).twin) * 8 + winNo o) (Binding.start (winNo o))
    let held (o : Opnd) : Prop := ∀ t ∈ teams, (sget (s.team t).acc (bind t o).tile).isSome = true
    let queue (i : Instr) (cls : MClass) (l : List Nat) (P : Nat → MCmd → Prop) : Prop :=
      i.wf = true → StreamReady s q → Streams i q s fun s t =>
        { t with names := s.names, mcmds := s.mcmds } = s
          ∧ (∀ n < s.names.cmd, sget t.mcmds n = sget s.mcmds n)
          ∧ ∀ j x, l[j]? = some x → ∃ k, sget t.mcmds (s.names.cmd + j) = some k ∧ k.seqr = q ∧ k.tid = x ∧ k.instr = i ∧ k.cls = cls
            ∧ k.addr = s.seqAddr q ∧ k.performed = false ∧ P x k
    let ka := slotKind (s.slotOf lead sa)
    let kb := slotKind (s.slotOf lead sb)
    let fits : Prop := ka ≠ 0 ∧ kb ≠ 0 ∧ ka ≠ 4 ∧ kb ≠ 4 ∧ tileNo b + spanLen (s.slotOf lead sb) (slotK (s.slotOf lead sa)) ≤ 16
    let ks := slotKind (s.slotOf lead slot)
    ((Instr.mshape dist d a b e).wf = true → StreamReady s q → Streams (.mshape dist d a b e) q s fun s t =>
        { t with wins := s.wins } = s ∧ ∀ x ∈ teams,
          let rows := (s.mval q b).toNat % 32
          sget t.wins ((q * 2 + (s.team x).twin) * 8 + winNo d)
            = some ⟨(s.mval q a).toNat % 64, if rows = 0 then 32 else rows, s.mval q e⟩)
      ∧ queue (.mldt dist d a b e) .load (if 8 ≤ tileNo d then [lead] else teams)
        (fun _ k => k.vals = [s.mval q a, s.mval q b, s.mval q e])
      ∧ (held d → queue (.mzero dist d) .engine teams fun t k => k.winD = bind t d)
      ∧ (fits → held d → queue (.mma dist sa sb d a b) .engine teams fun t k => k.winD = bind t d ∧ k.tid2 = none)
      ∧ (fits → held d → s.twinMode q = true → tileNo a < 8 → 8 ≤ tileNo b →
        (s.paired q = false → queue (.mmaPair dist sa sb d a b) .engine teams fun t k => k.winD = bind t d ∧ k.tid2 = none)
          ∧ ∀ t u, s.paired q = true → teams = [t, u] →
            queue (.mmaPair dist sa sb d a b) .engine [t] fun _ k => k.winD = bind t d ∧ k.tid2 = some u ∧ k.winU = bind u d)
      ∧ (ks ≠ 0 → ks ≠ 4 → slotK (s.slotOf lead slot) = 32 → held a → held b →
        queue (.msoft dist mask slot d a b e) .engine teams fun t k => k.winA = bind t a ∧ k.winB = bind t b
          ∧ k.vals = [s.rdM q (State.mNo e), s.rdM q (State.mNo e + 1)])
      ∧ (ks ≠ 0 → (add = true → ks = 4) → held a → dest ≠ .net → (s.twinMode q = true → dest = .mem → State.mNo d ≤ 12) →
        queue (.mdrain dist rscope norm false add dest slot d a b e) .drain teams fun t k => k.winA = bind t a
          ∧ (dest = .scr ∨ s.twinMode q = false →
            k.vals = [s.rdM q (State.mNo d), s.rdM q (State.mNo d + 1), s.mval q b, s.mval q e]))

/-- R291 to R294, R307: MWAIT goes on once its object satisfies its target, and waits otherwise; with the stream's
commands complete MARR arrives at its object and keeps the phase that will complete, MSIG goes on, and MEND makes the
sequencer IDLE with the address of the next clause; MPAIR goes on at once where the pair is PAIRED or a twin is gone,
and else waits. -/
def Obligations.MatrixMeetings : Prop :=
  ∀ (dist mask : BitVec 3) (d : BitVec 4) (a b : Opnd) (s : State) (q t x : Nat),
    let k := s.seqr q
    let next : Addr := if k.ix + 1 < k.words.length then k.pc else k.pc + BitVec.ofNat 56 (8 * (k.words.length + 1))
    let none_ : Prop := ∀ e ∈ s.mcmds, e.2.seqr ≠ q
    let o : Nat := (s.mval q a).toNat
    StreamReady s q → s.seqAsleep q = false → k.stop = none →
      ((Instr.mwait dist (.m d) a).wf = true → s.paired q = false → s.followedTeam q = t → s.seqObj t o = some x →
          ∃ u, exec (.mwait dist (.m d) a) s = .next u ∧ SameRegs s u ∧ SameBytes s u
            ∧ (if satisfied (leNat (s.scrBytes (s.team t).core x 4)) (s.rdM q d.toNat).toNat then
                (u.seqr q).st = .running ∧ (u.seqr q).pc = next ∧ (u.seqr q).wait = none
              else (u.seqr q).st = .waiting ∧ (u.seqr q).wait = some (s.mval q a, s.rdM q d.toNat) ∧ (u.seqr q).pc = k.pc
                ∧ (u.seqr q).ix = k.ix))
        ∧ ((Instr.marr dist (.m d) a b).wf = true → none_ → s.streamTeams q = [t] → s.leadTeam q = t → s.seqObj t o = some x →
          (s.core (s.team t).core).frozen = none → (∀ g ∈ (s.core (s.team t).core).triggers, g.off ≠ x) →
          let ob := s.objAt (s.team t).core x
          let new : Obj := { ob with arr := min (ob.arr + (s.mval q b).toNat % 2 ^ 16) 65535 }
          Streams (.marr dist (.m d) a b) q s fun _ u => u.rdM q d.toNat = BitVec.ofNat 32 (ob.phase + 1)
            ∧ u.objAt (s.team t).core x = (if new.full then new.next else new) ∧ u.mem = s.mem ∧ u.tiles = s.tiles
            ∧ ScratchOutside (s.team t).core x 16 s u)
        ∧ ((Instr.msig dist mask).wf = true → (∀ e ∈ s.mcmds, e.2.seqr = q → inClass mask e.2.cls = false) →
          Streams (.msig dist mask) q s fun v u => u = v)
        ∧ (none_ → ∃ u, exec (.mend dist) s = .next u ∧ (u.seqr q).st = .idle
          ∧ (u.seqr q).pc = k.pc + BitVec.ofNat 56 (8 * (k.words.length + 1)) ∧ SameRegs s u ∧ SameBytes s u ∧ u.mcmds = s.mcmds)
        ∧ (s.twinMode q = true → k.mpair = false → (s.paired q = true ∨ s.twinLive q 0 = false ∨ s.twinLive q 1 = false) →
          Streams (.mpair dist) q s fun v u => u = v)
        ∧ (s.twinMode q = true → s.paired q = false → s.twinLive q 0 = true → s.twinLive q 1 = true → k.mpair = false →
          ∃ u, exec (.mpair dist) s = .next u ∧ SameRegs s u ∧ SameBytes s u
            ∧ (k.meet0 ≠ none → k.meet0 = k.meet1 → (u.seqr q).unpaired = false ∧ (u.seqr q).mpair = false)
            ∧ (k.meet0 ≠ k.meet1 → (u.seqr q).mpair = true ∧ (u.seqr q).unpaired = true ∧ (u.seqr q).pc = k.pc))

/-- R272, R273: MSTART on an IDLE or FAULTED sequencer, with the group's earlier accesses performed, starts it at A with
m0 to m7 from the eight s registers at B, the others 0 and the windows as R279 starts them, and writes 1; on a running
one it writes 0 and does nothing; without a sequencer it is ILLINSTR. MSTOP on an idle one, with no commands left, writes
0 and completes; on another it waits in the settle window (R362), and is then answered where the stream waits or stands at
a clause: the sequencer stops, and the address of the clause is written. R303, R305, R307: at its
limit a paired MWAIT of which one object is satisfied unpairs, follows that twin and goes on, and an MPAIR goes on
unpaired; while the sequencer is not RUNNING a write of 1 to UNPAIRED unpairs towards the lead twin, and one of 0
pairs the twins again. -/
def Obligations.MatrixStartStopAndPairing : Prop :=
  (
    ∀ (c : Ctl) (n r : BitVec 5) (a : Opnd) (s : State) (iss : Iss),
      let b : Opnd := .s r
      let vs : List (Opnd × Bool) := (List.range 8).map fun j => (Opnd.s (BitVec.ofNat 5 (r.toNat + j)), false)
      let m : Meta := .seqr c [(.s n, false)] ((a, true) :: vs)
      let mp : Meta := { Meta.seqr c [(.s n, true)] [] with opFlag := true, readsExec := false, readsPm := false }
      let team := s.team iss.tid
      ((Instr.mstart c (.s n) a b).wf = true → Ready s m iss →
          (team.seqr = none → Traps (.mstart c (.s n) a b) m s iss (iss.cause 4 0 0 0) fun t => t = s.issuing m iss)
            ∧ (∀ q i l rest, team.seqr = some q → s.active iss.gid iss.slices c.pm = (i, l) :: rest →
              ((s.seqr q).st = .idle ∨ (s.seqr q).st = .faulted → s.allPerformed iss.gid = true →
                Finishes (.mstart c (.s n) a b) m s iss fun t => (t.seqr q).st = .running ∧ (t.seqr q).reason = 0
                  ∧ (t.seqr q).pc = (s.rd64 iss.gid i 0 a).extractLsb' 0 56 ∧ (t.seqr q).ix = 0 ∧ (t.seqr q).words = []
                  ∧ (∀ j < 16, t.rdM q j = if j < 8 then s.rdS iss.gid i (r.toNat + j) else 0)
                  ∧ (∀ w, w / 16 = q → sget t.wins w = none) ∧ (∀ j ∈ iss.slices, t.rdS iss.gid j n.toNat = 1) ∧ SameBytes s t)
                ∧ ((s.seqr q).st = .running ∨ (s.seqr q).st = .waiting →
                  Finishes (.mstart c (.s n) a b) m s iss fun t =>
                    RegsOnly m iss (s.issuing m iss) t ∧ ∀ j ∈ iss.slices, t.rdS iss.gid j n.toNat = 0)))
        ∧ ((Instr.mstop c (.s n)).wf = true → Ready s mp iss → Idle s iss →
          (team.seqr = none → Traps (.mstop c (.s n)) mp s iss (iss.cause 4 0 0 0) fun t => t = s.issuing mp iss)
            ∧ ∀ q, team.seqr = some q → (s.seqr q).stop = none → ∃ u, exec (.mstop c (.s n)) s = .next u ∧ SameBytes s u
              ∧ ((s.seqr q).st = .idle ∨ (s.seqr q).st = .faulted → u.seqrs = s.seqrs
                ∧ (∀ j ∈ iss.slices, u.rdS64 iss.gid j n.toNat = 0)
                ∧ ((∀ e ∈ s.mcmds, e.2.seqr ≠ q) → (u.group iss.gid).ops = []))
              ∧ ((s.seqr q).st = .running ∨ (s.seqr q).st = .waiting →
                (u.seqr q).stop = some (iss.gid, s.names.op, u.clock + Config.settleCycles) ∧ (u.seqr q).st = (s.seqr q).st ∧ SameRegs s u
                ∧ ∃ o ∈ (u.group iss.gid).ops, o.oid = s.names.op ∧ o.done = false
                  ∧ o.stages = [.awaitResult, .awaitStream q]))) ∧ (
    ∀ (s : State) (q gid from_ n : Nat) (o : Op),
      let k := s.seqr q
      let t := s.team (s.leadTeam q)
      (sget s.seqrs q).isSome = true → t.st = .running → (s.ctx t.ctx).killing = none → k.stop = some (gid, o.oid, from_) →
      from_ ≤ s.clock → k.st = .waiting ∨ k.st = .running ∧ k.words = [] → k.wantUnpair = none → (∀ e ∈ s.mcmds, e.2.seqr ≠ q) →
      (∀ e ∈ s.groups, e.1 ≠ gid → e.2.ops = []) → (s.group gid).ops = [o] → o.stages = [.awaitResult, .awaitStream q] → o.wait = 0 →
      o.done = false → o.dest = some (.s n, true) → n < 31 → (∀ j ∈ o.slices, j < 8) → o.lost = [] → o.olds = [] →
      (∀ h ∈ (s.group gid).hazards, h.ready.isNone = true → o.oid ≤ h.oid) →
        ∃ u, exec (.clauseFetchDone q 8) s = .next u ∧ (u.seqr q).st = .idle ∧ (u.seqr q).stop = none ∧ (u.group gid).ops = []
          ∧ (∀ j ∈ o.slices, u.rdS64 gid j n = k.pc.zeroExtend 64) ∧ SameBytes s u) ∧ (
    ∀ (s : State) (q t₀ t₁ : Nat), s.twinMode q = true → Quiescent s → s.twinTeam q 0 = some t₀ → s.twinTeam q 1 = some t₁ →
      let k := s.seqr q
      let goes (i : Instr) (P : State → Prop) : Prop := ∃ u, exec i s = .next u ∧ SameRegs s u ∧ SameBytes s u ∧ P u
      (∀ o t, k.wait = some (o, t) → s.paired q = true → s.pairExpired q = true → s.seqAsleep q = false →
          (s.seqSat t₀ o.toNat t.toNat = true ∨ s.seqSat t₁ o.toNat t.toNat = true) →
          goes (.pairTimeout q) fun u => (u.seqr q).unpaired = true ∧ (u.seqr q).st = .running ∧ (u.seqr q).wait = none
            ∧ (u.seqr q).followed = if s.seqSat t₀ o.toNat t.toNat then 0 else 1)
        ∧ (k.mpair = true → s.pairExpired q = true → goes (.mpairTimeout q) fun u => (u.seqr q).unpaired = k.unpaired
          ∧ (u.seqr q).mpair = false ∧ (u.seqr q).st = .running ∧ (u.seqr q).pairFrom = none)
        ∧ (k.wantUnpair = some true → k.st ≠ .running → goes (.seqStatusUnpair q) fun u => (u.seqr q).unpaired = true ∧ (u.seqr q).wantUnpair = none
          ∧ (u.seqr q).followed = if s.teamLive t₀ then 0 else 1)
        ∧ (k.wantUnpair = some false → k.st ≠ .running → s.teamLive t₀ = true → s.teamLive t₁ = true →
          goes (.seqStatusRepair q) fun u => (u.seqr q).unpaired = false ∧ (u.seqr q).wantUnpair = none))

/-- R157, R281, R282, R284, R287, R289, R290, R296: performing MZERO, MMA, MLDT, MSOFT and a drain does to the tile, the
accumulator, its side values and the scratchpad what each gives, and to no register; a drain lands its bytes at its
end. -/
def Obligations.MatrixCommandsPerform : Prop :=
  ∀ (s : State) (n : Nat) (k : MCmd) (dist sa sb slot : BitVec 3) (mask norm : Bool) (d a b e : Opnd) (p : Nat),
    let cid := (s.team k.tid).core
    let cell (t : State) (p i j : Nat) : Word := sgetD t.acc (State.accKey cid p + 32 * i + j) 0
    let goes (P : State → Prop) : Prop := ∃ u, exec (.matrixCommandComplete n) s = .next u ∧ SameRegs s u ∧ u.mem = s.mem ∧ P u
    let gone (u : State) : Prop := sget u.mcmds n = none
    sget s.mcmds n = some k → (s.team k.tid).st ≠ .suspended → Quiescent s → s.arrPoison = [] →
      (k.performed = false → k.fault = none → (s.ctx (s.team k.tid).ctx).killing = none → s.conflicts n k = false →
          (k.instr = .mzero dist d → s.heldTile k.tid k.winD = some p →
              goes fun u => gone u ∧ SameBytes s u ∧ (∀ i < 32, ∀ j < 32, cell u p i j = 0)
                ∧ (∀ i < 32, u.sideRd cid p i = (0xFF800000, 0))
                ∧ ∀ r, r / 1024 ≠ cid * 64 + p → sgetD u.acc r 0 = sgetD s.acc r 0)
            ∧ (k.instr = .mma dist sa sb d a b → k.tid2 = none → s.heldTile k.tid k.winD = some p → k.winD.rows ≤ 32 →
              let x := s.slotOf k.tid sa
              let ta : Tile := ⟨k.tid, tileNo a, x, slotK x⟩
              let tb : Tile := ⟨k.tid, tileNo b, s.slotOf k.tid sb, slotK x⟩
              let new (i j : Nat) : Nat := s.mmaCell ta tb (s.outA ta k.winD.rows) (s.outB tb) (cell s p i j).toNat i j
              (goes fun u => gone u ∧ SameBytes s u ∧ ∀ i < 32, ∀ j < 32,
                  cell u p i j = if i < k.winD.rows then BitVec.ofNat 32 (new i j) else cell s p i j)
                ∧ (slotKind x ≠ 1 → slotKind tb.slot ≠ 1 → ∀ i j, new i j = accumulate (cell s p i j).toNat
                  (exactDot ((List.range 32).map fun r => (s.elemOf ta i r, s.elemOf tb j r)))))
            ∧ (k.instr = .mldt dist d a b e → isNone e = true → s.scrPoison = [] →
              let o := (k.vals.getD 0 0).toNat / 32 * 32
              let st := (k.vals.getD 1 0).toNat / 32 * 32
              let row (r : Nat) : Nat := (o + r * if st = 0 then 128 else st) % 2 ^ 32
              goes fun u => gone u ∧ u.scratch = s.scratch ∧ ∀ r < 16, ∀ j < 128,
                mread u.tiles (tileKey (s.bankOf k.tid (tileNo d)) (tileNo d) + 128 * r + j) =
                  match s.mapOff k.tid .l0 ((row r + j) % 2 ^ 32) with | some b => mread s.scratch (State.scrKey cid b) | none => 0)
            ∧ (∀ ps t, k.instr = .msoft dist mask slot d a b e → s.heldTile k.tid k.winA = some ps →
              s.heldTile k.tid k.winB = some p → s.softDo k mask slot d = .ok t → k.winA.rows ≤ 32 →
              goes fun u => gone u ∧ u.scratch = s.scratch ∧ ∀ i < k.winA.rows,
                let y := softRow (s.sideRd cid p i).1.toNat (s.sideRd cid p i).2.toNat
                  (s.softScores cid ps i (k.vals.getD 1 0).toNat mask (k.vals.getD 0 0))
                u.sideRd cid p i = (BitVec.ofNat 32 y.2.2.1, BitVec.ofNat 32 y.2.2.2)
                  ∧ ∀ j < 32, cell u p i j = BitVec.ofNat 32 (mulR (cell s p i j).toNat y.2.1))
            ∧ (∀ y, k.instr = .mdrain dist .none norm false false .scr slot d a b e → slotKind (s.slotOf k.tid slot) = 4 →
              k.tid2 = none → (k.vals.getD 2 0) = 0 → (k.vals.getD 0 0).toNat % 4 = 0 →
              (∀ x < 128 * k.winA.rows, s.mapOff k.tid .l0 (((k.vals.getD 0 0).toNat + x) % 2 ^ 32) = some (y + x)) →
              goes fun u => u.tiles = s.tiles ∧ sget u.mcmds n = some { k with performed := true, bytes := 128 * k.winA.rows }
                ∧ ∀ r < k.winA.rows, ∀ j v, (s.drainRow k norm r)[j]? = some v → u.scrBytes cid (y + 128 * r + 4 * j) 4
                  = leBytes 4 (round (slotFmt (s.slotOf k.tid slot)) .rne (v.div (slotScale (s.slotOf k.tid slot)))).1))
        ∧ (∀ rscope guide add dest x, k.performed = true → k.child = none → s.mcmdOut n = false →
          (k.rel = none → rscope = .none) → (∀ r, k.rel = some r → s.relDone r = true) →
          k.instr = .mdrain dist rscope norm guide add dest slot d a b e → isNone e = false →
          s.mapOff k.tid .l0 (alignObj (k.vals.getD 3 0).toNat) = some x → (s.core cid).frozen = none →
          (∀ t ∈ (s.core cid).triggers, t.off ≠ x) →
          let new : Obj := { s.objAt cid x with landed := min ((s.objAt cid x).landed + k.bytes) (2 ^ 32 - 1) }
          goes fun u => gone u ∧ u.tiles = s.tiles ∧ u.objAt cid x = (if new.full then new.next else new) ∧ ScratchOutside cid x 16 s u)

/-- R335, R336, R357: at L0 a group reads and writes the registers below 0x010, at L1 and above the others too: SYSRD
writes the register's value to the s register or pair of every slice, SYSWR the register with the fields it has; below
their level both raise the privilege trap. Reserved bits read 0. R160, R174: FP.STATUS reads the conditions of the results
written by then. R350, R358, R359: TIMERSET arms the group's timer
with a count, 0 disarming it, TIMERRD reads the cycles left, TIMERCLR disarms it, and at its expiry TIMER is posted.
PMON reads counter A and, with CLR, clears it, at L1 and above; a counter beyond 7 is ILLINSTR, and a clear or counter
6 at L0 the privilege trap. (That the counter's number is tested before the level is the model's choice: log entry 43.) -/
def Obligations.SystemRegistersTimersAndCounters : Prop :=
  (
    (∀ (c : Ctl) (num : BitVec 10) (d a : Opnd) (wide : Bool) (s : State) (iss : Iss), cregWide num = some wide →
        let mr : Meta := { Meta.system c [(d, wide)] [] with lat := some 8, exact := false }
        let mw : Meta := .system c [] [(a, wide)]
        let allowed : Prop := num.toNat < 0x010 ∨ (s.group iss.gid).level ≠ .l0
        ((Instr.sysrd c d num).wf = true → Ready s mr iss →
            (allowed → Finishes (.sysrd c d num) mr s iss fun t => RegsOnly mr iss (s.issuing mr iss) t
              ∧ ∀ i ∈ iss.slices, t.rdW wide iss.gid i 0 d = fit wide (s.cregRead iss num.toNat))
              ∧ (¬allowed → Traps (.sysrd c d num) mr s iss (iss.cause 5 0 0 0) fun t => t = s.issuing mr iss))
          ∧ ((Instr.syswr c num a).wf = true → Ready s mw iss →
            (allowed → num.toNat ≠ 0x004 → num.toNat ≠ 0x043 → Finishes (.syswr c num a) mw s iss fun t => SameRegs s t ∧ SameBytes s t
              ∧ t = (s.issuing mw iss).cregWrite iss num.toNat (s.rdW wide iss.gid iss.lead 0 a))
              ∧ (allowed → ∃ u, exec (.syswr c num a) s = .next u)
              ∧ (¬allowed → Traps (.syswr c num a) mw s iss (iss.cause 5 0 0 0) fun t => t = s.issuing mw iss)))
      ∧ ∀ (s : State) (iss : Iss) (x : DWord),
        let t := s.team iss.tid
        let after (n : Nat) : DWord := (s.cregWrite iss n x).cregRead iss n
        s.cregRead iss 0x000 = (t.fpAt s.clock).zeroExtend 64 ∧ s.cregRead iss 0x001 = t.fpTrapen.zeroExtend 64
          ∧ s.cregRead iss 0x002 = t.scrStatus.zeroExtend 64 ∧ s.cregRead iss 0x010 = (s.group iss.gid).causeLow.zeroExtend 64
          ∧ ((s.core iss.cid).age = 0 → s.cregRead iss 0x030 = 64) ∧ ((s.part t.part).quantum = 0 → s.cregRead iss 0x031 = 2 ^ 20)
          ∧ (∀ n, n = 0x000 ∨ n = 0x001 → after n = x &&& 0x1F) ∧ after 0x002 = x &&& 3
          ∧ (∀ n, n = 0x020 ∨ n = 0x021 ∨ n = 0x022 ∨ n = 0x041 → after n = x &&& 0x00FFFFFFFFFFFFFF)
          ∧ after 0x023 = x &&& 0xFFFF ∧ after 0x024 = x
          ∧ (x &&& 0xFFFF ≠ 0 → after 0x030 = x &&& 0xFFFF) ∧ (x &&& 0xFFFFFFFF ≠ 0 → after 0x031 = x &&& 0xFFFFFFFF)
          ∧ (iss.sys = true → after 0x040 = x &&& 0xFFF ∧ ∀ n, n = 0x044 ∨ n = 0x045 → after n = x &&& 0x00FFFFFFFFFFFFFF)) ∧ (
    (∀ (c : Ctl) (clr : Bool) (d a : Opnd) (s : State) (iss : Iss),
        let mg : Meta := { Meta.system c [(d, false)] [] with exact := false }
        let ms : Meta := .system c [] [(a, false)]
        let mc : Meta := .system c [] []
        let mp : Meta := { Meta.system c [(d, true)] [(a, false)] with exact := clr }
        let n : Nat := (s.rd32 iss.gid iss.lead 0 a).toNat
        let team := s.team iss.tid
        let ctx := s.ctx team.ctx
        let quietTimer (m : Meta) (v : Option Nat) (t : State) : Prop := (t.group iss.gid).timer = v
          ∧ { t with groups := [] } = { s.issuing m iss with groups := [] } ∧ ∀ g, g ≠ iss.gid → t.group g = s.group g
        let counter : DWord := match n with
          | 0 => ctx.used | 1 => BitVec.ofNat 64 team.issued | 2 => BitVec.ofNat 64 team.clauses
          | 3 => BitVec.ofNat 64 (s.core iss.cid).strikes | 4 => BitVec.ofNat 64 s.dev.powerCycles
          | 5 => BitVec.ofNat 64 ctx.stallCycles | 6 => BitVec.ofNat 64 s.dev.corrected | _ => BitVec.ofNat 64 team.restarts
        let low : Prop := (s.group iss.gid).level = .l0
        ((Instr.timerrd c d).wf = true → Ready s mg iss → Finishes (.timerrd c d) mg s iss fun t =>
            RegsOnly mg iss (s.issuing mg iss) t ∧ ∀ i ∈ iss.slices, t.rdW false iss.gid i 0 d = fit false (BitVec.ofNat 64
              (match (s.group iss.gid).timer with | some e => e - (s.issuing mg iss).cycles iss.gid | none => 0)))
          ∧ ((Instr.timerset c a).wf = true → Ready s ms iss → Finishes (.timerset c a) ms s iss
            (quietTimer ms (if n = 0 then none else some ((s.issuing ms iss).cycles iss.gid + n))))
          ∧ ((Instr.timerclr c).wf = true → Ready s mc iss → Finishes (.timerclr c) mc s iss (quietTimer mc none))
          ∧ ((Instr.pmon c clr d a).wf = true → Ready s mp iss →
            (n < 8 → (clr = false ∧ n ≠ 6 ∨ ¬low) → Finishes (.pmon c clr d a) mp s iss fun t => SameBytes s t
                ∧ (∀ i ∈ iss.slices, t.rdW true iss.gid i 0 d = counter) ∧ (clr = false → RegsOnly mp iss (s.issuing mp iss) t)
                ∧ (clr = true → t.pmonRead iss n = 0 ∧ ∀ k < 8, k ≠ n → t.pmonRead iss k = s.pmonRead iss k))
              ∧ (8 ≤ n → Traps (.pmon c clr d a) mp s iss (iss.cause 4 0 0 0) fun t => t = s.issuing mp iss)
              ∧ (n < 8 → (clr = true ∨ n = 6) → low →
                Traps (.pmon c clr d a) mp s iss (iss.cause 5 0 0 0) fun t => t = s.issuing mp iss)))
      ∧ ∀ (s : State) (gid n : Nat), (s.group gid).timer = some n → n ≤ s.cycles gid → s.groupDone gid = false →
        ∃ u, exec (.groupTimerExpiry gid) s = .next u ∧ (u.group gid).timer = none ∧ SameRegs s u ∧ SameBytes s u
          ∧ (isSys (s.team (tidOf gid)).core = false →
            ∃ k, (u.group gid).asyncs = (s.group gid).asyncs ++ [k] ∧ k.code = 19 ∧ k.reason = 0))

/-- R40, R188, R352, R353, R358: LAUNCH first opens a release at DEVICE scope and is held; once that is complete and
visible it writes outcome 2 for a record that is misaligned, 3 for one that cannot be read (at a page fault, on a system
core; a compute core has the fault serviced first), 2 for one that is bad, 1 for a full queue, and otherwise 0 and the
LAUNCH.ID, the launch then queued. VACATE writes the cores that the
clusters it begins to vacate hold, 0 for no such grid. CTXKILL writes whether the context is live, and has it killed.
HALTCORE parks or frees a core without a team, one whose cluster is still being saved counting as a team, and writes 1,
else 0. Below their level they raise the privilege trap. -/
def Obligations.LaunchVacateKillHalt : Prop :=
  ∀ (c : Ctl) (halt : Bool) (d a b : Opnd) (s : State) (iss : Iss),
    let ml : Meta := .system c [(d, true)] [(a, true)]
    let mv : Meta := .systemOp c [(d, false)] [(a, false), (b, false)]
    let mk : Meta := .systemOp c [(d, false)] [(a, false)]
    let mh : Meta := .system c [(d, false)] [(a, false)]
    let x : Nat := (s.rd32 iss.gid iss.lead 0 a).toNat
    let va : Nat := (s.rd64 iss.gid iss.lead 0 a).toNat % 2 ^ 56
    let level := (s.group iss.gid).level
    let gives (m : Meta) (v : Nat) (t : State) : Prop :=
      RegsOnly m iss (s.issuing m iss) t ∧ ∀ i ∈ iss.slices, t.rdW false iss.gid i 0 d = fit false (BitVec.ofNat 64 v)
    let priv (i : Instr) (m : Meta) : Prop := Traps i m s iss (iss.cause 5 0 0 0) fun t => t = s.issuing m iss
    ((Instr.launch c d a).wf = true → Ready s ml iss → Idle s iss → (∀ p ∈ (s.group iss.gid).pre, p.1 ≠ iss.lead) →
        ∃ u, exec (.launch c d a) s = .next u ∧ SameRegs s u ∧ SameBytes s u ∧ u.slices = s.slices ∧ u.launches = s.launches
          ∧ ∃ k r, (iss.lead, k) ∈ (u.group iss.gid).pre ∧ sget u.rels k = some r ∧ r.tid = iss.tid
            ∧ r.scope = s.scopeOf iss.tid .device ∧ r.st = .waiting)
      ∧ (∀ n, (Instr.launch c d a).wf = true → Ready s ml iss → Quiescent s →
        ((s.group iss.gid).pre.find? fun p => p.1 == iss.lead) = some (iss.lead, n) → s.relDone n = true →
        let v := ((s.issuing ml iss).forgetRel n).modGroup iss.gid fun g => { g with pre := g.pre.filter fun q => q != (iss.lead, n) }
        tsLe (s.relTs n) v.hDev = true →
        let pair (o n : Nat) (t : State) : Prop :=
          ∀ i ∈ iss.slices, t.rdW true iss.gid i 0 d = BitVec.ofNat 64 (n * 2 ^ 32 + o)
        (va % 64 ≠ 0 → Finishes (.launch c d a) ml s iss (pair 2 0))
          ∧ (∀ w, va % 64 = 0 → (v.readRecord iss va 4 [] = .unreadable w ∨ iss.sys = true ∧ ∃ p, v.readRecord iss va 4 [] = .page p w) →
            Finishes (.launch c d a) ml s iss (pair 3 0))
          ∧ ∀ l w, va % 64 = 0 → v.readRecord iss va 4 [] = .got l w →
            let pn := w.partOfCtx (w.launchCtx iss)
            let L : Launch := { Launch.absent with record := l, part := pn, ctx := w.launchCtx iss }
            (recordBad (w.part pn) L = true → Finishes (.launch c d a) ml s iss (pair 2 0))
              ∧ (recordBad (w.part pn) L = false → 64 ≤ w.queueLen pn L.prio → Finishes (.launch c d a) ml s iss (pair 1 0))
              ∧ (recordBad (w.part pn) L = false → w.queueLen pn L.prio < 64 → Finishes (.launch c d a) ml s iss fun t =>
                pair 0 ((w.part pn).nextLaunch % 2 ^ 32) t ∧ ∃ k, sget t.launches w.names.launch = some k ∧ k.record = l ∧ k.part = pn
                  ∧ k.ctx = w.launchCtx iss ∧ k.st = .queued ∧ k.ident = (w.part pn).nextLaunch % 2 ^ 32))
      ∧ ((Instr.vacate c d a b).wf = true → Ready s mv iss → Idle s iss →
        (level = .l0 → priv (.vacate c d a b) mv)
          ∧ (level ≠ .l0 → s.gridOf (s.team iss.tid).part x = none → Finishes (.vacate c d a b) mv s iss (gives mv 0))
          ∧ ∀ k cs n t, level ≠ .l0 → s.gridOf (s.team iss.tid).part x = some k →
            (s.issuing mv iss).selectVacate (s.rd32 iss.gid iss.lead 0 b).toNat ((s.issuing mv iss).youngest k false) = (cs, n, t) →
            ∃ u, exec (.vacate c d a b) s = .next u ∧ SameBytes s u
              ∧ (∀ i ∈ iss.slices, u.rdW false iss.gid i 0 d = fit false (BitVec.ofNat 64 n))
              ∧ ∀ q ∈ cs, (u.cluster q).vacating = some (s.issueAt mv iss))
      ∧ ((Instr.ctxkill c d a).wf = true → Ready s mk iss → Idle s iss →
        let live := s.ctxLive (s.team iss.tid).part (x % 4096)
        (level = .l0 → priv (.ctxkill c d a) mk)
          ∧ (level ≠ .l0 → live = false → Finishes (.ctxkill c d a) mk s iss (gives mk 0))
          ∧ (level ≠ .l0 → live = true → (s.ctx (x % 4096)).killed = false → (s.ctx (x % 4096)).killing = none →
            ∃ u k, exec (.ctxkill c d a) s = .next u ∧ SameBytes s u ∧ (u.ctx (x % 4096)).killing = some k ∧ k.kind = 3
              ∧ ∀ i ∈ iss.slices, u.rdW false iss.gid i 0 d = 1))
      ∧ ((Instr.haltcore c halt d a).wf = true → Ready s mh iss →
        let cid := cidOf (x % 64) (x / 64 % 32)
        (level ≠ .l2 → priv (.haltcore c halt d a) mh)
          ∧ (level = .l2 → s.teamsOn cid ≠ [] ∨ s.emptying cid = true → Finishes (.haltcore c halt d a) mh s iss (gives mh 0))
          ∧ (level = .l2 → s.teamsOn cid = [] → s.emptying cid = false → Finishes (.haltcore c halt d a) mh s iss fun t => (t.core cid).parked = halt
            ∧ (∀ i ∈ iss.slices, t.rdW false iss.gid i 0 d = 1) ∧ SameBytes s t ∧ ∀ k, k ≠ cid → t.core k = s.core k))

/-- R84, R180, R348, R349, R358, R360: in a handler RTE stands every live slice where its record says, with its masks and
split stack, frees the frame slot and returns to L0; a malformed record has the context killed. ICINV empties
instruction caches, TLBINV removes cached translations, DCFLUSH checks its range and changes no byte, waiting where a
translation must, and a finished walk caches the leaf it found. (That ICINV CORE and CLUSTER keep what the sequencers'
caches hold is the model's choice: log entry 43.) -/
def Obligations.ReturnAndCaches : Prop :=
  (∀ (c : Ctl) (scope : IcScope) (tscope : TlbScope) (a b : Opnd) (s : State) (iss : Iss),
      let mr : Meta := { Meta.system c [] [] with bound := false }
      let m0 : Meta := .system c [] []
      let md : Meta := .system c [] [(a, true), (b, false)]
      let level := (s.group iss.gid).level
      ((Instr.rte c).wf = true → Ready s mr iss →
          (level = .l0 → Traps (.rte c) mr s iss (iss.cause 5 0 0 0) fun t => t = s.issuing mr iss)
            ∧ (level ≠ .l0 → iss.sys = false → (s.group iss.gid).frame = none →
              s.allPerformed iss.gid = true → Traps (.rte c) mr s iss (iss.cause 4 0 0 0) fun t => t = s.issuing mr iss)
            ∧ ∀ n, level ≠ .l0 → iss.sys = false → isSys (s.team (tidOf iss.gid)).core = false → (s.group iss.gid).frame = some n →
              s.allPerformed iss.gid = true →
              let frame := dwords 304 (s.scrBytes iss.cid (State.frameAt n) 2560)
              let r (i : Nat) : List DWord := (frame.drop (16 + 36 * i)).take 36
              let f (i k lo len : Nat) : Nat := ((r i).getD k 0).toNat / 2 ^ lo % 2 ^ len
              ((∀ i ∈ s.liveSlices iss.gid, recordOk (r i) (s.live iss.gid i) = true) →
                  ∃ u, exec (.rte c) s = .next u ∧ SameRegs s u ∧ SameBytes s u ∧ (u.group iss.gid).frame = none
                    ∧ (u.group iss.gid).level = .l0 ∧ (u.group iss.gid).causeLow = 0
                    ∧ (u.core (s.team (tidOf iss.gid)).core).frames = (s.core (s.team (tidOf iss.gid)).core).frames.set n none
                    ∧ ∀ i ∈ s.liveSlices iss.gid, let x := u.slice iss.gid i
                      x.pc.toNat = f i 0 0 56 ∧ x.ix = f i 0 56 4 ∧ x.exec.toNat = f i 1 0 4 ∧ x.path.toNat = f i 1 4 4
                        ∧ x.stack.length = f i 1 12 5 ∧ x.st = .ganged ∧ ∀ e < f i 1 12 5, ∃ q, x.stack.reverse[e]? = some q
                          ∧ q.join.toNat = f i (4 + 2 * e) 0 56 ∧ q.restore.toNat = f i (4 + 2 * e) 56 4
                          ∧ (f i (5 + 2 * e) 63 1 = 0 → q.pend = none)
                          ∧ (f i (5 + 2 * e) 63 1 = 1 → ∃ p, q.pend = some p ∧ p.pc.toNat = f i (5 + 2 * e) 0 56
                            ∧ p.path.toNat = f i (4 + 2 * e) 60 4 ∧ p.exec.toNat = f i (5 + 2 * e) 59 4))
                ∧ (∀ i ∈ s.liveSlices iss.gid, recordOk (r i) (s.live iss.gid i) = false →
                  (s.ctx (s.team (tidOf iss.gid)).ctx).killing = none → (s.ctx (s.team (tidOf iss.gid)).ctx).killed = false →
                  ∃ u k, exec (.rte c) s = .next u ∧ (u.ctx (s.team (tidOf iss.gid)).ctx).killing = some k ∧ k.kind = 2))
        ∧ ((Instr.icinv c scope).wf = true → Ready s m0 iss → Finishes (.icinv c scope) m0 s iss fun t => SameRegs s t ∧ SameBytes s t
          ∧ (scope ≠ .context → ∀ w ∈ (t.core iss.cid).icache, 4096 ≤ w.1)
          ∧ (scope = .context → ∀ k, (∃ x ∈ s.teamsOn k, (s.team x).ctx = (s.team iss.tid).ctx) → (t.core k).icache = [])
          ∧ (scope = .core → ∀ k, k ≠ iss.cid → t.core k = s.core k))
        ∧ ((Instr.dcflush c a b).wf = true → Ready s md iss →
          let n := (s.rd32 iss.gid iss.lead 0 b).toNat
          let pages := pagesOf ((s.rd64 iss.gid iss.lead 0 a).toNat % 2 ^ 56) (if n = 0 then 1 else n)
          (∀ v, (s.issuing md iss).flushPages iss pages = (none, v) → Finishes (.dcflush c a b) md s iss fun t =>
              t = v ∧ SameRegs s t ∧ SameBytes s t)
            ∧ ∀ p v, ((s.issuing md iss).flushPages iss pages = (some (p, .perm), v) →
                Traps (.dcflush c a b) md s iss (iss.cause 10 0 0 (BitVec.ofNat 64 p)) fun t => t = v)
              ∧ ((s.issuing md iss).flushPages iss pages = (some (p, .wait), v) → exec (.dcflush c a b) s = .next s))
        ∧ (let oa : Option Opnd := if tscope = .page then some a else none
          let ob : Option Opnd := if tscope = .all then none else some b
          let mt : Meta := .systemOp c [] ((oa.toList.map fun o => (o, true)) ++ ob.toList.map fun o => (o, false))
          let cx : Nat := (s.rd32 iss.gid iss.lead 0 b).toNat % 4096
          let va : Nat := (s.rd64 iss.gid iss.lead 0 a).toNat % 2 ^ 56
          let gone (t : TlbEntry) : Prop := match tscope with
            | .all => (s.ctx t.ctx).part = (s.team iss.tid).part
            | .context => t.ctx = cx
            | .page => t.ctx = cx ∧ t.va.toNat / 2 ^ t.bits = va / 2 ^ t.bits
          (Instr.tlbinv c tscope oa ob).wf = true → Ready s mt iss → Idle s iss →
            (level = .l0 → Traps (.tlbinv c tscope oa ob) mt s iss (iss.cause 5 0 0 0) fun t => t = s.issuing mt iss)
              ∧ (level ≠ .l0 → ∃ u, exec (.tlbinv c tscope oa ob) s = .next u ∧ SameRegs s u ∧ SameBytes s u
                ∧ (∀ e ∈ u.cores, ∀ t ∈ e.2.tlb, ¬gone t) ∧ (∀ e ∈ u.dies, ∀ t ∈ e.2, ¬gone t)
                ∧ ∀ k, ∀ t ∈ (s.core k).tlb, ¬gone t → t ∈ (u.core k).tlb)))
    ∧ ∀ (s : State) (cid ctx bits : Nat) (va : Addr) (kind : AccKind) (e : DWord),
      (s.tablesReady (s.ctx ctx).root va.toNat = true → s.walk (s.ctx ctx).root va.toNat = .leaf e bits →
          ∃ u, exec (.translationWalkDone cid ctx va kind) s = .next u
          ∧ (∃ t ∈ (u.core cid).tlb, t.ctx = ctx ∧ t.bits = bits ∧ t.entry = e ∧ t.va.toNat = va.toNat / 2 ^ bits * 2 ^ bits)
          ∧ SameRegs s u ∧ SameBytes s u)
        ∧ (s.walk (s.ctx ctx).root va.toNat = .fault → exec (.translationWalkDone cid ctx va kind) s = .next s)

/-- R42, R44, R45, R61, R184, R27, R85: the launch unit reads the dispatch snapshot once the plane region is free, and
then hands the next block, x fastest, to the next ready park. A park scheduler clears a core for another context, and
places the next cluster: at each position one team of its launch, or two twins, every group of it at the entry address
with all lanes live. R58: the first byte that comes for another context's reload clears the core, and the release hands it
over. (What CTRL writes, and that its first write clears as R61 does, is the model's choice: log entry 40.) R26, R43, R56, R190: a team on a compute core, all its groups done and nothing it issued left,
starts a release at DEVICE scope; once that is done and every release of it installed it is done, its tiles, groups
and pending bytes given up. -/
def Obligations.DispatchPlacementAndTeamEnd : Prop :=
  (
    (∀ (s : State) (p k : Nat),
        let l := s.launch k
        let n := s.names.cluster
        let gx : Nat := dfld (l.dw 0x10) 0 16
        let gy : Nat := dfld (l.dw 0x10) 16 16
        s.dev.st = .service → s.nextLaunch p = some k →
          (l.st ≠ .dispatching → Occurs (.launchDispatch p) s fun t =>
              { t with launches := [] } = { s with launches := [] } ∧ (∀ j, j ≠ k → t.launch j = s.launch j)
                ∧ t.launch k = if s.regionFree k = true then { l with st := .dispatching, snapDispatch := s.hDev }
                  else { l with st := .reserving })
            ∧ ∀ park, l.st = .dispatching → s.nextPark l = some park → s.dev.parksReady.contains park = true → 0 < gx → 0 < gy →
              Occurs (.launchDispatch p) s fun t => let c := t.cluster n
                c.launch = k ∧ c.st = .unstarted ∧ c.part = l.part ∧ c.park = park ∧ c.cx < gx ∧ c.cy < gy
                  ∧ (c.cz * gy + c.cy) * gx + c.cx = l.handed ∧ (t.launch k).handed = l.handed + 1
                  ∧ (t.launch k).st = (if l.handed + 1 = l.blocks then .running else .dispatching)
                  ∧ (t.part l.part).lastPark = some park ∧ SameRegs s t ∧ SameBytes s t)
      ∧ (∀ (s : State) (p park cl x y : Nat),
        let l := s.launch (s.cluster cl).launch
        let at_ (d : Nat × Nat) : Nat := cidOf (x + d.1) (y + d.2)
        s.nextPlace p park = some (cl, x, y) →
          (s.dev.st = .service → s.dev.parksReady.contains park = true → (∀ d ∈ State.spots l, s.needsReload (at_ d) l.ctx = false) →
            ((s.cluster cl).st = .suspended → Happens (.clusterPlace p park) s fun t => (t.cluster cl).st = .placed)
              ∧ ((s.cluster cl).st = .unstarted → Happens (.clusterPlace p park) s fun t =>
                (t.cluster cl).st = .placed ∧ (t.cluster cl).x0 = x ∧ (t.cluster cl).y0 = y
                  ∧ ∀ d ∈ State.spots l, ∀ w < l.twins, ∃ k ∈ (t.cluster cl).teams, let m := t.team k
                    m.st = .running ∧ m.core = at_ d ∧ m.tx = d.1 ∧ m.ty = d.2 ∧ m.twin = w ∧ m.ctx = l.ctx ∧ m.groups = l.groups
                      ∧ m.snap = s.startSnap l
                      ∧ ∀ g < l.groups, ∀ i < 8, let z := t.slice (gidOf k g) i
                        z.pc = (l.dw 0).extractLsb' 0 56 ∧ z.ix = 0 ∧ z.exec = 15 ∧ z.path = 15 ∧ z.exited = 0 ∧ z.stack = []))
            ∧ ∀ d ∈ State.spots l, s.needsReload (at_ d) l.ctx = true → s.queuesEmpty (at_ d) = true →
              Occurs (.parkCoreReload p park (at_ d)) s fun t => let c := t.core (at_ d)
                c.lastCtx = some l.ctx ∧ c.icache = [] ∧ c.tslot0.table = none ∧ c.tslot1.table = none ∧ (∀ e ∈ c.tlb, e.ctx = l.ctx)
                  ∧ SameRegs s t ∧ t.mem = s.mem
                  ∧ ∀ k, let o := k - State.scrKey (at_ d) 0
                    mread t.scratch k =
                      if k / 2 ^ 19 = at_ d ∧ ∀ r ∈ s.regionsOn (at_ d) fun _ _ => true, ¬(r.1 ≤ o ∧ o < r.1 + r.2) then 0
                      else mread s.scratch k)
      ∧ ∀ (s : State) (cid ctx off n : Nat) (p : Packet),
        let c := s.core cid
        (Arrives s n p → p.load = .ctrl ctx off → p.dst = .core cid → s.ctrlPacket cid ctx off p.bytes = some n → isSys cid = false → c.fenced = false →
            (s.take n p).queuesEmpty cid = true → (∀ r, c.reload = some r → r.1 = ctx) → s.inReach p.ptag p.src = true →
            off + p.bytes.length ≤ Config.scratchBytes → Happens (.ctrl cid ctx off p.bytes) s fun t =>
              t.scrBytes cid off p.bytes.length = p.bytes ∧ SameRegs s t ∧ t.mem = s.mem
                ∧ (t.core cid).reload = some (c.reload.getD (ctx, s.clock))
                ∧ ∀ k, ¬(State.scrKey cid off ≤ k ∧ k < State.scrKey cid off + p.bytes.length) →
                  let o := k - State.scrKey cid 0
                  mread t.scratch k =
                    if c.reload = none ∧ k / 2 ^ 19 = cid ∧ ∀ r ∈ s.regionsOn cid fun _ _ => true, ¬(r.1 ≤ o ∧ o < r.1 + r.2) then 0
                    else mread s.scratch k)
          ∧ ∀ r, c.reload = some r → Occurs (.coreReloadRelease cid) s fun t => let d := t.core cid
            d.reload = none ∧ d.lastCtx = some r.1 ∧ d.icache = [] ∧ d.tslot0.table = none ∧ d.tslot1.table = none
              ∧ (t.ctx r.1).used = (s.ctx r.1).used + BitVec.ofNat 64 (s.clock - r.2) ∧ SameRegs s t ∧ SameBytes s t) ∧ (
    ∀ (s : State) (k : Nat),
      let m := s.team k
      isSys m.core = false → (s.ctx m.ctx).killing = none → (∀ g ∈ s.teamGroups k, s.groupDone g = true) →
        (m.st = .running → (s.cluster m.cluster).vacating = none → s.teamIdle k = true → Happens (.teamDone k) s fun t =>
            (t.team k).st = .finishing ∧ SameRegs s t ∧ SameBytes s t
              ∧ ∃ r, sget t.rels s.names.rel = some r ∧ r.tid = k ∧ r.scope = .device ∧ r.st = .waiting ∧ r.purpose = .teamDone k)
          ∧ ∀ n r, m.st = .finishing → (s.rels.find? fun e => e.2.purpose == .teamDone k) = some (n, r) → s.relDone n = true →
            s.allInstalled k = true → Happens (.teamDone k) s fun t =>
              (t.team k).st = .done ∧ (t.team k).pending = [] ∧ (t.team k).acc = [] ∧ ∀ e ∈ t.groups, tidOf e.1 ≠ k)

/-- R46, R52, R327, R328: a park whose suspended cluster has waited a quantum has the youngest running cluster of its grid
vacated for it. An idle scheduler asks the park with the highest count; that park gives up half of its blocks that
reach the asker, the latest to arrive; the reply is a
head, the launches and the blocks, which join the asker's queue in order once the last has come. Counts travel when they
change. -/
def Obligations.QuantumAndSteals : Prop :=
  (∀ (s : State) (p k : Nat),
      let q : Nat := if (s.part p).quantum = 0 then 2 ^ 20 else (s.part p).quantum.toNat
      let me := s.park p k
      let view := me.view.filter fun e => s.dev.parksReady.contains e.1
      (∀ h l v r, s.suspendedQ p k = h :: l → (s.cluster h).suspended + q ≤ s.clock → (∀ e ∈ s.clusters, e.2.heir ≠ some h) →
          s.youngest (s.cluster h).launch true = v :: r → s.hasSlots v = true → Occurs (.parkQuantumExpiry p k) s fun t =>
            (t.cluster v).vacating = some s.clock ∧ (t.cluster v).heir = some h ∧ SameRegs s t ∧ SameBytes s t)
        ∧ ((∀ c ∈ s.suspendedQ p k, s.clock < (s.cluster c).suspended + q) → exec (.parkQuantumExpiry p k) s = .next s)
        ∧ (∀ v n, s.dev.st = .service → s.parkIdle p k = true → me.asking = none → me.retryAt = 0 → Rising view → (v, n) ∈ view →
          0 < n → (∀ e ∈ view, e.2 < n ∨ e.2 = n ∧ v ≤ e.1) → s.inReach p (.park v) = true → s.atDead (.park k) = false → Occurs (.parkIdleSteal p k) s fun t =>
            (t.park p k).asking = some (me.reqn + 1) ∧ SentOut s t (.park v) 0 (.stealReq k (me.reqn + 1))
              ∧ SameRegs s t ∧ SameBytes s t)
        ∧ (me.retryAt ≠ 0 → me.retryAt ≤ s.clock → Occurs (.stealRetryTimeout p k) s fun t =>
          t.park p k = { me with retryAt := 0 } ∧ { t with parks := [] } = { s with parks := [] })
        ∧ ∀ dst, let n := (s.reaching p k dst).length
          let last := sgetD me.sent dst (0, 0)
          k ∈ s.partParks p → dst ∈ s.partParks p → s.inReach p (.park dst) = true → s.atDead (.park k) = false → k ≠ dst → n ≠ last.1 → (n = 0 ∨ last.1 = 0 ∨ last.2 + 256 ≤ s.clock) →
            Occurs (.countUpdateSend p k dst) s fun t => sget (t.park p k).sent dst = some (n, s.clock)
              ∧ SentOut s t (.park dst) 0 (.countUpd k (min n 65535)) ∧ SameRegs s t ∧ SameBytes s t)
    ∧ ∀ (s : State) (n v a b m : Nat) (got cs : List Nat) (p : Packet), s.deliverable n = some p → p.err = .clean → p.dst = .park v →
      let me := s.park p.ptag v
      let out (t : State) (load : Payload) (cx : Nat) (bytes : List Byte) : Prop :=
        ∃ q ∈ svals t.packets, q.dst = .park a ∧ q.vc = 1 ∧ q.held = false ∧ q.load = load ∧ q.ctx = cx ∧ q.bytes = bytes
      let word (k : Nat) : Nat := let c := s.cluster k
        c.cx % 2 ^ 16 + c.cy % 2 ^ 16 * 2 ^ 16 + c.cz % 2 ^ 8 * 2 ^ 32 + (s.launch c.launch).ident % 2 ^ 32 * 2 ^ 64
      let record (k : Nat) : List DWord := let l := s.launch k
        (List.range 32).map fun i =>
          if i = 8 then BitVec.ofNat 64 (l.ident % 2 ^ 32)
          else if i = 9 then BitVec.ofNat 64 (if l.policy 0 2 = 1 then l.snapDispatch else 0)
          else if 9 < i ∧ i < 16 then 0 else l.record.getD i 0
      let words : List Nat := got ++ (List.range (p.bytes.length / 16)).map fun i => leNat ((p.bytes.drop (16 * i)).take 16)
      (p.load = .stealReq a b → s.inReach p.ptag (.park a) = true → Happens (.sreq n) s fun t => ∃ (go : List Nat) (ls : List (List Nat)),
          let launches := (go.map fun c => (s.cluster c).launch).eraseDups
          ls.flatten = go ∧ out t (.stealRep b go.length launches.length) 0xFFF []
          ∧ (∀ k ∈ launches, (s.launch k).record.length = 32 → out t .stealLaunch (s.launch k).ctx (bytesOf (record k)))
          ∧ (∀ r ∈ ls, r.length ≤ 16 ∧ out t .stealBlocks 0xFFF ((r.map word).flatMap (leBytes 16)))
          ∧ go.length = (s.reaching p.ptag v a).length / 2 ∧ (∀ c ∈ go, c ∈ s.reaching p.ptag v a ∧ (t.cluster c).park = 128 + a)
          ∧ ∀ c ∈ s.reaching p.ptag v a, c ∉ go → t.cluster c = s.cluster c
            ∧ ∀ d ∈ go, (s.cluster c).arrived ≤ (s.cluster d).arrived)
        ∧ (p.load = .countUpd a b → Happens (.countUpdate n) s fun t => sget (t.park p.ptag v).view a = some b
          ∧ (t.park p.ptag v).retryAt = (if sgetD me.view a 0 < b then 0 else me.retryAt)
          ∧ SameRegs s t ∧ SameBytes s t)
        ∧ (p.load = .stealRep b a m → Happens (.srep n) s fun t => SameRegs s t ∧ SameBytes s t ∧ t.clusters = s.clusters
          ∧ t.park p.ptag v = if me.asking = some b then
              (if a = 0 then { me with asking := none, retryAt := s.clock + 1024, reply := none } else { me with reply := some (a, m, []) })
            else me)
        ∧ (p.load = .stealBlocks → me.reply = some (a, m, got) → Happens (.srep n) s fun t => SameRegs s t ∧ SameBytes s t
            ∧ (words.length < a → t.clusters = s.clusters ∧ (t.park p.ptag v).reply = some (a, m, words))
            ∧ (a ≤ words.length → (t.park p.ptag v).asking = none ∧ (t.park p.ptag v).retryAt = 0
              ∧ (cs.Nodup → cs.map word = words → (∀ c ∈ cs, s.namedBlock p.ptag v (word c) = some c) →
                (∀ c ∈ cs, (t.cluster c).park = v ∧ s.names.order < (t.cluster c).arrived)
                  ∧ cs.Pairwise fun c d => (t.cluster c).arrived < (t.cluster d).arrived)))

/-- R48, R49, R62 to R65, R83, R84, R298, R338: a free pipe starts the clause it selects, whose header's flags are all
clear and whose counters are within their limits; a clause that breaks the rules of clauses traps instead, and a group
with an asynchronous trap due takes that of the first rank. (That its FPC is where the lowest live slice stands is the model's
choice, log entry 21; so are the ADDR and FPC of a fetch from memory that is unbacked or may not be executed, log entry 23.) A fetch gives a gang the whole of its clause, or the trap
or service fault that stops it, and a sequencer the clause it is to issue. -/
def Obligations.ClausesStartAndAreFetched : Prop :=
  (∀ (s : State) (cid pipe : Nat) (c : Cand),
      let go := exec (.clauseStart cid pipe) s
      s.mayPick cid pipe = true → s.blockedAsync cid = none → s.pick cid pipe = some c →
        let v := match s.clauseAt cid c.gid c.gang with | .got _ t => t | _ => s
        (s.asyncDue c.gid = false → c.bad = false →
          (∀ f < 12, hdrWaits c.head / 2 ^ f % 2 = 1 → s.flagBusy c.gid f = false)
            ∧ (∀ k, hdrLimit c.head k ≠ 63 → s.counter c.gid k ≤ hdrLimit c.head k)
            ∧ clauseBad c.head c.words = false
            ∧ ∃ u, go = .next u ∧ SameRegs s u ∧ SameBytes s u
              ∧ (if pipe = 0 then (u.core cid).pipe0 else (u.core cid).pipe1) = some ⟨c.gid, c.slices, c.hdr, c.words⟩
              ∧ (u.team (tidOf c.gid)).clauses = (s.team (tidOf c.gid)).clauses + 1 ∧ (u.group c.gid).lastStart = s.clock)
        ∧ (s.asyncDue c.gid = false → c.bad = true →
          go = .next ((v.standAt c.gid c.slices c.hdr 0).takeTrap c.gid (State.hdrCause 3 0 c.hdr.toNat c.hdr)))
        ∧ (s.asyncDue c.gid = true → ∃ k ∈ (s.group c.gid).asyncs, (∀ j ∈ (s.group c.gid).asyncs, asyncRank k ≤ asyncRank j)
          ∧ go = .next ((v.modGroup c.gid fun g => { g with asyncs := g.asyncs.erase k }).takeTrap c.gid
            { k with fpc := s.standing c.gid })))
    ∧ (∀ (s : State) (gid i : Nat),
      let t := s.team (tidOf gid)
      let x := s.slice gid i
      let go := exec (.clauseFetchDone gid i) s
      let fetched := s.fetchClause t.core (tidOf gid) (s.group gid).level t.ctx true x.pc
      i < 8 → x.st = .ganged → s.groupFree t.core gid = true → x.pc.toNat % 8 = 0 →
        (∀ l u, fetched = .got l u → go = .next u ∧ SameRegs s u ∧ SameBytes s u ∧ u.slices = s.slices
            ∧ l.length = hdrCount (l.headD 0) + 1
            ∧ ((s.core t.core).icache = [] → (∀ w ∈ (u.core t.core).icache, w.2.1 < devRegBase) →
              ∀ d ∈ l, ∃ a, (t.ctx, a, d) ∈ (u.core t.core).icache ∧ d = s.newest64 a))
          ∧ (∀ va u, fetched = .page va u → isSys t.core = false →
            ∃ v y, go = .next v ∧ SameRegs s v ∧ SameBytes s v ∧ y ∈ (v.core t.core).stalls ∧ y.gid = gid
              ∧ y.va = BitVec.ofNat 56 va ∧ y.kind = .fetch ∧ y.ipc = x.pc ∧ y.entry = none)
          ∧ (∀ u, fetched = .noExec u → go = .next (u.takeTrap gid (State.hdrCause 6 0 x.pc.toNat x.pc)))
          ∧ ∀ va u, fetched = .unbacked va u → go = .next (u.takeTrap gid (State.hdrCause 11 1 va x.pc)))
    ∧ ∀ (s : State) (q : Nat) (l : List DWord) (u : State),
      let x := s.seqr q
      let k := s.leadTeam q
      (sget s.seqrs q).isSome = true → x.st = .running → x.words = [] → x.fault = none → x.stop = none → (s.team k).st = .running →
      s.leaving k = false → (s.ctx (s.team k).ctx).killing = none → x.pc.toNat % 8 = 0 →
      s.fetchClause (s.team k).core k .l0 (4096 + q) true x.pc = .got l u → streamBad (l.headD 0) (l.drop 1) = false →
        Happens (.clauseFetchDone q 8) s fun t => (t.seqr q).words = l.drop 1 ∧ (t.seqr q).ix = 0 ∧ (t.seqr q).pc = x.pc
          ∧ SameRegs s t ∧ SameBytes s t

/-- R30, R31, R33, R34, R339, R341: at an ageing switch a slice whose counter is due goes on with the path that was
pending, which its own takes the place of; a slice that waits at REGANG goes on past it once the threshold has passed
since the first arrival; a group whose trap waited takes a frame slot that has become free. -/
def Obligations.AgeingRegangAndWaitingTraps : Prop :=
  ∀ (s : State) (gid i : Nat),
    let x := s.slice gid i
    let t := s.team (tidOf gid)
    (∀ e r p, i ∈ s.sliceNos gid → s.ageDue gid i = true → s.inPipe t.core gid = false → x.stack = e :: r → e.pend = some p →
        Occurs (.ageingSwitch gid i) s fun u => let y := u.slice gid i
          y.pc = p.pc ∧ y.ix = 0 ∧ y.path = p.path &&& ~~~x.exited ∧ y.exec = p.exec &&& ~~~x.exited
            ∧ y.stack = { e with age := s.cycles gid, pend := some ⟨x.pc, x.path, x.exec⟩ } :: r
            ∧ { u with slices := [] } = { s with slices := [] }
            ∧ ∀ j ∈ s.sliceNos gid, (s.slice gid j).gang ≠ x.gang → u.slice gid j = s.slice gid j)
      ∧ (∀ n, s.firstArrival gid = some n → n + (s.launchOf (tidOf gid)).ageLimit ≤ s.cycles gid →
        Occurs (.regangTimeout gid) s fun u => { u with slices := [] } = { s with slices := [] }
          ∧ ∀ j ∈ s.sliceNos gid, let y := s.slice gid j
            if y.st = .regangWait then (u.slice gid j).st = .ganged ∧ (u.slice gid j).pc = State.fallOf y ∧ (u.slice gid j).ix = 0
            else u.slice gid j = y)
      ∧ (∀ n, s.firstArrival gid = some n → s.cycles gid < n + (s.launchOf (tidOf gid)).ageLimit →
        exec (.regangTimeout gid) s = .next s)
      ∧ ∀ c n, (s.group gid).trapWait = some c → s.freeSlot t.core = some n →
        Occurs (.trapEntry gid) s fun u => u = s.enterFrame gid n c ∧ ((s.ctx t.ctx).trapvec.extractLsb' 0 56 ≠ 0 →
          (u.group gid).frame = some n ∧ (u.group gid).level = .l1 ∧ (u.group gid).trapWait = none
            ∧ ∀ j ∈ s.liveSlices gid, (u.slice gid j).pc = (s.ctx t.ctx).trapvec.extractLsb' 0 56)

/-- R344 to R346, R250: the next request of a partition takes the next of the ring's 64 entries while fewer than 64 are
unanswered. (An unanswered entry that is next may then be overwritten: the model's choice, log entry 36.)
RETRY stands every slice of the stalled gang at its restart copy; TRAP raises the memory fault; KILL has the context
killed; in each case the entry is answered and a second answer changes nothing. -/
def Obligations.ServiceRequestsAndAnswers : Prop :=
  (∀ (s : State) (p cid : Nat) (x : Stall) (l : List (Nat × Stall)),
      let h := (s.part p).head
      let m := s.team (tidOf x.gid)
      (s.ringFree p = false → exec (.serviceRequestAppend p) s = .next s)
        ∧ (s.ringFree p = true → s.waitingStalls p = (cid, x) :: l → x ∈ (s.core cid).stalls →
          Occurs (.serviceRequestAppend p) s fun t => (t.part p).head = h + 1 ∧ SameRegs s t ∧ t.scratch = s.scratch
            ∧ (∃ e, sget (t.part p).ring (h % 64) = some e ∧ e.va = x.va ∧ e.kind = accCode x.kind ∧ e.cid = m.core ∧ e.ctx = m.ctx
              ∧ e.gslot = (s.group x.gid).slot ∧ e.launch = (s.launch m.launch).ident ∧ e.ipc = x.ipc ∧ e.answered = false)
            ∧ ∃ y ∈ (t.core cid).stalls, y = { x with entry := some (h % 64) }))
    ∧ ∀ (s : State) (p n : Nat) (e : RingEntry) (x : Stall),
      let m := s.team (tidOf x.gid)
      let c := s.ctx e.ctx
      sget (s.part p).ring n = some e →
        (e.answered = true → exec (.faultActRetry p n) s = .next s.settle ∧ exec (.faultActTrap p n) s = .next s.settle
            ∧ exec (.faultActKill p n) s = .next s.settle)
          ∧ (e.answered = false → s.cmds = [] → s.mcmds = [] → s.seqrs = [] → (s.core e.cid).stalls = [x] → x.entry = some n →
            x.retry = none →
            (Happens (.faultActRetry p n) s fun t => (t.core e.cid).stalls = [] ∧ SameRegs s t ∧ SameBytes s t
                ∧ (t.team (tidOf x.gid)).restarts = m.restarts + 1
                ∧ (∃ f, sget (t.part p).ring n = some f ∧ f.answered = true)
                ∧ ∀ i ∈ x.slices, let y := (s.slice x.gid i).restart
                  let z := t.slice x.gid i
                  z.pc = y.pc ∧ z.ix = y.ix ∧ z.exec = y.exec ∧ z.path = y.path ∧ z.stack = y.stack)
              ∧ Happens (.faultActTrap p n) s fun t => ∃ v : State, (v.core e.cid).stalls = [] ∧ SameRegs s v ∧ SameBytes s v
                ∧ (∃ f, sget (v.part p).ring n = some f ∧ f.answered = true)
                ∧ t = v.takeTrap x.gid ⟨11, 3, 0, x.va.zeroExtend 64, x.ipc, []⟩)
          ∧ (e.answered = false → c.killed = false → c.killing = none → Happens (.faultActKill p n) s fun t =>
            (∃ k, (t.ctx e.ctx).killing = some k ∧ k.kind = 7 ∧ k.launch = e.launch ∧ k.cid = e.cid) ∧ SameRegs s t ∧ SameBytes s t
              ∧ ∃ f, sget (t.part p).ring n = some f ∧ f.answered = true)

/-- R47, R243, R346, R351 to R355, R267: a cluster that is to be vacated is saved once its teams are quiet, each team
suspended with its slot, and queued as suspended once the slots are written; a collective that outlasts the wait ends with TIMEOUT. A kill ends
every team and launch of its context and is reported; once nothing of the context is left it is complete. -/
def Obligations.VacationsAndKills : Prop :=
  (∀ (s : State) (cl : Nat),
      let c := s.cluster cl
      let queued (t : State) : Prop := (t.cluster cl).st = .suspended ∧ (t.cluster cl).vacating = none ∧ (t.cluster cl).suspended = s.clock
      (c.vacating ≠ none → c.heir = none → s.scrPoison = [] → s.arrPoison = [] → s.slotsReady cl = true →
          (∀ k ∈ s.liveTeams cl, s.teamQuiet cl k = true) → (s.liveTeams cl).Nodup → s.mcmds = [] ∨ s.waitedOut cl = false →
          (s.liveTeams cl).length ≤ c.slots.length → Happens (.clusterVacate cl) s fun t =>
            (∀ k ∈ s.liveTeams cl, (t.team k).st = .suspended ∧ ∃ v, (t.team k).saved = some v ∧ v.slot ∈ c.slots)
              ∧ ((∀ k ∈ s.liveTeams cl, t.slotWritten k = true) → queued t)
              ∧ ((∃ k ∈ s.liveTeams cl, t.slotWritten k = false) → (t.cluster cl).st = c.st ∧ (t.cluster cl).vacating = c.vacating))
        ∧ (c.vacating ≠ none → c.heir = none → (∃ k ∈ s.liveTeams cl, (s.team k).st = .suspended) →
          (∀ k ∈ s.liveTeams cl, s.slotWritten k = true) → Happens (.clusterVacate cl) s queued)
        ∧ ∀ n k, s.waitedOut cl = true → sget s.cmds n = some k → k.tid ∈ c.teams → k.kind = .copyx → k.status = none →
          k.sent = false → s.mcmds = [] → Occurs (.vacationCollectiveTimeout cl) s fun t =>
            (∃ j, sget t.cmds n = some j ∧ j.status = some 1 ∧ j.err = k.err.or (some ⟨0⟩)) ∧ { t with cmds := [] } = { s with cmds := [] })
    ∧ ∀ (s : State) (c : Nat) (k : Kill),
      let x := s.ctx c
      x.killing = some k →
        (x.killed = false → (s.dropRequests c).ringFree x.part = true → Happens (.contextKill c) s fun t =>
            (t.ctx c).killed = true ∧ (t.part x.part).head = (s.part x.part).head + 1 ∧ Out.irq (x.part + 1) 3 ∈ t.out
              ∧ (∀ j ∈ s.ctxTeams c, (t.team j).st = .killed) ∧ (∀ e ∈ t.launches, e.2.ctx = c → e.2.st ≠ .queued ∧ e.2.st ≠ .running)
              ∧ ∀ e ∈ t.clusters, (s.launch e.2.launch).ctx = c → (s.launch e.2.launch).st = .complete)
          ∧ (x.killed = true → s.ctxTeams c = [] → s.recordDone c = true → Happens (.killComplete c) s fun t => (t.ctx c).killing = none
            ∧ ((s.part x.part).live = true → (t.ctx c).killed = true) ∧ (∀ e ∈ t.launches, e.2.ctx = c → e.2.st ≠ .killed) ∧ SameRegs s t ∧ SameBytes s t)

/-- R182, R197 to R199: the collector changes no byte that a snapshot at or above the low-water mark selects, where the
timestamps compared lie in one window. When a channel has
lacked space for 65,536 cycles the team with the oldest snapshot that keeps versions there is revoked, or else the
launch with the most pinned lines there loses its pins; a snapshot 2^46 behind the Sundial is revoked. -/
def Obligations.CollectorAndRevocation : Prop :=
  ∀ (s : State) (n : Nat),
    let low := s.lowWater
    let ahead (a b : Nat) : Nat := (b + (2 ^ 48 - a % 2 ^ 48)) % 2 ^ 48
    let near (ts : Nat) : Prop := tsLe ts low = true → ahead ts low < 2 ^ 46
    let old (ts : Nat) : Bool := tsBehind (2 ^ 46) ts s.sundial
    (Occurs (.collectorReclaim n) s fun t => SameRegs s t ∧ SameBytes s t
        ∧ ∀ h pa, ahead low h < 2 ^ 46 → near (s.lineStamp pa) → (∀ e ∈ s.orangery, ∀ v ∈ e.2, near v.ts) → t.byteAt h pa = s.byteAt h pa)
      ∧ (∀ c, sget s.lacking n = some c → c + 65536 ≤ s.clock → s.orangeryFull n = true →
        (∀ k, s.oldestIn n = some k → Occurs (.orangeryRevoke n) s fun t => (t.team k).revoked = true
            ∧ (t.team k).revs = (s.team k).revs + 1 ∧ (∀ j, j ≠ k → t.team j = s.team j) ∧ SameRegs s t ∧ SameBytes s t)
          ∧ ∀ l, s.oldestIn n = none → s.mostPinned n = some l → Occurs (.orangeryRevoke n) s fun t =>
            (t.launch l).nonReplay = true ∧ (t.launch l).pins = [] ∧ t.teams = s.teams ∧ SameRegs s t ∧ SameBytes s t)
      ∧ (∀ c, sget s.lacking n = some c → s.clock < c + 65536 → exec (.orangeryRevoke n) s = .next s)
      ∧ (Occurs (.snapshotAgeRevoke n) s fun t => SameRegs s t ∧ SameBytes s t ∧ (∀ k, k ≠ n → t.team k = s.team k)
        ∧ t.team n = (if n ∈ s.snapTeams ∧ old (s.team n).snap = true then { s.team n with revoked := true, revs := (s.team n).revs + 1 }
          else s.team n)
        ∧ (∀ g x, (s.group g).tx = some x → (t.group g).tx = some (if tidOf g = n ∧ old x.sx = true then { x with expired := true } else x))
        ∧ ∀ k c, sget s.cmds k = some c → sget t.cmds k =
          some (if c.tid = n ∧ c.written = false ∧ old c.snap = true then { c with expired := true } else c))
      ∧ ((n ∈ s.snapTeams → old (s.team n).snap = false) → (∀ e ∈ s.groups, ∀ x, tidOf e.1 = n → e.2.tx = some x → old x.sx = false) →
        (∀ e ∈ s.cmds, e.2.tid = n → e.2.written = false → old e.2.snap = false) → exec (.snapshotAgeRevoke n) s = .next s)

/-- R188, R326, R362: once its team has seen what its scope shows, a release takes the next timestamp and the whole
pending set, each byte of it in a commit of its sector to its home; a packet that changes state outside its core leaves the settle
buffer, for the injection queue or the fabric, no sooner than 128 cycles after it was produced. -/
def Obligations.ReleasesAndTheSettleBuffer : Prop :=
  (∀ (s : State) (k : Nat) (r : Release),
      let m := s.team r.tid
      sget s.rels k = some r → r.st = .waiting → s.seenAt r.tid r.scope = true → s.atomicAhead r.tid (skeys m.pending) = false →
        let now := (s.sundial + 1) % 2 ^ 48
        Happens (.releaseCommit k) s fun t => t.sundial = now ∧ (t.team r.tid).pending = [] ∧ SameRegs s t ∧ SameBytes s t
          ∧ (m.pending ≠ [] → Rising m.pending → (∀ p ∈ m.pending, canonPa p.1 = p.1) →
            (∃ q, sget t.rels k = some q ∧ q.ts = now ∧ q.st = .committing)
              ∧ ∀ p ∈ m.pending, ∃ n q, sget t.packets n = some q ∧ q.load = .commit (some k) ∧ q.dst = homeEnd p.1
                ∧ q.ts = now ∧ q.pa = p.1 / 32 * 32 ∧ q.size = 32 ∧ q.lane.testBit (p.1 % 32) = true
                ∧ q.bytes.getD (p.1 % 32) 0 = p.2.1))
    ∧ ∀ (s : State) (k : Nat) (p : Packet), sget s.packets k = some p →
      (s.canDrain k = true → s.inReach p.ptag p.dst = true → Occurs (.settleBufferDrain k) s fun t => SameRegs s t ∧ SameBytes s t
          ∧ ∃ q, sget t.packets k = some q ∧ (q.held = false ∨ q.queued = true) ∧ q.dst = p.dst ∧ q.load = p.load ∧ q.bytes = p.bytes)
        ∧ (p.isRead = false → s.clock < p.born + 128 → exec (.settleBufferDrain k) s = .next s)

/-- R183, R185, R186, R188, R193 to R195, R212: a read is answered at its home with the bytes its team sees, and changes
no byte; a write joins the pending set of its team, and the memory that others see stays as it is; a commit, an atomic
and a reduction change the newest bytes they name and no others, a commit as a version that older snapshots do not
select, and an atomic under the next timestamp, the old value its answer. -/
def Obligations.HomesServeAccesses : Prop :=
  ∀ (s : State) (k : Nat) (p : Packet),
    let v := s.take k p
    let plain : Prop := ∀ i < p.size, canonPa (p.pa + i) = p.pa + i
    let room : Prop := s.orangeryFull (homeOf p.pa) = false
    let outside (t : State) : Prop := ∀ a, ¬(p.pa ≤ a ∧ a < p.pa + p.size) → mread t.mem a = mread s.mem a
    let keeps (t : State) : Prop := SameRegs s t ∧ t.scratch = s.scratch ∧ t.tiles = s.tiles
    let now := (s.sundial + 1) % 2 ^ 48
    Arrives s k p → (∃ h, p.dst = .home h) → s.inReach p.ptag p.src = true →
      (∀ sx tx, p.load = .read (.load sx) tx → s.poisoned p.pa p.size = false → Happens (.rd k) s fun t => keeps t ∧ t.mem = s.mem
          ∧ Answered t p (.data (.load sx) (some (s.versionAt (s.readSnap p.tid tx) p.pa)) none)
            ((List.range p.size).map fun i => v.teamByte p.tid tx (s.readSnap p.tid tx) (p.pa + i)))
        ∧ (∀ act tx, p.load = .read act tx → (∀ b, act ≠ .stamp b) → s.poisoned p.pa p.size = true → Contained s → State.rollsBack (s.launchOf p.tid) = false →
          (s.ctx (s.team p.tid).ctx).killing = none → (s.ctx (s.team p.tid).ctx).killed = false → Happens (.rd k) s fun t =>
            keeps t ∧ t.mem = s.mem ∧ ∃ x, (t.ctx (s.team p.tid).ctx).killing = some x ∧ x.kind = 4)
        ∧ (p.load = .write → p.bytes ≠ [] → p.size = p.bytes.length → plain → room → Happens (.wr k) s fun t => keeps t ∧ t.mem = s.mem
          ∧ (∀ i < p.size, ∃ n, sget (t.team p.tid).pending (p.pa + i) = some (p.bytes.getD i 0, n))
          ∧ (∀ a, ¬(p.pa ≤ a ∧ a < p.pa + p.size) → sget (t.team p.tid).pending a = sget (s.team p.tid).pending a)
          ∧ (∀ j, j ≠ p.tid → t.team j = s.team j) ∧ Answered t p .ack [])
        ∧ (p.load = .write → p.bytes ≠ [] → ¬room → Occurs (.wr k) s fun t => t = { s with lacking := t.lacking })
        ∧ (∀ r, p.load = .commit r → s.earlierCommit p = false → room → p.size = 32 → p.pa % 32 = 0 → plain →
          (∃ i < 32, p.lane.testBit i = true) → Happens (.cmt k) s fun t => keeps t ∧ outside t ∧ t.lineStamp p.pa = p.ts
            ∧ (∀ i < 32, t.newest (p.pa + i) = if p.lane.testBit i = true then p.bytes.getD i 0 else s.newest (p.pa + i))
            ∧ ∀ h, tsLe (s.lineStamp p.pa) h = true → tsLe p.ts h = false → ∀ i < 32, t.byteAt h (p.pa + i) = s.byteAt h (p.pa + i))
        ∧ (∀ op c, p.load = .atomic op c → s.lineBusy p.pa = false → room → plain → s.poisoned p.pa p.size = false →
          let old := s.newests p.pa p.size
          Happens (.atom k) s fun t => keeps t ∧ outside t ∧ ∃ n, Answered t p (.data (.atomic op) (some (s.lineStamp p.pa)) n) old
            ∧ match aopNew op (8 * p.size) (leNat old) (leNat p.bytes) (leNat c) with
              | some x => t.newests p.pa p.size = leBytes p.size x ∧ t.sundial = now ∧ n = some now
              | none => t.mem = s.mem ∧ t.sundial = s.sundial ∧ n = none)
        ∧ ∀ op, p.load = .reduce op → plain → s.poisoned p.pa p.size = false → Happens (.red k) s fun t => keeps t ∧ outside t
          ∧ Answered t p .ack [] ∧ (p.group = none → t.sundial = s.sundial) ∧ t.lineTs = s.lineTs
          ∧ ∀ x, aopNew op (8 * p.size) (leNat (s.newests p.pa p.size)) (leNat p.bytes) 0 = some x →
            t.newests p.pa p.size = leBytes p.size x

/-- R43, R51, R79, R137, R185, R187, R223, R230: a window access reads or writes its bytes of the neighbour's scratchpad
and is answered; a barrier update lands its bytes and arrivals on its object; data that come back are written to the
destination of their operation at their lane, and an answer leaves it one fewer to wait for, or ends a multicast
copy's wait. -/
def Obligations.CoresTakePackets : Prop :=
  ∀ (s : State) (k n : Nat) (p : Packet),
    let v : List Byte := s.scrBytes n p.pa p.size
    Arrives s k p → s.inReach p.ptag p.src = true →
      (∀ sx x, p.load = .winLoad sx x → p.dst = .core n → s.scrSettling n p.pa p.size = false → s.scrPoisoned n p.pa p.size = false →
          Happens (.win k) s fun t =>
          SameRegs s t ∧ SameBytes s t ∧ Answered t p (.data (.load sx) none none) v)
        ∧ (∀ x, p.load = .winStore x → p.dst = .core n → p.size = p.bytes.length → s.scrSettling n p.pa p.size = false → Happens (.win k) s fun t => SameRegs s t
          ∧ t.mem = s.mem ∧ t.tiles = s.tiles ∧ t.scrBytes n p.pa p.size = p.bytes ∧ ScratchOutside n p.pa p.size s t
          ∧ Answered t p .ack [])
        ∧ (∀ u, p.load = .bar u → p.dst = .core n → Untriggered s n u.off →
          let o := s.objAt n u.off
          let o1 : Obj := if u.landed = 0 then o else Obj.settled { o with landed := min (o.landed + u.landed) (2 ^ 32 - 1) }
          let o2 : Obj := if u.arrivals = 0 then o1 else Obj.settled { o1 with arr := min (o1.arr + u.arrivals) 65535 }
          Happens (.bar k) s fun t => SameRegs s t ∧ t.mem = s.mem ∧ t.tiles = s.tiles ∧ ScratchOutside n u.off 16 s t
            ∧ t.objAt n u.off = o2)
        ∧ (∀ sx ver ts o d w, p.load = .data (.load sx) ver ts → p.cmd = none → s.opOf p.gid p.oid = some o → o.dest = some (d, w) →
          o.lost = [] → o.olds = [] → (∀ h ∈ (s.group p.gid).hazards, h.ready ≠ none ∨ p.oid ≤ h.oid) →
          let x := loadVal p.size sx p.bytes
          Happens (.data k) s fun t => SameBytes s t ∧ (t.opOf p.gid p.oid).map Op.wait = some (o.wait - 1)
            ∧ match d, w with
              | .v r, false => t.rdV p.gid p.lane r = x.extractLsb' 0 32
              | .v r, true => t.rdV64 p.gid p.lane r = x
              | .s r, false => t.rdS p.gid p.lane r = x.extractLsb' 0 32
              | .s r, true => t.rdS64 p.gid p.lane r = x
              | _, _ => SameRegs s t)
        ∧ (∀ bank tile ver ts o, p.load = .data (.tileIn bank tile) ver ts → p.cmd = none → s.opOf p.gid p.oid = some o → o.tops = [] → Happens (.data k) s fun t =>
          SameRegs s t ∧ t.mem = s.mem ∧ t.scratch = s.scratch ∧ (t.opOf p.gid p.oid).map Op.wait = some (o.wait - 1)
            ∧ mreads t.tiles (tileKey bank tile + 32 * (p.lane % 64)) p.bytes.length = p.bytes)
        ∧ (p.load = .ack → p.cmd = none → ∀ o, s.opOf p.gid p.oid = some o → Happens (.ack k) s fun t => SameRegs s t
          ∧ SameBytes s t ∧ (t.opOf p.gid p.oid).map Op.wait = some (o.wait - 1))
        ∧ ∀ x c, p.load = .ackCopy x → sget s.copies x = some c → Happens (.ack k) s fun t => SameRegs s t ∧ SameBytes s t
          ∧ sget t.copies x = none ∧ t.outside = match c.ts with | some ts => s.outside.erase (ts, .multicast x) | none => s.outside

/-- R187, R265 to R267, R329, R331 to R334: contributions gather in their slot, one of each member; once every
contributor's is there the local command gets their fold in ascending order of position and status 0; a contribution
that disagrees ends the slot with status 2, and its timer with status 1. A result leaves for where its record was translated
to, a status ends its command; one that arrives once its end is on its way, or that the environment says is late, does nothing.
A multicast write that the table of its partition admits is committed here with a new
timestamp, or applied as the reduction it is, and any other discarded; nothing comes from another device but by a ready port.
(What a switch is, and how arrivals from outside are told apart, is the model's choice: log entries 63 and 88.) -/
def Obligations.CollectivesAndOtherDevices : Prop :=
  (∀ (s : State) (x : Contribution) (i : Nat),
      let k := State.rslotKey x.group x.tag x.ctx
      let here := s.dev.coords
      let cs := contributors x.box x.repl x.dev
      let claimed : RSlot := ⟨(x.group, x.tag, x.ctx), s.clock, if x.tmo = 0 then 200 else x.tmo, [x]⟩
      let go (post : State → Prop) : Prop := Happens (.cont (.remote x false)) s post
      let ends (t : State) (y : Contribution) (v : Nat) (res : List DWord) : Prop :=
        sget t.rslots (State.rslotKey y.group y.tag y.ctx) = none ∧ SameRegs s t ∧ SameBytes s t
          ∧ (∀ n c, s.localMember y.group y.tag y.ctx = some (n, c) → here ∈ contributors y.box y.repl y.dev →
            s.inReach (s.team c.tid).part (.core (s.team c.tid).core) = true →
            let told (load : Payload) (bytes : List Byte) : Prop :=
              ∃ q ∈ svals t.packets, q.dst = .core (s.team c.tid).core ∧ q.vc = 3 ∧ q.load = load ∧ q.bytes = bytes
            told (.collStatus n v) [] ∧ (v = 0 → told (.collResult n 0) (res.flatMap fun d => leBytes (Size.bytes y.es) d.toNat)))
          ∧ ∀ q ∈ contributors y.box y.repl y.dev, q ≠ here → s.bundleUp q = true →
            .collective (s.outer q) ⟨y.group, y.tag, y.ctx, if v = 0 then res else [], v⟩ ∈ t.out
      (∀ n c p, Arrives s i p → p.load = .contribution n x → sget s.cmds n = some c → x.dev = here →
          ((∃ q, s.switchFor x = some q ∧ s.bundleUp q = true) → c.status = none → s.endSent n = false → Happens (.cont (.packet i)) s fun t =>
              .toSwitch x ∈ t.out ∧ t.rslots = s.rslots ∧ SameRegs s t ∧ SameBytes s t)
          ∧ (s.contWaits x = false → s.endSent n = true → Happens (.cont (.packet i)) s fun t => t.rslots = s.rslots ∧ SameRegs s t ∧ SameBytes s t)
          ∧ (s.switchFor x = none → c.status = none → s.endSent n = false → State.foldsAt x = some here → sget s.rslots k = none → s.rslots.length < 64 → (∃ q ∈ cs, q ≠ here) →
            Happens (.cont (.packet i)) s fun t => t.rslots = sput s.rslots k claimed ∧ SameRegs s t ∧ SameBytes s t)
          ∧ ∀ d, s.switchFor x = none → c.status = none → s.endSent n = false → State.foldsAt x = some d → d ≠ here → s.bundleUp d = true →
            Happens (.cont (.packet i)) s fun t => .contribution (s.outer d) x ∈ t.out ∧ t.rslots = s.rslots ∧ SameRegs s t ∧ SameBytes s t)
        ∧ exec (.cont (.remote x true)) s = .next s
        ∧ (s.bundleUp x.dev = false → exec (.cont (.remote x false)) s = .next s)
        ∧ (x.dev ≠ here → s.bundleUp x.dev = true → x.group ∉ s.dev.switchFolds → State.foldsAt x = some here →
          (sget s.rslots k = none → s.rslots.length < 64 → go fun t => t = { s with rslots := sput s.rslots k claimed })
          ∧ (sget s.rslots k = none → 64 ≤ s.rslots.length → exec (.cont (.remote x false)) s = .next s)
          ∧ ∀ r, sget s.rslots k = some r →
            ((∃ y ∈ r.got, y.dev = x.dev) → go fun t => t = s)
            ∧ ((∀ y ∈ r.got, y.dev ≠ x.dev) →
              let got := r.got ++ [x]
              let all := cs.filterMap fun q => got.find? fun y => y.dev == q
              ((∃ y ∈ r.got, agree x y = false) → go fun t => ends t x 2 [])
              ∧ ((∀ y ∈ got, agree x y = true) → (∀ q ∈ cs, ∃ y ∈ got, y.dev = q) →
                ((∃ y ∈ all, y.fail = true) → go fun t => ends t x 3 [])
                ∧ ((∀ y ∈ all, y.fail = false) → go fun t => all.map Contribution.dev = cs
                  ∧ ends t x 0 (collFold x.rop x.es (all.map Contribution.data))))))
        ∧ ∀ m r l, sget s.rslots m = some r → r.got = x :: l → m = k → r.since + r.tmo * 1050 ≤ s.clock →
          Happens (.reductionSlotTimeout m) s fun t => ends t x 1 [])
    ∧ (∀ (s : State) (i n v : Nat) (p : Packet) (k : Cmd), Arrives s i p → sget s.cmds n = some k →
      let m := shES k.dst
      (p.load = .collStatus n v → k.status = none → Happens (.cstat (.packet i)) s fun t => SameRegs s t ∧ SameBytes s t
          ∧ ∃ j, sget t.cmds n = some j ∧ j.status = some v ∧ (v ≠ 0 → j.err = some ⟨0⟩))
        ∧ (p.load = .collResult n v → Happens (.cres (.packet i)) s fun t => SameRegs s t ∧ SameBytes s t
          ∧ (∃ j, sget t.cmds n = some j ∧ j.written = true) ∧ ∀ j < k.pas.length, let pa := k.pas.getD j 0
            ∃ q ∈ svals t.packets, q.load = .write ∧ q.dst = homeEnd pa ∧ q.pa = pa ∧ q.bytes = (p.bytes.drop (j * m)).take m
              ∧ q.tid = k.tid ∧ q.cmd = some (.cmd n)))
    ∧ (∀ (s : State) (n : Nat) (m : CollMsg) (k : Cmd), s.localMember m.group m.tag m.ctx = some (n, k) → (m.status = 0 → k.written = true) → s.answerPort k = true →
      Happens (.cstat (.remote m)) s fun t => SameRegs s t ∧ SameBytes s t ∧ ∃ j, sget t.cmds n = some j ∧ j.status = some m.status)
    ∧ ∀ (s : State) (group pa n : Nat) (src : Member) (bytes : List (Option Byte)),
      let keys := skeys (State.maskedCells pa bytes)
      let ok : Prop := s.accepts group src = true ∧ ∀ a ∈ keys, s.backed a = true
      let plain : Prop := ∀ i < bytes.length, canonPa (pa + i) = pa + i
      (s.bundleUp src.dev = false → exec (.multicastWriteArrival group src pa bytes) s = .next s)
        ∧ (s.bundleUp src.dev = true → ok → plain → s.homesReady keys = true →
          (src.op = none → (∀ a ∈ keys, s.lineBusy a = false) → s.spaceFor keys = none →
            Happens (.multicastWriteArrival group src pa bytes) s fun t =>
              t.sundial = (s.sundial + 1) % 2 ^ 48 ∧ SameRegs s t ∧ t.scratch = s.scratch ∧ t.tiles = s.tiles
                ∧ (∀ i b, bytes.getD i none = some b → t.newest (pa + i) = b ∧ t.lineStamp (pa + i) = t.sundial)
                ∧ ∀ a, a ∉ keys → mread t.mem a = mread s.mem a)
          ∧ ∀ op x, src.op = some op → (∀ b ∈ bytes, b ≠ none) →
            aopNew op (8 * bytes.length) (leNat (s.newests pa bytes.length)) (leNat (bytes.map fun b => b.getD 0)) 0 = some x →
            Happens (.multicastWriteArrival group src pa bytes) s fun t => t.sundial = s.sundial ∧ t.lineTs = s.lineTs ∧ SameRegs s t
              ∧ t.newests pa bytes.length = leBytes bytes.length x ∧ ∀ a, a ∉ keys → mread t.mem a = mread s.mem a)
        ∧ (s.bundleUp src.dev = true → ¬ok → Occurs (.multicastWriteArrival group src pa bytes) s fun t => ∃ o, t = s.emit (.report o))
        ∧ (Occurs (.colPortDown n) s fun t => n ∉ t.dev.colsReady ∧ (∀ p, p ≠ n → (p ∈ t.dev.colsReady ↔ p ∈ s.dev.colsReady))
          ∧ { t with dev := s.dev } =
            if t.readiness = s.readiness then s else (s.emit (.readiness t.readiness)).emit (.irq 0 1))
        ∧ (Happens (.backInvalidationDone n) s fun t => t = { s with outside := s.outside.erase (n, .backInvalidation) })
        ∧ Happens (.farMemoryCompletion n) s fun t => t = { s with outside := s.outside.erase (n, .farMemory) }

/-- R19, R20, R24, R321, R324, R362 to R364, R382: a strike restarts what its core's settle buffer has held for no more
than 128 cycles, one of a sequencer its instruction, and more than 16 within 2^20 cycles fence the core; a power limit
inserts cycles, which CLOCK counts. An array error poisons its 32-byte sector or, corrected, is logged, one on a link
changes a bit of a packet, a channel that fails poisons every line it owns, and a router that dies takes its position's
channel with it and sends what would meet it on ESC, as 2048 cycles at the head of a stream do.
(Which argument of an array error names which array is log entry 31; what a rebuild moves with a core, log entry 33; both are
the model's choices.) A core that fails is fenced, and its row takes the nearest reserve to the east, else to the west, with the columns in
rising order of position; until its positions are empty, what stands there is vacated. R365 to R367: a window takes the cores of the next park that are not fenced, TEST.INTERVAL
after the last; a core whose turn it is starts its test once it is empty, and after 2^16 cycles it passes, or is
fenced. -/
def Obligations.StrikesFailuresAndInFieldTest : Prop :=
  (
    (∀ (s : State) (cid n : Nat),
        let c := s.core cid
        let log := s.clock :: c.strikeLog.filter fun a => s.clock < a + 2 ^ 20
        let few : Prop := log.length ≤ 16 ∨ isSys cid = true
        let struck (t : State) : Prop := (t.core cid).strikes = c.strikes + 1 ∧ (t.core cid).fenced = false ∧ SameRegs s t ∧ SameBytes s t
        (c.fenced = false → few → Occurs (.strikeReport (.core cid)) s fun t => struck t
              ∧ (∀ k p, sget s.packets k = some p → p.isRead = false → p.held = true → p.src = .core cid →
                ∃ q, sget t.packets k = some q ∧ q.bytes = p.bytes ∧ q.held = true
                  ∧ q.born = (if s.clock ≤ p.born + 128 ∧ p.queued = false then s.clock else p.born))
              ∧ ((s.groupsOn cid).Nodup → ∀ g ∈ s.groupsOn cid, (t.group g).lastStart = (s.group g).lastStart + 128
                ∧ ((s.group g).cycFrom ≤ s.clock → t.cycles g = s.cycles g) ∧ (t.group g).lastC =
                if s.clock ≤ (s.group g).lastC + 128 then (s.group g).lastC + 128 else (s.group g).lastC))
          ∧ (∀ q, c.fenced = false → few → (sget s.seqrs q).isSome = true → (s.team (s.seqr q).tid).core = cid →
            Occurs (.strikeReport (.seqr cid q)) s fun t => struck t ∧ (t.seqr q).lastC = s.clock ∧ t.packets = s.packets)
          ∧ (c.fenced = false → 16 < log.length → isSys cid = false → ((s.rowTable (cid / 64)).getD (cid % 64) none).isSome = true →
            Happens (.strikeReport (.core cid)) s fun t => (t.core cid).fenced = true)
          ∧ (Occurs (.powerLimit n) s fun t => t.now = s.now + n ∧ t.dev.powerCycles = s.dev.powerCycles + n ∧ { t with dev := s.dev } = s)
          ∧ (n < 2 ^ 52 → s.backed n = true → Occurs (.arrayUncorrectableError (.uncorrectable n)) s fun t => SameBytes s t ∧ t.poisoned n 1 = true
            ∧ ∀ a, s.poisoned a 1 = true → t.poisoned a 1 = true)
          ∧ (2 ^ 52 ≤ n → n < 2 ^ 53 → Occurs (.arrayUncorrectableError (.uncorrectable n)) s fun t => SameBytes s t ∧ (n - 2 ^ 52) / 32 ∈ t.scrPoison)
          ∧ (2 ^ 53 ≤ n → n < wireBase → Occurs (.arrayUncorrectableError (.uncorrectable n)) s fun t => SameBytes s t ∧ n / 32 ∈ t.arrPoison)
          ∧ (n < wireBase → Occurs (.arrayUncorrectableError (.corrected n)) s fun t => t.dev.errorLog = s.dev.errorLog ++ [n] ∧ { t with dev := s.dev } = s)
          ∧ (∀ k b p x, x = ArrayError.corrected n ∨ x = .uncorrectable n → n = wireBase + k * 2 ^ 16 + b → b < 2 ^ 16 → sget s.packets k = some p → p.held = false → b < p.wireBits →
            p.flips.Nodup → Occurs (.arrayUncorrectableError x) s fun t => ∃ q, sget t.packets k = some q ∧ { q with flips := p.flips } = p
              ∧ (b ∈ q.flips ↔ b ∉ p.flips) ∧ ∀ a, a ≠ b → (a ∈ q.flips ↔ a ∈ p.flips))
          ∧ (n < 2048 → Occurs (.homeChannelFailure n) s fun t => SameBytes s t ∧ n ∈ t.dev.failedChans
            ∧ ∀ a, homeOf a = n → t.poisoned a 1 = true))
      ∧ (∀ (s : State) (px py k : Nat) (p : Packet),
        (px < 68 → py < 32 → (px, py) ∉ s.dev.deadRouters → Occurs (.routerDeath px py) s fun t =>
            (px, py) ∈ t.dev.deadRouters ∧ SameRegs s t ∧ SameBytes s t
              ∧ (let col := (sgetD s.dev.made py ((List.range 64).map some)).idxOf (some px)
                col < 64 → py * 64 + col ∈ t.dev.failedChans)
              ∧ ∀ e ∈ t.packets, e.2.held = false → t.routeDead e.2.src e.2.dst = true → e.2.esc = true)
          ∧ (s.deliverable k = some p → p.since + 2048 ≤ s.clock → Occurs (.escTimeout k) s fun t =>
            (sget t.packets k).map Packet.esc = some true ∧ { t with packets := s.packets } = s)
          ∧ (s.deliverable k = some p → s.clock < p.since + 2048 → exec (.escTimeout k) s = .next s))
      ∧ (∀ (s : State) (x y px r : Nat) (base : List (Option Nat)) (rs : List Nat),
        let cid := cidOf x y
        let left (t : State) (b : Rebuild) : Prop := t.dev.rebuilds = s.dev.rebuilds ++ [b] ∧ b.row = y ∧ b.failed = px
        x < 64 → y < 32 → (s.rowTable y).getD x none = some px → (s.core cid).fenced = false → s.nextTable y = (base, rs) →
          (px ∈ nonVoid base → ((r ∈ rs ∧ px < r ∧ ∀ q ∈ rs, px < q → r ≤ q) ∨ (r ∈ rs ∧ r < px ∧ ∀ q ∈ rs, q < px ∧ q ≤ r)) →
              Happens (.coreFieldFailure x y) s fun t => (t.core cid).fenced = true ∧ (t.core cid).pipe0 = none ∧ (t.core cid).pipe1 = none
                ∧ t.dev.faultLog = s.dev.faultLog ++ [(0, y, px)] ∧ SameRegs s t ∧ SameBytes s t
                ∧ ∃ b, left t b ∧ b.col = x ∧ nonVoid b.table = insertAsc r ((nonVoid base).erase px) ∧ b.reserves = rs.erase r ∧ b.shrink = none)
            ∧ (rs = [] → s.ownerOf x y = none → Happens (.coreFieldFailure x y) s fun t => (t.core cid).fenced = true
              ∧ ∃ b, left t b ∧ b.table = base.set (base.idxOf (some px)) none ∧ b.shrink = none))
      ∧ ∀ (s : State) (row : Nat) (b : Rebuild), (s.dev.rebuilds.find? fun r => r.row = row) = some b →
        (s.rebuildFree b = false → Occurs (.rowRemapRebuild row) s fun t => t = s.vacateFor b ∧ t.dev = s.dev ∧ SameRegs s t ∧ SameBytes s t)
          ∧ (s.rebuildFree b = true → b.shrink = none → Occurs (.rowRemapRebuild row) s fun t =>
            t.rowTable row = b.table ∧ t.rowReserves row = b.reserves ∧ t.dev.rebuilds = s.dev.rebuilds.erase b ∧ SameRegs s t ∧ t.mem = s.mem
              ∧ (∀ c ∈ s.movingCols b, t.core (cidOf c row) = s.movedCore b c)
              ∧ ∀ k, (∀ c ∈ s.movingCols b, k ≠ cidOf c row) → t.core k = s.core k)) ∧ (
    ∀ (s : State) (cid : Nat) (l : List Nat),
      let d := s.dev
      let park : Nat := if d.testWindows = [] then 0 else (d.testPark + 1) % 128
      (d.st = .service → d.testNext ≤ s.clock → d.testLeft = [] → Occurs .testWindowStart s fun t =>
          t.dev.testPark = park ∧ t.dev.testNext = s.clock + d.testInterval ∧ { t with dev := s.dev } = s
            ∧ (∀ c, c ∈ t.dev.testLeft ↔ (∃ p ∈ rectCells (parkRect park), c = cidOf p.1 p.2) ∧ (s.core c).fenced = false))
        ∧ (d.testLeft = cid :: l → (s.core cid).testing = false → s.queuesEmpty cid = true → Occurs (.coreTestStart cid) s fun t =>
          (t.core cid).testing = true ∧ t.dev.testFrom = s.clock ∧ SameRegs s t ∧ SameBytes s t ∧ ∀ c, c ≠ cid → t.core c = s.core c)
        ∧ (d.testLeft = cid :: l → (s.core cid).testing = false → s.queuesEmpty cid = false → s.clock < d.testFrom + 2 ^ 22 →
          exec (.coreTestStart cid) s = .next s)
        ∧ ((s.core cid).testing = true → s.clock < d.testFrom + 2 ^ 16 → ∀ ok, exec (.coreTestDone cid ok) s = .next s)
        ∧ ((s.core cid).testing = true → d.testFrom + 2 ^ 16 ≤ s.clock → Occurs (.coreTestDone cid true) s fun t =>
          (t.core cid).testing = false ∧ (t.core cid).fenced = (s.core cid).fenced ∧ t.dev.testLeft = d.testLeft.erase cid
            ∧ SameRegs s t ∧ SameBytes s t)
        ∧ ((s.core cid).testing = true → d.testFrom + 2 ^ 16 ≤ s.clock → (s.core cid).hosted = [] → cid < 2048 →
          ((s.rowTable (cid / 64)).getD (cid % 64) none).isSome = true → Happens (.coreTestDone cid false) s fun t =>
            (t.core cid).testing = false ∧ (t.core cid).fenced = true ∧ t.dev.testFailed = true))

/-- R16, R21, R57, R191, R343, R364, R368 to R370, R373: power takes the module from OFF to STANDBY and from there to
VERIFY, where the channels that failed are retired. Firmware and then configuration verified, it boots with the tables
and the identity that the configuration's body gives (laid out as log entry 61 says); Fjondan's image starts the two
first system cores (at ENTRY as a virtual address, at L2: the model's choice, log entry 62), and once Fjondan runs the module serves; an image refused holds it, with every core in reset. A unit
that passes its self-test is ready, and what waited for a port leaves. Minima rise and keys enrol while Fjondan runs. Without main power it keeps only its stores (which those are is log entry 46). A halted system core starts again at
its partition's entry. -/
def Obligations.PowerImagesAndReadiness : Prop :=
  ∀ (s : State) (im : List Byte) (kind unit n slot svn : Nat) (key : List Byte) (owner : Option Nat),
    let d := s.dev
    let verified (k : Nat) : Prop := ∃ x ∈ d.images, x.1 = k
    let only (t : State) (e : Dev) : Prop := { t with out := s.out } = { s with dev := e }
    let held (t : State) : Prop := t.dev.st = .held ∧ ∀ c < 2064, (t.core c).held = true
    let ready (e : Dev) : Prop := Occurs (.functionSelfTestDone unit n true) s fun t =>
      t.dev.chansReady = e.chansReady ∧ t.dev.parksReady = e.parksReady ∧ t.dev.colsReady = e.colsReady ∧ SameRegs s t ∧ SameBytes s t
        ∧ (∀ p ∈ d.ports, t.bundleUp p.1 = true → p.2.2 ∈ t.out) ∧ (d.ports = [] → s.copies = [] → only t e)
    let down (i : Instr) (st : ModState) : Prop := Occurs i s fun t => t.dev.st = st ∧ t.dev.minima = d.minima ∧ t.dev.keys = d.keys
      ∧ t.dev.faultLog = d.faultLog ∧ t.dev.identity = d.identity ∧ t.dev.images = [] ∧ t.dev.chansReady = []
      ∧ (t.readiness ≠ s.readiness → .readiness t.readiness ∈ t.out ∧ .irq 0 1 ∈ t.out)
      ∧ { t with dev := State.reset.dev, out := [], names := State.reset.names, agenda := [], turn := 0, free := 0 } = State.reset
    let started (t : State) (k : Nat) (e : Addr) (level : Level) : Prop :=
      (t.team k).st = .running ∧ (t.team k).core = 2048 + k ∧ (t.group (gidOf k 0)).level = level ∧ (t.slice (gidOf k 0) 0).pc = e
        ∧ (t.slice (gidOf k 0) 0).ix = 0 ∧ (t.core (2048 + k)).held = false
    (d.st = .off → Occurs .busPowerApplied s fun t => only t { d with st := .standby })
      ∧ (d.st = .standby → Occurs .mainPowerApplied s fun t => t.dev.st = .verify ∧ t.dev.failedChans = []
        ∧ (∀ c, c ∈ t.dev.retired ↔ c ∈ d.retired ∨ c ∈ d.failedChans) ∧ SameRegs s t ∧ SameBytes s t)
      ∧ (d.st ≠ .off → down .mainPowerRemoved .standby ∧ down .busPowerRemoved .off)
      ∧ (let ok (k : Nat) : Prop := kind = k ∧ s.imageOk k [] im = true
        let go (post : State → Prop) : Prop := Occurs (.imageVerifyDone kind im) s post
        let noted (t : State) : Prop := t.dev.images = d.images ++ [(kind, none, (im.drop 0x20).take 64, imgField im 8 4)]
        (d.st = .verify → ¬verified 2 → (ok 2 → go fun t => noted t ∧ t.dev.st = .verify) ∧ (¬ok 2 → go held))
          ∧ (d.st = .verify → verified 2 → (ok 1 → go fun t => noted t ∧ t.dev.st = .boot
              ∧ (∀ row < 32, d.faultLog = [] → t.rowTable row = State.imageTable (imgBody im) row)
              ∧ (∀ row < 32, ∀ c < 64, (t.rowTable row).getD c none = none → (t.core (cidOf c row)).fenced = true)
              ∧ ∀ i < 128, sgetD t.dev.identity i 0 = (imgBody im).getD (2080 + i) 0)
            ∧ (¬ok 1 → go held))
          ∧ (d.st = .boot → ¬verified 3 → (ok 3 → go fun t => noted t ∧ t.dev.st = .boot
              ∧ ∀ k < 2, started t k (BitVec.ofNat 56 (imgField im 0x18 8)) .l2)
            ∧ (¬ok 3 → go held)))
      ∧ (d.st = .boot → verified 3 → Occurs .fjondanRunning s fun t => only t { d with st := .service })
      ∧ (d.st = .boot ∨ d.st = .service → (unit, n) ∉ d.unitsFailed →
        (unit = 0 → n < 2048 → n ∉ d.retired → n ∉ d.chansReady →
            ready { d with chansReady := n :: d.chansReady }
              ∧ Occurs (.functionSelfTestDone 0 n false) s fun t => n ∈ t.dev.failedChans ∧ t.dev.chansReady = d.chansReady)
          ∧ (unit = 1 → n < 128 → n ∉ d.parksReady → ready { d with parksReady := n :: d.parksReady })
          ∧ (unit = 2 → n < 18 → n ∉ d.colsReady → ready { d with colsReady := n :: d.colsReady }))
      ∧ (∀ p, (s.part p).live = true → n ∈ (s.part p).sysCores → (∀ e ∈ s.parts, e.2.live = true → n ∈ e.2.sysCores → e.1 = p) →
        2 ≤ n → n < 16 → (s.core (2048 + n)).held = true → Occurs (.systemCoreRestart n) s fun t =>
          started t n (s.part p).entry .l1 ∧ (t.team n).part = p ∧ SameBytes s t)
      ∧ (fjondanRuns s = false → exec (.storedMinimumRaise kind slot svn) s = .next s ∧ exec (.keySlotEnrolment slot key owner) s = .next s)
      ∧ (fjondanRuns s = true → 1 ≤ kind → kind ≤ 4 → slot ≤ 7 → Occurs (.storedMinimumRaise kind slot svn) s fun t =>
        sget t.dev.minima (kind * 8 + slot) = some (max (sgetD d.minima (kind * 8 + slot) 0) (svn % 2 ^ 32))
          ∧ { t with dev := s.dev } = s)
      ∧ (fjondanRuns s = true → 1 ≤ slot → slot ≤ 7 → Occurs (.keySlotEnrolment slot key owner) s fun t =>
        sget t.dev.keys slot = some (key, owner) ∧ { t with dev := s.dev } = s)

/-- R371 to R375: a partition that may be created is installed with its rectangle, its system cores at its entry at L1;
one destroyed has its contexts killed and its system cores held. Evacuation goes to EVACUATING when the receiver
accepts, on its acknowledgement to route withdrawal, drained or at its deadline to UNLATCH, and on a failure before
that back; the shipment leaves as the receiver acknowledges it, with route withdrawal on every port in use, and the receiver
takes it over, its Sundial above what it was sent. (That an image's body stands from the start of the partition's ranges, laid
end to end, is log entry 44; what a shipment holds, and that the receiver holds the system cores, is log entry 48: the model's
choices.) Evidence and identity are answered to the outside
and change nothing else. -/
def Obligations.PartitionsEvacuationAndEvidence : Prop :=
  (∀ (s : State) (p : PartitionSpec) (n : Nat),
      (s.dev.st = .service → s.specOk p = true → p.sysCores.Nodup → Occurs (.partitionCreate p) s fun t => let q := t.part p.number
          q.live = true ∧ q.rect = (p.x0, p.y0, p.w, p.h) ∧ q.sysCores = p.sysCores ∧ q.memory = p.memory ∧ q.entry = p.entry ∧ q.bar2Bits = p.bar2Bits
            ∧ (∀ k ∈ p.sysCores, (t.team k).st = .running ∧ (t.group (gidOf k 0)).level = .l1 ∧ (t.slice (gidOf k 0) 0).pc = p.entry
              ∧ (t.core (2048 + k)).held = false)
            ∧ (∀ c, p.ctxLo ≤ c → c ≤ p.ctxHi → (t.ctx c).part = p.number ∧ (t.ctx c).killed = false)
            ∧ (s.homesReady (skeys (State.imageCells p)) = true → ∀ i < (imgBody p.image).length, ∀ a, endToEnd i p.memory = some a →
              (∀ j b, endToEnd j p.memory = some b → canonPa b = b ∧ (j ≠ i → b ≠ a)) → t.newest a = (imgBody p.image).getD i 0))
        ∧ (¬(s.dev.st = .service ∧ s.specOk p = true) → exec (.partitionCreate p) s = .next s)
        ∧ ((s.part n).live = true → Occurs (.partitionDestroy n) s fun t => (t.part n).live = false ∧ (t.part n).bar2 = false ∧ (t.part n).mcast = []
          ∧ (∀ e ∈ t.cores, ∀ y ∈ e.2.tlb, (t.ctx y.ctx).part ≠ n)
          ∧ (∀ k ∈ (s.part n).sysCores, (t.core (2048 + k)).held = true)
          ∧ (∀ e ∈ s.ctxs, e.2.part = n → (s.ctx e.1).killed = false → (t.ctx e.1).killing.isSome = true)
          ∧ SameRegs s t ∧ SameBytes s t))
    ∧ ∀ (s : State) (to_ : Nat × Nat × Nat) (off n : Nat) (sun : Nat) (x : Shipment) (nonce : List Byte) (part : Option Nat),
      let d := s.dev
      let moved (i : Instr) (st : ModState) (post : State → Prop) : Prop := Occurs i s fun t => t.dev.st = st ∧ SameRegs s t ∧ SameBytes s t
        ∧ post t
      (d.st = .service → moved (.evacuationCommand to_ true) .evacuating fun t => t.dev.evac = some (to_, s.clock, false, false)
          ∧ ∀ c, (s.cluster c).vacating ≠ none → (t.cluster c).vacating ≠ none)
        ∧ exec (.evacuationCommand to_ false) s = .next s
        ∧ (∀ c, d.st = .evacuating → d.evac = some (to_, c, false, false) →
          ((∀ e ∈ s.clusters, e.2.st ≠ .placed) → Occurs .receiverAcknowledgement s fun t =>
              ∃ y, { t with out := s.out } = { s with dev := { d with evac := some (to_, c, true, true) } }
                ∧ .shipment s.sundial d.coords y ∈ t.out ∧ (∀ n < 18, n ∈ d.colsReady → .withdraw n ∈ t.out)
                ∧ (∀ e ∈ s.scratch, s.inRegion e.1 = true → e ∈ y.planes) ∧ (∀ x ∈ s.scrPoison, s.inRegion (32 * x) = true → x ∈ y.planePoison)
                ∧ y.mem = s.mem ∧ y.lineTs = s.lineTs ∧ y.orangery = s.orangery ∧ y.launches = s.launches ∧ y.clusters = s.clusters
                ∧ y.parks = s.parks ∧ y.parts = s.parts ∧ y.ctxs = s.ctxs ∧ y.cmds = s.cmds
                ∧ ∀ k, 2 ≤ k → sget y.teams k = sget s.teams k)
            ∧ moved .evacuationFailure .service fun t => t.dev.evac = none)
        ∧ (∀ c, d.st = .evacuating → d.evac = some (to_, c, true, true) →
          ((∀ e ∈ s.packets, ∀ x, e.2.dst ≠ .io x) → d.ports = [] → (∀ e ∈ s.copies, e.2.sent = true) → moved .evacuationDrained .unlatch fun t => t.dev.unlatchOk = true)
            ∧ exec .evacuationFailure s = .next s)
        ∧ (∀ c a b, d.st = .evacuating → d.evac = some (to_, c, a, b) → c + 30 * 1050000000 ≤ s.clock →
          moved .evacuationDeadline .unlatch fun t => t.dev.unlatchOk = true ∧ t.dev.ports = [] ∧ ∀ e ∈ t.packets, ∀ x, e.2.dst ≠ .io x)
        ∧ (d.st = .service → (∀ e ∈ s.parts, e.2.live = false) → Occurs (.evacuationReceive sun to_ x) s fun t =>
          (s.sundial < 2 ^ 47 → sun < 2 ^ 47 → s.sundial < t.sundial ∧ sun < t.sundial)
            ∧ (x.mem.wf → ∀ a, mread t.mem a = mread x.mem a) ∧ t.lineTs = x.lineTs ∧ t.orangery = x.orangery ∧ t.parts = x.parts
            ∧ t.ctxs = x.ctxs ∧ t.cmds = x.cmds.map (fun e => (e.1, { e.2 with born := s.clock + e.2.born - x.clock }))
            ∧ t.dev.coords = to_ ∧ t.dev.keys = x.keys ∧ t.dev.cxlRanges = x.cxlRanges
            ∧ (t.clusters.map fun e => (e.1, e.2.st, e.2.launch, e.2.park, e.2.teams)) = (x.clusters.map fun e => (e.1, e.2.st, e.2.launch, e.2.park, e.2.teams))
            ∧ ((x.teams.map Prod.fst).Nodup → ∀ k m, sget x.teams k = some m →
              { t.team k with born := 0, fpLate := [] } = { m with born := 0, fpLate := [] }
                ∧ (t.team k).fpLate = m.fpLate.map fun z => (s.clock + z.1 - x.clock, z.2))
            ∧ ((x.planes.map Prod.fst).Nodup → ∀ e ∈ x.planes, mread t.scratch e.1 = e.2)
            ∧ ∀ e ∈ x.parts, e.2.live = true → ∀ k ∈ e.2.sysCores, (t.core (2048 + k)).held = true)
        ∧ (nonce.length = 32 → d.st ≠ .off → d.st ≠ .standby → Occurs (.evidenceRequest nonce part) s fun t => { t with out := s.out } = s
          ∧ .evidence (s.evidenceBytes nonce part) ∈ t.out ∧ .irq 0 3 ∈ t.out)
        ∧ Occurs (.identityStoreRead off n) s fun t => { t with out := s.out } = s
          ∧ t.out = .identity ((List.range (min n (256 - off))).map fun i => s.identityByte (off + i)) :: s.out

/-- R40, R364, R368, R369, R376 to R380: without main power the host reaches nothing. With it a write or read through a
function's window reaches the newest bytes at the addresses it names, a write with the bytes it enables and a new
timestamp; outside every window, or partly outside one, a write is refused whole and a read answers all ones. Each function
reads the class code 0x12_0000. A doorbell moves the ring's end and acquires at SYSTEM scope, or closes a ring it overruns;
an enabled ring's next entry is taken, a malformed one with outcome 5, one outside the context range with 4, and any other
submitted as LAUNCH submits, a record whose page faults waiting for the answer; the head moves once the status word is
visible at SYSTEM scope. A poisoned byte that the read of an entry or its record uses is consumed by the context. Messages
reach the mailbox, written there or through PF0's page; a reset closes what its function has open. The addresses that name
pages, that an access partly outside is refused whole, that nothing is reached without main power and when the mailbox is
there are log entry 49 (DEDUCED); where MSI-X tables stand and that a reset empties them log entry 80 (PRESUMED); where the
class code stands and what else configuration space holds log entry 89 (PRESUMED); whom a poisoned entry is consumed by log
entry 91 (DESIGN CHOICE). -/
def Obligations.HostPort : Prop :=
  (∀ (s : State) (fn a : Nat) (bytes : List (Option Byte)),
      let n := bytes.length
      let told (t : State) : Prop := .refused fn a ∈ t.out ∧ { t with out := s.out } = s
      (s.hostLive = false → exec (.hostWrite fn a bytes) s = .next s ∧ exec (.hostRead fn a n) s = .next s)
      ∧ (s.hostLive = true → a < bar0Base →
        (∀ pas, s.hostPas fn a n = some pas → s.homesReady pas = true → (∀ p ∈ pas, s.lineBusy p = false) → s.spaceFor pas = none → pas.Nodup → (∀ p ∈ pas, canonPa p = p) →
            Occurs (.hostWrite fn a bytes) s fun t => t.sundial = (s.sundial + 1) % 2 ^ 48 ∧ SameRegs s t ∧ t.scratch = s.scratch ∧ t.tiles = s.tiles
              ∧ (∀ i < n, ∀ p, pas[i]? = some p → t.newest p = (bytes.getD i none).getD (s.newest p))
              ∧ ∀ k, k ∉ pas → mread t.mem k = mread s.mem k)
          ∧ (∀ pas, s.hostPas fn a n = some pas → s.homesReady pas = true → Occurs (.hostRead fn a n) s fun t => t.out = .hostData (pas.map s.newest) :: s.out
            ∧ SameRegs s t ∧ SameBytes s t ∧ (fn = cxlMem → ∀ p ∈ pas, canonPa p / 64 ∈ t.dev.hostCached))
          ∧ (s.hostPas fn a n = none → Occurs (.hostWrite fn a bytes) s told
            ∧ Occurs (.hostRead fn a n) s fun t => told t ∧ .hostData (List.replicate n 0xFF) ∈ t.out)))
    ∧ (∀ (s : State) (fn off n : Nat), s.hostLive = true →
      let answers (a : Nat) (f : Nat → Byte) : Prop := Occurs (.hostRead fn a n) s fun t =>
        t.out = .hostData ((List.range n).map fun i => f (off + i)) :: s.out ∧ { t with out := s.out } = s
      (off < 2 ^ 44 → answers (bar0Base + off) (s.pageByte fn))
        ∧ (s.hasConf fn = false → answers (confBase + off) fun _ => 0xFF)
        ∧ (s.hasConf fn = true → off + n ≤ 4096 → answers (confBase + off) fun k =>
          if k = 0x0B then 0x12 else if k = 0x0A ∨ k = 0x09 then 0 else sgetD s.dev.config (fn * 4096 + k) 0))
    ∧ (∀ (s : State) (fn off : Nat) (bytes : List (Option Byte)), s.hostLive = true →
      (s.hasConf fn = false → exec (.hostWrite fn (confBase + off) bytes) s = .next s)
        ∧ (s.hasConf fn = true → Occurs (.hostWrite fn (confBase + off) bytes) s fun t => { t with dev := s.dev } = s
          ∧ { t.dev with config := s.dev.config } = s.dev
          ∧ ∀ f k, k < 4096 → ¬(0x09 ≤ k ∧ k ≤ 0x0B) → sgetD t.dev.config (f * 4096 + k) 0 =
            (if f = fn ∧ off ≤ k then bytes.getD (k - off) none else none).getD (sgetD s.dev.config (f * 4096 + k) 0)))
    ∧ (∀ (s : State) (p off : Nat) (tail : Word) (on : Bool) (bytes : List Byte),
      let d := s.part p
      let gap : Nat := (tail.toNat + 2 ^ 32 - d.sqHead % 2 ^ 32) % 2 ^ 32
      let v := s.settleWords p
      let q := v.part p
      let pa := v.sqEntry p
      let e := dwords 8 (v.snapBytes q.sqSnap pa 64)
      let next_ : Prop := q.live = true ∧ q.sqEn = true ∧ q.sqHead % 2 ^ 32 ≠ q.sqTail % 2 ^ 32 ∧ q.sqFault = none ∧ v.dev.st = .service
        ∧ (∀ w ∈ q.sqWords, w.2.1 = false) ∧ v.homesReady [pa] = true
      let c := dfld (e.getD 1 0) 0 12
      let va := dfld (e.getD 0 0) 0 56
      let free : Prop := ∀ i < 8, canonPa (pa + 0x10 + i) = pa + 0x10 + i ∧ v.homesReady [pa + 0x10 + i] = true ∧ v.lineBusy (pa + 0x10 + i) = false
        ∧ v.orangeryFull (homeOf (pa + 0x10 + i)) = false
      let now := (v.sundial + 1) % 2 ^ 48
      let raise : List Nat := if dfld (e.getD 1 0) 16 1 = 1 then [0] else []
      let taken (o ident : Nat) (t : State) : Prop := t.newests (pa + 0x10) 8 = leBytes 8 (ident * 2 ^ 32 + 2 ^ 8 + o)
        ∧ if tsLe now t.hSys = true then (t.part p).sqHead = (q.sqHead + 1) % 2 ^ 32 ∧ ∀ x ∈ raise, .irq (p + 1) x ∈ t.out
          else (t.part p).sqHead % 2 ^ 32 = q.sqHead % 2 ^ 32 ∧ (now, true, raise) ∈ (t.part p).sqWords
      let consumed (t : State) : Prop := (v.ctx c).killed = false → (v.ctx c).killing = none → ∃ k, (t.ctx c).killing = some k ∧ k.kind = 4
      let bad (o : Nat) : Prop := free → Occurs (.submissionEntryTake p) s fun t => taken o 0 t ∧ t.launches = s.launches
      let read := v.readIn p c q.sqSnap va 4 []
      let none_ (o : Nat) : Prop := free → Happens (.submissionEntryTake p) s fun t => taken o 0 t ∧ t.launches = s.launches
      (d.live = true → d.sqEn = false ∨ gap ≤ 2 ^ (d.sqOrder.toNat % 16) → Occurs (.sqTail p tail) s fun t =>
          t = s.modPart p fun q => { q with sqTail := tail.toNat, sqSnap := s.hSys })
        ∧ (d.live = true → d.sqEn = true → 2 ^ (d.sqOrder.toNat % 16) < gap → Occurs (.sqTail p tail) s fun t => (t.part p).sqEn = false
          ∧ (t.part p).sqTail = d.sqTail ∧ .irq (p + 1) 2 ∈ t.out)
        ∧ (d.live = true → Occurs (.sqEn p on) s fun t => t = s.modPart p fun q => { q with sqEn := on })
        ∧ (next_ → v.poisoned pa 64 = true → free → Occurs (.submissionEntryTake p) s fun t => taken 3 0 t ∧ consumed t ∧ t.launches = s.launches)
        ∧ (next_ → v.poisoned pa 64 = false → State.entryBad e = true → bad 5)
        ∧ (next_ → v.poisoned pa 64 = false → State.entryBad e = false → State.outOfRange q.ctxRange c = true → bad 4)
        ∧ (next_ → v.poisoned pa 64 = false → State.entryBad e = false → State.outOfRange q.ctxRange c = false →
          (va % 64 ≠ 0 → none_ 2) ∧ (va % 64 = 0 → q.sqRefused = true → none_ 3)
          ∧ (va % 64 = 0 → q.sqRefused = false → read = .unreadable → none_ 3)
          ∧ (va % 64 = 0 → q.sqRefused = false → read = .wait → Happens (.submissionEntryTake p) s fun t => t = v)
          ∧ (∀ a, va % 64 = 0 → q.sqRefused = false → read = .poisoned a → free → Happens (.submissionEntryTake p) s fun t =>
            taken 3 0 t ∧ consumed t ∧ t.launches = s.launches)
          ∧ (∀ a, va % 64 = 0 → q.sqRefused = false → read = .page a → Happens (.submissionEntryTake p) s fun t =>
            t = v.modPart p fun q => { q with sqFault := some (BitVec.ofNat 56 a, none) })
          ∧ ∀ bs, va % 64 = 0 → q.sqRefused = false → read = .got bs →
            let pn := v.partOfCtx c
            let L : Launch := { Launch.absent with record := dwords 32 bs, part := pn, ctx := c }
            let ident := (v.part pn).nextLaunch % 2 ^ 32
            (recordBad (v.part pn) L = true → none_ 2)
            ∧ (recordBad (v.part pn) L = false → 64 ≤ v.queueLen pn L.prio → none_ 1)
            ∧ (recordBad (v.part pn) L = false → v.queueLen pn L.prio < 64 → free → Happens (.submissionEntryTake p) s fun t =>
              taken 0 ident t ∧ ∃ k, sget t.launches v.names.launch = some k ∧ k.record = L.record ∧ k.part = pn ∧ k.ctx = c ∧ k.st = .queued
                ∧ k.ident = ident ∧ k.snapIssuer = q.sqSnap ∧ (k.notify = if dfld (e.getD 1 0) 17 1 = 1 then some pa else none)))
        ∧ (q.live = false ∨ q.sqEn = false ∨ q.sqHead % 2 ^ 32 = q.sqTail % 2 ^ 32 ∨ q.sqFault ≠ none ∨ (∃ w ∈ q.sqWords, w.2.1 = true) →
          exec (.submissionEntryTake p) s = .next v)
        ∧ (s.mailLive = false → exec (.fjondanMailbox off bytes) s = .next s)
        ∧ (s.mailLive = true → off < 4096 →
          exec (.hostWrite 0 (bar0Base + 0x1000 + off) (bytes.map some)) s = exec (.fjondanMailbox off bytes) s)
        ∧ (s.mailLive = true → off + bytes.length ≤ 4096 → Occurs (.fjondanMailbox off bytes) s fun t =>
          (∀ i < bytes.length, sgetD t.dev.mailbox (off + i) 0 = bytes.getD i 0)
            ∧ (∀ k, ¬(off ≤ k ∧ k < off + bytes.length) → sgetD t.dev.mailbox k 0 = sgetD s.dev.mailbox k 0) ∧ SameRegs s t ∧ SameBytes s t))
    ∧ ∀ (s : State) (p : Nat),
      let closed (t : State) (k : Nat) : Prop := (s.part k).live = true → (t.part k).sqEn = false ∧ (t.part k).bar2 = false
        ∧ (t.part k).msix = [] ∧ (t.part k).sqBase = 0 ∧ (t.part k).sqHead = 0 ∧ (t.part k).sqTail = 0 ∧ (t.part k).live = true
      Occurs (.vfFunctionLevelReset p) s (fun t => closed t p ∧ ∀ k, k ≠ p → t.part k = s.part k)
        ∧ Occurs .pf0FunctionLevelReset s (fun t => t = { s with dev := { s.dev with mailbox := [], msix := [] } })
        ∧ Occurs .conventionalReset s fun t => (∀ k, closed t k) ∧ t.dev.mailbox = [] ∧ t.dev.msix = [] ∧ t.dev.config = [] ∧ SameRegs s t ∧ SameBytes s t
end

