-- ==== Sys2Proof/Laws/Stores.lean ====
section
/-! SUPPORT. Laws of sparse stores and of byte memory: reading after writing, and the canonical form. -/

namespace Sys2Proof.Machine

variable {α : Type}

/-! ### Reading after writing -/

@[simp] theorem sget_nil (k : Nat) : sget ([] : Store α) k = none := rfl

theorem sget_cons (a : Nat) (v : α) (m : Store α) (k : Nat) :
    sget ((a, v) :: m) k = if a = k then some v else sget m k := rfl

/-- A store reads back what was put at a key and is unchanged at every other. -/
theorem sget_sput (m : Store α) (k j : Nat) (x : α) :
    sget (sput m k x) j = if j = k then some x else sget m j := by
  induction m with
  | nil => simp [sput, sget, eq_comm]
  | cons p m ih =>
    obtain ⟨a, v⟩ := p
    simp only [sput]
    split
    · simp only [sget_cons, eq_comm]
    · split
      · subst_vars; simp only [sget_cons, eq_comm]; split <;> rfl
      · simp only [sget_cons, ih]
        split
        · subst_vars; rw [if_neg]; rintro rfl; contradiction
        · rfl

theorem sget_sdel (m : Store α) (k j : Nat) : sget (sdel m k) j = if j = k then none else sget m j := by
  induction m with
  | nil => simp [sdel]
  | cons p m ih =>
    obtain ⟨a, v⟩ := p
    by_cases h : a = k
    · subst h
      have : sdel ((a, v) :: m) a = sdel m a := by simp [sdel]
      rw [this, ih, sget_cons]
      split
      · rfl
      · rw [if_neg]; rintro rfl; contradiction
    · have : sdel ((a, v) :: m) k = (a, v) :: sdel m k := by simp [sdel, h]
      rw [this, sget_cons, sget_cons, ih]
      split
      · subst_vars; simp [h]
      · rfl

@[simp] theorem sgetD_sput (m : Store α) (k j : Nat) (x d : α) :
    sgetD (sput m k x) j d = if j = k then x else sgetD m j d := by
  simp only [sgetD, sget_sput]; split <;> simp

@[simp] theorem sgetD_sputD [DecidableEq α] (d : α) (m : Store α) (k j : Nat) (x : α) :
    sgetD (sputD d m k x) j d = if j = k then x else sgetD m j d := by
  by_cases h : x = d
  · simp only [sputD, h, if_true, sgetD, sget_sdel]; split <;> simp
  · simp only [sputD, h, if_false, sgetD, sget_sput]; split <;> simp

theorem sget_smod (m : Store α) (k j : Nat) (f : α → α) :
    sget (smod m k f) j = if j = k then (sget m j).map f else sget m j := by
  induction m with
  | nil => simp [smod]
  | cons p m ih =>
    obtain ⟨a, v⟩ := p
    have : smod ((a, v) :: m) k f = (a, if a = k then f v else v) :: smod m k f := by
      simp only [smod, List.map_cons]; split <;> rfl
    rw [this, sget_cons, sget_cons, ih]
    by_cases h : a = j
    · subst h; simp only [if_true]; split <;> simp_all
    · simp only [h, if_false]

/-! ### Rising keys -/

theorem Rising.nil : Rising ([] : Store α) := List.Pairwise.nil

theorem mem_sput (m : Store α) (k : Nat) (x : α) (p : Nat × α) (h : p ∈ sput m k x) : p = (k, x) ∨ p ∈ m := by
  induction m with
  | nil => simp_all [sput]
  | cons q m ih =>
    obtain ⟨a, v⟩ := q
    simp only [sput] at h
    split at h
    · simpa using h
    · split at h
      · simp only [List.mem_cons] at h ⊢; tauto
      · simp only [List.mem_cons] at h ⊢; tauto

theorem Rising.sput (m : Store α) (k : Nat) (x : α) (h : Rising m) : Rising (sput m k x) := by
  induction m with
  | nil => simp [Machine.sput, Rising]
  | cons q m ih =>
    obtain ⟨a, v⟩ := q
    obtain ⟨h1, h2⟩ := List.pairwise_cons.mp h
    simp only [Machine.sput]
    split
    · refine List.pairwise_cons.mpr ⟨?_, h⟩
      intro p hp
      rcases List.mem_cons.mp hp with rfl | hp
      · assumption
      · have := h1 p hp; simp only at this ⊢; omega
    · split
      · subst_vars; exact List.pairwise_cons.mpr ⟨h1, h2⟩
      · refine List.pairwise_cons.mpr ⟨?_, ih h2⟩
        intro p hp
        rcases mem_sput _ _ _ _ hp with rfl | hp
        · simp only; omega
        · exact h1 p hp

theorem Rising.sdel (m : Store α) (k : Nat) (h : Rising m) : Rising (sdel m k) := List.Pairwise.filter _ h

theorem Rising.sputD [DecidableEq α] (d : α) (m : Store α) (k : Nat) (x : α) (h : Rising m) :
    Rising (sputD d m k x) := by
  unfold Machine.sputD; split
  · exact Rising.sdel m k h
  · exact Rising.sput m k x h

/-! ### Byte memory -/

theorem Memory.wf_nil : Memory.wf [] := ⟨Rising.nil, by simp⟩

/-- A byte write reads back, and changes no other byte. -/
@[simp] theorem mread_mwrite (m : Memory) (a b : Nat) (x : Byte) :
    mread (mwrite m a x) b = if b = a then x else mread m b := by simp [mread, mwrite]

/-- A byte write keeps the canonical form. -/
theorem Memory.wf_mwrite (m : Memory) (a : Nat) (x : Byte) (h : Memory.wf m) : Memory.wf (mwrite m a x) := by
  refine ⟨Rising.sputD _ _ _ _ h.1, fun p hp => ?_⟩
  unfold mwrite sputD at hp
  split at hp
  · exact h.2 p (List.mem_of_mem_filter hp)
  · rcases mem_sput _ _ _ _ hp with rfl | hp
    · assumption
    · exact h.2 p hp

/-- Writing bytes keeps the canonical form. -/
theorem Memory.wf_mwrites (m : Memory) (a : Nat) (bs : List Byte) (h : Memory.wf m) : Memory.wf (mwrites m a bs) := by
  induction bs generalizing m a with
  | nil => exact h
  | cons b bs ih => exact ih _ _ (Memory.wf_mwrite _ _ _ h)

/-- Writing a list of (address, byte) pairs keeps the canonical form. -/
theorem Memory.wf_writeAll {β : Type} (f : β → Nat) (g : β → Byte) (l : List β) (m : Memory) (h : Memory.wf m) :
    Memory.wf (l.foldl (fun m p => mwrite m (f p) (g p)) m) := by
  induction l generalizing m with
  | nil => exact h
  | cons p l ih => exact ih _ (Memory.wf_mwrite _ _ _ h)

/-- Bytes written from an address read back, and no other byte changes. -/
theorem mread_mwrites (m : Memory) (a b : Nat) (bs : List Byte) :
    mread (mwrites m a bs) b = if a ≤ b ∧ b < a + bs.length then bs.getD (b - a) 0 else mread m b := by
  induction bs generalizing m a with
  | nil => rw [mwrites, if_neg (by simp)]
  | cons x bs ih =>
    rw [mwrites, ih, mread_mwrite, List.length_cons]
    by_cases h : a ≤ b ∧ b < a + (bs.length + 1)
    · rw [if_pos h]
      by_cases e : b = a
      · subst e; rw [if_neg (by omega), if_pos rfl]; simp
      · rw [if_pos (by omega)]
        obtain ⟨n, rfl⟩ : ∃ n, b = a + 1 + n := ⟨b - a - 1, by omega⟩
        rw [show a + 1 + n - a = n + 1 by omega, show a + 1 + n - (a + 1) = n by omega]; rfl
    · rw [if_neg h, if_neg (by omega), if_neg (by omega)]

/-- Two canonical memories that read alike are equal data. -/
theorem Memory.ext_of_reads (m n : Memory) (hm : Memory.wf m) (hn : Memory.wf n) (h : ∀ a, mread m a = mread n a) :
    m = n := by
  have below : ∀ (l : Memory) (k : Nat), (∀ p ∈ l, k < p.1) → mread l k = 0 := by
    intro l k hl
    induction l with
    | nil => rfl
    | cons p l ih =>
      have := hl p (by simp)
      rw [mread, sgetD, sget_cons, if_neg (by omega)]
      exact ih fun q hq => hl q (by simp [hq])
  induction m generalizing n with
  | nil =>
    cases n with
    | nil => rfl
    | cons q n =>
      have e := h q.1
      rw [mread, mread, sgetD, sgetD, sget_cons, if_pos rfl] at e
      exact absurd e.symm (hn.2 q (by simp))
  | cons p m ih =>
    cases n with
    | nil =>
      have e := h p.1
      rw [mread, mread, sgetD, sgetD, sget_cons, if_pos rfl] at e
      exact absurd e (hm.2 p (by simp))
    | cons q n =>
      obtain ⟨a, x⟩ := p
      obtain ⟨b, y⟩ := q
      obtain ⟨m1, m2⟩ := List.pairwise_cons.mp hm.1
      obtain ⟨n1, n2⟩ := List.pairwise_cons.mp hn.1
      have hx : x ≠ 0 := hm.2 (a, x) (by simp)
      have hy : y ≠ 0 := hn.2 (b, y) (by simp)
      have rd : ∀ (l : Memory) (c k : Nat) (z : Byte), mread ((c, z) :: l) k = if c = k then z else mread l k := by
        intro l c k z; simp only [mread, sgetD, sget_cons]; split <;> rfl
      have ab : a = b := by
        rcases Nat.lt_trichotomy a b with c | c | c
        · have e := h a
          rw [rd, rd, if_pos rfl, if_neg (by omega), below n a fun p hp => by have := n1 p hp; simp only at this; omega] at e
          exact absurd e hx
        · exact c
        · have e := h b
          rw [rd, rd, if_pos rfl, if_neg (by omega), below m b fun p hp => by have := m1 p hp; simp only at this; omega] at e
          exact absurd e.symm hy
      subst ab
      have xy : x = y := by have e := h a; rwa [rd, rd, if_pos rfl, if_pos rfl] at e
      subst xy
      congr 1
      refine ih n ⟨m2, fun p hp => hm.2 p (by simp [hp])⟩ ⟨n2, fun p hp => hn.2 p (by simp [hp])⟩ fun k => ?_
      by_cases e : a = k
      · subst e
        rw [below m a fun p hp => m1 p hp, below n a fun p hp => n1 p hp]
      · have := h k; rwa [rd, rd, if_neg e, if_neg e] at this

end Sys2Proof.Machine
end

