-- ==== Sys2Proof/Laws/State.lean ====
section
/-! SUPPORT. What each update of the state leaves alone, field by field, and how records and registers read back. -/

namespace Sys2Proof.Machine
namespace State

/-! ### modSlice -/

@[simp] theorem modSlice_vreg (s : State) (g i : Nat) (f : Slice → Slice) : (s.modSlice g i f).vreg = s.vreg := rfl
@[simp] theorem modSlice_sreg (s : State) (g i : Nat) (f : Slice → Slice) : (s.modSlice g i f).sreg = s.sreg := rfl
@[simp] theorem modSlice_kreg (s : State) (g i : Nat) (f : Slice → Slice) : (s.modSlice g i f).kreg = s.kreg := rfl
@[simp] theorem modSlice_groups (s : State) (g i : Nat) (f : Slice → Slice) : (s.modSlice g i f).groups = s.groups := rfl
@[simp] theorem modSlice_teams (s : State) (g i : Nat) (f : Slice → Slice) : (s.modSlice g i f).teams = s.teams := rfl
@[simp] theorem modSlice_cores (s : State) (g i : Nat) (f : Slice → Slice) : (s.modSlice g i f).cores = s.cores := rfl
@[simp] theorem modSlice_seqrs (s : State) (g i : Nat) (f : Slice → Slice) : (s.modSlice g i f).seqrs = s.seqrs := rfl
@[simp] theorem modSlice_mreg (s : State) (g i : Nat) (f : Slice → Slice) : (s.modSlice g i f).mreg = s.mreg := rfl
@[simp] theorem modSlice_scratch (s : State) (g i : Nat) (f : Slice → Slice) : (s.modSlice g i f).scratch = s.scratch := rfl
@[simp] theorem modSlice_tiles (s : State) (g i : Nat) (f : Slice → Slice) : (s.modSlice g i f).tiles = s.tiles := rfl
@[simp] theorem modSlice_mem (s : State) (g i : Nat) (f : Slice → Slice) : (s.modSlice g i f).mem = s.mem := rfl
@[simp] theorem modSlice_packets (s : State) (g i : Nat) (f : Slice → Slice) : (s.modSlice g i f).packets = s.packets := rfl
@[simp] theorem modSlice_clock (s : State) (g i : Nat) (f : Slice → Slice) : (s.modSlice g i f).clock = s.clock := rfl
@[simp] theorem modSlice_names (s : State) (g i : Nat) (f : Slice → Slice) : (s.modSlice g i f).names = s.names := rfl
@[simp] theorem modSlice_cur (s : State) (g i : Nat) (f : Slice → Slice) : (s.modSlice g i f).cur = s.cur := rfl
@[simp] theorem modSlice_dev (s : State) (g i : Nat) (f : Slice → Slice) : (s.modSlice g i f).dev = s.dev := rfl
@[simp] theorem modSlice_free (s : State) (g i : Nat) (f : Slice → Slice) : (s.modSlice g i f).free = s.free := rfl

/-! ### modGroup -/

@[simp] theorem modGroup_vreg (s : State) (g : Nat) (f : Group → Group) : (s.modGroup g f).vreg = s.vreg := rfl
@[simp] theorem modGroup_sreg (s : State) (g : Nat) (f : Group → Group) : (s.modGroup g f).sreg = s.sreg := rfl
@[simp] theorem modGroup_kreg (s : State) (g : Nat) (f : Group → Group) : (s.modGroup g f).kreg = s.kreg := rfl
@[simp] theorem modGroup_slices (s : State) (g : Nat) (f : Group → Group) : (s.modGroup g f).slices = s.slices := rfl
@[simp] theorem modGroup_teams (s : State) (g : Nat) (f : Group → Group) : (s.modGroup g f).teams = s.teams := rfl
@[simp] theorem modGroup_cores (s : State) (g : Nat) (f : Group → Group) : (s.modGroup g f).cores = s.cores := rfl
@[simp] theorem modGroup_seqrs (s : State) (g : Nat) (f : Group → Group) : (s.modGroup g f).seqrs = s.seqrs := rfl
@[simp] theorem modGroup_mreg (s : State) (g : Nat) (f : Group → Group) : (s.modGroup g f).mreg = s.mreg := rfl
@[simp] theorem modGroup_scratch (s : State) (g : Nat) (f : Group → Group) : (s.modGroup g f).scratch = s.scratch := rfl
@[simp] theorem modGroup_tiles (s : State) (g : Nat) (f : Group → Group) : (s.modGroup g f).tiles = s.tiles := rfl
@[simp] theorem modGroup_mem (s : State) (g : Nat) (f : Group → Group) : (s.modGroup g f).mem = s.mem := rfl
@[simp] theorem modGroup_packets (s : State) (g : Nat) (f : Group → Group) : (s.modGroup g f).packets = s.packets := rfl
@[simp] theorem modGroup_clock (s : State) (g : Nat) (f : Group → Group) : (s.modGroup g f).clock = s.clock := rfl
@[simp] theorem modGroup_names (s : State) (g : Nat) (f : Group → Group) : (s.modGroup g f).names = s.names := rfl
@[simp] theorem modGroup_cur (s : State) (g : Nat) (f : Group → Group) : (s.modGroup g f).cur = s.cur := rfl
@[simp] theorem modGroup_dev (s : State) (g : Nat) (f : Group → Group) : (s.modGroup g f).dev = s.dev := rfl
@[simp] theorem modGroup_free (s : State) (g : Nat) (f : Group → Group) : (s.modGroup g f).free = s.free := rfl

/-! ### modTeam -/

@[simp] theorem modTeam_vreg (s : State) (t : Nat) (f : Team → Team) : (s.modTeam t f).vreg = s.vreg := rfl
@[simp] theorem modTeam_sreg (s : State) (t : Nat) (f : Team → Team) : (s.modTeam t f).sreg = s.sreg := rfl
@[simp] theorem modTeam_kreg (s : State) (t : Nat) (f : Team → Team) : (s.modTeam t f).kreg = s.kreg := rfl
@[simp] theorem modTeam_slices (s : State) (t : Nat) (f : Team → Team) : (s.modTeam t f).slices = s.slices := rfl
@[simp] theorem modTeam_groups (s : State) (t : Nat) (f : Team → Team) : (s.modTeam t f).groups = s.groups := rfl
@[simp] theorem modTeam_cores (s : State) (t : Nat) (f : Team → Team) : (s.modTeam t f).cores = s.cores := rfl
@[simp] theorem modTeam_seqrs (s : State) (t : Nat) (f : Team → Team) : (s.modTeam t f).seqrs = s.seqrs := rfl
@[simp] theorem modTeam_mreg (s : State) (t : Nat) (f : Team → Team) : (s.modTeam t f).mreg = s.mreg := rfl
@[simp] theorem modTeam_scratch (s : State) (t : Nat) (f : Team → Team) : (s.modTeam t f).scratch = s.scratch := rfl
@[simp] theorem modTeam_tiles (s : State) (t : Nat) (f : Team → Team) : (s.modTeam t f).tiles = s.tiles := rfl
@[simp] theorem modTeam_mem (s : State) (t : Nat) (f : Team → Team) : (s.modTeam t f).mem = s.mem := rfl
@[simp] theorem modTeam_packets (s : State) (t : Nat) (f : Team → Team) : (s.modTeam t f).packets = s.packets := rfl
@[simp] theorem modTeam_clock (s : State) (t : Nat) (f : Team → Team) : (s.modTeam t f).clock = s.clock := rfl
@[simp] theorem modTeam_names (s : State) (t : Nat) (f : Team → Team) : (s.modTeam t f).names = s.names := rfl
@[simp] theorem modTeam_cur (s : State) (t : Nat) (f : Team → Team) : (s.modTeam t f).cur = s.cur := rfl
@[simp] theorem modTeam_dev (s : State) (t : Nat) (f : Team → Team) : (s.modTeam t f).dev = s.dev := rfl
@[simp] theorem modTeam_free (s : State) (t : Nat) (f : Team → Team) : (s.modTeam t f).free = s.free := rfl

/-! ### modCore -/

@[simp] theorem modCore_vreg (s : State) (c : Nat) (f : Core → Core) : (s.modCore c f).vreg = s.vreg := rfl
@[simp] theorem modCore_sreg (s : State) (c : Nat) (f : Core → Core) : (s.modCore c f).sreg = s.sreg := rfl
@[simp] theorem modCore_kreg (s : State) (c : Nat) (f : Core → Core) : (s.modCore c f).kreg = s.kreg := rfl
@[simp] theorem modCore_slices (s : State) (c : Nat) (f : Core → Core) : (s.modCore c f).slices = s.slices := rfl
@[simp] theorem modCore_groups (s : State) (c : Nat) (f : Core → Core) : (s.modCore c f).groups = s.groups := rfl
@[simp] theorem modCore_teams (s : State) (c : Nat) (f : Core → Core) : (s.modCore c f).teams = s.teams := rfl
@[simp] theorem modCore_seqrs (s : State) (c : Nat) (f : Core → Core) : (s.modCore c f).seqrs = s.seqrs := rfl
@[simp] theorem modCore_mreg (s : State) (c : Nat) (f : Core → Core) : (s.modCore c f).mreg = s.mreg := rfl
@[simp] theorem modCore_scratch (s : State) (c : Nat) (f : Core → Core) : (s.modCore c f).scratch = s.scratch := rfl
@[simp] theorem modCore_tiles (s : State) (c : Nat) (f : Core → Core) : (s.modCore c f).tiles = s.tiles := rfl
@[simp] theorem modCore_mem (s : State) (c : Nat) (f : Core → Core) : (s.modCore c f).mem = s.mem := rfl
@[simp] theorem modCore_packets (s : State) (c : Nat) (f : Core → Core) : (s.modCore c f).packets = s.packets := rfl
@[simp] theorem modCore_clock (s : State) (c : Nat) (f : Core → Core) : (s.modCore c f).clock = s.clock := rfl
@[simp] theorem modCore_names (s : State) (c : Nat) (f : Core → Core) : (s.modCore c f).names = s.names := rfl
@[simp] theorem modCore_cur (s : State) (c : Nat) (f : Core → Core) : (s.modCore c f).cur = s.cur := rfl
@[simp] theorem modCore_dev (s : State) (c : Nat) (f : Core → Core) : (s.modCore c f).dev = s.dev := rfl
@[simp] theorem modCore_free (s : State) (c : Nat) (f : Core → Core) : (s.modCore c f).free = s.free := rfl

/-! ### modPart -/

@[simp] theorem modPart_vreg (s : State) (p : Nat) (f : Part → Part) : (s.modPart p f).vreg = s.vreg := rfl
@[simp] theorem modPart_sreg (s : State) (p : Nat) (f : Part → Part) : (s.modPart p f).sreg = s.sreg := rfl
@[simp] theorem modPart_kreg (s : State) (p : Nat) (f : Part → Part) : (s.modPart p f).kreg = s.kreg := rfl
@[simp] theorem modPart_slices (s : State) (p : Nat) (f : Part → Part) : (s.modPart p f).slices = s.slices := rfl
@[simp] theorem modPart_groups (s : State) (p : Nat) (f : Part → Part) : (s.modPart p f).groups = s.groups := rfl
@[simp] theorem modPart_teams (s : State) (p : Nat) (f : Part → Part) : (s.modPart p f).teams = s.teams := rfl
@[simp] theorem modPart_cores (s : State) (p : Nat) (f : Part → Part) : (s.modPart p f).cores = s.cores := rfl
@[simp] theorem modPart_seqrs (s : State) (p : Nat) (f : Part → Part) : (s.modPart p f).seqrs = s.seqrs := rfl
@[simp] theorem modPart_mreg (s : State) (p : Nat) (f : Part → Part) : (s.modPart p f).mreg = s.mreg := rfl
@[simp] theorem modPart_scratch (s : State) (p : Nat) (f : Part → Part) : (s.modPart p f).scratch = s.scratch := rfl
@[simp] theorem modPart_tiles (s : State) (p : Nat) (f : Part → Part) : (s.modPart p f).tiles = s.tiles := rfl
@[simp] theorem modPart_mem (s : State) (p : Nat) (f : Part → Part) : (s.modPart p f).mem = s.mem := rfl
@[simp] theorem modPart_packets (s : State) (p : Nat) (f : Part → Part) : (s.modPart p f).packets = s.packets := rfl
@[simp] theorem modPart_clock (s : State) (p : Nat) (f : Part → Part) : (s.modPart p f).clock = s.clock := rfl
@[simp] theorem modPart_names (s : State) (p : Nat) (f : Part → Part) : (s.modPart p f).names = s.names := rfl
@[simp] theorem modPart_cur (s : State) (p : Nat) (f : Part → Part) : (s.modPart p f).cur = s.cur := rfl
@[simp] theorem modPart_dev (s : State) (p : Nat) (f : Part → Part) : (s.modPart p f).dev = s.dev := rfl
@[simp] theorem modPart_free (s : State) (p : Nat) (f : Part → Part) : (s.modPart p f).free = s.free := rfl

/-! ### modCtx -/

@[simp] theorem modCtx_vreg (s : State) (c : Nat) (f : Context → Context) : (s.modCtx c f).vreg = s.vreg := rfl
@[simp] theorem modCtx_sreg (s : State) (c : Nat) (f : Context → Context) : (s.modCtx c f).sreg = s.sreg := rfl
@[simp] theorem modCtx_kreg (s : State) (c : Nat) (f : Context → Context) : (s.modCtx c f).kreg = s.kreg := rfl
@[simp] theorem modCtx_slices (s : State) (c : Nat) (f : Context → Context) : (s.modCtx c f).slices = s.slices := rfl
@[simp] theorem modCtx_groups (s : State) (c : Nat) (f : Context → Context) : (s.modCtx c f).groups = s.groups := rfl
@[simp] theorem modCtx_teams (s : State) (c : Nat) (f : Context → Context) : (s.modCtx c f).teams = s.teams := rfl
@[simp] theorem modCtx_cores (s : State) (c : Nat) (f : Context → Context) : (s.modCtx c f).cores = s.cores := rfl
@[simp] theorem modCtx_seqrs (s : State) (c : Nat) (f : Context → Context) : (s.modCtx c f).seqrs = s.seqrs := rfl
@[simp] theorem modCtx_mreg (s : State) (c : Nat) (f : Context → Context) : (s.modCtx c f).mreg = s.mreg := rfl
@[simp] theorem modCtx_scratch (s : State) (c : Nat) (f : Context → Context) : (s.modCtx c f).scratch = s.scratch := rfl
@[simp] theorem modCtx_tiles (s : State) (c : Nat) (f : Context → Context) : (s.modCtx c f).tiles = s.tiles := rfl
@[simp] theorem modCtx_mem (s : State) (c : Nat) (f : Context → Context) : (s.modCtx c f).mem = s.mem := rfl
@[simp] theorem modCtx_packets (s : State) (c : Nat) (f : Context → Context) : (s.modCtx c f).packets = s.packets := rfl
@[simp] theorem modCtx_clock (s : State) (c : Nat) (f : Context → Context) : (s.modCtx c f).clock = s.clock := rfl
@[simp] theorem modCtx_names (s : State) (c : Nat) (f : Context → Context) : (s.modCtx c f).names = s.names := rfl
@[simp] theorem modCtx_cur (s : State) (c : Nat) (f : Context → Context) : (s.modCtx c f).cur = s.cur := rfl
@[simp] theorem modCtx_dev (s : State) (c : Nat) (f : Context → Context) : (s.modCtx c f).dev = s.dev := rfl
@[simp] theorem modCtx_free (s : State) (c : Nat) (f : Context → Context) : (s.modCtx c f).free = s.free := rfl

/-! ### modLaunch -/

@[simp] theorem modLaunch_vreg (s : State) (l : Nat) (f : Launch → Launch) : (s.modLaunch l f).vreg = s.vreg := rfl
@[simp] theorem modLaunch_sreg (s : State) (l : Nat) (f : Launch → Launch) : (s.modLaunch l f).sreg = s.sreg := rfl
@[simp] theorem modLaunch_kreg (s : State) (l : Nat) (f : Launch → Launch) : (s.modLaunch l f).kreg = s.kreg := rfl
@[simp] theorem modLaunch_slices (s : State) (l : Nat) (f : Launch → Launch) : (s.modLaunch l f).slices = s.slices := rfl
@[simp] theorem modLaunch_groups (s : State) (l : Nat) (f : Launch → Launch) : (s.modLaunch l f).groups = s.groups := rfl
@[simp] theorem modLaunch_teams (s : State) (l : Nat) (f : Launch → Launch) : (s.modLaunch l f).teams = s.teams := rfl
@[simp] theorem modLaunch_cores (s : State) (l : Nat) (f : Launch → Launch) : (s.modLaunch l f).cores = s.cores := rfl
@[simp] theorem modLaunch_seqrs (s : State) (l : Nat) (f : Launch → Launch) : (s.modLaunch l f).seqrs = s.seqrs := rfl
@[simp] theorem modLaunch_mreg (s : State) (l : Nat) (f : Launch → Launch) : (s.modLaunch l f).mreg = s.mreg := rfl
@[simp] theorem modLaunch_scratch (s : State) (l : Nat) (f : Launch → Launch) : (s.modLaunch l f).scratch = s.scratch := rfl
@[simp] theorem modLaunch_tiles (s : State) (l : Nat) (f : Launch → Launch) : (s.modLaunch l f).tiles = s.tiles := rfl
@[simp] theorem modLaunch_mem (s : State) (l : Nat) (f : Launch → Launch) : (s.modLaunch l f).mem = s.mem := rfl
@[simp] theorem modLaunch_packets (s : State) (l : Nat) (f : Launch → Launch) : (s.modLaunch l f).packets = s.packets := rfl
@[simp] theorem modLaunch_clock (s : State) (l : Nat) (f : Launch → Launch) : (s.modLaunch l f).clock = s.clock := rfl
@[simp] theorem modLaunch_names (s : State) (l : Nat) (f : Launch → Launch) : (s.modLaunch l f).names = s.names := rfl
@[simp] theorem modLaunch_cur (s : State) (l : Nat) (f : Launch → Launch) : (s.modLaunch l f).cur = s.cur := rfl
@[simp] theorem modLaunch_dev (s : State) (l : Nat) (f : Launch → Launch) : (s.modLaunch l f).dev = s.dev := rfl
@[simp] theorem modLaunch_free (s : State) (l : Nat) (f : Launch → Launch) : (s.modLaunch l f).free = s.free := rfl

/-! ### modCluster -/

@[simp] theorem modCluster_vreg (s : State) (c : Nat) (f : Cluster → Cluster) : (s.modCluster c f).vreg = s.vreg := rfl
@[simp] theorem modCluster_sreg (s : State) (c : Nat) (f : Cluster → Cluster) : (s.modCluster c f).sreg = s.sreg := rfl
@[simp] theorem modCluster_kreg (s : State) (c : Nat) (f : Cluster → Cluster) : (s.modCluster c f).kreg = s.kreg := rfl
@[simp] theorem modCluster_slices (s : State) (c : Nat) (f : Cluster → Cluster) : (s.modCluster c f).slices = s.slices := rfl
@[simp] theorem modCluster_groups (s : State) (c : Nat) (f : Cluster → Cluster) : (s.modCluster c f).groups = s.groups := rfl
@[simp] theorem modCluster_teams (s : State) (c : Nat) (f : Cluster → Cluster) : (s.modCluster c f).teams = s.teams := rfl
@[simp] theorem modCluster_cores (s : State) (c : Nat) (f : Cluster → Cluster) : (s.modCluster c f).cores = s.cores := rfl
@[simp] theorem modCluster_seqrs (s : State) (c : Nat) (f : Cluster → Cluster) : (s.modCluster c f).seqrs = s.seqrs := rfl
@[simp] theorem modCluster_mreg (s : State) (c : Nat) (f : Cluster → Cluster) : (s.modCluster c f).mreg = s.mreg := rfl
@[simp] theorem modCluster_scratch (s : State) (c : Nat) (f : Cluster → Cluster) : (s.modCluster c f).scratch = s.scratch := rfl
@[simp] theorem modCluster_tiles (s : State) (c : Nat) (f : Cluster → Cluster) : (s.modCluster c f).tiles = s.tiles := rfl
@[simp] theorem modCluster_mem (s : State) (c : Nat) (f : Cluster → Cluster) : (s.modCluster c f).mem = s.mem := rfl
@[simp] theorem modCluster_packets (s : State) (c : Nat) (f : Cluster → Cluster) : (s.modCluster c f).packets = s.packets := rfl
@[simp] theorem modCluster_clock (s : State) (c : Nat) (f : Cluster → Cluster) : (s.modCluster c f).clock = s.clock := rfl
@[simp] theorem modCluster_names (s : State) (c : Nat) (f : Cluster → Cluster) : (s.modCluster c f).names = s.names := rfl
@[simp] theorem modCluster_cur (s : State) (c : Nat) (f : Cluster → Cluster) : (s.modCluster c f).cur = s.cur := rfl
@[simp] theorem modCluster_dev (s : State) (c : Nat) (f : Cluster → Cluster) : (s.modCluster c f).dev = s.dev := rfl
@[simp] theorem modCluster_free (s : State) (c : Nat) (f : Cluster → Cluster) : (s.modCluster c f).free = s.free := rfl

/-! ### modSeqr -/

@[simp] theorem modSeqr_vreg (s : State) (q : Nat) (f : Seqr → Seqr) : (s.modSeqr q f).vreg = s.vreg := rfl
@[simp] theorem modSeqr_sreg (s : State) (q : Nat) (f : Seqr → Seqr) : (s.modSeqr q f).sreg = s.sreg := rfl
@[simp] theorem modSeqr_kreg (s : State) (q : Nat) (f : Seqr → Seqr) : (s.modSeqr q f).kreg = s.kreg := rfl
@[simp] theorem modSeqr_slices (s : State) (q : Nat) (f : Seqr → Seqr) : (s.modSeqr q f).slices = s.slices := rfl
@[simp] theorem modSeqr_groups (s : State) (q : Nat) (f : Seqr → Seqr) : (s.modSeqr q f).groups = s.groups := rfl
@[simp] theorem modSeqr_teams (s : State) (q : Nat) (f : Seqr → Seqr) : (s.modSeqr q f).teams = s.teams := rfl
@[simp] theorem modSeqr_cores (s : State) (q : Nat) (f : Seqr → Seqr) : (s.modSeqr q f).cores = s.cores := rfl
@[simp] theorem modSeqr_mreg (s : State) (q : Nat) (f : Seqr → Seqr) : (s.modSeqr q f).mreg = s.mreg := rfl
@[simp] theorem modSeqr_scratch (s : State) (q : Nat) (f : Seqr → Seqr) : (s.modSeqr q f).scratch = s.scratch := rfl
@[simp] theorem modSeqr_tiles (s : State) (q : Nat) (f : Seqr → Seqr) : (s.modSeqr q f).tiles = s.tiles := rfl
@[simp] theorem modSeqr_mem (s : State) (q : Nat) (f : Seqr → Seqr) : (s.modSeqr q f).mem = s.mem := rfl
@[simp] theorem modSeqr_packets (s : State) (q : Nat) (f : Seqr → Seqr) : (s.modSeqr q f).packets = s.packets := rfl
@[simp] theorem modSeqr_clock (s : State) (q : Nat) (f : Seqr → Seqr) : (s.modSeqr q f).clock = s.clock := rfl
@[simp] theorem modSeqr_names (s : State) (q : Nat) (f : Seqr → Seqr) : (s.modSeqr q f).names = s.names := rfl
@[simp] theorem modSeqr_cur (s : State) (q : Nat) (f : Seqr → Seqr) : (s.modSeqr q f).cur = s.cur := rfl
@[simp] theorem modSeqr_dev (s : State) (q : Nat) (f : Seqr → Seqr) : (s.modSeqr q f).dev = s.dev := rfl
@[simp] theorem modSeqr_free (s : State) (q : Nat) (f : Seqr → Seqr) : (s.modSeqr q f).free = s.free := rfl

/-! ### modPark -/

@[simp] theorem modPark_vreg (s : State) (p k : Nat) (f : Park → Park) : (s.modPark p k f).vreg = s.vreg := rfl
@[simp] theorem modPark_sreg (s : State) (p k : Nat) (f : Park → Park) : (s.modPark p k f).sreg = s.sreg := rfl
@[simp] theorem modPark_kreg (s : State) (p k : Nat) (f : Park → Park) : (s.modPark p k f).kreg = s.kreg := rfl
@[simp] theorem modPark_slices (s : State) (p k : Nat) (f : Park → Park) : (s.modPark p k f).slices = s.slices := rfl
@[simp] theorem modPark_groups (s : State) (p k : Nat) (f : Park → Park) : (s.modPark p k f).groups = s.groups := rfl
@[simp] theorem modPark_teams (s : State) (p k : Nat) (f : Park → Park) : (s.modPark p k f).teams = s.teams := rfl
@[simp] theorem modPark_cores (s : State) (p k : Nat) (f : Park → Park) : (s.modPark p k f).cores = s.cores := rfl
@[simp] theorem modPark_seqrs (s : State) (p k : Nat) (f : Park → Park) : (s.modPark p k f).seqrs = s.seqrs := rfl
@[simp] theorem modPark_mreg (s : State) (p k : Nat) (f : Park → Park) : (s.modPark p k f).mreg = s.mreg := rfl
@[simp] theorem modPark_scratch (s : State) (p k : Nat) (f : Park → Park) : (s.modPark p k f).scratch = s.scratch := rfl
@[simp] theorem modPark_tiles (s : State) (p k : Nat) (f : Park → Park) : (s.modPark p k f).tiles = s.tiles := rfl
@[simp] theorem modPark_mem (s : State) (p k : Nat) (f : Park → Park) : (s.modPark p k f).mem = s.mem := rfl
@[simp] theorem modPark_packets (s : State) (p k : Nat) (f : Park → Park) : (s.modPark p k f).packets = s.packets := rfl
@[simp] theorem modPark_clock (s : State) (p k : Nat) (f : Park → Park) : (s.modPark p k f).clock = s.clock := rfl
@[simp] theorem modPark_names (s : State) (p k : Nat) (f : Park → Park) : (s.modPark p k f).names = s.names := rfl
@[simp] theorem modPark_cur (s : State) (p k : Nat) (f : Park → Park) : (s.modPark p k f).cur = s.cur := rfl
@[simp] theorem modPark_dev (s : State) (p k : Nat) (f : Park → Park) : (s.modPark p k f).dev = s.dev := rfl
@[simp] theorem modPark_free (s : State) (p k : Nat) (f : Park → Park) : (s.modPark p k f).free = s.free := rfl

/-! ### modDev -/

@[simp] theorem modDev_vreg (s : State) (f : Dev → Dev) : (s.modDev f).vreg = s.vreg := rfl
@[simp] theorem modDev_sreg (s : State) (f : Dev → Dev) : (s.modDev f).sreg = s.sreg := rfl
@[simp] theorem modDev_kreg (s : State) (f : Dev → Dev) : (s.modDev f).kreg = s.kreg := rfl
@[simp] theorem modDev_slices (s : State) (f : Dev → Dev) : (s.modDev f).slices = s.slices := rfl
@[simp] theorem modDev_groups (s : State) (f : Dev → Dev) : (s.modDev f).groups = s.groups := rfl
@[simp] theorem modDev_teams (s : State) (f : Dev → Dev) : (s.modDev f).teams = s.teams := rfl
@[simp] theorem modDev_cores (s : State) (f : Dev → Dev) : (s.modDev f).cores = s.cores := rfl
@[simp] theorem modDev_seqrs (s : State) (f : Dev → Dev) : (s.modDev f).seqrs = s.seqrs := rfl
@[simp] theorem modDev_mreg (s : State) (f : Dev → Dev) : (s.modDev f).mreg = s.mreg := rfl
@[simp] theorem modDev_scratch (s : State) (f : Dev → Dev) : (s.modDev f).scratch = s.scratch := rfl
@[simp] theorem modDev_tiles (s : State) (f : Dev → Dev) : (s.modDev f).tiles = s.tiles := rfl
@[simp] theorem modDev_mem (s : State) (f : Dev → Dev) : (s.modDev f).mem = s.mem := rfl
@[simp] theorem modDev_packets (s : State) (f : Dev → Dev) : (s.modDev f).packets = s.packets := rfl
@[simp] theorem modDev_clock (s : State) (f : Dev → Dev) : (s.modDev f).clock = s.clock := rfl
@[simp] theorem modDev_names (s : State) (f : Dev → Dev) : (s.modDev f).names = s.names := rfl
@[simp] theorem modDev_cur (s : State) (f : Dev → Dev) : (s.modDev f).cur = s.cur := rfl
@[simp] theorem modDev_free (s : State) (f : Dev → Dev) : (s.modDev f).free = s.free := rfl

/-! ### emit -/

@[simp] theorem emit_vreg (s : State) (o : Out) : (s.emit o).vreg = s.vreg := rfl
@[simp] theorem emit_sreg (s : State) (o : Out) : (s.emit o).sreg = s.sreg := rfl
@[simp] theorem emit_kreg (s : State) (o : Out) : (s.emit o).kreg = s.kreg := rfl
@[simp] theorem emit_slices (s : State) (o : Out) : (s.emit o).slices = s.slices := rfl
@[simp] theorem emit_groups (s : State) (o : Out) : (s.emit o).groups = s.groups := rfl
@[simp] theorem emit_teams (s : State) (o : Out) : (s.emit o).teams = s.teams := rfl
@[simp] theorem emit_cores (s : State) (o : Out) : (s.emit o).cores = s.cores := rfl
@[simp] theorem emit_seqrs (s : State) (o : Out) : (s.emit o).seqrs = s.seqrs := rfl
@[simp] theorem emit_mreg (s : State) (o : Out) : (s.emit o).mreg = s.mreg := rfl
@[simp] theorem emit_scratch (s : State) (o : Out) : (s.emit o).scratch = s.scratch := rfl
@[simp] theorem emit_tiles (s : State) (o : Out) : (s.emit o).tiles = s.tiles := rfl
@[simp] theorem emit_mem (s : State) (o : Out) : (s.emit o).mem = s.mem := rfl
@[simp] theorem emit_packets (s : State) (o : Out) : (s.emit o).packets = s.packets := rfl
@[simp] theorem emit_clock (s : State) (o : Out) : (s.emit o).clock = s.clock := rfl
@[simp] theorem emit_names (s : State) (o : Out) : (s.emit o).names = s.names := rfl
@[simp] theorem emit_cur (s : State) (o : Out) : (s.emit o).cur = s.cur := rfl
@[simp] theorem emit_dev (s : State) (o : Out) : (s.emit o).dev = s.dev := rfl
@[simp] theorem emit_free (s : State) (o : Out) : (s.emit o).free = s.free := rfl

/-! ### wrV -/

@[simp] theorem wrV_sreg (s : State) (g l n : Nat) (x : Word) : (s.wrV g l n x).sreg = s.sreg := rfl
@[simp] theorem wrV_kreg (s : State) (g l n : Nat) (x : Word) : (s.wrV g l n x).kreg = s.kreg := rfl
@[simp] theorem wrV_slices (s : State) (g l n : Nat) (x : Word) : (s.wrV g l n x).slices = s.slices := rfl
@[simp] theorem wrV_groups (s : State) (g l n : Nat) (x : Word) : (s.wrV g l n x).groups = s.groups := rfl
@[simp] theorem wrV_teams (s : State) (g l n : Nat) (x : Word) : (s.wrV g l n x).teams = s.teams := rfl
@[simp] theorem wrV_cores (s : State) (g l n : Nat) (x : Word) : (s.wrV g l n x).cores = s.cores := rfl
@[simp] theorem wrV_seqrs (s : State) (g l n : Nat) (x : Word) : (s.wrV g l n x).seqrs = s.seqrs := rfl
@[simp] theorem wrV_mreg (s : State) (g l n : Nat) (x : Word) : (s.wrV g l n x).mreg = s.mreg := rfl
@[simp] theorem wrV_scratch (s : State) (g l n : Nat) (x : Word) : (s.wrV g l n x).scratch = s.scratch := rfl
@[simp] theorem wrV_tiles (s : State) (g l n : Nat) (x : Word) : (s.wrV g l n x).tiles = s.tiles := rfl
@[simp] theorem wrV_mem (s : State) (g l n : Nat) (x : Word) : (s.wrV g l n x).mem = s.mem := rfl
@[simp] theorem wrV_packets (s : State) (g l n : Nat) (x : Word) : (s.wrV g l n x).packets = s.packets := rfl
@[simp] theorem wrV_clock (s : State) (g l n : Nat) (x : Word) : (s.wrV g l n x).clock = s.clock := rfl
@[simp] theorem wrV_names (s : State) (g l n : Nat) (x : Word) : (s.wrV g l n x).names = s.names := rfl
@[simp] theorem wrV_cur (s : State) (g l n : Nat) (x : Word) : (s.wrV g l n x).cur = s.cur := rfl
@[simp] theorem wrV_dev (s : State) (g l n : Nat) (x : Word) : (s.wrV g l n x).dev = s.dev := rfl
@[simp] theorem wrV_free (s : State) (g l n : Nat) (x : Word) : (s.wrV g l n x).free = s.free := rfl

/-! ### wrS -/

@[simp] theorem wrS_vreg (s : State) (g i n : Nat) (x : Word) : (s.wrS g i n x).vreg = s.vreg := rfl
@[simp] theorem wrS_kreg (s : State) (g i n : Nat) (x : Word) : (s.wrS g i n x).kreg = s.kreg := rfl
@[simp] theorem wrS_slices (s : State) (g i n : Nat) (x : Word) : (s.wrS g i n x).slices = s.slices := rfl
@[simp] theorem wrS_groups (s : State) (g i n : Nat) (x : Word) : (s.wrS g i n x).groups = s.groups := rfl
@[simp] theorem wrS_teams (s : State) (g i n : Nat) (x : Word) : (s.wrS g i n x).teams = s.teams := rfl
@[simp] theorem wrS_cores (s : State) (g i n : Nat) (x : Word) : (s.wrS g i n x).cores = s.cores := rfl
@[simp] theorem wrS_seqrs (s : State) (g i n : Nat) (x : Word) : (s.wrS g i n x).seqrs = s.seqrs := rfl
@[simp] theorem wrS_mreg (s : State) (g i n : Nat) (x : Word) : (s.wrS g i n x).mreg = s.mreg := rfl
@[simp] theorem wrS_scratch (s : State) (g i n : Nat) (x : Word) : (s.wrS g i n x).scratch = s.scratch := rfl
@[simp] theorem wrS_tiles (s : State) (g i n : Nat) (x : Word) : (s.wrS g i n x).tiles = s.tiles := rfl
@[simp] theorem wrS_mem (s : State) (g i n : Nat) (x : Word) : (s.wrS g i n x).mem = s.mem := rfl
@[simp] theorem wrS_packets (s : State) (g i n : Nat) (x : Word) : (s.wrS g i n x).packets = s.packets := rfl
@[simp] theorem wrS_clock (s : State) (g i n : Nat) (x : Word) : (s.wrS g i n x).clock = s.clock := rfl
@[simp] theorem wrS_names (s : State) (g i n : Nat) (x : Word) : (s.wrS g i n x).names = s.names := rfl
@[simp] theorem wrS_cur (s : State) (g i n : Nat) (x : Word) : (s.wrS g i n x).cur = s.cur := rfl
@[simp] theorem wrS_dev (s : State) (g i n : Nat) (x : Word) : (s.wrS g i n x).dev = s.dev := rfl
@[simp] theorem wrS_free (s : State) (g i n : Nat) (x : Word) : (s.wrS g i n x).free = s.free := rfl

/-! ### wrM -/

@[simp] theorem wrM_vreg (s : State) (q n : Nat) (x : Word) : (s.wrM q n x).vreg = s.vreg := rfl
@[simp] theorem wrM_sreg (s : State) (q n : Nat) (x : Word) : (s.wrM q n x).sreg = s.sreg := rfl
@[simp] theorem wrM_kreg (s : State) (q n : Nat) (x : Word) : (s.wrM q n x).kreg = s.kreg := rfl
@[simp] theorem wrM_slices (s : State) (q n : Nat) (x : Word) : (s.wrM q n x).slices = s.slices := rfl
@[simp] theorem wrM_groups (s : State) (q n : Nat) (x : Word) : (s.wrM q n x).groups = s.groups := rfl
@[simp] theorem wrM_teams (s : State) (q n : Nat) (x : Word) : (s.wrM q n x).teams = s.teams := rfl
@[simp] theorem wrM_cores (s : State) (q n : Nat) (x : Word) : (s.wrM q n x).cores = s.cores := rfl
@[simp] theorem wrM_seqrs (s : State) (q n : Nat) (x : Word) : (s.wrM q n x).seqrs = s.seqrs := rfl
@[simp] theorem wrM_scratch (s : State) (q n : Nat) (x : Word) : (s.wrM q n x).scratch = s.scratch := rfl
@[simp] theorem wrM_tiles (s : State) (q n : Nat) (x : Word) : (s.wrM q n x).tiles = s.tiles := rfl
@[simp] theorem wrM_mem (s : State) (q n : Nat) (x : Word) : (s.wrM q n x).mem = s.mem := rfl
@[simp] theorem wrM_packets (s : State) (q n : Nat) (x : Word) : (s.wrM q n x).packets = s.packets := rfl
@[simp] theorem wrM_clock (s : State) (q n : Nat) (x : Word) : (s.wrM q n x).clock = s.clock := rfl
@[simp] theorem wrM_names (s : State) (q n : Nat) (x : Word) : (s.wrM q n x).names = s.names := rfl
@[simp] theorem wrM_cur (s : State) (q n : Nat) (x : Word) : (s.wrM q n x).cur = s.cur := rfl
@[simp] theorem wrM_dev (s : State) (q n : Nat) (x : Word) : (s.wrM q n x).dev = s.dev := rfl
@[simp] theorem wrM_free (s : State) (q n : Nat) (x : Word) : (s.wrM q n x).free = s.free := rfl

/-! ### scrWrite -/

@[simp] theorem scrWrite_vreg (s : State) (c o : Nat) (b : List Byte) : (s.scrWrite c o b).vreg = s.vreg := rfl
@[simp] theorem scrWrite_sreg (s : State) (c o : Nat) (b : List Byte) : (s.scrWrite c o b).sreg = s.sreg := rfl
@[simp] theorem scrWrite_kreg (s : State) (c o : Nat) (b : List Byte) : (s.scrWrite c o b).kreg = s.kreg := rfl
@[simp] theorem scrWrite_slices (s : State) (c o : Nat) (b : List Byte) : (s.scrWrite c o b).slices = s.slices := rfl
@[simp] theorem scrWrite_groups (s : State) (c o : Nat) (b : List Byte) : (s.scrWrite c o b).groups = s.groups := rfl
@[simp] theorem scrWrite_teams (s : State) (c o : Nat) (b : List Byte) : (s.scrWrite c o b).teams = s.teams := rfl
@[simp] theorem scrWrite_cores (s : State) (c o : Nat) (b : List Byte) : (s.scrWrite c o b).cores = s.cores := rfl
@[simp] theorem scrWrite_seqrs (s : State) (c o : Nat) (b : List Byte) : (s.scrWrite c o b).seqrs = s.seqrs := rfl
@[simp] theorem scrWrite_mreg (s : State) (c o : Nat) (b : List Byte) : (s.scrWrite c o b).mreg = s.mreg := rfl
@[simp] theorem scrWrite_tiles (s : State) (c o : Nat) (b : List Byte) : (s.scrWrite c o b).tiles = s.tiles := rfl
@[simp] theorem scrWrite_mem (s : State) (c o : Nat) (b : List Byte) : (s.scrWrite c o b).mem = s.mem := rfl
@[simp] theorem scrWrite_packets (s : State) (c o : Nat) (b : List Byte) : (s.scrWrite c o b).packets = s.packets := rfl
@[simp] theorem scrWrite_clock (s : State) (c o : Nat) (b : List Byte) : (s.scrWrite c o b).clock = s.clock := rfl
@[simp] theorem scrWrite_names (s : State) (c o : Nat) (b : List Byte) : (s.scrWrite c o b).names = s.names := rfl
@[simp] theorem scrWrite_cur (s : State) (c o : Nat) (b : List Byte) : (s.scrWrite c o b).cur = s.cur := rfl
@[simp] theorem scrWrite_dev (s : State) (c o : Nat) (b : List Byte) : (s.scrWrite c o b).dev = s.dev := rfl
@[simp] theorem scrWrite_free (s : State) (c o : Nat) (b : List Byte) : (s.scrWrite c o b).free = s.free := rfl

/-! ### wrK -/

@[simp] theorem wrK_vreg (s : State) (g i n : Nat) (x : Mask) : (s.wrK g i n x).vreg = s.vreg := by unfold wrK; split <;> rfl
@[simp] theorem wrK_sreg (s : State) (g i n : Nat) (x : Mask) : (s.wrK g i n x).sreg = s.sreg := by unfold wrK; split <;> rfl
@[simp] theorem wrK_slices (s : State) (g i n : Nat) (x : Mask) : (s.wrK g i n x).slices = s.slices := by unfold wrK; split <;> rfl
@[simp] theorem wrK_groups (s : State) (g i n : Nat) (x : Mask) : (s.wrK g i n x).groups = s.groups := by unfold wrK; split <;> rfl
@[simp] theorem wrK_teams (s : State) (g i n : Nat) (x : Mask) : (s.wrK g i n x).teams = s.teams := by unfold wrK; split <;> rfl
@[simp] theorem wrK_cores (s : State) (g i n : Nat) (x : Mask) : (s.wrK g i n x).cores = s.cores := by unfold wrK; split <;> rfl
@[simp] theorem wrK_seqrs (s : State) (g i n : Nat) (x : Mask) : (s.wrK g i n x).seqrs = s.seqrs := by unfold wrK; split <;> rfl
@[simp] theorem wrK_mreg (s : State) (g i n : Nat) (x : Mask) : (s.wrK g i n x).mreg = s.mreg := by unfold wrK; split <;> rfl
@[simp] theorem wrK_scratch (s : State) (g i n : Nat) (x : Mask) : (s.wrK g i n x).scratch = s.scratch := by unfold wrK; split <;> rfl
@[simp] theorem wrK_tiles (s : State) (g i n : Nat) (x : Mask) : (s.wrK g i n x).tiles = s.tiles := by unfold wrK; split <;> rfl
@[simp] theorem wrK_mem (s : State) (g i n : Nat) (x : Mask) : (s.wrK g i n x).mem = s.mem := by unfold wrK; split <;> rfl
@[simp] theorem wrK_packets (s : State) (g i n : Nat) (x : Mask) : (s.wrK g i n x).packets = s.packets := by unfold wrK; split <;> rfl
@[simp] theorem wrK_clock (s : State) (g i n : Nat) (x : Mask) : (s.wrK g i n x).clock = s.clock := by unfold wrK; split <;> rfl
@[simp] theorem wrK_names (s : State) (g i n : Nat) (x : Mask) : (s.wrK g i n x).names = s.names := by unfold wrK; split <;> rfl
@[simp] theorem wrK_cur (s : State) (g i n : Nat) (x : Mask) : (s.wrK g i n x).cur = s.cur := by unfold wrK; split <;> rfl
@[simp] theorem wrK_dev (s : State) (g i n : Nat) (x : Mask) : (s.wrK g i n x).dev = s.dev := by unfold wrK; split <;> rfl
@[simp] theorem wrK_free (s : State) (g i n : Nat) (x : Mask) : (s.wrK g i n x).free = s.free := by unfold wrK; split <;> rfl

/-! ### Records: a change is read back where it was made, and nowhere else -/

@[simp] theorem modGroup_group (s : State) (g : Nat) (f : Group → Group) (j : Nat) : (s.modGroup g f).group j = if j = g then f (s.group g) else s.group j := by simp [modGroup, group]
@[simp] theorem modTeam_team (s : State) (t : Nat) (f : Team → Team) (j : Nat) : (s.modTeam t f).team j = if j = t then f (s.team t) else s.team j := by simp [modTeam, team]
@[simp] theorem modCore_core (s : State) (c : Nat) (f : Core → Core) (j : Nat) : (s.modCore c f).core j = if j = c then f (s.core c) else s.core j := by simp [modCore, core]
@[simp] theorem modPart_part (s : State) (p : Nat) (f : Part → Part) (j : Nat) : (s.modPart p f).part j = if j = p then f (s.part p) else s.part j := by simp [modPart, part]
@[simp] theorem modCtx_ctx (s : State) (c : Nat) (f : Context → Context) (j : Nat) : (s.modCtx c f).ctx j = if j = c then f (s.ctx c) else s.ctx j := by simp [modCtx, ctx]
@[simp] theorem modLaunch_launch (s : State) (l : Nat) (f : Launch → Launch) (j : Nat) : (s.modLaunch l f).launch j = if j = l then f (s.launch l) else s.launch j := by simp [modLaunch, launch]
@[simp] theorem modCluster_cluster (s : State) (c : Nat) (f : Cluster → Cluster) (j : Nat) : (s.modCluster c f).cluster j = if j = c then f (s.cluster c) else s.cluster j := by simp [modCluster, cluster]
@[simp] theorem modSeqr_seqr (s : State) (q : Nat) (f : Seqr → Seqr) (j : Nat) : (s.modSeqr q f).seqr j = if j = q then f (s.seqr q) else s.seqr j := by simp [modSeqr, seqr]
@[simp] theorem modGroup_slice (s : State) (g : Nat) (f : Group → Group) (j k : Nat) : (s.modGroup g f).slice j k = s.slice j k := rfl
@[simp] theorem modTeam_slice (s : State) (t : Nat) (f : Team → Team) (j k : Nat) : (s.modTeam t f).slice j k = s.slice j k := rfl
@[simp] theorem modCore_slice (s : State) (c : Nat) (f : Core → Core) (j k : Nat) : (s.modCore c f).slice j k = s.slice j k := rfl
@[simp] theorem modPart_slice (s : State) (p : Nat) (f : Part → Part) (j k : Nat) : (s.modPart p f).slice j k = s.slice j k := rfl
@[simp] theorem modCtx_slice (s : State) (c : Nat) (f : Context → Context) (j k : Nat) : (s.modCtx c f).slice j k = s.slice j k := rfl
@[simp] theorem modLaunch_slice (s : State) (l : Nat) (f : Launch → Launch) (j k : Nat) : (s.modLaunch l f).slice j k = s.slice j k := rfl
@[simp] theorem modCluster_slice (s : State) (c : Nat) (f : Cluster → Cluster) (j k : Nat) : (s.modCluster c f).slice j k = s.slice j k := rfl
@[simp] theorem modSeqr_slice (s : State) (q : Nat) (f : Seqr → Seqr) (j k : Nat) : (s.modSeqr q f).slice j k = s.slice j k := rfl
@[simp] theorem modPark_slice (s : State) (p k : Nat) (f : Park → Park) (g i : Nat) : (s.modPark p k f).slice g i = s.slice g i := rfl
@[simp] theorem modDev_slice (s : State) (f : Dev → Dev) (j k : Nat) : (s.modDev f).slice j k = s.slice j k := rfl
@[simp] theorem emit_slice (s : State) (o : Out) (j k : Nat) : (s.emit o).slice j k = s.slice j k := rfl
@[simp] theorem wrV_slice (s : State) (g l n : Nat) (x : Word) (j k : Nat) : (s.wrV g l n x).slice j k = s.slice j k := rfl
@[simp] theorem wrS_slice (s : State) (g i n : Nat) (x : Word) (j k : Nat) : (s.wrS g i n x).slice j k = s.slice j k := rfl
@[simp] theorem wrM_slice (s : State) (q n : Nat) (x : Word) (j k : Nat) : (s.wrM q n x).slice j k = s.slice j k := rfl
@[simp] theorem scrWrite_slice (s : State) (c o : Nat) (b : List Byte) (j k : Nat) : (s.scrWrite c o b).slice j k = s.slice j k := rfl
@[simp] theorem wrK_slice (s : State) (g i n : Nat) (x : Mask) (j k : Nat) : (s.wrK g i n x).slice j k = s.slice j k := by unfold wrK; split <;> rfl
@[simp] theorem modSlice_group (s : State) (g i : Nat) (f : Slice → Slice) (j : Nat) : (s.modSlice g i f).group j = s.group j := rfl
@[simp] theorem modTeam_group (s : State) (t : Nat) (f : Team → Team) (j : Nat) : (s.modTeam t f).group j = s.group j := rfl
@[simp] theorem modCore_group (s : State) (c : Nat) (f : Core → Core) (j : Nat) : (s.modCore c f).group j = s.group j := rfl
@[simp] theorem modPart_group (s : State) (p : Nat) (f : Part → Part) (j : Nat) : (s.modPart p f).group j = s.group j := rfl
@[simp] theorem modCtx_group (s : State) (c : Nat) (f : Context → Context) (j : Nat) : (s.modCtx c f).group j = s.group j := rfl
@[simp] theorem modLaunch_group (s : State) (l : Nat) (f : Launch → Launch) (j : Nat) : (s.modLaunch l f).group j = s.group j := rfl
@[simp] theorem modCluster_group (s : State) (c : Nat) (f : Cluster → Cluster) (j : Nat) : (s.modCluster c f).group j = s.group j := rfl
@[simp] theorem modSeqr_group (s : State) (q : Nat) (f : Seqr → Seqr) (j : Nat) : (s.modSeqr q f).group j = s.group j := rfl
@[simp] theorem modPark_group (s : State) (p k : Nat) (f : Park → Park) (j : Nat) : (s.modPark p k f).group j = s.group j := rfl
@[simp] theorem modDev_group (s : State) (f : Dev → Dev) (j : Nat) : (s.modDev f).group j = s.group j := rfl
@[simp] theorem emit_group (s : State) (o : Out) (j : Nat) : (s.emit o).group j = s.group j := rfl
@[simp] theorem wrV_group (s : State) (g l n : Nat) (x : Word) (j : Nat) : (s.wrV g l n x).group j = s.group j := rfl
@[simp] theorem wrS_group (s : State) (g i n : Nat) (x : Word) (j : Nat) : (s.wrS g i n x).group j = s.group j := rfl
@[simp] theorem wrM_group (s : State) (q n : Nat) (x : Word) (j : Nat) : (s.wrM q n x).group j = s.group j := rfl
@[simp] theorem scrWrite_group (s : State) (c o : Nat) (b : List Byte) (j : Nat) : (s.scrWrite c o b).group j = s.group j := rfl
@[simp] theorem wrK_group (s : State) (g i n : Nat) (x : Mask) (j : Nat) : (s.wrK g i n x).group j = s.group j := by unfold wrK; split <;> rfl
@[simp] theorem modSlice_team (s : State) (g i : Nat) (f : Slice → Slice) (j : Nat) : (s.modSlice g i f).team j = s.team j := rfl
@[simp] theorem modGroup_team (s : State) (g : Nat) (f : Group → Group) (j : Nat) : (s.modGroup g f).team j = s.team j := rfl
@[simp] theorem modCore_team (s : State) (c : Nat) (f : Core → Core) (j : Nat) : (s.modCore c f).team j = s.team j := rfl
@[simp] theorem modPart_team (s : State) (p : Nat) (f : Part → Part) (j : Nat) : (s.modPart p f).team j = s.team j := rfl
@[simp] theorem modCtx_team (s : State) (c : Nat) (f : Context → Context) (j : Nat) : (s.modCtx c f).team j = s.team j := rfl
@[simp] theorem modLaunch_team (s : State) (l : Nat) (f : Launch → Launch) (j : Nat) : (s.modLaunch l f).team j = s.team j := rfl
@[simp] theorem modCluster_team (s : State) (c : Nat) (f : Cluster → Cluster) (j : Nat) : (s.modCluster c f).team j = s.team j := rfl
@[simp] theorem modSeqr_team (s : State) (q : Nat) (f : Seqr → Seqr) (j : Nat) : (s.modSeqr q f).team j = s.team j := rfl
@[simp] theorem modPark_team (s : State) (p k : Nat) (f : Park → Park) (j : Nat) : (s.modPark p k f).team j = s.team j := rfl
@[simp] theorem modDev_team (s : State) (f : Dev → Dev) (j : Nat) : (s.modDev f).team j = s.team j := rfl
@[simp] theorem emit_team (s : State) (o : Out) (j : Nat) : (s.emit o).team j = s.team j := rfl
@[simp] theorem wrV_team (s : State) (g l n : Nat) (x : Word) (j : Nat) : (s.wrV g l n x).team j = s.team j := rfl
@[simp] theorem wrS_team (s : State) (g i n : Nat) (x : Word) (j : Nat) : (s.wrS g i n x).team j = s.team j := rfl
@[simp] theorem wrM_team (s : State) (q n : Nat) (x : Word) (j : Nat) : (s.wrM q n x).team j = s.team j := rfl
@[simp] theorem scrWrite_team (s : State) (c o : Nat) (b : List Byte) (j : Nat) : (s.scrWrite c o b).team j = s.team j := rfl
@[simp] theorem wrK_team (s : State) (g i n : Nat) (x : Mask) (j : Nat) : (s.wrK g i n x).team j = s.team j := by unfold wrK; split <;> rfl
@[simp] theorem modSlice_core (s : State) (g i : Nat) (f : Slice → Slice) (j : Nat) : (s.modSlice g i f).core j = s.core j := rfl
@[simp] theorem modGroup_core (s : State) (g : Nat) (f : Group → Group) (j : Nat) : (s.modGroup g f).core j = s.core j := rfl
@[simp] theorem modTeam_core (s : State) (t : Nat) (f : Team → Team) (j : Nat) : (s.modTeam t f).core j = s.core j := rfl
@[simp] theorem modPart_core (s : State) (p : Nat) (f : Part → Part) (j : Nat) : (s.modPart p f).core j = s.core j := rfl
@[simp] theorem modCtx_core (s : State) (c : Nat) (f : Context → Context) (j : Nat) : (s.modCtx c f).core j = s.core j := rfl
@[simp] theorem modLaunch_core (s : State) (l : Nat) (f : Launch → Launch) (j : Nat) : (s.modLaunch l f).core j = s.core j := rfl
@[simp] theorem modCluster_core (s : State) (c : Nat) (f : Cluster → Cluster) (j : Nat) : (s.modCluster c f).core j = s.core j := rfl
@[simp] theorem modSeqr_core (s : State) (q : Nat) (f : Seqr → Seqr) (j : Nat) : (s.modSeqr q f).core j = s.core j := rfl
@[simp] theorem modPark_core (s : State) (p k : Nat) (f : Park → Park) (j : Nat) : (s.modPark p k f).core j = s.core j := rfl
@[simp] theorem modDev_core (s : State) (f : Dev → Dev) (j : Nat) : (s.modDev f).core j = s.core j := rfl
@[simp] theorem emit_core (s : State) (o : Out) (j : Nat) : (s.emit o).core j = s.core j := rfl
@[simp] theorem wrV_core (s : State) (g l n : Nat) (x : Word) (j : Nat) : (s.wrV g l n x).core j = s.core j := rfl
@[simp] theorem wrS_core (s : State) (g i n : Nat) (x : Word) (j : Nat) : (s.wrS g i n x).core j = s.core j := rfl
@[simp] theorem wrM_core (s : State) (q n : Nat) (x : Word) (j : Nat) : (s.wrM q n x).core j = s.core j := rfl
@[simp] theorem scrWrite_core (s : State) (c o : Nat) (b : List Byte) (j : Nat) : (s.scrWrite c o b).core j = s.core j := rfl
@[simp] theorem wrK_core (s : State) (g i n : Nat) (x : Mask) (j : Nat) : (s.wrK g i n x).core j = s.core j := by unfold wrK; split <;> rfl
@[simp] theorem modSlice_part (s : State) (g i : Nat) (f : Slice → Slice) (j : Nat) : (s.modSlice g i f).part j = s.part j := rfl
@[simp] theorem modGroup_part (s : State) (g : Nat) (f : Group → Group) (j : Nat) : (s.modGroup g f).part j = s.part j := rfl
@[simp] theorem modTeam_part (s : State) (t : Nat) (f : Team → Team) (j : Nat) : (s.modTeam t f).part j = s.part j := rfl
@[simp] theorem modCore_part (s : State) (c : Nat) (f : Core → Core) (j : Nat) : (s.modCore c f).part j = s.part j := rfl
@[simp] theorem modCtx_part (s : State) (c : Nat) (f : Context → Context) (j : Nat) : (s.modCtx c f).part j = s.part j := rfl
@[simp] theorem modLaunch_part (s : State) (l : Nat) (f : Launch → Launch) (j : Nat) : (s.modLaunch l f).part j = s.part j := rfl
@[simp] theorem modCluster_part (s : State) (c : Nat) (f : Cluster → Cluster) (j : Nat) : (s.modCluster c f).part j = s.part j := rfl
@[simp] theorem modSeqr_part (s : State) (q : Nat) (f : Seqr → Seqr) (j : Nat) : (s.modSeqr q f).part j = s.part j := rfl
@[simp] theorem modPark_part (s : State) (p k : Nat) (f : Park → Park) (j : Nat) : (s.modPark p k f).part j = s.part j := rfl
@[simp] theorem modDev_part (s : State) (f : Dev → Dev) (j : Nat) : (s.modDev f).part j = s.part j := rfl
@[simp] theorem emit_part (s : State) (o : Out) (j : Nat) : (s.emit o).part j = s.part j := rfl
@[simp] theorem wrV_part (s : State) (g l n : Nat) (x : Word) (j : Nat) : (s.wrV g l n x).part j = s.part j := rfl
@[simp] theorem wrS_part (s : State) (g i n : Nat) (x : Word) (j : Nat) : (s.wrS g i n x).part j = s.part j := rfl
@[simp] theorem wrM_part (s : State) (q n : Nat) (x : Word) (j : Nat) : (s.wrM q n x).part j = s.part j := rfl
@[simp] theorem scrWrite_part (s : State) (c o : Nat) (b : List Byte) (j : Nat) : (s.scrWrite c o b).part j = s.part j := rfl
@[simp] theorem wrK_part (s : State) (g i n : Nat) (x : Mask) (j : Nat) : (s.wrK g i n x).part j = s.part j := by unfold wrK; split <;> rfl
@[simp] theorem modSlice_ctx (s : State) (g i : Nat) (f : Slice → Slice) (j : Nat) : (s.modSlice g i f).ctx j = s.ctx j := rfl
@[simp] theorem modGroup_ctx (s : State) (g : Nat) (f : Group → Group) (j : Nat) : (s.modGroup g f).ctx j = s.ctx j := rfl
@[simp] theorem modTeam_ctx (s : State) (t : Nat) (f : Team → Team) (j : Nat) : (s.modTeam t f).ctx j = s.ctx j := rfl
@[simp] theorem modCore_ctx (s : State) (c : Nat) (f : Core → Core) (j : Nat) : (s.modCore c f).ctx j = s.ctx j := rfl
@[simp] theorem modPart_ctx (s : State) (p : Nat) (f : Part → Part) (j : Nat) : (s.modPart p f).ctx j = s.ctx j := rfl
@[simp] theorem modLaunch_ctx (s : State) (l : Nat) (f : Launch → Launch) (j : Nat) : (s.modLaunch l f).ctx j = s.ctx j := rfl
@[simp] theorem modCluster_ctx (s : State) (c : Nat) (f : Cluster → Cluster) (j : Nat) : (s.modCluster c f).ctx j = s.ctx j := rfl
@[simp] theorem modSeqr_ctx (s : State) (q : Nat) (f : Seqr → Seqr) (j : Nat) : (s.modSeqr q f).ctx j = s.ctx j := rfl
@[simp] theorem modPark_ctx (s : State) (p k : Nat) (f : Park → Park) (j : Nat) : (s.modPark p k f).ctx j = s.ctx j := rfl
@[simp] theorem modDev_ctx (s : State) (f : Dev → Dev) (j : Nat) : (s.modDev f).ctx j = s.ctx j := rfl
@[simp] theorem emit_ctx (s : State) (o : Out) (j : Nat) : (s.emit o).ctx j = s.ctx j := rfl
@[simp] theorem wrV_ctx (s : State) (g l n : Nat) (x : Word) (j : Nat) : (s.wrV g l n x).ctx j = s.ctx j := rfl
@[simp] theorem wrS_ctx (s : State) (g i n : Nat) (x : Word) (j : Nat) : (s.wrS g i n x).ctx j = s.ctx j := rfl
@[simp] theorem wrM_ctx (s : State) (q n : Nat) (x : Word) (j : Nat) : (s.wrM q n x).ctx j = s.ctx j := rfl
@[simp] theorem scrWrite_ctx (s : State) (c o : Nat) (b : List Byte) (j : Nat) : (s.scrWrite c o b).ctx j = s.ctx j := rfl
@[simp] theorem wrK_ctx (s : State) (g i n : Nat) (x : Mask) (j : Nat) : (s.wrK g i n x).ctx j = s.ctx j := by unfold wrK; split <;> rfl
@[simp] theorem modSlice_launch (s : State) (g i : Nat) (f : Slice → Slice) (j : Nat) : (s.modSlice g i f).launch j = s.launch j := rfl
@[simp] theorem modGroup_launch (s : State) (g : Nat) (f : Group → Group) (j : Nat) : (s.modGroup g f).launch j = s.launch j := rfl
@[simp] theorem modTeam_launch (s : State) (t : Nat) (f : Team → Team) (j : Nat) : (s.modTeam t f).launch j = s.launch j := rfl
@[simp] theorem modCore_launch (s : State) (c : Nat) (f : Core → Core) (j : Nat) : (s.modCore c f).launch j = s.launch j := rfl
@[simp] theorem modPart_launch (s : State) (p : Nat) (f : Part → Part) (j : Nat) : (s.modPart p f).launch j = s.launch j := rfl
@[simp] theorem modCtx_launch (s : State) (c : Nat) (f : Context → Context) (j : Nat) : (s.modCtx c f).launch j = s.launch j := rfl
@[simp] theorem modCluster_launch (s : State) (c : Nat) (f : Cluster → Cluster) (j : Nat) : (s.modCluster c f).launch j = s.launch j := rfl
@[simp] theorem modSeqr_launch (s : State) (q : Nat) (f : Seqr → Seqr) (j : Nat) : (s.modSeqr q f).launch j = s.launch j := rfl
@[simp] theorem modPark_launch (s : State) (p k : Nat) (f : Park → Park) (j : Nat) : (s.modPark p k f).launch j = s.launch j := rfl
@[simp] theorem modDev_launch (s : State) (f : Dev → Dev) (j : Nat) : (s.modDev f).launch j = s.launch j := rfl
@[simp] theorem emit_launch (s : State) (o : Out) (j : Nat) : (s.emit o).launch j = s.launch j := rfl
@[simp] theorem wrV_launch (s : State) (g l n : Nat) (x : Word) (j : Nat) : (s.wrV g l n x).launch j = s.launch j := rfl
@[simp] theorem wrS_launch (s : State) (g i n : Nat) (x : Word) (j : Nat) : (s.wrS g i n x).launch j = s.launch j := rfl
@[simp] theorem wrM_launch (s : State) (q n : Nat) (x : Word) (j : Nat) : (s.wrM q n x).launch j = s.launch j := rfl
@[simp] theorem scrWrite_launch (s : State) (c o : Nat) (b : List Byte) (j : Nat) : (s.scrWrite c o b).launch j = s.launch j := rfl
@[simp] theorem wrK_launch (s : State) (g i n : Nat) (x : Mask) (j : Nat) : (s.wrK g i n x).launch j = s.launch j := by unfold wrK; split <;> rfl
@[simp] theorem modSlice_cluster (s : State) (g i : Nat) (f : Slice → Slice) (j : Nat) : (s.modSlice g i f).cluster j = s.cluster j := rfl
@[simp] theorem modGroup_cluster (s : State) (g : Nat) (f : Group → Group) (j : Nat) : (s.modGroup g f).cluster j = s.cluster j := rfl
@[simp] theorem modTeam_cluster (s : State) (t : Nat) (f : Team → Team) (j : Nat) : (s.modTeam t f).cluster j = s.cluster j := rfl
@[simp] theorem modCore_cluster (s : State) (c : Nat) (f : Core → Core) (j : Nat) : (s.modCore c f).cluster j = s.cluster j := rfl
@[simp] theorem modPart_cluster (s : State) (p : Nat) (f : Part → Part) (j : Nat) : (s.modPart p f).cluster j = s.cluster j := rfl
@[simp] theorem modCtx_cluster (s : State) (c : Nat) (f : Context → Context) (j : Nat) : (s.modCtx c f).cluster j = s.cluster j := rfl
@[simp] theorem modLaunch_cluster (s : State) (l : Nat) (f : Launch → Launch) (j : Nat) : (s.modLaunch l f).cluster j = s.cluster j := rfl
@[simp] theorem modSeqr_cluster (s : State) (q : Nat) (f : Seqr → Seqr) (j : Nat) : (s.modSeqr q f).cluster j = s.cluster j := rfl
@[simp] theorem modPark_cluster (s : State) (p k : Nat) (f : Park → Park) (j : Nat) : (s.modPark p k f).cluster j = s.cluster j := rfl
@[simp] theorem modDev_cluster (s : State) (f : Dev → Dev) (j : Nat) : (s.modDev f).cluster j = s.cluster j := rfl
@[simp] theorem emit_cluster (s : State) (o : Out) (j : Nat) : (s.emit o).cluster j = s.cluster j := rfl
@[simp] theorem wrV_cluster (s : State) (g l n : Nat) (x : Word) (j : Nat) : (s.wrV g l n x).cluster j = s.cluster j := rfl
@[simp] theorem wrS_cluster (s : State) (g i n : Nat) (x : Word) (j : Nat) : (s.wrS g i n x).cluster j = s.cluster j := rfl
@[simp] theorem wrM_cluster (s : State) (q n : Nat) (x : Word) (j : Nat) : (s.wrM q n x).cluster j = s.cluster j := rfl
@[simp] theorem scrWrite_cluster (s : State) (c o : Nat) (b : List Byte) (j : Nat) : (s.scrWrite c o b).cluster j = s.cluster j := rfl
@[simp] theorem wrK_cluster (s : State) (g i n : Nat) (x : Mask) (j : Nat) : (s.wrK g i n x).cluster j = s.cluster j := by unfold wrK; split <;> rfl
@[simp] theorem modSlice_seqr (s : State) (g i : Nat) (f : Slice → Slice) (j : Nat) : (s.modSlice g i f).seqr j = s.seqr j := rfl
@[simp] theorem modGroup_seqr (s : State) (g : Nat) (f : Group → Group) (j : Nat) : (s.modGroup g f).seqr j = s.seqr j := rfl
@[simp] theorem modTeam_seqr (s : State) (t : Nat) (f : Team → Team) (j : Nat) : (s.modTeam t f).seqr j = s.seqr j := rfl
@[simp] theorem modCore_seqr (s : State) (c : Nat) (f : Core → Core) (j : Nat) : (s.modCore c f).seqr j = s.seqr j := rfl
@[simp] theorem modPart_seqr (s : State) (p : Nat) (f : Part → Part) (j : Nat) : (s.modPart p f).seqr j = s.seqr j := rfl
@[simp] theorem modCtx_seqr (s : State) (c : Nat) (f : Context → Context) (j : Nat) : (s.modCtx c f).seqr j = s.seqr j := rfl
@[simp] theorem modLaunch_seqr (s : State) (l : Nat) (f : Launch → Launch) (j : Nat) : (s.modLaunch l f).seqr j = s.seqr j := rfl
@[simp] theorem modCluster_seqr (s : State) (c : Nat) (f : Cluster → Cluster) (j : Nat) : (s.modCluster c f).seqr j = s.seqr j := rfl
@[simp] theorem modPark_seqr (s : State) (p k : Nat) (f : Park → Park) (j : Nat) : (s.modPark p k f).seqr j = s.seqr j := rfl
@[simp] theorem modDev_seqr (s : State) (f : Dev → Dev) (j : Nat) : (s.modDev f).seqr j = s.seqr j := rfl
@[simp] theorem emit_seqr (s : State) (o : Out) (j : Nat) : (s.emit o).seqr j = s.seqr j := rfl
@[simp] theorem wrV_seqr (s : State) (g l n : Nat) (x : Word) (j : Nat) : (s.wrV g l n x).seqr j = s.seqr j := rfl
@[simp] theorem wrS_seqr (s : State) (g i n : Nat) (x : Word) (j : Nat) : (s.wrS g i n x).seqr j = s.seqr j := rfl
@[simp] theorem wrM_seqr (s : State) (q n : Nat) (x : Word) (j : Nat) : (s.wrM q n x).seqr j = s.seqr j := rfl
@[simp] theorem scrWrite_seqr (s : State) (c o : Nat) (b : List Byte) (j : Nat) : (s.scrWrite c o b).seqr j = s.seqr j := rfl
@[simp] theorem wrK_seqr (s : State) (g i n : Nat) (x : Mask) (j : Nat) : (s.wrK g i n x).seqr j = s.seqr j := by unfold wrK; split <;> rfl

/-- A slice is read back where it was changed. -/
theorem modSlice_slice (s : State) (g i : Nat) (f : Slice → Slice) (h j : Nat) :
    (s.modSlice g i f).slice h j = if sidOf h j = sidOf g i then f (s.slice g i) else s.slice h j := by
  simp [modSlice, slice]

/-! ### Registers -/

theorem rdV_wrV (s : State) (g l n h k m : Nat) (x : Word) :
    (s.wrV g l n x).rdV h k m = if lidOf h k * 64 + m = lidOf g l * 64 + n then x else s.rdV h k m := by simp [wrV, rdV]

theorem rdS_wrS (s : State) (g i n h j m : Nat) (x : Word) :
    (s.wrS g i n x).rdS h j m = if sidOf h j * 32 + m = sidOf g i * 32 + n then x else s.rdS h j m := by simp [wrS, rdS]

theorem rdM_wrM (s : State) (q n r m : Nat) (x : Word) :
    (s.wrM q n x).rdM r m = if r * 16 + m = q * 16 + n then x else s.rdM r m := by simp [wrM, rdM]

/-- k0 reads all ones, whatever is stored (R27). -/
@[simp] theorem rdK_zero (s : State) (g i : Nat) : s.rdK g i 0 = 15 := rfl

/-- A write of k0 is discarded (R113, R115). -/
@[simp] theorem wrK_zero (s : State) (g i : Nat) (x : Mask) : s.wrK g i 0 x = s := rfl

theorem rdK_wrK (s : State) (g i n h j m : Nat) (x : Mask) (hn : n ≠ 0) (hm : m ≠ 0) :
    (s.wrK g i n x).rdK h j m = if sidOf h j * 8 + m = sidOf g i * 8 + n then x else s.rdK h j m := by
  simp [wrK, rdK, hn, hm]

@[simp] theorem rdV_wrS (s : State) (g i n h j m : Nat) (x : Word) : (s.wrS g i n x).rdV h j m = s.rdV h j m := rfl
@[simp] theorem rdK_wrS (s : State) (g i n h j m : Nat) (x : Word) : (s.wrS g i n x).rdK h j m = s.rdK h j m := rfl
@[simp] theorem rdM_wrS (s : State) (g i n q m : Nat) (x : Word) : (s.wrS g i n x).rdM q m = s.rdM q m := rfl
@[simp] theorem rdS_wrV (s : State) (g i n h j m : Nat) (x : Word) : (s.wrV g i n x).rdS h j m = s.rdS h j m := rfl
@[simp] theorem rdK_wrV (s : State) (g i n h j m : Nat) (x : Word) : (s.wrV g i n x).rdK h j m = s.rdK h j m := rfl
@[simp] theorem rdM_wrV (s : State) (g i n q m : Nat) (x : Word) : (s.wrV g i n x).rdM q m = s.rdM q m := rfl
@[simp] theorem rdV_wrK (s : State) (g i n h j m : Nat) (x : Mask) : (s.wrK g i n x).rdV h j m = s.rdV h j m := by
  unfold wrK; split <;> rfl
@[simp] theorem rdS_wrK (s : State) (g i n h j m : Nat) (x : Mask) : (s.wrK g i n x).rdS h j m = s.rdS h j m := by
  unfold wrK; split <;> rfl
@[simp] theorem rdM_wrK (s : State) (g i n q m : Nat) (x : Mask) : (s.wrK g i n x).rdM q m = s.rdM q m := by
  unfold wrK; split <;> rfl

/-- The two halves of a doubleword make it up. -/
theorem halves (x : DWord) : x.extractLsb' 32 32 ++ x.extractLsb' 0 32 = x := by
  apply BitVec.eq_of_getLsbD_eq
  intro i hi
  rw [BitVec.getLsbD_append, BitVec.getLsbD_extractLsb', BitVec.getLsbD_extractLsb']
  by_cases h : i < 32
  · simp [h]
  · simp only [h, decide_false]
    rw [show 32 + (i - 32) = i by omega, show decide (i - 32 < 32) = true from decide_eq_true (by omega), Bool.true_and]
    rfl

/-- A pair just written reads back. -/
@[simp] theorem rdV64_wrV64 (s : State) (g l n : Nat) (x : DWord) : (s.wrV64 g l n x).rdV64 g l n = x := by
  simp only [wrV64, rdV64, rdV_wrV]
  rw [if_pos trivial, if_neg (by omega), if_pos trivial]
  exact halves x

/-- A pair just written reads back. -/
@[simp] theorem rdS64_wrS64 (s : State) (g i n : Nat) (x : DWord) : (s.wrS64 g i n x).rdS64 g i n = x := by
  simp only [wrS64, rdS64, rdS_wrS]
  rw [if_pos trivial, if_neg (by omega), if_pos trivial]
  exact halves x

end State
end Sys2Proof.Machine
end

