-- ==== Sys2Proof/Laws/Issue.lean ====
section
/-! SUPPORT. What the frame of every group-stream instruction does with the effect of its body, said once. -/

namespace Sys2Proof.Machine
namespace State

/-! ### Changing several slices -/

theorem modSlices_rest (s : State) (g : Nat) (is : List Nat) (f : Slice → Slice) :
    s.modSlices g is f = { s with slices := (s.modSlices g is f).slices } := by
  unfold modSlices
  induction is generalizing s with
  | nil => rfl
  | cons i is ih => rw [List.foldl_cons, ih]; rfl

/-- Slices without repeats are each changed once, and no other. -/
theorem modSlices_slice (s : State) (g : Nat) (is : List Nat) (f : Slice → Slice) (hn : is.Nodup)
    (h8 : ∀ i ∈ is, i < 8) (h j : Nat) (hj : j < 8) :
    (s.modSlices g is f).slice h j = if h = g ∧ j ∈ is then f (s.slice h j) else s.slice h j := by
  unfold modSlices
  induction is generalizing s with
  | nil => simp
  | cons i is ih =>
    have hi := h8 i (by simp)
    rw [List.foldl_cons, ih _ (List.nodup_cons.mp hn).2 fun k hk => h8 k (by simp [hk])]
    have e : sidOf h j = sidOf g i ↔ h = g ∧ j = i := by unfold sidOf; constructor <;> intro <;> omega
    simp only [modSlice_slice, e]
    by_cases hg : h = g
    · subst hg
      by_cases hji : j = i
      · subst hji; simp [(List.nodup_cons.mp hn).1]
      · simp [hji]
    · simp [hg]

@[simp] theorem group_clock (s : State) (c g : Nat) : ({ s with clock := c } : State).group g = s.group g := rfl

theorem modSlices_quiet (s : State) (g : Nat) (is : List Nat) (f : Slice → Slice) :
    (s.modSlices g is f).quiet = s.quiet := by rw [modSlices_rest]; rfl

theorem modSlices_group (s : State) (g : Nat) (is : List Nat) (f : Slice → Slice) (h : Nat) :
    (s.modSlices g is f).group h = s.group h := by rw [modSlices_rest]; rfl

theorem modSlices_team (s : State) (g : Nat) (is : List Nat) (f : Slice → Slice) (k : Nat) :
    (s.modSlices g is f).team k = s.team k := by rw [modSlices_rest]; rfl

theorem modSlices_core (s : State) (g : Nat) (is : List Nat) (f : Slice → Slice) (c : Nat) :
    (s.modSlices g is f).core c = s.core c := by rw [modSlices_rest]; rfl

/-! ### The parts of an issue

`Part iss t u`: `u` has the issue of `t` noted in its group and perhaps its pipes changed, and nothing else. -/

/-- What every part of an issue after the body keeps of the state before it. -/
structure Kept (iss : Iss) (t u : State) : Prop where
  rest : u.quiet = t.quiet
  slices : u.slices = t.slices
  groups : ∀ g, g ≠ iss.gid → u.group g = t.group g
  group : (u.group iss.gid).quiet = (t.group iss.gid).quiet
  cores : ∀ c, c ≠ iss.cid → u.core c = t.core c
  core : (u.core iss.cid).quiet = (t.core iss.cid).quiet

theorem Kept.rfl {iss : Iss} {t : State} : Kept iss t t := ⟨.refl _, .refl _, fun _ _ => .refl _, .refl _, fun _ _ => .refl _, .refl _⟩

theorem Kept.trans {iss : Iss} {t u w : State} (h : Kept iss t u) (k : Kept iss u w) : Kept iss t w :=
  ⟨k.rest.trans h.rest, k.slices.trans h.slices, fun g hg => (k.groups g hg).trans (h.groups g hg),
    k.group.trans h.group, fun c hc => (k.cores c hc).trans (h.cores c hc), k.core.trans h.core⟩

/-- A change of what an issue notes in its group. -/
theorem Kept.modGroup {iss : Iss} {t : State} (f : Group → Group) (hf : (f (t.group iss.gid)).quiet = (t.group iss.gid).quiet) :
    Kept iss t (t.modGroup iss.gid f) := by
  refine ⟨.refl _, .refl _, fun g hg => by simp [hg], by simpa using hf, fun c _ => .refl _, .refl _⟩

theorem Kept.modTeam {iss : Iss} {t : State} (k : Nat) (f : Team → Team) : Kept iss t (t.modTeam k f) :=
  ⟨.refl _, .refl _, fun _ _ => .refl _, .refl _, fun _ _ => .refl _, .refl _⟩

theorem Kept.noteIssue (t : State) (iss : Iss) (l : Nat) : Kept iss t (t.noteIssue iss l) :=
  ⟨.refl _, .refl _, fun g hg => by simp [State.noteIssue, hg], by simp [State.noteIssue, Group.quiet],
    fun c hc => by simp [State.noteIssue, hc], by simp only [State.noteIssue]; split <;> simp [Core.quiet]⟩

theorem Kept.busyUntil (t : State) (iss : Iss) (c : Ctl) (n : Nat) : Kept iss t (t.busyUntil iss.gid c n) := by
  unfold State.busyUntil; split
  · exact .rfl
  · exact Kept.modGroup _ (by simp [Group.quiet])

theorem Kept.addHazards (t : State) (m : Meta) (iss : Iss) (b : Bool) (r : Option Nat) (n : Nat) :
    Kept iss t (t.addHazards m iss b r n) :=
  ⟨.refl _, .refl _, fun g hg => by simp [State.addHazards, hg], by simp [State.addHazards, Group.quiet],
    fun c _ => .refl _, .refl _⟩

theorem Kept.dropRuns (t : State) (iss : Iss) (g : Nat) : Kept iss t (t.dropRuns iss.cid g) :=
  ⟨.refl _, .refl _, fun _ _ => .refl _, .refl _, fun c hc => by simp [State.dropRuns, hc], by simp [State.dropRuns, Core.quiet]⟩

theorem noteIssue_lastC (s : State) (iss : Iss) (l : Nat) : ((s.noteIssue iss l).group iss.gid).lastC = s.clock := by
  simp [noteIssue]

theorem noteIssue_team (s : State) (iss : Iss) (l k : Nat) :
    (s.noteIssue iss l).team k = if k = iss.tid then { s.team k with issued := (s.team k).issued + 1 } else s.team k := by
  simp only [noteIssue, modTeam_team, modGroup_team]
  split
  · subst_vars; rfl
  · rfl

@[simp] theorem busyUntil_team (s : State) (g : Nat) (c : Ctl) (t k : Nat) : (s.busyUntil g c t).team k = s.team k := by
  unfold busyUntil; split <;> rfl

theorem busyUntil_lastC (s : State) (g : Nat) (c : Ctl) (t : Nat) : ((s.busyUntil g c t).group g).lastC = (s.group g).lastC := by
  unfold busyUntil; split
  · rfl
  · simp

theorem addHazards_lastC (s : State) (m : Meta) (iss : Iss) (b : Bool) (r : Option Nat) (n : Nat) :
    ((s.addHazards m iss b r n).group iss.gid).lastC = (s.group iss.gid).lastC := by simp [addHazards]

/-- The gang moves on to the next instruction of its clause, or past it; nothing else moves. -/
theorem advance_retired (t u : State) (iss : Iss) (hn : iss.slices.Nodup) (h8 : ∀ i ∈ iss.slices, i < 8)
    (hk : Kept iss t u) (hc : (u.group iss.gid).lastC = t.clock)
    (ht : ∀ k, u.team k = if k = iss.tid then { t.team k with issued := (t.team k).issued + 1 } else t.team k) :
    Retired iss t (u.advance iss) := by
  have hs : ∀ g i, u.slice g i = t.slice g i := fun g i => by simp only [State.slice, hk.slices]
  unfold advance
  split
  · rename_i hl
    refine ⟨(modSlices_quiet ..).trans hk.rest, fun g i hi => ?_, fun g hg => ?_, ?_, ?_, fun k => ?_, fun c h => ?_, ?_⟩
    · rw [modSlices_slice _ _ _ _ hn h8 _ _ hi, hs, Slice.after, if_pos hl]
    · rw [modSlices_group]; exact hk.groups g hg
    · rw [modSlices_group]; exact hk.group
    · rw [modSlices_group]; exact hc
    · rw [modSlices_team]; exact ht k
    · rw [modSlices_core]; exact hk.cores c h
    · rw [modSlices_core]; exact hk.core
  · rename_i hl
    have hd := Kept.dropRuns (u.standAt iss.gid iss.slices iss.fall 0) iss iss.gid
    have e : ∀ g, (u.standAt iss.gid iss.slices iss.fall 0).group g = u.group g := fun g => modSlices_group ..
    refine ⟨hd.rest.trans ((modSlices_quiet ..).trans hk.rest), fun g i hi => ?_, fun g hg => ?_, ?_, ?_, fun k => ?_,
      fun c h => ?_, ?_⟩
    · show (u.standAt iss.gid iss.slices iss.fall 0).slice g i = _
      rw [standAt, modSlices_slice _ _ _ _ hn h8 _ _ hi, hs, Slice.after, if_neg hl]
    · show (u.standAt iss.gid iss.slices iss.fall 0).group g = _
      rw [e]; exact hk.groups g hg
    · show ((u.standAt iss.gid iss.slices iss.fall 0).group iss.gid).quiet = _
      rw [e]; exact hk.group
    · show ((u.standAt iss.gid iss.slices iss.fall 0).group iss.gid).lastC = _
      rw [e]; exact hc
    · show (u.standAt iss.gid iss.slices iss.fall 0).team k = _
      rw [standAt, modSlices_team]; exact ht k
    · rw [hd.cores c h, standAt, modSlices_core]; exact hk.cores c h
    · rw [hd.core, standAt, modSlices_core]; exact hk.core

/-- Results readable at a cycle are overtaken by none written from then on. -/
theorem overtake_readable (s : State) (m : Meta) (iss : Iss) (b : Bool) (c ready : Nat) (hs : List Hazard)
    (hc : c ≤ ready) (h : ∀ x ∈ hs, readable c x = true) : s.overtake m iss b ready hs = s := by
  unfold overtake
  induction hs generalizing s with
  | nil => rfl
  | cons x l ih =>
    have hx := h x (by simp)
    unfold readable at hx
    rw [List.foldl_cons]
    cases e : x.ready with
    | none => simp [e] at hx
    | some t =>
      have : ¬ ready < t := by simp [e] at hx; omega
      simp only [if_neg this]
      exact ih s fun y hy => h y (by simp [hy])

/-- No write clears an array error where there is none. -/
theorem rewritten_clean (t : State) (m : Meta) (iss : Iss) (h : t.arrPoison = []) : t.rewritten m iss = t := by
  simp [rewritten, h]

theorem le_readyAt (m : Meta) (c l : Nat) : c ≤ m.readyAt c l := by unfold Meta.readyAt; split <;> omega

/-- An instruction whose body is done leaves what its body leaves, and is retired: the one law of every instruction
that is complete at issue. -/
theorem instr_done {m : Meta} {s : State} {iss : Iss} {body : Iss → State → Res} {t : State} (h : Ready s m iss)
    (hb : body iss (s.issuing m iss) = .done t) (hp : t.arrPoison = s.arrPoison) (hbound : m.bound = false) :
    ∃ u, instr m s body = .next u ∧ Retired iss t u := by
  have hl : (m.vec && s.issueL m iss == 0) = false := by
    cases hv : m.vec with
    | false => rfl
    | true => simpa using h.acts hv
  have hre := h.results
  have hm : ∀ l : List Hazard, (∀ x ∈ l, x ∈ (s.group iss.gid).hazards) →
      (l.any fun x => !readable (s.issueAt m iss) x) = false := fun l hl => by
    rw [List.any_eq_false]; intro x hx; simp [hre x (hl x hx)]
  have hr : s.readsPoison m iss = false := by simp [readsPoison, h.sound]
  refine ⟨_, by simp only [instr, h.issuer, State.issue, h.legal, h.free, hr]; rfl, ?_⟩
  have hb' : body iss { s with clock := s.issueAt m iss } = .done t := hb
  have ho (p : Hazard → Bool) := t.overtake_readable m iss false _ (m.readyAt (s.issueAt m iss) (s.issueL m iss))
    ((s.dstHazards m iss).filter p) (le_readyAt ..) fun x hx => hre x (List.mem_of_mem_filter (List.mem_of_mem_filter hx))
  simp only [Bool.false_eq_true, if_false, State.run, hm (s.maskHazards m iss) fun x hx => List.mem_of_mem_filter hx,
    hm (s.srcHazards m iss) fun x hx => List.mem_of_mem_filter hx, Bool.and_false, Bool.or_false]
  rw [if_neg (by simpa using hl)]
  simp only [hb', settleDests, ho, hbound, moveOn, Bool.false_eq_true, if_false, rewritten_clean t m iss (hp.trans h.sound)]
  refine advance_retired _ _ _ h.gang.1 h.gang.2.2 ?_ ?_ fun k => ?_
  · exact (Kept.noteIssue ..).trans ((Kept.busyUntil ..).trans (Kept.addHazards ..))
  · rw [addHazards_lastC, busyUntil_lastC, noteIssue_lastC]
  · show ((((t.noteIssue iss _).busyUntil iss.gid _ _)).team k) = _
    rw [busyUntil_team, noteIssue_team]

end State
end Sys2Proof.Machine
end

