-- ==== Sys2Proof/Laws/Targets.lean ====
section
/-! SUPPORT. Writing one destination in every place an instruction acts on: what is read back, and what is left. -/

namespace Sys2Proof.Machine

/-- A fold keeps what each of its steps keeps. -/
theorem foldl_keep {β δ : Type} (g : State → β → State) (read : State → δ) (l : List β) (s : State)
    (h : ∀ t, ∀ q ∈ l, read (g t q) = read t) : read (l.foldl g s) = read s := by
  induction l generalizing s with
  | nil => rfl
  | cons q l ih => rw [List.foldl_cons, ih _ fun t p hp => h t p (by simp [hp]), h s q (by simp)]

/-- A fold over distinct steps leaves what the one that matters gave. -/
theorem foldl_hit {β δ : Type} (g : State → β → State) (read : State → δ) (l : List β) (s : State) (q : β) (v : δ)
    (hn : l.Nodup) (hq : q ∈ l) (hit : ∀ t, read (g t q) = v) (miss : ∀ t, ∀ p ∈ l, p ≠ q → read (g t p) = read t) :
    read (l.foldl g s) = v := by
  induction l generalizing s with
  | nil => simp at hq
  | cons a l ih =>
    obtain ⟨hnot, hn⟩ := List.nodup_cons.mp hn
    rw [List.foldl_cons]
    rcases List.mem_cons.mp hq with rfl | hq
    · rw [foldl_keep g read l _ fun t p hp => miss t p (by simp [hp]) (by rintro rfl; contradiction), hit]
    · exact ih _ hn hq fun t p hp => miss t p (by simp [hp])

namespace State

/-- The lanes of a mask are lanes of a slice, each once. -/
theorem mem_lanesOf {m : Mask} {l : Nat} (h : l ∈ lanesOf m) : l < 4 := by
  have := List.mem_of_mem_filter h; simpa using this

theorem lanesOf_nodup (m : Mask) : (lanesOf m).Nodup := List.Nodup.filter _ List.nodup_range

/-- Where an instruction acts: slices of its gang and lanes of a slice. -/
theorem mem_targets {s : State} {iss : Iss} {vec : Bool} {pm : BitVec 3} {p : Nat × Nat}
    (h : p ∈ s.targets iss vec pm) : p.1 ∈ iss.slices ∧ p.2 < 4 := by
  unfold targets active at h
  split at h
  · simp only [List.mem_flatMap, List.mem_map] at h
    obtain ⟨i, hi, l, hl, rfl⟩ := h
    exact ⟨hi, mem_lanesOf hl⟩
  · simp only [List.mem_map] at h
    obtain ⟨i, hi, rfl⟩ := h
    exact ⟨hi, by simp⟩

/-- It acts on each of them once. -/
theorem targets_nodup (s : State) (iss : Iss) (vec : Bool) (pm : BitVec 3) (h : iss.slices.Nodup) :
    (s.targets iss vec pm).Nodup := by
  unfold targets active
  split
  · refine List.nodup_flatMap.mpr ⟨fun i _ => (lanesOf_nodup _).map fun a b e => (Prod.mk.inj e).2, ?_⟩
    refine h.imp fun {a b} hab => ?_
    simp only [Function.onFun, List.disjoint_left, List.mem_map]
    rintro p ⟨l, -, rfl⟩ ⟨k, -, e⟩
    exact hab (Prod.mk.inj e).1.symm
  · exact h.map fun a b e => (Prod.mk.inj e).1

/-- A lane acted on in vector form is an active lane. -/
theorem lane_of_target {s : State} {m : Meta} {iss : Iss} (hv : m.vec = true) {p : Nat × Nat}
    (h : p ∈ s.targets iss m.vec m.c.pm) : 4 * p.1 + p.2 ∈ s.lanesAt m iss := by
  simp only [targets, hv, if_true] at h
  exact List.mem_map.mpr ⟨p, h, rfl⟩

/-- `perTarget` as one fold over the places, each once. -/
theorem perTarget_fold (s : State) (iss : Iss) (vec : Bool) (pm : BitVec 3) (wide : Bool) (d : Opnd) (f : Nat → Nat → DWord) :
    s.perTarget iss vec pm wide d f =
      (s.targets iss vec pm).foldl (fun t p => t.wrW wide iss.gid p.1 p.2 d (f p.1 p.2)) s := by
  rw [perTarget, List.foldl_map]

/-- A register write changes registers alone. -/
theorem wrW_regless (s : State) (wide : Bool) (g i l : Nat) (d : Opnd) (x : DWord) :
    (s.wrW wide g i l d x).regless = s.regless := by
  unfold wrW wr64 wr32; cases wide <;> cases d <;> try rfl
  simp only [Bool.false_eq_true, if_false]; unfold wrK; split <;> rfl

/-- One write of a destination changes no register but the destination's. -/
theorem wrW_other (s : State) (m : Meta) (iss : Iss) (wide : Bool) (d : Opnd) (x : DWord) (i l : Nat)
    (hi : i < 8) (hl : l < 4) (hd : d.dstW wide = true) (hm : ∀ r ∈ regsOf (d, wide), r ∈ dstRegs m) :
    (∀ g k n, k < 32 → n < 64 → (g = iss.gid → k = 4 * i + l → Reg.v n ∉ dstRegs m) →
        (s.wrW wide iss.gid i l d x).rdV g k n = s.rdV g k n)
      ∧ (∀ g j n, j < 8 → n < 32 → (g = iss.gid → j = i → Reg.s n ∉ dstRegs m) →
        (s.wrW wide iss.gid i l d x).rdS g j n = s.rdS g j n)
      ∧ (∀ g j n, (s.wrW wide iss.gid i l d x).rdK g j n = s.rdK g j n) := by
  cases d with
  | v r =>
    have hr := r.isLt
    cases wide with
    | false =>
      refine ⟨fun g k n hk hn h => ?_, fun _ _ _ _ _ _ => rfl, fun _ _ _ => rfl⟩
      simp only [wrW, wr32, Bool.false_eq_true, if_false, rdV_wrV]
      rw [if_neg]; unfold lidOf; intro e
      exact h (by omega) (by omega) (hm _ (by have : n = r.toNat := by omega
                                              simp [regsOf, this]))
    | true =>
      refine ⟨fun g k n hk hn h => ?_, fun _ _ _ _ _ _ => rfl, fun _ _ _ => rfl⟩
      have ev : r.toNat % 2 = 0 := by
        simp only [Opnd.dstW, Opnd.dst64, Opnd.isEvenV, Opnd.isEvenS, if_true, Bool.or_false, BitVec.getLsbD,
          Nat.testBit_zero, Bool.not_eq_true', decide_eq_false_iff_not] at hd
        omega
      simp only [wrW, wr64, if_true, wrV64, rdV_wrV]
      rw [if_neg, if_neg] <;> unfold lidOf <;> intro e
      · exact h (by omega) (by omega) (hm _ (by have : n = r.toNat := by omega
                                                simp [regsOf, this]))
      · exact h (by omega) (by omega) (hm _ (by have : n = r.toNat + 1 := by omega
                                                simp [regsOf, this]))
  | s r =>
    have hr := r.isLt
    cases wide with
    | false =>
      refine ⟨fun _ _ _ _ _ _ => rfl, fun g j n hj hn h => ?_, fun _ _ _ => rfl⟩
      simp only [wrW, wr32, Bool.false_eq_true, if_false, rdS_wrS]
      rw [if_neg]; unfold sidOf; intro e
      exact h (by omega) (by omega) (hm _ (by have : n = r.toNat := by omega
                                              simp [regsOf, this]))
    | true =>
      refine ⟨fun _ _ _ _ _ _ => rfl, fun g j n hj hn h => ?_, fun _ _ _ => rfl⟩
      have ev : r.toNat % 2 = 0 := by
        simp only [Opnd.dstW, Opnd.dst64, Opnd.isEvenV, Opnd.isEvenS, if_true, Bool.false_or, BitVec.getLsbD,
          Nat.testBit_zero, Bool.not_eq_true', decide_eq_false_iff_not] at hd
        omega
      simp only [wrW, wr64, if_true, wrS64, rdS_wrS]
      rw [if_neg, if_neg] <;> unfold sidOf <;> intro e
      · exact h (by omega) (by omega) (hm _ (by have : n = r.toNat := by omega
                                                simp [regsOf, this]))
      · exact h (by omega) (by omega) (hm _ (by have : n = r.toNat + 1 := by omega
                                                simp [regsOf, this]))
  | _ => cases wide <;> simp [Opnd.dstW, Opnd.dst64, Opnd.dst32, Opnd.isV, Opnd.isS, Opnd.isEvenV, Opnd.isEvenS] at hd

/-- `perTarget` changes no register but the destination's, where the instruction acts. -/
theorem perTarget_regsOnly (s : State) (m : Meta) (iss : Iss) (wide : Bool) (d : Opnd) (f : Nat → Nat → DWord)
    (h8 : ∀ i ∈ iss.slices, i < 8) (hd : d.dstW wide = true) (hv : d.isV = true → m.vec = true)
    (hm : ∀ r ∈ regsOf (d, wide), r ∈ dstRegs m) :
    RegsOnly m iss s (s.perTarget iss m.vec m.c.pm wide d f) := by
  rw [perTarget_fold]
  refine ⟨?_, fun g l n hl hn h => ?_, fun g i n hi hn h => ?_, fun g i n _ _ _ => ?_⟩
  · exact foldl_keep _ regless _ _ fun t q _ => wrW_regless ..
  · refine foldl_keep _ (fun t => t.rdV g l n) _ _ fun t q hq => ?_
    obtain ⟨h1, h2⟩ := mem_targets hq
    cases hdv : d.isV with
    | true =>
      exact (wrW_other t m iss wide d _ q.1 q.2 (h8 _ h1) h2 hd hm).1 g l n hl hn fun e e' =>
        h e (e' ▸ lane_of_target (hv hdv) hq)
    | false =>
      cases d <;> cases wide <;> simp_all [Opnd.dstW, Opnd.dst64, Opnd.dst32, Opnd.isV, Opnd.isS, Opnd.isEvenV, Opnd.isEvenS]
        <;> rfl
  · refine foldl_keep _ (fun t => t.rdS g i n) _ _ fun t q hq => ?_
    obtain ⟨h1, h2⟩ := mem_targets hq
    exact (wrW_other t m iss wide d _ q.1 q.2 (h8 _ h1) h2 hd hm).2.1 g i n hi hn fun e e' => h e (e' ▸ h1)
  · refine foldl_keep _ (fun t => t.rdK g i n) _ _ fun t q hq => ?_
    obtain ⟨h1, h2⟩ := mem_targets hq
    exact (wrW_other t m iss wide d _ q.1 q.2 (h8 _ h1) h2 hd hm).2.2 g i n

/-- A destination just written reads back. -/
theorem rdW_wrW (s : State) (wide : Bool) (g i l : Nat) (d : Opnd) (x : DWord) (hd : d.dstW wide = true) :
    (s.wrW wide g i l d x).rdW wide g i l d = fit wide x := by
  cases d with
  | v r => cases wide <;> simp [wrW, wr32, wr64, rdW, rd32, rd64, fit, rdV_wrV]
  | s r => cases wide <;> simp [wrW, wr32, wr64, rdW, rd32, rd64, fit, rdS_wrS]
  | _ => cases wide <;> simp [Opnd.dstW, Opnd.dst64, Opnd.dst32, Opnd.isV, Opnd.isS, Opnd.isEvenV, Opnd.isEvenS] at hd

/-- `perTarget` gives the destination the value of each place. -/
theorem perTarget_value (s : State) (m : Meta) (iss : Iss) (wide : Bool) (d : Opnd) (f : Nat → Nat → DWord)
    (hn : iss.slices.Nodup) (h8 : ∀ i ∈ iss.slices, i < 8) (hd : d.dstW wide = true)
    (hv : m.vec = d.isV) (p : Nat × Nat) (hp : p ∈ s.targets iss m.vec m.c.pm) :
    (s.perTarget iss m.vec m.c.pm wide d f).rdW wide iss.gid p.1 p.2 d = fit wide (f p.1 p.2) := by
  rw [perTarget_fold]
  refine foldl_hit _ (fun t => t.rdW wide iss.gid p.1 p.2 d) _ _ p _ (targets_nodup _ _ _ _ hn) hp
    (fun t => rdW_wrW t wide _ _ _ d _ hd) fun t q hq hne => ?_
  obtain ⟨p1, p2⟩ := mem_targets hp
  obtain ⟨q1, q2⟩ := mem_targets hq
  have hp8 := h8 _ p1
  have hq8 := h8 _ q1
  cases d with
  | v r =>
    have hr := r.isLt
    have key : 4 * p.1 + p.2 ≠ 4 * q.1 + q.2 := fun e => hne (Prod.ext (by omega) (by omega))
    cases wide with
    | false =>
      simp only [wrW, wr32, rdW, rd32, Bool.false_eq_true, if_false, rdV_wrV]
      rw [if_neg (by unfold lidOf; omega)]
    | true =>
      have ev : r.toNat % 2 = 0 := by
        simp only [Opnd.dstW, Opnd.dst64, Opnd.isEvenV, Opnd.isEvenS, if_true, Bool.or_false, BitVec.getLsbD,
          Nat.testBit_zero, Bool.not_eq_true', decide_eq_false_iff_not] at hd
        omega
      simp only [wrW, wr64, rdW, rd64, if_true, wrV64, rdV64, rdV_wrV]
      rw [if_neg (by unfold lidOf; omega), if_neg (by unfold lidOf; omega), if_neg (by unfold lidOf; omega),
        if_neg (by unfold lidOf; omega)]
  | s r =>
    have hr := r.isLt
    have hz : ∀ x ∈ s.targets iss m.vec m.c.pm, x.2 = 0 := by
      intro x hx
      rw [hv] at hx
      simp only [targets, Opnd.isV, Bool.false_eq_true, if_false, List.mem_map] at hx
      obtain ⟨i, -, rfl⟩ := hx; rfl
    have key : p.1 ≠ q.1 := fun e => hne (Prod.ext e.symm ((hz q hq).trans (hz p hp).symm))
    cases wide with
    | false =>
      simp only [wrW, wr32, rdW, rd32, Bool.false_eq_true, if_false, rdS_wrS]
      rw [if_neg (by unfold sidOf; omega)]
    | true =>
      have ev : r.toNat % 2 = 0 := by
        simp only [Opnd.dstW, Opnd.dst64, Opnd.isEvenV, Opnd.isEvenS, if_true, Bool.false_or, BitVec.getLsbD,
          Nat.testBit_zero, Bool.not_eq_true', decide_eq_false_iff_not] at hd
        omega
      simp only [wrW, wr64, rdW, rd64, if_true, wrS64, rdS64, rdS_wrS]
      rw [if_neg (by unfold sidOf; omega), if_neg (by unfold sidOf; omega), if_neg (by unfold sidOf; omega),
        if_neg (by unfold sidOf; omega)]
  | _ => cases wide <;> simp [Opnd.dstW, Opnd.dst64, Opnd.dst32, Opnd.isV, Opnd.isS, Opnd.isEvenV, Opnd.isEvenS] at hd

/-- The one law of the instructions that write one destination: `aluOp` completes with its values (see `Completes`). -/
theorem aluOp_writes {m : Meta} {wide : Bool} {d : Opnd} {f : State → Nat → Nat → Nat → DWord} {s : State} {iss : Iss}
    (h : Ready s m iss) (hb : m.bound = false) (hd : d.dstW wide = true) (hv : m.vec = d.isV) (hm : (d, wide) ∈ m.dsts) :
    ∃ t u, aluOp m wide d s f = .next u ∧ RegsOnly m iss (s.issuing m iss) t ∧ Retired iss t u
      ∧ ∀ p ∈ s.targets iss m.vec m.c.pm, t.rdW wide iss.gid p.1 p.2 d = fit wide (f (s.issuing m iss) iss.gid p.1 p.2) := by
  have ho : RegsOnly m iss (s.issuing m iss) _ := perTarget_regsOnly (s.issuing m iss) m iss wide d (f (s.issuing m iss) iss.gid) h.gang.2.2 hd
    (fun e => hv.trans e) fun r hr => List.mem_flatMap.mpr ⟨_, hm, hr⟩
  have hp : State.arrPoison (State.regless _) = _ := congrArg State.arrPoison ho.rest
  obtain ⟨u, hu, hr⟩ := instr_done (body := fun iss s => .done (s.perTarget iss m.vec m.c.pm wide d (f s iss.gid))) h rfl hp hb
  refine ⟨_, u, hu, ho, hr, fun p hp => ?_⟩
  · exact perTarget_value (s.issuing m iss) m iss wide d _ h.gang.1 h.gang.2.2 hd hv p hp

end State
end Sys2Proof.Machine
end

