-- ==== Sys2Proof/Laws/Masks.lean ====
section
/-! SUPPORT. Writing k registers: whole masks per slice, and single bits per lane (R113, R115). -/

namespace Sys2Proof.Machine
namespace State

theorem wrK_regless (s : State) (g i n : Nat) (x : Mask) : (s.wrK g i n x).regless = s.regless := by
  unfold wrK; split <;> rfl

/-- A k register just written reads back, unless it is k0. -/
theorem rdK_wrK_self (s : State) (g i n : Nat) (x : Mask) (hn : n ≠ 0) : (s.wrK g i n x).rdK g i n = x := by
  rw [rdK_wrK _ _ _ _ _ _ _ _ hn hn, if_pos rfl]

/-- A write of one k register leaves every other. -/
theorem rdK_wrK_other (s : State) (g i n h j m : Nat) (x : Mask) (hi : i < 8) (hj : j < 8) (hn : n < 8) (hm : m < 8)
    (hne : ¬(h = g ∧ j = i ∧ m = n)) : (s.wrK g i n x).rdK h j m = s.rdK h j m := by
  by_cases hm0 : m = 0
  · subst hm0; rfl
  · by_cases hn0 : n = 0
    · subst hn0; rfl
    · rw [rdK_wrK _ _ _ _ _ _ _ _ hn0 hm0, if_neg]; unfold sidOf; omega

/-- A fold of writes of k register `n` in slices of a gang changes no other register. -/
theorem foldK_regsOnly {β : Type} (s : State) (m : Meta) (iss : Iss) (n : BitVec 3) (l : List β) (at_ : β → Nat)
    (x : State → β → Mask) (h8 : ∀ i ∈ iss.slices, i < 8) (hl : ∀ q ∈ l, at_ q ∈ iss.slices)
    (hm : n ≠ 0 → Reg.k n.toNat ∈ dstRegs m) :
    RegsOnly m iss s (l.foldl (fun t q => t.wrK iss.gid (at_ q) n.toNat (x t q)) s) := by
  refine ⟨?_, fun g k r _ _ _ => ?_, fun g i r _ _ _ => ?_, fun g i r hi hr h => ?_⟩
  · exact foldl_keep _ regless _ _ fun t q _ => wrK_regless ..
  · exact foldl_keep _ (fun t => t.rdV g k r) _ _ fun t q _ => rdV_wrK ..
  · exact foldl_keep _ (fun t => t.rdS g i r) _ _ fun t q _ => rdS_wrK ..
  · refine foldl_keep _ (fun t => t.rdK g i r) _ _ fun t q hq => ?_
    by_cases h0 : n = 0
    · subst h0; rfl
    · refine rdK_wrK_other _ _ _ _ _ _ _ _ (h8 _ (hl q hq)) hi n.isLt hr ?_
      rintro ⟨rfl, rfl, rfl⟩
      exact h rfl (hl q hq) (hm h0)

/-- The one law of the instructions that write a mask per slice: `perTarget` on a k register. -/
theorem perTarget_mask (s : State) (m : Meta) (iss : Iss) (n : BitVec 3) (f : Nat → Nat → DWord) (hv : m.vec = false)
    (h8 : ∀ i ∈ iss.slices, i < 8) (hnd : iss.slices.Nodup) (hn : n ≠ 0) (hm : Reg.k n.toNat ∈ dstRegs m) :
    RegsOnly m iss s (s.perTarget iss m.vec m.c.pm false (.k n) f)
      ∧ ∀ j ∈ iss.slices, (s.perTarget iss m.vec m.c.pm false (.k n) f).rdK iss.gid j n.toNat
        = ((f j 0).extractLsb' 0 32).extractLsb' 0 4 := by
  have hn' : n.toNat ≠ 0 := fun e => hn (BitVec.eq_of_toNat_eq e)
  rw [perTarget_fold, targets, hv, if_neg (by decide), List.foldl_map]
  refine ⟨foldK_regsOnly s m iss n iss.slices id (fun t q => ((f q 0).extractLsb' 0 32).extractLsb' 0 4) h8
    (fun q hq => hq) fun _ => hm, fun j hj => ?_⟩
  refine foldl_hit _ (fun t => t.rdK iss.gid j n.toNat) _ _ j _ hnd hj (fun t => rdK_wrK_self _ _ _ _ _ hn')
    fun t p hp hne => rdK_wrK_other _ _ _ _ _ _ _ _ (h8 _ hp) (h8 _ hj) n.isLt n.isLt fun e => hne e.2.1.symm

/-- The bit a lane's verdict sets, and the bits it leaves (R113). -/
theorem wrKbit_bit (s : State) (g i l : Nat) (n : BitVec 3) (b : Bool) (hn : n ≠ 0) (hl : l < 4) (k : Nat) (hk : k < 4) :
    ((s.wrKbit g i l (.k n) b).rdK g i n.toNat).getLsbD k = if k = l then b else (s.rdK g i n.toNat).getLsbD k := by
  have hn' : n.toNat ≠ 0 := fun e => hn (BitVec.eq_of_toNat_eq e)
  simp only [wrKbit, rdK_wrK_self _ _ _ _ _ hn']
  generalize s.rdK g i n.toNat = x
  revert x b
  rcases (by omega : l = 0 ∨ l = 1 ∨ l = 2 ∨ l = 3) with rfl | rfl | rfl | rfl <;>
    rcases (by omega : k = 0 ∨ k = 1 ∨ k = 2 ∨ k = 3) with rfl | rfl | rfl | rfl <;> decide

end State
end Sys2Proof.Machine
end

