-- ==== Sys2Proof/Laws/PerInstr.lean ====
section
/-! SUPPORT. What holds of every instruction as syntax, one lemma for each. -/

namespace Sys2Proof.Laws

/-- An event has no word; every other instruction has one, at an OP and FN that the opcode map assigns, of a class that
exists (R64, R81). -/
def Mapped.Statement (i : Instr) : Prop :=
  match fieldsOf i with
  | some r => Machine.isEvent i = false ∧ assigned r.op.toNat r.fn.toNat = true ∧ (opClass r.op.toNat).isSome = true
  | none => Machine.isEvent i = true

namespace Mapped

theorem add (c : Ctl) (ty : IntTy) (sat : Bool) (d : Opnd) (a : Opnd) (b : Opnd) : Statement (.add c ty sat d a b) := ⟨rfl, rfl, rfl⟩
theorem sub (c : Ctl) (ty : IntTy) (sat : Bool) (d : Opnd) (a : Opnd) (b : Opnd) : Statement (.sub c ty sat d a b) := ⟨rfl, rfl, rfl⟩
theorem mul (c : Ctl) (ty : IntTy) (sat : Bool) (d : Opnd) (a : Opnd) (b : Opnd) : Statement (.mul c ty sat d a b) := ⟨rfl, rfl, rfl⟩
theorem mulh (c : Ctl) (ty : IntTy) (d : Opnd) (a : Opnd) (b : Opnd) : Statement (.mulh c ty d a b) := ⟨rfl, rfl, rfl⟩
theorem mad (c : Ctl) (ty : IntTy) (sat : Bool) (d : Opnd) (a : Opnd) (b : Opnd) (e : Opnd) : Statement (.mad c ty sat d a b e) := ⟨rfl, rfl, rfl⟩
theorem min (c : Ctl) (ty : IntTy) (d : Opnd) (a : Opnd) (b : Opnd) : Statement (.min c ty d a b) := ⟨rfl, rfl, rfl⟩
theorem max (c : Ctl) (ty : IntTy) (d : Opnd) (a : Opnd) (b : Opnd) : Statement (.max c ty d a b) := ⟨rfl, rfl, rfl⟩
theorem and (c : Ctl) (ty : IntTy) (d : Opnd) (a : Opnd) (b : Opnd) : Statement (.and c ty d a b) := ⟨rfl, rfl, rfl⟩
theorem or (c : Ctl) (ty : IntTy) (d : Opnd) (a : Opnd) (b : Opnd) : Statement (.or c ty d a b) := ⟨rfl, rfl, rfl⟩
theorem xor (c : Ctl) (ty : IntTy) (d : Opnd) (a : Opnd) (b : Opnd) : Statement (.xor c ty d a b) := ⟨rfl, rfl, rfl⟩
theorem not (c : Ctl) (ty : IntTy) (d : Opnd) (a : Opnd) : Statement (.not c ty d a) := ⟨rfl, rfl, rfl⟩
theorem shl (c : Ctl) (ty : IntTy) (d : Opnd) (a : Opnd) (b : Opnd) : Statement (.shl c ty d a b) := ⟨rfl, rfl, rfl⟩
theorem shr (c : Ctl) (ty : IntTy) (d : Opnd) (a : Opnd) (b : Opnd) : Statement (.shr c ty d a b) := ⟨rfl, rfl, rfl⟩
theorem sar (c : Ctl) (ty : IntTy) (d : Opnd) (a : Opnd) (b : Opnd) : Statement (.sar c ty d a b) := ⟨rfl, rfl, rfl⟩
theorem rol (c : Ctl) (ty : IntTy) (d : Opnd) (a : Opnd) (b : Opnd) : Statement (.rol c ty d a b) := ⟨rfl, rfl, rfl⟩
theorem clz (c : Ctl) (ty : IntTy) (d : Opnd) (a : Opnd) : Statement (.clz c ty d a) := ⟨rfl, rfl, rfl⟩
theorem popc (c : Ctl) (ty : IntTy) (d : Opnd) (a : Opnd) : Statement (.popc c ty d a) := ⟨rfl, rfl, rfl⟩
theorem brev (c : Ctl) (ty : IntTy) (d : Opnd) (a : Opnd) : Statement (.brev c ty d a) := ⟨rfl, rfl, rfl⟩
theorem bfe (c : Ctl) (ty : IntTy) (d : Opnd) (a : Opnd) (b : Opnd) : Statement (.bfe c ty d a b) := ⟨rfl, rfl, rfl⟩
theorem bfi (c : Ctl) (ty : IntTy) (d : Opnd) (a : Opnd) (b : Opnd) (e : Opnd) : Statement (.bfi c ty d a b e) := ⟨rfl, rfl, rfl⟩
theorem sel (c : Ctl) (ty : IntTy) (d : Opnd) (a : Opnd) (b : Opnd) (e : Opnd) : Statement (.sel c ty d a b e) := ⟨rfl, rfl, rfl⟩
theorem addx (c : Ctl) (ty : IntTy) (d : Opnd) (a : Opnd) (b : Opnd) : Statement (.addx c ty d a b) := ⟨rfl, rfl, rfl⟩
theorem subx (c : Ctl) (ty : IntTy) (d : Opnd) (a : Opnd) (b : Opnd) : Statement (.subx c ty d a b) := ⟨rfl, rfl, rfl⟩
theorem mov (c : Ctl) (ty : IntTy) (d : Opnd) (a : Opnd) : Statement (.mov c ty d a) := ⟨rfl, rfl, rfl⟩
theorem lea (c : Ctl) (ty : IntTy) (sh : BitVec 3) (d : Opnd) (a : Opnd) (b : Opnd) : Statement (.lea c ty sh d a b) := ⟨rfl, rfl, rfl⟩
theorem leax (c : Ctl) (ty : IntTy) (sh : BitVec 3) (d : Opnd) (a : Opnd) (b : Opnd) (e : Opnd) : Statement (.leax c ty sh d a b e) := ⟨rfl, rfl, rfl⟩
theorem addImm (c : Ctl) (ty : IntTy) (sat : Bool) (d : Opnd) (a : Opnd) (imm : BitVec 18) : Statement (.addImm c ty sat d a imm) := ⟨rfl, rfl, rfl⟩
theorem subImm (c : Ctl) (ty : IntTy) (sat : Bool) (d : Opnd) (a : Opnd) (imm : BitVec 18) : Statement (.subImm c ty sat d a imm) := ⟨rfl, rfl, rfl⟩
theorem mulImm (c : Ctl) (ty : IntTy) (sat : Bool) (d : Opnd) (a : Opnd) (imm : BitVec 18) : Statement (.mulImm c ty sat d a imm) := ⟨rfl, rfl, rfl⟩
theorem minImm (c : Ctl) (ty : IntTy) (d : Opnd) (a : Opnd) (imm : BitVec 18) : Statement (.minImm c ty d a imm) := ⟨rfl, rfl, rfl⟩
theorem maxImm (c : Ctl) (ty : IntTy) (d : Opnd) (a : Opnd) (imm : BitVec 18) : Statement (.maxImm c ty d a imm) := ⟨rfl, rfl, rfl⟩
theorem andImm (c : Ctl) (ty : IntTy) (d : Opnd) (a : Opnd) (imm : BitVec 18) : Statement (.andImm c ty d a imm) := ⟨rfl, rfl, rfl⟩
theorem orImm (c : Ctl) (ty : IntTy) (d : Opnd) (a : Opnd) (imm : BitVec 18) : Statement (.orImm c ty d a imm) := ⟨rfl, rfl, rfl⟩
theorem xorImm (c : Ctl) (ty : IntTy) (d : Opnd) (a : Opnd) (imm : BitVec 18) : Statement (.xorImm c ty d a imm) := ⟨rfl, rfl, rfl⟩
theorem shlImm (c : Ctl) (ty : IntTy) (d : Opnd) (a : Opnd) (imm : BitVec 18) : Statement (.shlImm c ty d a imm) := ⟨rfl, rfl, rfl⟩
theorem shrImm (c : Ctl) (ty : IntTy) (d : Opnd) (a : Opnd) (imm : BitVec 18) : Statement (.shrImm c ty d a imm) := ⟨rfl, rfl, rfl⟩
theorem sarImm (c : Ctl) (ty : IntTy) (d : Opnd) (a : Opnd) (imm : BitVec 18) : Statement (.sarImm c ty d a imm) := ⟨rfl, rfl, rfl⟩
theorem rolImm (c : Ctl) (ty : IntTy) (d : Opnd) (a : Opnd) (imm : BitVec 18) : Statement (.rolImm c ty d a imm) := ⟨rfl, rfl, rfl⟩
theorem movImm (c : Ctl) (ty : IntTy) (d : Opnd) (imm : BitVec 18) : Statement (.movImm c ty d imm) := ⟨rfl, rfl, rfl⟩
theorem leaImm (c : Ctl) (sh : BitVec 3) (d : Opnd) (a : Opnd) (imm : BitVec 18) : Statement (.leaImm c sh d a imm) := ⟨rfl, rfl, rfl⟩
theorem movw (c : Ctl) (d : Opnd) (imm : BitVec 32) : Statement (.movw c d imm) := ⟨rfl, rfl, rfl⟩
theorem movwx (c : Ctl) (d : Opnd) (imm : BitVec 34) : Statement (.movwx c d imm) := ⟨rfl, rfl, rfl⟩
theorem addwx (c : Ctl) (d : Opnd) (imm : BitVec 34) : Statement (.addwx c d imm) := ⟨rfl, rfl, rfl⟩
theorem movwh (c : Ctl) (d : Opnd) (imm : BitVec 32) : Statement (.movwh c d imm) := ⟨rfl, rfl, rfl⟩
theorem cmp (c : Ctl) (ty : IntTy) (cond : Cond) (d : Opnd) (a : Opnd) (b : Opnd) : Statement (.cmp c ty cond d a b) := ⟨rfl, rfl, rfl⟩
theorem kand (c : Ctl) (d : Opnd) (a : Opnd) (b : Opnd) : Statement (.kand c d a b) := ⟨rfl, rfl, rfl⟩
theorem kor (c : Ctl) (d : Opnd) (a : Opnd) (b : Opnd) : Statement (.kor c d a b) := ⟨rfl, rfl, rfl⟩
theorem kxor (c : Ctl) (d : Opnd) (a : Opnd) (b : Opnd) : Statement (.kxor c d a b) := ⟨rfl, rfl, rfl⟩
theorem knot (c : Ctl) (d : Opnd) (a : Opnd) : Statement (.knot c d a) := ⟨rfl, rfl, rfl⟩
theorem kmov (c : Ctl) (d : Opnd) (a : Opnd) : Statement (.kmov c d a) := ⟨rfl, rfl, rfl⟩
theorem execget (c : Ctl) (d : Opnd) : Statement (.execget c d) := ⟨rfl, rfl, rfl⟩
theorem execset (c : Ctl) (a : Opnd) : Statement (.execset c a) := ⟨rfl, rfl, rfl⟩
theorem ktest (c : Ctl) (d : Opnd) (a : Opnd) (b : Opnd) : Statement (.ktest c d a b) := ⟨rfl, rfl, rfl⟩
theorem shfl (c : Ctl) (mode : ShflMode) (seg : Seg) (d : Opnd) (a : Opnd) (b : Opnd) : Statement (.shfl c mode seg d a b) := ⟨rfl, rfl, rfl⟩
theorem ballot (c : Ctl) (d : Opnd) (a : Opnd) : Statement (.ballot c d a) := ⟨rfl, rfl, rfl⟩
theorem vote (c : Ctl) (form : VoteForm) (d : Opnd) (a : Opnd) : Statement (.vote c form d a) := ⟨rfl, rfl, rfl⟩
theorem psum (c : Ctl) (ty : IntTy) (sat : Bool) (exc : Bool) (d : Opnd) (a : Opnd) : Statement (.psum c ty sat exc d a) := ⟨rfl, rfl, rfl⟩
theorem pmax (c : Ctl) (ty : IntTy) (exc : Bool) (d : Opnd) (a : Opnd) : Statement (.pmax c ty exc d a) := ⟨rfl, rfl, rfl⟩
theorem laneid (c : Ctl) (form : LaneForm) (d : Opnd) : Statement (.laneid c form d) := ⟨rfl, rfl, rfl⟩
theorem fadd (c : Ctl) (ty : FTy) (rnd : Rnd) (sat : Bool) (md : FMods) (d : Opnd) (a : Opnd) (b : Opnd) : Statement (.fadd c ty rnd sat md d a b) := ⟨rfl, rfl, rfl⟩
theorem fsub (c : Ctl) (ty : FTy) (rnd : Rnd) (sat : Bool) (md : FMods) (d : Opnd) (a : Opnd) (b : Opnd) : Statement (.fsub c ty rnd sat md d a b) := ⟨rfl, rfl, rfl⟩
theorem fmul (c : Ctl) (ty : FTy) (rnd : Rnd) (sat : Bool) (md : FMods) (d : Opnd) (a : Opnd) (b : Opnd) : Statement (.fmul c ty rnd sat md d a b) := ⟨rfl, rfl, rfl⟩
theorem ffma (c : Ctl) (ty : FTy) (rnd : Rnd) (sat : Bool) (md : FMods) (negc : Bool) (d : Opnd) (a : Opnd) (b : Opnd) (e : Opnd) : Statement (.ffma c ty rnd sat md negc d a b e) := ⟨rfl, rfl, rfl⟩
theorem fmin (c : Ctl) (ty : FTy) (sat : Bool) (md : FMods) (d : Opnd) (a : Opnd) (b : Opnd) : Statement (.fmin c ty sat md d a b) := ⟨rfl, rfl, rfl⟩
theorem fmax (c : Ctl) (ty : FTy) (sat : Bool) (md : FMods) (d : Opnd) (a : Opnd) (b : Opnd) : Statement (.fmax c ty sat md d a b) := ⟨rfl, rfl, rfl⟩
theorem fcmp (c : Ctl) (cond : FCond) (md : FMods) (d : Opnd) (a : Opnd) (b : Opnd) : Statement (.fcmp c cond md d a b) := ⟨rfl, rfl, rfl⟩
theorem frcp (c : Ctl) (rnd : Rnd) (sat : Bool) (nega : Bool) (absa : Bool) (d : Opnd) (a : Opnd) : Statement (.frcp c rnd sat nega absa d a) := ⟨rfl, rfl, rfl⟩
theorem frsq (c : Ctl) (rnd : Rnd) (sat : Bool) (nega : Bool) (absa : Bool) (d : Opnd) (a : Opnd) : Statement (.frsq c rnd sat nega absa d a) := ⟨rfl, rfl, rfl⟩
theorem fexp2 (c : Ctl) (rnd : Rnd) (sat : Bool) (nega : Bool) (absa : Bool) (d : Opnd) (a : Opnd) : Statement (.fexp2 c rnd sat nega absa d a) := ⟨rfl, rfl, rfl⟩
theorem flog2 (c : Ctl) (rnd : Rnd) (sat : Bool) (nega : Bool) (absa : Bool) (d : Opnd) (a : Opnd) : Statement (.flog2 c rnd sat nega absa d a) := ⟨rfl, rfl, rfl⟩
theorem fsin (c : Ctl) (sat : Bool) (nega : Bool) (absa : Bool) (d : Opnd) (a : Opnd) : Statement (.fsin c sat nega absa d a) := ⟨rfl, rfl, rfl⟩
theorem fcos (c : Ctl) (sat : Bool) (nega : Bool) (absa : Bool) (d : Opnd) (a : Opnd) : Statement (.fcos c sat nega absa d a) := ⟨rfl, rfl, rfl⟩
theorem ftanh (c : Ctl) (sat : Bool) (nega : Bool) (absa : Bool) (d : Opnd) (a : Opnd) : Statement (.ftanh c sat nega absa d a) := ⟨rfl, rfl, rfl⟩
theorem cvt (c : Ctl) (dt : CvtTy) (st : CvtTy) (rnd : Rnd) (d : Opnd) (a : Opnd) : Statement (.cvt c dt st rnd d a) := ⟨rfl, rfl, rfl⟩
theorem pack (c : Ctl) (slot : BitVec 3) (d : Opnd) (a : Opnd) : Statement (.pack c slot d a) := ⟨rfl, rfl, rfl⟩
theorem unpack (c : Ctl) (rnd : Rnd) (slot : BitVec 3) (d : Opnd) (a : Opnd) : Statement (.unpack c rnd slot d a) := ⟨rfl, rfl, rfl⟩
theorem bra (c : Ctl) (off : BitVec 26) : Statement (.bra c off) := ⟨rfl, rfl, rfl⟩
theorem brx (c : Ctl) (joff : BitVec 16) (off : BitVec 26) : Statement (.brx c joff off) := ⟨rfl, rfl, rfl⟩
theorem call (c : Ctl) (d : Opnd) (off : BitVec 26) : Statement (.call c d off) := ⟨rfl, rfl, rfl⟩
theorem braz (c : Ctl) (a : Opnd) (off : BitVec 26) : Statement (.braz c a off) := ⟨rfl, rfl, rfl⟩
theorem branz (c : Ctl) (a : Opnd) (off : BitVec 26) : Statement (.branz c a off) := ⟨rfl, rfl, rfl⟩
theorem join (c : Ctl) : Statement (.join c) := ⟨rfl, rfl, rfl⟩
theorem regang (c : Ctl) : Statement (.regang c) := ⟨rfl, rfl, rfl⟩
theorem ret (c : Ctl) (a : Opnd) : Statement (.ret c a) := ⟨rfl, rfl, rfl⟩
theorem jmpi (c : Ctl) (a : Opnd) : Statement (.jmpi c a) := ⟨rfl, rfl, rfl⟩
theorem calli (c : Ctl) (d : Opnd) (a : Opnd) : Statement (.calli c d a) := ⟨rfl, rfl, rfl⟩
theorem exit (c : Ctl) : Statement (.exit c) := ⟨rfl, rfl, rfl⟩
theorem yield (c : Ctl) : Statement (.yield c) := ⟨rfl, rfl, rfl⟩
theorem trap (c : Ctl) (a : Opnd) : Statement (.trap c a) := ⟨rfl, rfl, rfl⟩
theorem nop (c : Ctl) : Statement (.nop c) := ⟨rfl, rfl, rfl⟩
theorem lds (c : Ctl) (sz : Size) (sx : Bool) (d : Opnd) (a : Opnd) (off : BitVec 11) : Statement (.lds c sz sx d a off) := ⟨rfl, rfl, rfl⟩
theorem sts (c : Ctl) (sz : Size) (d : Opnd) (a : Opnd) (off : BitVec 11) : Statement (.sts c sz d a off) := ⟨rfl, rfl, rfl⟩
theorem ldw (c : Ctl) (sz : Size) (dir : Dir) (sx : Bool) (d : Opnd) (a : Opnd) (off : BitVec 11) : Statement (.ldw c sz dir sx d a off) := ⟨rfl, rfl, rfl⟩
theorem stw (c : Ctl) (sz : Size) (dir : Dir) (d : Opnd) (a : Opnd) (off : BitVec 11) : Statement (.stw c sz dir d a off) := ⟨rfl, rfl, rfl⟩
theorem ldss (c : Ctl) (sz : Size) (sx : Bool) (d : Opnd) (a : Opnd) (off : BitVec 11) : Statement (.ldss c sz sx d a off) := ⟨rfl, rfl, rfl⟩
theorem stss (c : Ctl) (sz : Size) (d : Opnd) (a : Opnd) (off : BitVec 11) : Statement (.stss c sz d a off) := ⟨rfl, rfl, rfl⟩
theorem ldws (c : Ctl) (sz : Size) (dir : Dir) (sx : Bool) (d : Opnd) (a : Opnd) (off : BitVec 11) : Statement (.ldws c sz dir sx d a off) := ⟨rfl, rfl, rfl⟩
theorem stws (c : Ctl) (sz : Size) (dir : Dir) (d : Opnd) (a : Opnd) (off : BitVec 11) : Statement (.stws c sz dir d a off) := ⟨rfl, rfl, rfl⟩
theorem ld (c : Ctl) (sz : Size) (ord : Order) (scope : Scope) (sx : Bool) (d : Opnd) (a : Opnd) (off : BitVec 11) : Statement (.ld c sz ord scope sx d a off) := ⟨rfl, rfl, rfl⟩
theorem ldsc (c : Ctl) (sz : Size) (ord : Order) (scope : Scope) (sx : Bool) (d : Opnd) (a : Opnd) (off : BitVec 11) : Statement (.ldsc c sz ord scope sx d a off) := ⟨rfl, rfl, rfl⟩
theorem pref (c : Ctl) (sz : Size) (scope : Scope) (a : Opnd) (off : BitVec 11) : Statement (.pref c sz scope a off) := ⟨rfl, rfl, rfl⟩
theorem ldt (c : Ctl) (ord : Order) (scope : Scope) (d : Opnd) (a : Opnd) (b : Opnd) (off : BitVec 11) : Statement (.ldt c ord scope d a b off) := ⟨rfl, rfl, rfl⟩
theorem snap (c : Ctl) (ord : Order) (scope : Scope) (newest : Bool) (d : Opnd) (a : Opnd) (off : BitVec 11) : Statement (.snap c ord scope newest d a off) := ⟨rfl, rfl, rfl⟩
theorem st (c : Ctl) (sz : Size) (ord : Order) (scope : Scope) (d : Opnd) (a : Opnd) (off : BitVec 11) : Statement (.st c sz ord scope d a off) := ⟨rfl, rfl, rfl⟩
theorem stsc (c : Ctl) (sz : Size) (ord : Order) (scope : Scope) (d : Opnd) (a : Opnd) (off : BitVec 11) : Statement (.stsc c sz ord scope d a off) := ⟨rfl, rfl, rfl⟩
theorem stt (c : Ctl) (ord : Order) (scope : Scope) (d : Opnd) (a : Opnd) (b : Opnd) (off : BitVec 11) : Statement (.stt c ord scope d a b off) := ⟨rfl, rfl, rfl⟩
theorem atomAdd (c : Ctl) (sz : Size) (ord : Order) (scope : Scope) (d : Opnd) (a : Opnd) (b : Opnd) (off : BitVec 11) : Statement (.atomAdd c sz ord scope d a b off) := ⟨rfl, rfl, rfl⟩
theorem atomMin (c : Ctl) (sz : Size) (ord : Order) (scope : Scope) (d : Opnd) (a : Opnd) (b : Opnd) (off : BitVec 11) : Statement (.atomMin c sz ord scope d a b off) := ⟨rfl, rfl, rfl⟩
theorem atomMax (c : Ctl) (sz : Size) (ord : Order) (scope : Scope) (d : Opnd) (a : Opnd) (b : Opnd) (off : BitVec 11) : Statement (.atomMax c sz ord scope d a b off) := ⟨rfl, rfl, rfl⟩
theorem atomMinn (c : Ctl) (sz : Size) (ord : Order) (scope : Scope) (d : Opnd) (a : Opnd) (b : Opnd) (off : BitVec 11) : Statement (.atomMinn c sz ord scope d a b off) := ⟨rfl, rfl, rfl⟩
theorem atomMaxn (c : Ctl) (sz : Size) (ord : Order) (scope : Scope) (d : Opnd) (a : Opnd) (b : Opnd) (off : BitVec 11) : Statement (.atomMaxn c sz ord scope d a b off) := ⟨rfl, rfl, rfl⟩
theorem atomAnd (c : Ctl) (sz : Size) (ord : Order) (scope : Scope) (d : Opnd) (a : Opnd) (b : Opnd) (off : BitVec 11) : Statement (.atomAnd c sz ord scope d a b off) := ⟨rfl, rfl, rfl⟩
theorem atomOr (c : Ctl) (sz : Size) (ord : Order) (scope : Scope) (d : Opnd) (a : Opnd) (b : Opnd) (off : BitVec 11) : Statement (.atomOr c sz ord scope d a b off) := ⟨rfl, rfl, rfl⟩
theorem atomXor (c : Ctl) (sz : Size) (ord : Order) (scope : Scope) (d : Opnd) (a : Opnd) (b : Opnd) (off : BitVec 11) : Statement (.atomXor c sz ord scope d a b off) := ⟨rfl, rfl, rfl⟩
theorem atomSwap (c : Ctl) (sz : Size) (ord : Order) (scope : Scope) (d : Opnd) (a : Opnd) (b : Opnd) (off : BitVec 11) : Statement (.atomSwap c sz ord scope d a b off) := ⟨rfl, rfl, rfl⟩
theorem atomCas (c : Ctl) (sz : Size) (ord : Order) (scope : Scope) (d : Opnd) (a : Opnd) (b : Opnd) (off : BitVec 11) : Statement (.atomCas c sz ord scope d a b off) := ⟨rfl, rfl, rfl⟩
theorem atomFadd (c : Ctl) (ord : Order) (scope : Scope) (d : Opnd) (a : Opnd) (b : Opnd) (off : BitVec 11) : Statement (.atomFadd c ord scope d a b off) := ⟨rfl, rfl, rfl⟩
theorem redAdd (c : Ctl) (sz : Size) (ord : Order) (scope : Scope) (d : Opnd) (a : Opnd) (off : BitVec 11) : Statement (.redAdd c sz ord scope d a off) := ⟨rfl, rfl, rfl⟩
theorem redMin (c : Ctl) (sz : Size) (ord : Order) (scope : Scope) (d : Opnd) (a : Opnd) (off : BitVec 11) : Statement (.redMin c sz ord scope d a off) := ⟨rfl, rfl, rfl⟩
theorem redMax (c : Ctl) (sz : Size) (ord : Order) (scope : Scope) (d : Opnd) (a : Opnd) (off : BitVec 11) : Statement (.redMax c sz ord scope d a off) := ⟨rfl, rfl, rfl⟩
theorem redMinn (c : Ctl) (sz : Size) (ord : Order) (scope : Scope) (d : Opnd) (a : Opnd) (off : BitVec 11) : Statement (.redMinn c sz ord scope d a off) := ⟨rfl, rfl, rfl⟩
theorem redMaxn (c : Ctl) (sz : Size) (ord : Order) (scope : Scope) (d : Opnd) (a : Opnd) (off : BitVec 11) : Statement (.redMaxn c sz ord scope d a off) := ⟨rfl, rfl, rfl⟩
theorem redAnd (c : Ctl) (sz : Size) (ord : Order) (scope : Scope) (d : Opnd) (a : Opnd) (off : BitVec 11) : Statement (.redAnd c sz ord scope d a off) := ⟨rfl, rfl, rfl⟩
theorem redOr (c : Ctl) (sz : Size) (ord : Order) (scope : Scope) (d : Opnd) (a : Opnd) (off : BitVec 11) : Statement (.redOr c sz ord scope d a off) := ⟨rfl, rfl, rfl⟩
theorem redXor (c : Ctl) (sz : Size) (ord : Order) (scope : Scope) (d : Opnd) (a : Opnd) (off : BitVec 11) : Statement (.redXor c sz ord scope d a off) := ⟨rfl, rfl, rfl⟩
theorem redFadd (c : Ctl) (ord : Order) (scope : Scope) (d : Opnd) (a : Opnd) (off : BitVec 11) : Statement (.redFadd c ord scope d a off) := ⟨rfl, rfl, rfl⟩
theorem fence (c : Ctl) (ord : Order) (scope : Scope) : Statement (.fence c ord scope) := ⟨rfl, rfl, rfl⟩
theorem txbegin (c : Ctl) (off : BitVec 26) : Statement (.txbegin c off) := ⟨rfl, rfl, rfl⟩
theorem txcommit (c : Ctl) (scope : Scope) : Statement (.txcommit c scope) := ⟨rfl, rfl, rfl⟩
theorem txabort (c : Ctl) (b : Opnd) : Statement (.txabort c b) := ⟨rfl, rfl, rfl⟩
theorem binit (c : Ctl) (d : Opnd) (a : Opnd) (off : BitVec 11) : Statement (.binit c d a off) := ⟨rfl, rfl, rfl⟩
theorem breg (c : Ctl) (a : Opnd) (off : BitVec 11) : Statement (.breg c a off) := ⟨rfl, rfl, rfl⟩
theorem barr (c : Ctl) (d : Opnd) (a : Opnd) (b : Option Opnd) (off : BitVec 11) : Statement (.barr c d a b off) := ⟨rfl, rfl, rfl⟩
theorem barrd (c : Ctl) (d : Opnd) (a : Opnd) (off : BitVec 11) : Statement (.barrd c d a off) := ⟨rfl, rfl, rfl⟩
theorem bexp (c : Ctl) (d : Opnd) (a : Opnd) (off : BitVec 11) : Statement (.bexp c d a off) := ⟨rfl, rfl, rfl⟩
theorem bwait (c : Ctl) (d : Opnd) (a : Opnd) (off : BitVec 11) : Statement (.bwait c d a off) := ⟨rfl, rfl, rfl⟩
theorem btest (c : Ctl) (d : Opnd) (a : Opnd) (b : Opnd) (off : BitVec 11) : Statement (.btest c d a b off) := ⟨rfl, rfl, rfl⟩
theorem trig (c : Ctl) (d : Opnd) (a : Opnd) (b : Opnd) (off : BitVec 11) : Statement (.trig c d a b off) := ⟨rfl, rfl, rfl⟩
theorem implicitDrop (gid : Nat) : Statement (.implicitDrop gid) := rfl
theorem barrierWatchdogExpiry (gid : Nat) (slice : Nat) : Statement (.barrierWatchdogExpiry gid slice) := rfl
theorem accalloc (c : Ctl) (d : Opnd) (a : Opnd) : Statement (.accalloc c d a) := ⟨rfl, rfl, rfl⟩
theorem accfree (c : Ctl) (a : Opnd) : Statement (.accfree c a) := ⟨rfl, rfl, rfl⟩
theorem scrl (c : Ctl) (d : Option Opnd) (a : Opnd) : Statement (.scrl c d a) := ⟨rfl, rfl, rfl⟩
theorem scrlr (c : Ctl) (d : Option Opnd) (a : Opnd) : Statement (.scrlr c d a) := ⟨rfl, rfl, rfl⟩
theorem copy (c : Ctl) (a : Opnd) (b : Opnd) : Statement (.copy c a b) := ⟨rfl, rfl, rfl⟩
theorem copyx (c : Ctl) (a : Opnd) (b : Opnd) : Statement (.copyx c a b) := ⟨rfl, rfl, rfl⟩
theorem dtload (c : Ctl) (acq : Bool) (scope : Scope) (slot : Bool) (a : Opnd) : Statement (.dtload c acq scope slot a) := ⟨rfl, rfl, rfl⟩
theorem copyDec (c : Ctl) (a : Opnd) (b : Opnd) : Statement (.copyDec c a b) := ⟨rfl, rfl, rfl⟩
theorem planeq (c : Ctl) (d : Opnd) (a : Opnd) : Statement (.planeq c d a) := ⟨rfl, rfl, rfl⟩
theorem scrollStep (cmd : Nat) : Statement (.scrollStep cmd) := rfl
theorem engineCommandEnd (cmd : Nat) : Statement (.engineCommandEnd cmd) := rfl
theorem dtloadTableWrite (cmd : Nat) : Statement (.dtloadTableWrite cmd) := rfl
theorem copyDecDecode (cmd : Nat) : Statement (.copyDecDecode cmd) := rfl
theorem mshape (dist : BitVec 3) (d : Opnd) (a : Opnd) (b : Opnd) (e : Opnd) : Statement (.mshape dist d a b e) := ⟨rfl, rfl, rfl⟩
theorem mldt (dist : BitVec 3) (d : Opnd) (a : Opnd) (b : Opnd) (e : Opnd) : Statement (.mldt dist d a b e) := ⟨rfl, rfl, rfl⟩
theorem mzero (dist : BitVec 3) (d : Opnd) : Statement (.mzero dist d) := ⟨rfl, rfl, rfl⟩
theorem mma (dist : BitVec 3) (sa : BitVec 3) (sb : BitVec 3) (d : Opnd) (a : Opnd) (b : Opnd) : Statement (.mma dist sa sb d a b) := ⟨rfl, rfl, rfl⟩
theorem mmaPair (dist : BitVec 3) (sa : BitVec 3) (sb : BitVec 3) (d : Opnd) (a : Opnd) (b : Opnd) : Statement (.mmaPair dist sa sb d a b) := ⟨rfl, rfl, rfl⟩
theorem msoft (dist : BitVec 3) (mask : Bool) (slot : BitVec 3) (d : Opnd) (a : Opnd) (b : Opnd) (e : Opnd) : Statement (.msoft dist mask slot d a b e) := ⟨rfl, rfl, rfl⟩
theorem mdrain (dist : BitVec 3) (rscope : RScope) (norm : Bool) (guide : Bool) (add : Bool) (dest : DrainDest) (slot : BitVec 3) (d : Opnd) (a : Opnd) (b : Opnd) (e : Opnd) : Statement (.mdrain dist rscope norm guide add dest slot d a b e) := ⟨rfl, rfl, rfl⟩
theorem mwait (dist : BitVec 3) (d : Opnd) (a : Opnd) : Statement (.mwait dist d a) := ⟨rfl, rfl, rfl⟩
theorem marr (dist : BitVec 3) (d : Opnd) (a : Opnd) (b : Opnd) : Statement (.marr dist d a b) := ⟨rfl, rfl, rfl⟩
theorem msig (dist : BitVec 3) (mask : BitVec 3) : Statement (.msig dist mask) := ⟨rfl, rfl, rfl⟩
theorem mend (dist : BitVec 3) : Statement (.mend dist) := ⟨rfl, rfl, rfl⟩
theorem mpair (dist : BitVec 3) : Statement (.mpair dist) := ⟨rfl, rfl, rfl⟩
theorem mbra (dist : BitVec 3) (off : BitVec 26) : Statement (.mbra dist off) := ⟨rfl, rfl, rfl⟩
theorem mloop (dist : BitVec 3) (a : Opnd) (off : BitVec 26) : Statement (.mloop dist a off) := ⟨rfl, rfl, rfl⟩
theorem mmov (dist : BitVec 3) (d : Opnd) (imm : BitVec 18) : Statement (.mmov dist d imm) := ⟨rfl, rfl, rfl⟩
theorem mmovHi (dist : BitVec 3) (d : Opnd) (imm : BitVec 16) : Statement (.mmovHi dist d imm) := ⟨rfl, rfl, rfl⟩
theorem madd (dist : BitVec 3) (d : Opnd) (a : Opnd) (imm : BitVec 18) : Statement (.madd dist d a imm) := ⟨rfl, rfl, rfl⟩
theorem mstart (c : Ctl) (d : Opnd) (a : Opnd) (b : Opnd) : Statement (.mstart c d a b) := ⟨rfl, rfl, rfl⟩
theorem mstop (c : Ctl) (d : Opnd) : Statement (.mstop c d) := ⟨rfl, rfl, rfl⟩
theorem matrixCommandComplete (cmd : Nat) : Statement (.matrixCommandComplete cmd) := rfl
theorem pairTimeout (seqr : Nat) : Statement (.pairTimeout seqr) := rfl
theorem mpairTimeout (seqr : Nat) : Statement (.mpairTimeout seqr) := rfl
theorem seqStatusUnpair (seqr : Nat) : Statement (.seqStatusUnpair seqr) := rfl
theorem seqStatusRepair (seqr : Nat) : Statement (.seqStatusRepair seqr) := rfl
theorem sysrd (c : Ctl) (d : Opnd) (num : BitVec 10) : Statement (.sysrd c d num) := ⟨rfl, rfl, rfl⟩
theorem syswr (c : Ctl) (num : BitVec 10) (a : Opnd) : Statement (.syswr c num a) := ⟨rfl, rfl, rfl⟩
theorem launch (c : Ctl) (d : Opnd) (a : Opnd) : Statement (.launch c d a) := ⟨rfl, rfl, rfl⟩
theorem vacate (c : Ctl) (d : Opnd) (a : Opnd) (b : Opnd) : Statement (.vacate c d a b) := ⟨rfl, rfl, rfl⟩
theorem rte (c : Ctl) : Statement (.rte c) := ⟨rfl, rfl, rfl⟩
theorem icinv (c : Ctl) (scope : IcScope) : Statement (.icinv c scope) := ⟨rfl, rfl, rfl⟩
theorem dcflush (c : Ctl) (a : Opnd) (b : Opnd) : Statement (.dcflush c a b) := ⟨rfl, rfl, rfl⟩
theorem ctxkill (c : Ctl) (d : Opnd) (a : Opnd) : Statement (.ctxkill c d a) := ⟨rfl, rfl, rfl⟩
theorem pmon (c : Ctl) (clr : Bool) (d : Opnd) (a : Opnd) : Statement (.pmon c clr d a) := ⟨rfl, rfl, rfl⟩
theorem tlbinv (c : Ctl) (scope : TlbScope) (a : Option Opnd) (b : Option Opnd) : Statement (.tlbinv c scope a b) := ⟨rfl, rfl, rfl⟩
theorem haltcore (c : Ctl) (halt : Bool) (d : Opnd) (a : Opnd) : Statement (.haltcore c halt d a) := ⟨rfl, rfl, rfl⟩
theorem timerrd (c : Ctl) (d : Opnd) : Statement (.timerrd c d) := ⟨rfl, rfl, rfl⟩
theorem timerset (c : Ctl) (a : Opnd) : Statement (.timerset c a) := ⟨rfl, rfl, rfl⟩
theorem timerclr (c : Ctl) : Statement (.timerclr c) := ⟨rfl, rfl, rfl⟩
theorem groupTimerExpiry (gid : Nat) : Statement (.groupTimerExpiry gid) := rfl
theorem launchDispatch (part : Nat) : Statement (.launchDispatch part) := rfl
theorem clusterPlace (part : Nat) (park : Nat) : Statement (.clusterPlace part park) := rfl
theorem parkCoreReload (part : Nat) (park : Nat) (cid : Nat) : Statement (.parkCoreReload part park cid) := rfl
theorem teamDone (tid : Nat) : Statement (.teamDone tid) := rfl
theorem parkQuantumExpiry (part : Nat) (park : Nat) : Statement (.parkQuantumExpiry part park) := rfl
theorem parkIdleSteal (part : Nat) (park : Nat) : Statement (.parkIdleSteal part park) := rfl
theorem stealRetryTimeout (part : Nat) (park : Nat) : Statement (.stealRetryTimeout part park) := rfl
theorem countUpdateSend (part : Nat) (src : Nat) (dst : Nat) : Statement (.countUpdateSend part src dst) := rfl
theorem clauseStart (cid : Nat) (pipe : Nat) : Statement (.clauseStart cid pipe) := rfl
theorem clauseFetchDone (gid : Nat) (slice : Nat) : Statement (.clauseFetchDone gid slice) := rfl
theorem ageingSwitch (gid : Nat) (slice : Nat) : Statement (.ageingSwitch gid slice) := rfl
theorem regangTimeout (gid : Nat) : Statement (.regangTimeout gid) := rfl
theorem trapEntry (gid : Nat) : Statement (.trapEntry gid) := rfl
theorem serviceRequestAppend (part : Nat) : Statement (.serviceRequestAppend part) := rfl
theorem clusterVacate (cluster : Nat) : Statement (.clusterVacate cluster) := rfl
theorem vacationCollectiveTimeout (cluster : Nat) : Statement (.vacationCollectiveTimeout cluster) := rfl
theorem contextKill (ctx : Nat) : Statement (.contextKill ctx) := rfl
theorem killComplete (ctx : Nat) : Statement (.killComplete ctx) := rfl
theorem orangeryRevoke (chan : Nat) : Statement (.orangeryRevoke chan) := rfl
theorem snapshotAgeRevoke (tid : Nat) : Statement (.snapshotAgeRevoke tid) := rfl
theorem collectorReclaim (chan : Nat) : Statement (.collectorReclaim chan) := rfl
theorem releaseCommit (rel : Nat) : Statement (.releaseCommit rel) := rfl
theorem settleBufferDrain (pkt : Nat) : Statement (.settleBufferDrain pkt) := rfl
theorem escTimeout (pkt : Nat) : Statement (.escTimeout pkt) := rfl
theorem rowRemapRebuild (row : Nat) : Statement (.rowRemapRebuild row) := rfl
theorem testWindowStart : Statement .testWindowStart := rfl
theorem coreTestStart (cid : Nat) : Statement (.coreTestStart cid) := rfl
theorem rd (pkt : Nat) : Statement (.rd pkt) := rfl
theorem wr (pkt : Nat) : Statement (.wr pkt) := rfl
theorem cmt (pkt : Nat) : Statement (.cmt pkt) := rfl
theorem atom (pkt : Nat) : Statement (.atom pkt) := rfl
theorem red (pkt : Nat) : Statement (.red pkt) := rfl
theorem win (pkt : Nat) : Statement (.win pkt) := rfl
theorem bar (pkt : Nat) : Statement (.bar pkt) := rfl
theorem data (pkt : Nat) : Statement (.data pkt) := rfl
theorem ack (pkt : Nat) : Statement (.ack pkt) := rfl
theorem blk (x : BlkStep) : Statement (.blk x) := rfl
theorem sreq (pkt : Nat) : Statement (.sreq pkt) := rfl
theorem countUpdate (pkt : Nat) : Statement (.countUpdate pkt) := rfl
theorem srep (pkt : Nat) : Statement (.srep pkt) := rfl
theorem cont (x : ContStep) : Statement (.cont x) := rfl
theorem cres (x : CollStep) : Statement (.cres x) := rfl
theorem cstat (x : CollStep) : Statement (.cstat x) := rfl
theorem reductionSlotTimeout (slot : Nat) : Statement (.reductionSlotTimeout slot) := rfl
theorem evacuationDrained : Statement .evacuationDrained := rfl
theorem evacuationDeadline : Statement .evacuationDeadline := rfl
theorem submissionEntryTake (part : Nat) : Statement (.submissionEntryTake part) := rfl
theorem packResultWritten (op : Nat) : Statement (.packResultWritten op) := rfl
theorem ctrl (cid ctx off : Nat) (data : List Byte) : Statement (.ctrl cid ctx off data) := rfl
theorem coreReloadRelease (cid : Nat) : Statement (.coreReloadRelease cid) := rfl
theorem translationWalkDone (cid : Nat) (ctx : Nat) (va : Addr) (kind : AccKind) : Statement (.translationWalkDone cid ctx va kind) := rfl
theorem faultActRetry (part : Nat) (idx : Nat) : Statement (.faultActRetry part idx) := rfl
theorem faultActTrap (part : Nat) (idx : Nat) : Statement (.faultActTrap part idx) := rfl
theorem faultActKill (part : Nat) (idx : Nat) : Statement (.faultActKill part idx) := rfl
theorem strikeReport (x : Strike) : Statement (.strikeReport x) := rfl
theorem powerLimit (cycles : Nat) : Statement (.powerLimit cycles) := rfl
theorem arrayUncorrectableError (x : ArrayError) : Statement (.arrayUncorrectableError x) := rfl
theorem homeChannelFailure (chan : Nat) : Statement (.homeChannelFailure chan) := rfl
theorem routerDeath (px : Nat) (py : Nat) : Statement (.routerDeath px py) := rfl
theorem coreFieldFailure (x : Nat) (y : Nat) : Statement (.coreFieldFailure x y) := rfl
theorem coreTestDone (cid : Nat) (pass : Bool) : Statement (.coreTestDone cid pass) := rfl
theorem multicastWriteArrival (group : Nat) (src : Machine.Member) (pa : Nat) (bytes : List (Option Byte)) : Statement (.multicastWriteArrival group src pa bytes) := rfl
theorem colPortDown (port : Nat) : Statement (.colPortDown port) := rfl
theorem busPowerApplied : Statement .busPowerApplied := rfl
theorem mainPowerApplied : Statement .mainPowerApplied := rfl
theorem mainPowerRemoved : Statement .mainPowerRemoved := rfl
theorem busPowerRemoved : Statement .busPowerRemoved := rfl
theorem imageVerifyDone (kind : Nat) (image : List Byte) : Statement (.imageVerifyDone kind image) := rfl
theorem fjondanRunning : Statement .fjondanRunning := rfl
theorem functionSelfTestDone (unitKind : Nat) (unitNo : Nat) (pass : Bool) : Statement (.functionSelfTestDone unitKind unitNo pass) := rfl
theorem evacuationCommand (receiver : Nat × Nat × Nat) (accepted : Bool) : Statement (.evacuationCommand receiver accepted) := rfl
theorem evacuationFailure : Statement .evacuationFailure := rfl
theorem evacuationReceive (sundial : Nat) (coords : Nat × Nat × Nat) (shipped : Machine.Shipment) :
    Statement (.evacuationReceive sundial coords shipped) := rfl
theorem evidenceRequest (nonce : List Byte) (part : Option Nat) : Statement (.evidenceRequest nonce part) := rfl
theorem identityStoreRead (off : Nat) (count : Nat) : Statement (.identityStoreRead off count) := rfl
theorem partitionCreate (p : PartitionSpec) : Statement (.partitionCreate p) := rfl
theorem partitionDestroy (part : Nat) : Statement (.partitionDestroy part) := rfl
theorem sqTail (part : Nat) (tail : Word) : Statement (.sqTail part tail) := rfl
theorem sqEn (part : Nat) (enable : Bool) : Statement (.sqEn part enable) := rfl
theorem hostWrite (fn : Nat) (addr : Nat) (bytes : List (Option Byte)) : Statement (.hostWrite fn addr bytes) := rfl
theorem hostRead (fn : Nat) (addr : Nat) (count : Nat) : Statement (.hostRead fn addr count) := rfl
theorem fjondanMailbox (off : Nat) (bytes : List Byte) : Statement (.fjondanMailbox off bytes) := rfl
theorem conventionalReset : Statement .conventionalReset := rfl
theorem vfFunctionLevelReset (part : Nat) : Statement (.vfFunctionLevelReset part) := rfl
theorem pf0FunctionLevelReset : Statement .pf0FunctionLevelReset := rfl
theorem backInvalidationDone (ts : Nat) : Statement (.backInvalidationDone ts) := rfl
theorem farMemoryCompletion (ts : Nat) : Statement (.farMemoryCompletion ts) := rfl
theorem receiverAcknowledgement : Statement .receiverAcknowledgement := rfl
theorem systemCoreRestart (n : Nat) : Statement (.systemCoreRestart n) := rfl
theorem storedMinimumRaise (kind : Nat) (slot : Nat) (svn : Nat) : Statement (.storedMinimumRaise kind slot svn) := rfl
theorem keySlotEnrolment (slot : Nat) (key : List Byte) (part : Option Nat) : Statement (.keySlotEnrolment slot key part) := rfl

end Mapped
end Sys2Proof.Laws
end

