-- ==== Sys2Proof/Tests/Slice0.lean ====
section
/-! SUPPORT. Tests of the model, and for each statement states and operands that meet its hypotheses. Expected words
and values are written out from the manual's encodings and rules. -/

open Sys2Proof Sys2Proof.Machine

namespace Sys2Proof.Tests

set_option maxRecDepth 100000
set_option Elab.async false

/-! ### Helpers -/

/-- No control beyond the instruction: DIST 0, no flag, k0. -/
def c0 : Ctl := ⟨0, 15, 0⟩

/-- One group of one team at issue on core 0, at the only instruction of a clause at address 0. -/
def base : State := State.withFetchTeam State.reset 0

/-- That gang. -/
def gang : Iss := ⟨0, 0, 512, List.range 8, 0, 0, 1⟩

/-- `Ready`, as it is computed. -/
def readyB (s : State) (m : Meta) (iss : Iss) : Bool :=
  decide (s.issOf = some iss) && decide (s.arrPoison = []) && decide iss.slices.Nodup && decide (iss.slices ≠ []) && iss.slices.all (fun i => i < 8)
    && !s.illegalHere m iss && !s.heldBack m iss
    && (s.group iss.gid).hazards.all (fun h => State.readable (s.issueAt m iss) h)
    && (!m.vec || s.issueL m iss != 0)

theorem ready_of {s : State} {m : Meta} {iss : Iss} (h : readyB s m iss = true) : Ready s m iss := by
  simp only [readyB, Bool.and_eq_true, decide_eq_true_eq, Bool.not_eq_true', List.all_eq_true, Bool.or_eq_true] at h
  obtain ⟨⟨⟨⟨⟨⟨⟨⟨h1, h0⟩, h2⟩, h3⟩, h4⟩, h5⟩, h6⟩, h7⟩, h8⟩ := h
  exact ⟨h1, ⟨h2, h3, h4⟩, h5, h6, h7, h0, fun hv => by simpa [hv] using h8⟩

/-- An instruction that is well formed, and may complete. -/
def Meets (s : State) (iss : Iss) (p : Instr × Meta) : Prop := p.1.wf = true ∧ Ready s p.2 iss

theorem meets_of {s : State} {iss : Iss} {l : List (Instr × Meta)}
    (h : (l.all fun p => p.1.wf && readyB s p.2 iss) = true) : ∀ p ∈ l, Meets s iss p := fun p hp => by
  have := List.all_eq_true.mp h p hp
  rw [Bool.and_eq_true] at this
  exact ⟨this.1, ready_of this.2⟩

/-- In each of some states each of some instructions is well formed, and may complete. -/
def AllMeet (ss : List State) (iss : Iss) (l : List (Instr × Meta)) : Prop := ∀ s ∈ ss, ∀ p ∈ l, Meets s iss p

theorem allMeet_of {ss : List State} {iss : Iss} {l : List (Instr × Meta)}
    (h : (ss.all fun s => l.all fun p => p.1.wf && readyB s p.2 iss) = true) : AllMeet ss iss l := fun s hs =>
  meets_of (List.all_eq_true.mp h s hs)

/-- With no packet on its way, none goes astray. -/
theorem contained_of {s : State} (h : s.packets = []) : Contained s := fun e he => by simp [h] at he

/-- Slice 0 alone at issue, with lane 0 alone in EXEC. -/
def lone : Iss := ⟨0, 0, 512, [0], 0, 0, 1⟩
def one : State :=
  ({ base with cur := .gang 0 0 512 [0] 0 0 1 }).modSlices 512 [0] fun x => { x with exec := 1, path := 1 }

/-- `one` with its context's tables mapping the first 1 GiB of virtual addresses to the same physical ones, readable, writable
and executable: a table entry at 0x10000, a leaf at 0x20000 (R180); every home is ready. -/
def mapped : State :=
  { (one.modDev fun d => { d with chansReady := List.range 2048 }).modCtx 0 fun c => { c with root := 0x10000 } with mem := [(0x10000, 1), (0x10002, 2), (0x20000, 0x3B)] }

/-- `Reaches`, as it is computed. -/
def reachesB (s : State) (iss : Iss) (need : Need) (noGroup : Bool) (size : Nat) (l : List Want) : Bool :=
  match checked s iss need noGroup size l with
  | .ok (acc, _) => acc.all fun a => canonPa a.pa < devRegBase
  | _ => false

theorem reaches_of {s : State} {iss : Iss} {need : Need} {noGroup : Bool} {size : Nat} {l : List Want}
    (h : reachesB s iss need noGroup size l = true) : ∃ acc, Reaches s iss need noGroup size l acc := by
  unfold reachesB at h
  split at h
  · rename_i acc v e
    exact ⟨acc, ⟨v, e⟩, fun a ha => by simpa using List.all_eq_true.mp h a ha⟩
  · cases h


/-! ### Integer forms -/

/-- Every form of O9, with a vector and with a slice-scalar destination. -/
theorem witness_integerArithmetic : ∀ p ∈ [
    (Instr.add c0 .i32 true (.v 3) (.v 1) (.v 2), Meta.reg c0 true 2 [(.v 3, false)] [(.v 1, false), (.v 2, false)]),
    (.sub c0 .n32 false (.s 3) (.s 1) (.s 2), .reg c0 false 2 [(.s 3, false)] [(.s 1, false), (.s 2, false)]),
    (.mul c0 .i8 true (.v 3) (.v 1) (.s 2), .reg c0 true 4 [(.v 3, false)] [(.v 1, false), (.s 2, false)]),
    (.mulh c0 .i64 (.v 4) (.v 2) (.v 2), .reg c0 true 4 [(.v 4, true)] [(.v 2, true), (.v 2, true)]),
    (.mad c0 .i32 false (.v 3) (.v 1) (.v 2) (.v 3),
      .reg c0 true 4 [(.v 3, false)] [(.v 1, false), (.v 2, false), (.v 3, false)]),
    (.min c0 .n16 (.v 3) (.v 1) (.pos 10), .reg c0 true 2 [(.v 3, false)] [(.v 1, false), (.pos 10, false)]),
    (.max c0 .i32 (.v 3) (.v 1) (.sp .laneId), .reg c0 true 2 [(.v 3, false)] [(.v 1, false), (.sp .laneId, false)])],
    Meets base gang p := meets_of (by decide +kernel)

/-- Every form of O10. -/
theorem witness_integerBitAndField : ∀ p ∈ [
    (Instr.and c0 .i32 (.v 3) (.v 1) (.v 2), Meta.reg c0 true 2 [(.v 3, false)] [(.v 1, false), (.v 2, false)]),
    (.or c0 .n64 (.s 4) (.s 6) (.s 2), .reg c0 false 4 [(.s 4, true)] [(.s 6, true), (.s 2, true)]),
    (.xor c0 .i32 (.v 3) (.v 1) (.v 2), .reg c0 true 2 [(.v 3, false)] [(.v 1, false), (.v 2, false)]),
    (.not c0 .i32 (.v 3) (.v 1), .reg c0 true 2 [(.v 3, false)] [(.v 1, false)]),
    (.shl c0 .i32 (.v 3) (.v 1) (.pos 31), .reg c0 true 2 [(.v 3, false)] [(.v 1, false), (.pos 31, false)]),
    (.shr c0 .n32 (.v 3) (.v 1) (.v 2), .reg c0 true 2 [(.v 3, false)] [(.v 1, false), (.v 2, false)]),
    (.sar c0 .i64 (.v 4) (.v 2) (.v 1), .reg c0 true 4 [(.v 4, true)] [(.v 2, true), (.v 1, false)]),
    (.rol c0 .n8 (.v 3) (.v 1) (.v 2), .reg c0 true 2 [(.v 3, false)] [(.v 1, false), (.v 2, false)]),
    (.clz c0 .n32 (.v 3) (.v 1), .reg c0 true 2 [(.v 3, false)] [(.v 1, false)]),
    (.popc c0 .n32 (.v 3) (.v 1), .reg c0 true 2 [(.v 3, false)] [(.v 1, false)]),
    (.brev c0 .n32 (.v 3) (.v 1), .reg c0 true 2 [(.v 3, false)] [(.v 1, false)]),
    (.mov c0 .i64 (.s 4) (.sp .paramLo), .reg c0 false 4 [(.s 4, true)] [(.sp .paramLo, true)]),
    (.bfe c0 .i32 (.v 3) (.v 1) (.v 2), .reg c0 true 2 [(.v 3, false)] [(.v 1, false), (.v 2, false)]),
    (.bfi c0 .n32 (.v 3) (.v 1) (.v 2) (.s 1), .reg c0 true 2 [(.v 3, false)] [(.v 1, false), (.v 2, false), (.s 1, false)]),
    (.sel c0 .i32 (.v 3) (.v 1) (.v 2) (.k 1),
      { Meta.reg c0 true 2 [(.v 3, false)] [(.v 1, false), (.v 2, false), (.k 1, false)] with readsExec := true })],
    Meets base gang p := meets_of (by decide +kernel)

/-- Every form of O11. -/
theorem witness_addressAndWide : ∀ p ∈ [
    (Instr.addx c0 .i32 (.s 4) (.s 6) (.s 1), Meta.reg c0 false 4 [(.s 4, true)] [(.s 6, true), (.s 1, false)]),
    (.subx c0 .n32 (.v 4) (.v 6) (.v 1), .reg c0 true 4 [(.v 4, true)] [(.v 6, true), (.v 1, false)]),
    (.lea c0 .n32 7 (.v 4) (.s 6) (.v 1), .reg c0 true 2 [(.v 4, true)] [(.s 6, true), (.v 1, false)]),
    (.leax c0 .i32 0 (.s 4) (.s 6) (.s 1) (.s 2), .reg c0 false 4 [(.s 4, true)] [(.s 6, true), (.s 1, false), (.s 2, false)]),
    (.leaImm c0 4 (.s 4) (.s 6) 262143, .reg c0 false 2 [(.s 4, true)] [(.s 6, true)]),
    (.movw c0 (.v 4) 0xFFFFFFFF, .reg c0 true 2 [(.v 4, false)] []),
    (.movwx c0 (.s 4) 0x200000000, .reg c0 false 4 [(.s 4, true)] []),
    (.addwx c0 (.s 30) 1, .reg c0 false 4 [(.s 30, true)] [(.s 30, true)]),
    (.movwh c0 (.s 30) 1, .reg c0 false 4 [(.s 31, false)] [])],
    Meets base gang p := meets_of (by decide +kernel)

/-- Every form of O12. -/
theorem witness_integerImmediate :
    let m (lat : Nat) : Meta := .reg c0 true lat [(.v 3, false)] [(.v 1, false)]
    ∀ p ∈ [(Instr.addImm c0 .i32 true (.v 3) (.v 1) 131072, m 2), (.subImm c0 .i32 false (.v 3) (.v 1) 131071, m 2),
      (.mulImm c0 .i32 true (.v 3) (.v 1) 7, m 4), (.minImm c0 .i32 (.v 3) (.v 1) 7, m 2), (.maxImm c0 .i32 (.v 3) (.v 1) 7, m 2),
      (.andImm c0 .i32 (.v 3) (.v 1) 7, m 2), (.orImm c0 .i32 (.v 3) (.v 1) 7, m 2), (.xorImm c0 .i32 (.v 3) (.v 1) 7, m 2),
      (.shlImm c0 .i32 (.v 3) (.v 1) 7, m 2), (.shrImm c0 .n32 (.v 3) (.v 1) 7, m 2), (.sarImm c0 .i32 (.v 3) (.v 1) 7, m 2),
      (.rolImm c0 .n32 (.v 3) (.v 1) 7, m 2), (.movImm c0 .i32 (.v 3) 7, .reg c0 true 2 [(.v 3, false)] [])],
    Meets base gang p := meets_of (by decide +kernel)

/-! ### Masks, lanes and floats -/

/-- CMP and FCMP in both forms. -/
theorem witness_compares : ∀ p ∈ [
    (Instr.cmp c0 .i32 .lt (.k 1) (.v 1) (.pos 10),
      { Meta.reg c0 true 2 [(.k 1, false)] [(.v 1, false), (.pos 10, false)] with exact := true }),
    (.cmp c0 .n64 .ge (.k 7) (.s 2) (.s 4), { Meta.reg c0 false 4 [(.k 7, false)] [(.s 2, true), (.s 4, true)] with exact := true }),
    (.fcmp c0 .unord ⟨true, false, false, true⟩ (.k 1) (.v 1) (.v 2),
      { Meta.reg c0 true 4 [(.k 1, false)] [(.v 1, false), (.v 2, false)] with exact := true })],
    Meets base gang p := meets_of (by decide +kernel)

/-- The mask instructions. -/
theorem witness_masks :
    let m (l : List (Opnd × Bool)) : Meta := .mask c0 [(.k 1, false)] l
    let kk : List (Opnd × Bool) := [(.k 2, false), (.k 0, false)]
    ∀ p ∈ [(Instr.kand c0 (.k 1) (.k 2) (.k 0), m kk), (.kor c0 (.k 1) (.k 2) (.k 0), m kk), (.kxor c0 (.k 1) (.k 2) (.k 0), m kk),
      (.knot c0 (.k 1) (.k 2), m [(.k 2, false)]), (.kmov c0 (.k 1) (.s 3), m [(.s 3, false)]),
      (.execget c0 (.k 1), { m [] with readsExec := true }),
      (.execget c0 (.s 2), { Meta.mask c0 [(.s 2, false)] [] with readsExec := true }),
      (.ktest c0 (.s 2) (.k 2) (.k 0), .mask c0 [(.s 2, false)] kk),
      (.execset c0 (.pos 5), { Meta.mask c0 [] [(.pos 5, false)] with setsExec := true })],
    Meets base gang p := meets_of (by decide +kernel)

/-- Lane exchange and prefixes. -/
theorem witness_lanes : ∀ p ∈ [
    (Instr.shfl c0 .xor .w32 (.v 3) (.v 1) (.pos 16), Meta.reg c0 true 6 [(.v 3, false)] [(.v 1, false), (.pos 16, false)]),
    (.shfl c0 .up .w4 (.v 3) (.v 1) (.v 2), .reg c0 true 6 [(.v 3, false)] [(.v 1, false), (.v 2, false)]),
    (.ballot c0 (.v 3) (.k 1), .reg c0 true 6 [(.v 3, false)] [(.k 1, false)]),
    (.vote c0 .all (.k 1) (.v 1), { Meta.reg c0 true 6 [(.k 1, false)] [(.v 1, false)] with exact := true }),
    (.laneid c0 .rank (.v 3), .reg c0 true 6 [(.v 3, false)] []),
    (.psum c0 .i32 true true (.v 3) (.v 1), .reg c0 true 12 [(.v 3, false)] [(.v 1, false)]),
    (.pmax c0 .n64 false (.v 4) (.v 2), .reg c0 true 12 [(.v 4, true)] [(.v 2, true)])],
    Meets base gang p := meets_of (by decide +kernel)

/-- No modifier. -/
def md0 : FMods := ⟨false, false, false, false⟩

/-- `base` with the bits of 1.0 in v1 and of -1.0 in v2 of lane 0, and the trap of DZ enabled. -/
def floats : State :=
  (((base.wrV 512 0 1 0x3F800000).wrV 512 0 2 0xBF800000).modTeam 16 fun t => { t with fpTrapen := 2 })

/-- Float arithmetic: in `base`, where all sources are +0, no sum or product raises a condition; in `floats` FRCP of 0 raises DZ,
whose trap is enabled. -/
theorem witness_floats :
    let m (l : List (Opnd × Bool)) : Meta := .reg c0 true 4 [(.v 3, false)] l
    let two : List (Opnd × Bool) := [(.v 1, false), (.v 2, false)]
    (∀ p ∈ [(Instr.fadd c0 .f32 .rne false md0 (.v 3) (.v 1) (.v 2), m two), (.fsub c0 .f16x2 .rtz true md0 (.v 3) (.v 1) (.v 2), m two),
      (.fmul c0 .bf16x2 .rne false md0 (.v 3) (.v 1) (.v 2), m two),
      (.ffma c0 .f32 .rne false md0 true (.v 3) (.v 1) (.v 2) (.v 3), m (two ++ [(.v 3, false)])),
      (.fmin c0 .f32 false md0 (.v 3) (.v 1) (.v 2), m two), (.fmax c0 .f32 false md0 (.v 3) (.v 1) (.v 2), m two)],
      Meets base gang p) ∧ (base.team 16).fpTrapen = 0 := ⟨meets_of (by decide +kernel), by decide +kernel⟩

/-! ### Control flow -/

/-- `n` entries without a pending path on every split stack of the gang. -/
def stacked (s : State) (n : Nat) : State :=
  s.modSlices 512 (List.range 8) fun x => { x with stack := List.replicate n ⟨64, 15, none, 0⟩ }

/-- Branches, calls and indirect transfers, TRAP, YIELD and NOP; in `base` every register reads 0, so every pair is aligned. -/
theorem witness_transfers :
    let m := Meta.flow c0
    (∀ p ∈ [(Instr.bra c0 (-1), m [] []), (.braz c0 (.s 1) 33554431, m [] [(.s 1, false)]), (.branz c0 (.s 1) 2, m [] [(.s 1, false)]),
      (.call c0 (.s 30) 2, m [(.s 30, true)] []), (.calli c0 (.s 2) (.s 2), m [(.s 2, true)] [(.s 2, true)]),
      (.ret c0 (.s 2), m [] [(.s 2, true)]), (.jmpi c0 (.s 2), m [] [(.s 2, true)]), (.trap c0 (.pos 7), m [] [(.pos 7, false)]),
      (.yield c0, m [] []), (.nop c0, m [] [])], Meets base gang p)
      ∧ ∀ j ∈ gang.slices, (base.rd64 gang.gid j 0 (.s 2)).toNat % 8 = 0 := ⟨meets_of (by decide +kernel), by decide +kernel⟩

/-- A pair that is not aligned, in the slice of lowest SLICE.ID and in the last. -/
theorem witness_misalignedTargets :
    let m := Meta.flow c0
    let first := base.wrS 512 0 2 4
    let last := base.wrS 512 7 2 1
    AllMeet [first, last] gang [(.ret c0 (.s 2), m [] [(.s 2, true)]), (.jmpi c0 (.s 2), m [] [(.s 2, true)]),
      (.calli c0 (.s 4) (.s 2), m [(.s 4, true)] [(.s 2, true)])]
      ∧ (first.rd64 512 0 0 (.s 2)).toNat % 8 ≠ 0
      ∧ (last.rd64 512 7 0 (.s 2)).toNat % 8 ≠ 0 ∧ ∀ h ∈ List.range 7, (last.rd64 512 h 0 (.s 2)).toNat % 8 = 0 :=
  ⟨allMeet_of (by decide +kernel), by decide +kernel⟩

/-- BRX with room (15 entries) and with a full stack (16); JOIN with an entry and with none. -/
theorem witness_brxJoin :
    let m : Meta := { Meta.flow c0 [] [] with readsExec := true, readsPm := true }
    let full (s : State) : Prop := ∃ j ∈ gang.slices, (s.slice gang.gid j).exec ≠ 0 ∧ 16 ≤ (s.slice gang.gid j).stack.length
    AllMeet [stacked base 15, stacked base 16] gang [(.brx c0 9 6, m)] ∧ AllMeet [stacked base 1, base] gang [(.join c0, .flow c0 [] [])]
      ∧ ¬full (stacked base 15) ∧ full (stacked base 16)
      ∧ (∀ j ∈ gang.slices, ((stacked base 1).slice gang.gid j).stack ≠ []) ∧ ∃ j ∈ gang.slices, (base.slice gang.gid j).stack = [] :=
  ⟨allMeet_of (by decide +kernel), allMeet_of (by decide +kernel), by decide +kernel⟩

/-- `base` with a transaction open. -/
def txOpen (s : State) : State :=
  s.modGroup 512 fun g => { g with tx := some ⟨0, false, 64, [(0x400, 7)], false, 0, 0, List.replicate 8 ⟨15, 15, []⟩⟩ }

/-- EXIT of the whole group, of one slice of several, and with a transaction open; REGANG of one slice of several, and of all. -/
theorem witness_exitRegang :
    let m := Meta.flow c0 [] []
    let alone : State := { base with cur := .gang 0 0 512 [0] 0 0 1 }
    AllMeet [base] gang [(.exit c0, m), (.regang c0, m)] ∧ AllMeet [alone] lone [(.exit c0, m), (.regang c0, m)]
      ∧ AllMeet [txOpen base] gang [(.exit c0, m)] ∧ (base.group 512).tx = none
      ∧ (∀ j ∈ base.sliceNos 512, j ∉ gang.slices → (base.slice 512 j).st = .done) ∧ (∀ j ∈ gang.slices, (base.slice 512 j).stack = [])
      ∧ (∀ j ∈ gang.slices, j ∈ base.liveSlices 512)
      ∧ (∀ j ∈ base.liveSlices 512, j ∉ gang.slices → (base.slice 512 j).st = .regangWait)
      ∧ (alone.group 512).tx = none
      ∧ (∃ j ∈ alone.liveSlices 512, j ∉ lone.slices ∧ (alone.slice 512 j).st ≠ .regangWait)
      ∧ (∀ j ∈ lone.slices, j ∈ alone.liveSlices 512)
      ∧ ((txOpen base).group 512).tx ≠ none :=
  ⟨allMeet_of (by decide +kernel), allMeet_of (by decide +kernel), allMeet_of (by decide +kernel), by decide +kernel⟩

/-- EXIT inside a split: lane 0 ends, and the pending path of the others is current. -/
theorem witness_exitInSplit :
    let x : Slice := { Slice.start 0 with exec := 1, path := 1, stack := [⟨64, 15, some ⟨72, 14, 14⟩, 0⟩] }
    x.stack ≠ [] ∧ (exitSlice 0 x).exec = 14 ∧ (exitSlice 0 x).exited = 1 ∧ (exitSlice 0 x).pc = 72 := by decide +kernel

/-- A trap is taken with a frame slot free and a vector set; one in a handler, and one with every slot taken, are not. -/
theorem witness_takingATrap :
    let s := base.modCtx 0 fun c => { c with trapvec := 0x8000 }
    let t := s.team (tidOf 512)
    let inside := s.modGroup 512 fun g => { g with frame := some 0 }
    let full := s.modCore 0 fun c => { c with frames := List.replicate 6 (some 3) }
    isSys t.core = false ∧ (s.group 512).frame = none ∧ s.freeSlot t.core = some 0 ∧ (s.ctx t.ctx).trapvec.extractLsb' 0 56 ≠ 0
      ∧ (base.ctx t.ctx).trapvec.extractLsb' 0 56 = 0 ∧ base.freeSlot t.core = some 0 ∧ (s.group 512).restarts = []
      ∧ (t.accReq.all fun r => r.gid != 512) ∧ (∀ i ∈ s.sliceNos 512, (s.slice 512 i).stack.length ≤ 16)
      ∧ (inside.group 512).frame = some 0 ∧ (inside.ctx t.ctx).killed = false ∧ (inside.ctx t.ctx).killing = none
      ∧ (full.group 512).frame = none ∧ full.freeSlot t.core = none := by decide +kernel


/-! ### Scratchpad and windows -/

/-- A place's offset in s1 and v1, in an allocation of 48 bytes; a second team to the east, on core 1. -/
def offAt (n : Word) : State :=
  let s := ((one.wrS 512 0 1 n).wrV 512 0 1 n).modTeam 16 fun t => { t with scrSize := 48, part := 0 }
  let s := { s with teams := sput s.teams 17 { s.team 16 with core := 1, tx := 1 } }
  s.modCluster 0 fun c => { c with teams := [16, 17] }

/-- The last byte of the allocation (47), and the first out of range (48), which wraps to no byte (R176); west of the team there is
no neighbour, east of it one, whose offset is mapped as its own. -/
theorem witness_scratchpad :
    let a (vec : Bool) : Opnd := if vec then .v 1 else .s 1
    let ds (vec : Bool) : List (Opnd × Bool) := [(if vec then .v 3 else .s 3, false)]
    let ml (vec : Bool) : Meta := .scr c0 vec false (some 4) (ds vec) [(a vec, false)]
    let ms (vec : Bool) : Meta := .scr c0 vec true none [] (ds vec ++ [(a vec, false)])
    let wl (vec : Bool) : Meta := { Meta.scr c0 vec false none (ds vec) [(a vec, false)] with ctr := some .loads, opFlag := true }
    let ws (vec : Bool) : Meta := { ms vec with ctr := some .stores, opFlag := true }
    let l := fun dir => [(Instr.lds c0 .b true (.v 3) (.v 1) 0, ml true), (.ldss c0 .b false (.s 3) (.s 1) 0, ml false),
      (.sts c0 .b (.v 3) (.v 1) 0, ms true), (.stss c0 .b (.s 3) (.s 1) 0, ms false),
      (.ldw c0 .b dir true (.v 3) (.v 1) 0, wl true), (.ldws c0 .b dir true (.s 3) (.s 1) 0, wl false),
      (.stw c0 .b dir (.v 3) (.v 1) 0, ws true), (.stws c0 .b dir (.s 3) (.s 1) 0, ws false)]
    (∀ p ∈ l .w, Meets (offAt 47) lone p) ∧ (∀ p ∈ l .e, Meets (offAt 48) lone p) ∧ (∀ p ∈ l .e, Meets (offAt 47) lone p)
      ∧ (offAt 47).loadPoisoned lone true c0 .b (.v 1) 0 = false ∧ (offAt 47).loadPoisoned lone false c0 .b (.s 1) 0 = false
      ∧ Idle (offAt 47) lone ∧ Contained (offAt 47) ∧ (offAt 47).inReach ((offAt 47).team 16).part (.core ((offAt 47).team 17).core) = true
      ∧ (offAt 47).mapOff 16 .l0 (effOff ((offAt 47).rd32 512 0 0 (.s 1)) 0 1) = some 47
      ∧ (offAt 48).mapOff 16 .l0 (effOff ((offAt 48).rd32 512 0 0 (.s 1)) 0 1) = none
      ∧ (offAt 47).neighbour 16 .w = none ∧ (offAt 47).neighbour 16 .e = some 17
      ∧ (offAt 47).mapOff 17 .l0 (effOff ((offAt 47).rd32 512 0 0 (.s 1)) 0 1) = some 47 :=
  ⟨meets_of (by decide +kernel), meets_of (by decide +kernel), meets_of (by decide +kernel), by decide +kernel, by decide +kernel, ⟨rfl, rfl⟩,
    contained_of rfl, by decide +kernel⟩

/-! ### Global memory -/

/-- Accesses at address 0 with every check passed, and nothing outstanding. -/
theorem witness_globalLoads :
    let g (vec : Bool) (d : Opnd) : Meta := .glob c0 vec false (some .loads) [(d, false)] [(.s 2, true)]
    let mt : Meta := { Meta.glob c0 false true (some .tiles) [] [(.s 2, true), (.s 1, false)] with sys := false }
    let s (m : Meta) := mapped.issuing m lone
    let none_ : Nat → Nat → List Byte := fun _ _ => []
    (∀ p ∈ [(Instr.ld c0 .w .acq .device false (.v 3) (.s 2) 2047, g true (.v 3)), (.ldsc c0 .w .rlx .team false (.s 3) (.s 2) 0, g false (.s 3)),
      (.snap c0 .rlx .team true (.s 4) (.s 2) 0, .glob c0 false false (some .loads) [(.s 4, true)] [(.s 2, true)]),
      (.ldt c0 .rlx .team (.t 3) (.s 2) (.s 1) 0, mt), (.pref c0 .b .team (.s 2) 0, .glob c0 (isVec [.s 2]) false none [] [(.s 2, true)])],
      Meets mapped lone p)
      ∧ Idle mapped lone ∧ Contained mapped ∧ (mapped.team 16).revoked = false
      ∧ (∃ acc, Reaches (s (g true (.v 3))) lone .read1 false 4 (mapped.wants lone true 0 (.s 2) 0 4 none_ none_) acc)
      ∧ (∃ acc, Reaches (s (g false (.s 3))) lone .read1 false 4 (mapped.wants lone false 0 (.s 2) 0 4 none_ none_) acc)
      ∧ ∃ l acc, tileAccesses (s mt) lone (.s 2) (.s 1) 0 (fun _ => []) = .ok l ∧ Reaches (s mt) lone .read1 false 32 l acc := by
  intro g mt s none_
  refine ⟨meets_of (by decide +kernel), ⟨rfl, rfl⟩, contained_of rfl, by decide +kernel, reaches_of (by decide +kernel), reaches_of (by decide +kernel), ?_⟩
  obtain ⟨acc, h⟩ := reaches_of (s := s mt) (iss := lone) (need := .read1) (noGroup := false) (size := 32) (l := tileWants 0 0 0 fun _ => [])
    (by decide +kernel)
  exact ⟨tileWants 0 0 0 fun _ => [], acc, by decide +kernel, h⟩

/-- Stores at address 0 with every check passed; and the first lane misaligned at address 2 with a 4-byte size. -/
theorem witness_globalStores :
    let g (vec : Bool) (d : Opnd) (rel : Bool) : Meta := { Meta.glob c0 vec true (some .stores) [] [(d, false), (.s 2, true)] with bound := rel }
    let gl (vec : Bool) (d : Opnd) : Meta := .glob c0 vec false (some .loads) [(d, false)] [(.s 2, true)]
    let mt : Meta := { Meta.glob c0 false true (some .tiles) [] [(.s 2, true), (.s 1, false)] with sys := false, bound := false }
    let s (m : Meta) := mapped.issuing m lone
    let data (d : Opnd) (i l : Nat) : List Byte := leBytes 4 (mapped.rdW false 512 i l d).toNat
    let none_ : Nat → Nat → List Byte := fun _ _ => []
    let odd := mapped.wrS 512 0 2 2
    (∀ p ∈ [(Instr.st c0 .w .rel .device (.v 3) (.s 2) 0, g true (.v 3) true), (.stsc c0 .w .rlx .team (.s 3) (.s 2) 0, g false (.s 3) false),
      (.stt c0 .rlx .team (.t 3) (.s 2) (.s 1) 0, mt)], Meets mapped lone p)
      ∧ Idle mapped lone ∧ Contained mapped ∧ (mapped.group 512).tx = none
      ∧ (∃ acc, Reaches (s (g true (.v 3) true)) lone .write1 false 4 (mapped.wants lone true 0 (.s 2) 0 4 (data (.v 3)) none_) acc)
      ∧ (∃ acc, Reaches (s (g false (.s 3) false)) lone .write1 false 4 (mapped.wants lone false 0 (.s 2) 0 4 (data (.s 3)) none_) acc)
      ∧ (∃ l acc, tileAccesses (s mt) lone (.s 2) (.s 1) 0 (fun g => mreads mapped.tiles (tileKey (mapped.bankOf 16 3) 3 + 32 * g) 32) = .ok l
        ∧ Reaches (s mt) lone .write1 false 32 l acc)
      ∧ (∀ p ∈ [(Instr.st c0 .w .rel .device (.v 3) (.s 2) 0, g true (.v 3) true), (.stsc c0 .w .rlx .team (.s 3) (.s 2) 0, g false (.s 3) false),
        (.ld c0 .w .acq .device false (.v 3) (.s 2) 0, gl true (.v 3)), (.ldsc c0 .w .rlx .team false (.s 3) (.s 2) 0, gl false (.s 3))],
        Meets odd lone p)
      ∧ odd.targets lone true 0 = [] ++ (0, 0) :: [] ∧ odd.targets lone false 0 = [] ++ (0, 0) :: []
      ∧ effAddr (odd.rd64 512 0 0 (.s 2)) 0 4 % 4 ≠ 0 := by
  intro g gl mt s data none_ odd
  refine ⟨meets_of (by decide +kernel), ⟨rfl, rfl⟩, contained_of rfl, by decide +kernel, reaches_of (by decide +kernel), reaches_of (by decide +kernel), ?_,
    meets_of (by decide +kernel), by decide +kernel, by decide +kernel, by decide +kernel⟩
  obtain ⟨acc, h⟩ := reaches_of (s := s mt) (iss := lone) (need := .write1) (noGroup := false) (size := 32)
    (l := tileWants 0 0 0 fun g => mreads mapped.tiles (tileKey (mapped.bankOf 16 3) 3 + 32 * g) 32) (by decide +kernel)
  exact ⟨tileWants 0 0 0 fun g => mreads mapped.tiles (tileKey (mapped.bankOf 16 3) 3 + 32 * g) 32, acc, by decide +kernel, h⟩

/-- Atomics and reductions at address 0, in vector and in slice-scalar form, with and without a release. -/
theorem witness_atomicsAndReductions :
    let i (op : AOp) (ord : Order) : Instr := match op with
      | .add => .atomAdd c0 .w ord .device (.v 4) (.s 2) (.v 5) 0
      | .min => .atomMin c0 .w ord .device (.v 4) (.s 2) (.v 5) 0
      | .max => .atomMax c0 .w ord .device (.v 4) (.s 2) (.v 5) 0
      | .minn => .atomMinn c0 .w ord .device (.v 4) (.s 2) (.v 5) 0
      | .maxn => .atomMaxn c0 .w ord .device (.v 4) (.s 2) (.v 5) 0
      | .and => .atomAnd c0 .w ord .device (.v 4) (.s 2) (.v 5) 0
      | .or => .atomOr c0 .w ord .device (.v 4) (.s 2) (.v 5) 0
      | .xor => .atomXor c0 .w ord .device (.v 4) (.s 2) (.v 5) 0
      | .swap => .atomSwap c0 .w ord .device (.v 4) (.s 2) (.v 5) 0
      | .cas => .atomCas c0 .w ord .device (.v 4) (.s 2) (.v 5) 0
      | .fadd => .atomFadd c0 ord .device (.v 4) (.s 2) (.v 5) 0
    let r (op : AOp) (ord : Order) : Instr := match op with
      | .add => .redAdd c0 .w ord .device (.s 4) (.s 2) 0
      | .min => .redMin c0 .w ord .device (.s 4) (.s 2) 0
      | .max => .redMax c0 .w ord .device (.s 4) (.s 2) 0
      | .minn => .redMinn c0 .w ord .device (.s 4) (.s 2) 0
      | .maxn => .redMaxn c0 .w ord .device (.s 4) (.s 2) 0
      | .and => .redAnd c0 .w ord .device (.s 4) (.s 2) 0
      | .or => .redOr c0 .w ord .device (.s 4) (.s 2) 0
      | .xor => .redXor c0 .w ord .device (.s 4) (.s 2) 0
      | _ => .redFadd c0 ord .device (.s 4) (.s 2) 0
    let ops : List AOp := [.add, .min, .max, .minn, .maxn, .and, .or, .xor, .swap, .cas, .fadd]
    let m (op : AOp) := Meta.atomic c0 op false (.v 4) (.s 2) (.v 5)
    let mr : Meta := { Meta.glob c0 false true (some .stores) [] [(.s 4, false), (.s 2, true)] with bound := true }
    let val (o : Opnd) (i l : Nat) : List Byte := leBytes 4 ((mapped.issuing (m .cas) lone).rdW false 512 i l o).toNat
    let none_ : Nat → Nat → List Byte := fun _ _ => []
    (∀ p ∈ ops.flatMap fun op => [(i op .rlx, m op), (i op .sc, m op)], Meets mapped lone p)
      ∧ (∀ p ∈ ops.flatMap fun op => [(r op .rlx, mr), (r op .rel, mr)], Meets mapped lone p)
      ∧ Idle mapped lone ∧ Contained mapped ∧ (mapped.group 512).tx = none
      ∧ (∃ acc, Reaches (mapped.issuing (m .cas) lone) lone .both true 4 (mapped.wants lone true 0 (.s 2) 0 4 (val (.v 4)) (val (.v 5))) acc)
      ∧ (∃ acc, Reaches (mapped.issuing (m .add) lone) lone .both true 4 (mapped.wants lone true 0 (.s 2) 0 4 (val (.v 5)) none_) acc)
      ∧ ∃ acc, Reaches (mapped.issuing mr lone) lone .write1 false 4 (mapped.wants lone false 0 (.s 2) 0 4 (val (.s 4)) none_) acc :=
  ⟨meets_of (by decide +kernel), meets_of (by decide +kernel), ⟨rfl, rfl⟩, contained_of rfl, by decide +kernel, reaches_of (by decide +kernel),
    reaches_of (by decide +kernel), reaches_of (by decide +kernel)⟩

/-- Fences, and the transaction instructions outside a transaction and inside one that has written a byte. -/
theorem witness_fencesAndTransactions :
    let mf (b : Bool) : Meta := { Meta.glob c0 false true none [] [] with opFlag := true, bound := b }
    let mb : Meta := { Meta.glob c0 false true none [] [] with readsExec := true }
    let mc : Meta := { Meta.glob c0 false true none [] [] with opFlag := true, bound := true }
    let ma : Meta := { Meta.glob c0 false true none [] [(.pos 9, false)] with bound := true }
    let x : Tx := ⟨0, false, 64, [(0x400, 7)], false, 0, 0, List.replicate 8 ⟨15, 15, []⟩⟩
    (∀ p ∈ [(Instr.fence c0 .acq .device, mf false), (.fence c0 .rel .system, mf true), (.fence c0 .sc .team, mf true),
        (.txbegin c0 8, mb)], Meets base gang p)
      ∧ Idle base gang ∧ (base.team 16).revoked = false ∧ (∀ i ∈ base.liveSlices 512, i ∈ gang.slices) ∧ (base.group 512).tx = none
      ∧ (∀ p ∈ [(Instr.txbegin c0 8, mb), (.txabort c0 (.pos 9), ma), (.txcommit c0 .team, mc), (.txcommit c0 .device, mc)],
        Meets (txOpen base) gang p)
      ∧ Idle (txOpen base) gang ∧ ((txOpen base).group 512).tx = some x
      ∧ ((txOpen base).team 16).accReq = none ∧ (txOpen base).seenAt 16 .team = true ∧ (txOpen base).seenAt 16 .device = true
      ∧ (txOpen base).atomicAhead 16 (skeys x.writes) = false
      ∧ x.revs = ((txOpen base).team 16).revs ∧ x.expired = false ∧ x.full = false
      ∧ (∀ p ∈ x.writes, tsLe (sgetD (txOpen base).byteTs p.1 0) x.sx = true ∧ (txOpen base).commitAhead x.sx p.1 = false)
      ∧ (∀ p ∈ x.writes, canonPa p.1 = p.1) ∧ (∀ p ∈ x.writes, (txOpen base).orangeryFull (homeOf p.1) = false)
      ∧ Rising x.writes :=
  ⟨meets_of (by decide +kernel), ⟨rfl, rfl⟩, by decide +kernel, by decide +kernel, by decide +kernel, meets_of (by decide +kernel), ⟨rfl, rfl⟩, by
    simp only [← and_assoc]
    refine ⟨?_, by simp [Rising]⟩
    constructorm* _ ∧ _ <;> decide +kernel⟩

/-! ### Barrier objects, triggers and accumulators -/

/-- A barrier object at byte 0 of the team's allocation. -/
def withObj (s : State) (o : Obj) : State := s.scrWrite 0 0 (objBytes o)

/-- Updates outside a freeze of an object that completes with its phase about to wrap, and of one that does not. -/
theorem witness_objectUpdate :
    let o : Obj := ⟨2 ^ 32 - 1, 65535, 65534, 0, 0⟩
    let s := withObj (offAt 0) o
    s.isFrozen 0 0 = false ∧ (∀ t ∈ (s.core 0).triggers, t.off ≠ 0) ∧ s.objAt 0 0 = o
      ∧ (∀ x ∈ [({ s.objAt 0 0 with arr := 65535 } : Obj), { s.objAt 0 0 with landed := 2 ^ 32 - 1 }],
        x.phase < 2 ^ 32 ∧ x.exp < 2 ^ 16 ∧ x.arr < 2 ^ 16 ∧ x.expb < 2 ^ 32 ∧ x.landed < 2 ^ 32)
      ∧ ({ s.objAt 0 0 with arr := 65535 } : Obj).full = true ∧ ({ s.objAt 0 0 with landed := 2 ^ 32 - 1 } : Obj).full = false := by
  decide +kernel

/-- One slice of a gang at a barrier instruction: every check passed at its limit; and each check failed. -/
theorem witness_barrierInstructions :
    let m0 : Meta := .bar c0 true [] [(.s 3, false), (.s 1, false)]
    let mr : Meta := .bar c0 true [] [(.s 1, false)]
    let ms (b : List (Opnd × Bool)) : Meta := .bar c0 true [(.s 5, false)] ((.s 1, false) :: b)
    let mt : Meta := .bar c0 false [(.s 5, false)] [(.s 1, false), (.s 4, false)]
    let s := withObj ((offAt 0).wrS 512 0 3 65535) ⟨0, 4, 65531, 0, 0⟩
    let over_ := withObj (offAt 0) ⟨0, 0, 65532, 0, 0⟩
    let wrong := (offAt 0).wrS 512 0 4 7
    let full := (offAt 0).modGroup 512 fun g => { g with regs := (List.range 16).map fun k => ⟨16 * (k + 1), 1, 0, 0⟩ }
    let waited := (offAt 0).modSlice 512 1 fun x => { x with st := .blockedBwait, waitObj := some 0 }
    let zero := offAt 0
    let drop := (offAt 0).modGroup 512 fun g => { g with regs := [⟨0, 15, 0, 0⟩] }
    let l : List (Instr × Meta) := [(.binit c0 (.s 3) (.s 1) 0, m0), (.breg c0 (.s 1) 0, mr), (.barr c0 (.s 5) (.s 1) none 0, ms []),
      (.barr c0 (.s 5) (.s 1) (some (.s 4)) 0, ms [(.s 4, false)]), (.barrd c0 (.s 5) (.s 1) 0, ms []), (.bexp c0 (.s 3) (.s 1) 0, m0),
      (.btest c0 (.s 5) (.s 1) (.s 4) 0, mt)]
    AllMeet [s, over_, wrong, full, waited, zero, drop] lone l ∧ s.mapOff 16 .l0 (objOff (s.rd32 512 0 0 (.s 1)) 0) = some 0
      ∧ (s.core 0).frozen = none ∧ (s.core 0).triggers = [] ∧ s.allPerformed 512 = true ∧ s.someBlocked 0 0 = false
      ∧ (s.rd32 512 0 0 (.s 3)).toNat = 65535 ∧ (s.group 512).regs.length < 16
      ∧ (s.objAt 0 0).arr + count32 (s.liveIn 512 0 &&& ~~~(s.entryFor 512 0 0).arrm) = 65535
      ∧ count32 (s.liveIn 512 0 &&& (s.entryFor 512 0 0).reg) ≤ (s.objAt 0 0).exp
      ∧ over_.allPerformed 512 = true
      ∧ (over_.objAt 0 0).arr + count32 (over_.liveIn 512 0 &&& ~~~(over_.entryFor 512 0 0).arrm) = 65536
      ∧ wrong.allPerformed 512 = true ∧ (wrong.rd32 512 0 0 (.s 4)).toNat ≠ (wrong.objAt 0 0).exp
      ∧ full.allPerformed 512 = true ∧ (full.group 512).regs.length = 16
      ∧ (∀ r ∈ (full.group 512).regs, r.off ≠ 0)
      ∧ waited.someBlocked 0 0 = true
      ∧ zero.someBlocked 0 0 = false ∧ (zero.rd32 512 0 0 (.s 3)).toNat = 0
      ∧ drop.allPerformed 512 = true ∧ ∃ r ∈ (drop.group 512).regs, r.off = 0 ∧
        (drop.objAt 0 0).exp < count32 (drop.liveIn 512 0 &&& (drop.entryFor 512 0 0).reg) :=
  ⟨allMeet_of (by decide +kernel), by decide +kernel⟩

/-- A gang of eight slices at a barrier instruction: each of its slices is done with the registration, the first is refused at BINIT. -/
theorem witness_barrierGang :
    let m0 : Meta := .bar c0 true [] [(.s 3, false), (.s 1, false)]
    let mr : Meta := .bar c0 true [] [(.s 1, false)]
    let wide := base.modTeam 16 fun t => { t with scrSize := 1024 }
    let l : List (Instr × Meta) := [(.binit c0 (.s 3) (.s 1) 0, m0), (.breg c0 (.s 1) 0, mr)]
    AllMeet [wide] gang l ∧ wide.allPerformed 512 = true ∧ gang.slices = List.range 8
      ∧ ((List.range 8).foldlM (fun u i => bregSlice gang (.s 1) 0 i u) (wide.issuing mr gang)).toOption.isSome = true
      ∧ (binitSlice gang (.s 3) (.s 1) 0 0 (wide.issuing m0 gang)).toOption = none :=
  ⟨allMeet_of (by decide +kernel), by decide +kernel⟩

/-- BWAIT at an object whose phase has reached the target 0, and at one with target 1; TRIG with a record at byte 16 that names a
COPY, with none armed and with 32. -/
theorem witness_waitsAndTriggers :
    let mw : Meta := { Meta.bar c0 false [] [(.s 3, false), (.s 1, false)] with quick := 1 }
    let mt : Meta := .bar c0 true [(.s 5, false)] [(.s 6, true), (.s 4, false)]
    let later := (offAt 0).wrS 512 0 3 1
    let rec_ := ((((offAt 0).modTeam 16 fun t => { t with scrSize := 64 }).wrS 512 0 7 16).wrS 512 0 4 1).scrWrite 0 16
      (leBytes 8 0x8021E00109100000)
    let many := rec_.modCore 0 fun c => { c with triggers := List.replicate 32 ⟨16, 512, 0, 16, 0, false, 1, 0, []⟩ }
    AllMeet [offAt 0, later] lone [(.bwait c0 (.s 3) (.s 1) 0, mw)]
      ∧ AllMeet [rec_, many] lone [(.trig c0 (.s 5) (.s 6) (.s 4) 0, mt)]
      ∧ (offAt 0).mapOff 16 .l0 (objOff ((offAt 0).rd32 512 0 0 (.s 1)) 0) = some 0
      ∧ satisfied ((offAt 0).objAt 0 0).phase ((offAt 0).rd32 512 0 0 (.s 3)).toNat = true
      ∧ satisfied (later.objAt 0 0).phase (later.rd32 512 0 0 (.s 3)).toNat = false
      ∧ rec_.allPerformed 512 = true ∧ rec_.mapOff 16 .l0 (objOff ((rec_.rd64 512 0 0 (.s 6)).extractLsb' 0 32) 0) = some 0
      ∧ (∀ k < 48, rec_.mapOff 16 .l0 ((objOff ((rec_.rd64 512 0 0 (.s 6)).extractLsb' 32 32) 0 + k) % 2 ^ 32) = some (16 + k))
      ∧ trigWordOk ((dwords 6 (rec_.scrBytes 0 16 48)).getD 0 0) = true ∧ (dwords 6 (rec_.scrBytes 0 16 48)).getD 5 0 = 0
      ∧ (rec_.core 0).triggers = [] ∧ (rec_.objAt 0 0).arr < (rec_.rd32 512 0 0 (.s 4)).toNat
      ∧ (many.core 0).triggers.length = 32 :=
  ⟨allMeet_of (by decide +kernel), allMeet_of (by decide +kernel), by decide +kernel⟩

/-- A launch with 64 accumulator tiles of which the team asks for all; one with none; and tiles given back. -/
theorem witness_accumulators :
    let m : Meta := .accum c0 [(.s 4, true)] [(.s 1, false)]
    let mf : Meta := .accum c0 [] [(.s 2, true)]
    let none_ := one.wrS 512 0 1 64
    let all := { none_ with launches := [(0, { Launch.absent with record := (List.replicate 32 0).set 3 0x1000000 })] }
    AllMeet [all, none_] lone [(.accalloc c0 (.s 4) (.s 1), m)]
      ∧ AllMeet [all] lone [(.accfree c0 (.s 2), mf)] ∧ (all.rd32 512 0 0 (.s 1)).toNat = 64
      ∧ (all.launchOf 16).shape 18 7 = 64 ∧ (all.team 16).acc = [] ∧ (all.team 16).core = 0
      ∧ (∀ k ∈ all.teamsOn 0, (all.team k).accReq = none) ∧ (all.accFree 0).length = 64
      ∧ (none_.rd32 512 0 0 (.s 1)).toNat = 64
      ∧ (none_.launchOf 16).shape 18 7 = 0
      ∧ all.mcmds = [] :=
  ⟨allMeet_of (by decide +kernel), allMeet_of (by decide +kernel), by decide +kernel⟩

/-- An exit of two lanes of four registered ones; and a wait that reaches its limit, in a team with a limit of 2^16 cycles. -/
theorem witness_dropAndWatchdog :
    let s := ((withObj base ⟨0, 4, 1, 0, 0⟩).modGroup 512 fun g => { g with regs := [⟨0, 15, 1, 0⟩], exits := [3] }).modSlice 512 0
      fun x => { x with exited := 3 }
    let w := ({ base with clock := 2 ^ 40 }).modSlice 512 0 fun x => { x with st := .blockedBwait, waitObj := some 0 }
    (s.group 512).regs = [⟨0, 15, 1, 0⟩] ∧ s.dropDue 512 = some 3 ∧ (3 : BitVec 32) &&& 15 ≠ 0 ∧ (∀ e ∈ s.groups, e.2.ops = []) ∧ (s.core 0).frozen = none
      ∧ (s.core 0).triggers = [] ∧ (w.expired (w.team 16).ctx).head? = some (512, 0) ∧ (w.ctx 0).killing = none
      ∧ (w.ctx 0).killed = false := by decide +kernel

/-! ### Packing, plane and copy commands -/

/-- `one` with a launch whose format slots are 0 (no format), 1 (BFP of 4 bits in blocks of 16) and 2 (FP16), both with SCALE 1. -/
def slots : State :=
  { one with launches := [(0, { Launch.absent with record :=
      ((List.replicate 32 0).set 17 (BitVec.ofNat 64 (1 + 4 * 256 + 0x3C00 * 2 ^ 48))).set 18 (BitVec.ofNat 64 (2 + 0x3C00 * 2 ^ 48)) })] }

theorem witness_packAndUnpack :
    let mp : Meta := { Meta.reg c0 true 0 [(.v 4, true)] [(.v 1, false)] with lat := none, opFlag := true }
    let mu (n : BitVec 3) : Meta := unpackMeta c0 n (.v 4) (.v 2) slots
    let o : Op := { Op.of lone mp [] with oid := 5, wait := 1, dest := some (.v 4, true) }
    let p : PackRes := ⟨512, 5, [(0, 1), (31, 2)]⟩
    let s : State := ({ slots with dev := { slots.dev with packs := [p] } }).modGroup 512 fun g => { g with ops := [o] }
    (∀ p ∈ [0, 1, 2].flatMap fun n => [(Instr.pack c0 n (.v 4) (.v 1), mp), (.unpack c0 .rne n (.v 4) (.v 2), mu n)], Meets slots lone p)
      ∧ Idle slots lone ∧ slotKind (slots.slotOf 16 0) = 0 ∧ slotKind (slots.slotOf 16 1) = 1 ∧ slotKind (slots.slotOf 16 2) = 2
      ∧ (s.dev.packs.find? fun p => p.oid == 5) = some p ∧ (s.group 512).ops = [o] ∧ o.stages = [] ∧ o.done = false
      ∧ o.lost = [] ∧ o.olds = [] ∧ (s.group 512).hazards = [] ∧ (p.results.map Prod.fst).Nodup ∧ ∀ r ∈ p.results, r.1 < 32 :=
  ⟨meets_of (by decide +kernel), ⟨rfl, rfl⟩, by decide +kernel⟩

/-- A team with 1024 bytes, in a grid with a plane of 32 bytes on cores (0, 0) and (1, 0). -/
def planes : State :=
  let s := one.modTeam 16 fun t => { t with scrSize := 1024 }
  { s with launches := [(0, { Launch.absent with rect := (0, 0, 2, 1), record := (List.replicate 32 0).set 4 (BitVec.ofNat 64 (2 ^ 46)) })] }

/-- A shape record of one byte: its base, and its control doubleword (R258). -/
def shape1 (base ctl : DWord) : List DWord := [base, 0x0001000100010001, 0, 0, 0, 0, ctl, 0]
/-- A scroll record: one block of 32 bytes at (0, 0), one step to the east, DROP (R251). -/
def scroll1 : List DWord := [0x101010000, 0, 0x20001, 0]

/-- Records at 0 (source), 128 (destination), 256 (COPYX destination in memory), 512 (scroll), 640 and 704 (resume records, of no and
of one step done). -/
def records (s : State) : State :=
  ((((((s.scrWrite 0 0 (bytesOf (shape1 900 1))).scrWrite 0 128 (bytesOf (shape1 901 1))).scrWrite 0 256
    (bytesOf (shape1 0 0 ++ [0, 16, 0, 0]))).scrWrite 0 512 (bytesOf scroll1)).scrWrite 0 640
    (bytesOf (scroll1 ++ [0x8000000000000000, 0]))).scrWrite 0 704 (bytesOf (scroll1 ++ [0x8000000000000001, 0])))

/-- s1 and s2 hold two offsets, the pair s6 a spill base of 0. -/
def atOffs (a b : Word) : State := ((records planes).wrS 512 0 1 a).wrS 512 0 2 b

theorem witness_planeCommands :
    let mc : Meta := .plane c0 [(.s 1, false), (.s 2, false)]
    let ms : Meta := .plane c0 [(.s 1, false), (.s 6, true)]
    let md : Meta := .plane c0 [(.s 2, true)]
    let mq : Meta := { Meta.plane c0 [] with dsts := [(.s 5, false)], ctr := none }
    let l : List (Instr × Meta) := [(.copy c0 (.s 1) (.s 2), mc), (.copyDec c0 (.s 1) (.s 2), mc), (.copyx c0 (.s 1) (.s 2), mc),
      (.scrl c0 (some (.s 6)) (.s 1), ms), (.scrlr c0 (some (.s 6)) (.s 1), ms), (.dtload c0 true .device true (.s 2), md),
      (.planeq c0 (.s 5) (.pos 0), mq), (.planeq c0 (.s 5) (.pos 3), mq)]
    AllMeet [atOffs 0 128, atOffs 0 256, atOffs 512 128, atOffs 8 128, atOffs 640 128, atOffs 704 128] lone l
      ∧ AllMeet [base] gang [(.planeq c0 (.s 5) (.pos 0), mq), (.planeq c0 (.s 5) (.pos 1), mq), (.planeq c0 (.s 5) (.pos 2), mq)]
      ∧ Idle (atOffs 0 128) lone ∧ ((atOffs 0 128).team 16).core = 0
      ∧ (atOffs 0 128).record 16 .l0 0 8 = some (shape1 900 1) ∧ (atOffs 0 128).record 16 .l0 128 8 = some (shape1 901 1)
      ∧ (atOffs 0 128).copyReason 16 .copy (shape1 900 1) (shape1 901 1) = none
      ∧ (atOffs 0 128).copyReason 16 .decode (shape1 900 1) (shape1 901 1) = none
      ∧ (atOffs 0 256).record 16 .l0 256 12 = some (shape1 0 0 ++ [0, 16, 0, 0])
      ∧ (atOffs 0 256).copyReason 16 .copyx (shape1 900 1) (shape1 0 0 ++ [0, 16, 0, 0]) = none
      ∧ (atOffs 512 128).record 16 .l0 512 4 = some scroll1
      ∧ (atOffs 512 128).copyReason 16 .copy (dwords 8 ((atOffs 512 128).scrBytes 0 512 64)) (shape1 901 1) = some (2, false)
      ∧ (atOffs 512 128).scrollReason 16 scroll1 (some 0) = none ∧ (atOffs 0 128).scrollReason 16 ((shape1 900 1).take 4) (some 0) = some 2
      ∧ (atOffs 0 128).record 16 .l0 0 4 = some ((shape1 900 1).take 4)
      ∧ (atOffs 8 128).record 16 .l0 8 8 = none
      ∧ (atOffs 640 128).record 16 .l0 640 6 = some (scroll1 ++ [0x8000000000000000, 0])
      ∧ (atOffs 704 128).record 16 .l0 704 6 = some (scroll1 ++ [0x8000000000000001, 0])
      ∧ scrSteps 0x20001 = 1 ∧ ((atOffs 0 128).launchOf 16).plane 46 14 = 1 ∧ (base.launchOf 16).plane 46 14 = 0 :=
  ⟨allMeet_of (by decide +kernel), allMeet_of (by decide +kernel), ⟨rfl, rfl⟩, by decide +kernel⟩

/-- A command of a kind with its records, run by team 16. -/
def cmdOf (kind : CmdKind) (src dst : List DWord) : Cmd := { State.blankCmd kind 16 512 0 .l0 with src := src, dst := dst }

/-- `planes` with one command. -/
def running (k : Cmd) : State := { records planes with clock := 200, cmds := [(0, k)] }

theorem witness_engineSteps :
    let scroll := { cmdOf .scroll scroll1 [] with blocks := [(0, 0)] }
    let copy := cmdOf .copy (shape1 900 1) (shape1 901 1)
    let load : Cmd := { cmdOf .dtload [0x400] [] with gen := 1, got := (List.range 9).map fun i => (0x400 + 32 * i, List.replicate 32 0) }
    let dec : Cmd := { cmdOf .decode (shape1 900 1) (shape1 901 1) with gen := 1 }
    let mem : State := { running load with mem := mapped.mem, ctxs := mapped.ctxs }
    let tbl : Table := ⟨2 :: List.replicate 15 0, [65, 66]⟩
    let ended := { cmdOf .copy (shape1 900 1) [901, 0x0001000100010001, 0, 0, 0, 0, 0x201, 0] with written := true, oid := some 0 }
    let s := running ended
    let o : Op := Op.of lone (.plane c0 []) [.awaitCmd 0]
    let s := s.modGroup 512 fun g => { g with ops := [o] }
    let d := (running dec).modCore 0 fun c => { c with tslot0 := ⟨1, 1, some tbl⟩ }
    (running scroll).cmdRuns 0 scroll = true ∧ scrSteps (scroll.src.getD 2 0) = 1 ∧ scrEdge (scroll.src.getD 2 0) = 2
      ∧ ((running scroll).planeBase 16 + dfld (scroll.src.getD 0 0) 40 14) * 32 + dfld (scroll.src.getD 0 0) 32 8 * 32 = 32
      ∧ (running scroll).scrPoisoned 0 0 32 = false ∧ (running scroll).scrSettling 0 32 32 = false
      ∧ (running scroll).inReach ((running scroll).team 16).part (.core (cidOf 1 0)) = true ∧ scrDest ((running scroll).planeRect 16) 2 (scrMove 0x20001 1) (0, 0) = some (1, 0)
      ∧ dfld (scroll.src.getD 2 0) 21 1 = 0
      ∧ (running copy).cmdRuns 0 copy = true ∧ shCount copy.src = 1 ∧ shSpace copy.src = 1 ∧ shSpace copy.dst = 1
      ∧ shES copy.dst = 1 ∧ shFlag copy.dst 5 = false ∧ copy.result = [] ∧ shCount copy.dst = 1
      ∧ (running copy).shapeScr copy copy.src (shOffset copy.src 0) = (0, some 900)
      ∧ (running copy).shapeScr copy copy.dst (shOffset copy.dst 0) = (0, some 901) ∧ (running copy).scrPoisoned 0 900 1 = false
      ∧ mem.cmdRuns 0 load = true ∧ mem.tableBusy 0 load = false ∧ (match mem.readImage 0 load 0x400 288 10 with | .ok _ => true | .error _ => false) = true
      ∧ d.cmdRuns 0 dec = true ∧ dec.result = [] ∧ dec.pos < shCount dec.dst ∧ (d.tslot 0 0).loaded = dec.gen ∧ (d.tslot 0 0).table = some tbl
      ∧ (match d.nextSymbol 0 dec tbl ⟨0, 0, 0⟩ 0 0 16 with
        | .ok (some p, t) => p == (65, 1) && t.shapeScr dec dec.dst (shOffset dec.dst 0) == (0, some 901)
          && (t.team 16).core == 0 | _ => false) = true
      ∧ s.cmdEnds 0 ended = true ∧ ended.rel = none ∧ ended.err = none ∧ ended.status = none ∧ sget s.mcmds 0 = none ∧ (s.group 512).ops = [o] ∧ o.stages = [.awaitCmd 0] ∧ o.wait = 0 ∧ o.done = false
      ∧ (∀ e ∈ s.groups, e.1 ≠ 512 → e.2.ops = []) ∧ shFlag ended.dst 8 = false ∧ shFlag ended.dst 9 = true
      ∧ s.mapOff 16 .l0 (dfld (ended.dst.getD 7 0) 0 32) = some 0 ∧ (s.core 0).frozen = none ∧ (s.core 0).triggers = [] := by
  decide +kernel

/-! ### The matrix stream -/

/-- A sequencer at issue for team 16, whose launch has format slots 0 (none), 1 (BFP of 4 bits), 2 (FP16) and 4 (FP32), which holds
accumulator tiles 0 and 1, and has a barrier object at 0. -/
def seqBase : State :=
  let s := (State.withFetchSeqr State.reset 0).modTeam 16 fun t => { t with scrSize := 1024, acc := [(0, 5), (1, 6)] }
  { s with launches := [(0, { Launch.absent with record := ((((List.replicate 32 0).set 17 (BitVec.ofNat 64 (1 + 4 * 256 + 0x3C00 * 2 ^ 48))).set 18
      (BitVec.ofNat 64 (2 + 0x3C00 * 2 ^ 48))).set 20 (BitVec.ofNat 64 (4 + 0x3C00 * 2 ^ 48))) })] }

/-- The same for a pair of twins, teams 16 and 17. -/
def twins : State :=
  let s := seqBase
  let s := { s with teams := sput s.teams 17 { s.team 16 with pair := some 16, twin := 1, acc := [(0, 7), (1, 8)] } }
  (s.modTeam 16 fun t => { t with pair := some 17 }).modCore 0 fun c => c

def streamReadyB (s : State) (q : Nat) : Bool :=
  decide (s.cur = .seqr q) && decide (s.arrPoison = []) && (sget s.seqrs q).isSome && decide ((s.seqr q).wantUnpair = none)
    && (!s.paired q || (s.twinLive q 0 && s.twinLive q 1))

theorem streamReady_of {s : State} {q : Nat} (h : streamReadyB s q = true) : StreamReady s q := by
  simp only [streamReadyB, Bool.and_eq_true, decide_eq_true_eq, Bool.or_eq_true, Bool.not_eq_true'] at h
  obtain ⟨⟨⟨⟨h1, h0⟩, h2⟩, h3⟩, h4⟩ := h
  exact ⟨h1, h2, h3, h0, fun hp => by simpa [hp] using h4⟩

/-- A sequencer ready, MLOOP's register at 1, and at 0 (from which it counts on). -/
theorem witness_matrixScalar :
    let last := seqBase.wrM 0 3 1
    StreamReady seqBase 0 ∧ StreamReady last 0 ∧ seqBase.rdM 0 3 ≠ 1 ∧ (seqBase.seqr 0).mbusy = [] ∧ last.rdM 0 3 = 1 :=
  ⟨streamReady_of (by decide +kernel), streamReady_of (by decide +kernel), by decide +kernel⟩

theorem witness_matrixCommands :
    let r : Instr → Bool := fun i => i.wf
    let apart := twins.modSeqr 0 fun x => { x with unpaired := true }
    StreamReady seqBase 0 ∧ StreamReady twins 0 ∧ StreamReady apart 0 ∧ seqBase.streamTeams 0 = [16] ∧ twins.streamTeams 0 = [16, 17]
      ∧ r (.mshape 0 (.a 0) (.m 1) (.m 2) (.m 3)) = true ∧ r (.mldt 0 (.t 9) (.m 1) (.m 2) (.neg 15)) = true ∧ r (.mzero 0 (.a 0)) = true
      ∧ r (.mma 0 1 2 (.a 0) (.t 0) (.t 14)) = true ∧ r (.mmaPair 0 2 2 (.a 0) (.t 0) (.t 15)) = true
      ∧ r (.msoft 0 true 2 (.t 3) (.a 0) (.a 1) (.m 2)) = true ∧ r (.mdrain 0 .none false false false .scr 4 (.m 2) (.a 0) (.m 4) (.neg 15)) = true
      ∧ (∀ t ∈ seqBase.streamTeams 0, ∀ w ∈ [0, 1], (sget (seqBase.team t).acc (Binding.start w).tile).isSome = true)
      ∧ (∀ t ∈ twins.streamTeams 0, ∀ w ∈ [0, 1], (sget (twins.team t).acc (Binding.start w).tile).isSome = true)
      ∧ seqBase.wins = [] ∧ twins.wins = []
      ∧ slotKind (seqBase.slotOf 16 1) = 1 ∧ slotKind (seqBase.slotOf 16 2) = 2 ∧ slotKind (seqBase.slotOf 16 4) = 4
      ∧ 14 + spanLen (seqBase.slotOf 16 2) (slotK (seqBase.slotOf 16 1)) = 16
      ∧ 15 + spanLen (seqBase.slotOf 16 2) (slotK (seqBase.slotOf 16 2)) = 16 ∧ slotK (seqBase.slotOf 16 2) = 32
      ∧ twins.twinMode 0 = true ∧ twins.paired 0 = true ∧ seqBase.twinMode 0 = false
      ∧ apart.twinMode 0 = true ∧ apart.paired 0 = false :=
  ⟨streamReady_of (by decide +kernel), streamReady_of (by decide +kernel), streamReady_of (by decide +kernel), by decide +kernel⟩

/-- A running stream of a team that holds no tile 7, for every fault: slot 0 undefined, slot 4 of the wrong kind, a span of two
tiles at t15, window a7 unheld, and no pair. -/
theorem witness_matrixFaults :
    let k (n : BitVec 3) : Nat := slotKind (seqBase.slotOf 16 n)
    StreamReady seqBase 0 ∧ (seqBase.seqr 0).st = .running ∧ (seqBase.seqr 0).stop = none ∧ seqBase.streamTeams 0 = [seqBase.leadTeam 0]
      ∧ (∃ g ∈ seqBase.teamGroups (seqBase.leadTeam 0), seqBase.groupDone g = false)
      ∧ seqBase.groupDone (gidOf (seqBase.leadTeam 0) 0) = false
      ∧ (∀ i ∈ [Instr.mma 0 0 2 (.a 0) (.t 0) (.t 1), .mma 0 4 2 (.a 0) (.t 0) (.t 1), .mma 0 1 2 (.a 0) (.t 0) (.t 15),
        .mma 0 2 2 (.a 7) (.t 0) (.t 1), .mzero 0 (.a 7), .mmaPair 0 2 2 (.a 0) (.t 0) (.t 1), .msoft 0 true 0 (.t 3) (.a 0) (.a 1) (.m 2),
        .msoft 0 true 4 (.t 3) (.a 0) (.a 1) (.m 2), .msoft 0 true 2 (.t 3) (.a 7) (.a 1) (.m 2),
        .mdrain 0 .none false false false .scr 0 (.m 2) (.a 0) (.m 4) (.neg 15), .mdrain 0 .none false false true .mem 2 (.m 2) (.a 0) (.m 4) (.neg 15),
        .mdrain 0 .none false true false .mem 2 (.m 2) (.a 0) (.m 4) (.neg 15),
        .mdrain 0 .none false false false .scr 2 (.m 2) (.a 7) (.m 4) (.neg 15), .mpair 0], i.wf = true)
      ∧ k 0 = 0 ∧ k 4 = 4 ∧ k 2 = 2 ∧ k 1 = 1
      ∧ 16 < 15 + spanLen (seqBase.slotOf 16 2) (slotK (seqBase.slotOf 16 1)) ∧ slotK (seqBase.slotOf 16 2) = 32
      ∧ (sget (seqBase.team 16).acc (Binding.start 7).tile = none) ∧ seqBase.twinMode 0 = false :=
  ⟨streamReady_of (by decide +kernel), by decide +kernel⟩

/-- Meetings: targets 0 (met) and 1 (not), no commands left, a pair, and an unpaired one whose twins' meetings agree and differ. -/
theorem witness_matrixMeetings :
    let s := seqBase
    let apart (a b : Option (Nat × Word)) := twins.modSeqr 0 fun x => { x with unpaired := true, meet0 := a, meet1 := b }
    let same := apart (some (0, 1)) (some (0, 1))
    let differ := apart (some (0, 1)) none
    StreamReady s 0 ∧ StreamReady (s.wrM 0 3 1) 0 ∧ StreamReady twins 0 ∧ StreamReady same 0 ∧ StreamReady differ 0
      ∧ ([s, s.wrM 0 3 1, twins, same, differ].all fun s => !s.seqAsleep 0) = true ∧ (s.seqr 0).stop = none ∧ (∀ i ∈ [Instr.mwait 0 (.m 3) (.m 1), .marr 0 (.m 3) (.m 1) (.pos 1), .msig 0 7], i.wf = true)
      ∧ s.paired 0 = false ∧ s.followedTeam 0 = 16 ∧ s.seqObj 16 (s.mval 0 (.m 1)).toNat = some 0
      ∧ satisfied (leNat (s.scrBytes 0 0 4)) (s.rdM 0 3).toNat = true
      ∧ satisfied (leNat ((s.wrM 0 3 1).scrBytes 0 0 4)) ((s.wrM 0 3 1).rdM 0 3).toNat = false
      ∧ s.mcmds = [] ∧ s.streamTeams 0 = [16] ∧ s.leadTeam 0 = 16 ∧ (s.core 0).frozen = none ∧ (s.core 0).triggers = []
      ∧ (twins.seqr 0).stop = none ∧ twins.twinMode 0 = true ∧ twins.paired 0 = true
      ∧ same.twinMode 0 = true ∧ same.paired 0 = false ∧ same.twinLive 0 0 = true ∧ same.twinLive 0 1 = true
      ∧ (same.seqr 0).mpair = false ∧ (same.seqr 0).meet0 ≠ none ∧ (same.seqr 0).meet0 = (same.seqr 0).meet1
      ∧ differ.paired 0 = false ∧ (differ.seqr 0).mpair = false ∧ (differ.seqr 0).meet0 ≠ (differ.seqr 0).meet1 :=
  ⟨streamReady_of (by decide +kernel), streamReady_of (by decide +kernel), streamReady_of (by decide +kernel),
    streamReady_of (by decide +kernel), streamReady_of (by decide +kernel), by decide +kernel⟩

/-- MSTART and MSTOP without a sequencer, on an idle one, on a running one with a clause, and on a waiting one. -/
theorem witness_matrixStartStop :
    let vs : List (Opnd × Bool) := (List.range 8).map fun j => (Opnd.s (BitVec.ofNat 5 (8 + j)), false)
    let m : Meta := .seqr c0 [(.s 3, false)] ((.s 4, true) :: vs)
    let mp : Meta := { Meta.seqr c0 [(.s 2, true)] [] with opFlag := true, readsExec := false, readsPm := false }
    let withSeq (st : SeqSt) (w : List DWord) : State :=
      let s := base.modTeam 16 fun t => { t with seqr := some 0 }
      { s with seqrs := [(0, { Seqr.idleFor 16 with st := st, words := w })] }
    let l : List (Instr × Meta) := [(.mstart c0 (.s 3) (.s 4) (.s 8), m), (.mstop c0 (.s 2), mp)]
    AllMeet [base, withSeq .idle [], withSeq .running [0], withSeq .waiting [0]] gang l ∧ (base.team 16).seqr = none ∧ Idle base gang
      ∧ ((withSeq .running [0]).seqr 0).stop = none ∧ ((withSeq .running [0]).seqr 0).wantUnpair = none
      ∧ ((withSeq .idle []).team 16).seqr = some 0 ∧ ((withSeq .idle []).active 512 gang.slices 0).head? = some (0, 0)
      ∧ (withSeq .idle []).allPerformed 512 = true ∧ (withSeq .idle []).mcmds = [] ∧ ((withSeq .running [0]).seqr 0).words ≠ [] :=
  ⟨allMeet_of (by decide +kernel), by decide +kernel, ⟨rfl, rfl⟩, by decide +kernel⟩

/-- A pair one of whose objects is satisfied, at its limit; one that waits at MPAIR; and the two writes to UNPAIRED. -/
theorem witness_pairing :
    let s : State := { twins with clock := 8193 }
    let k (f : Seqr → Seqr) := s.modSeqr 0 f
    let a := k fun x => { x with st := .waiting, wait := some (0, 0), pairFrom := some 0 }
    let b := k fun x => { x with st := .waiting, mpair := true, unpaired := true, pairFrom := some 0 }
    s.twinMode 0 = true ∧ (∀ e ∈ s.groups, e.2.ops = []) ∧ s.twinTeam 0 0 = some 16 ∧ s.twinTeam 0 1 = some 17
      ∧ (a.seqr 0).wait = some (0, 0) ∧ a.paired 0 = true ∧ a.pairExpired 0 = true ∧ a.seqAsleep 0 = false ∧ a.seqSat 16 0 0 = true
      ∧ (b.seqr 0).mpair = true ∧ b.pairExpired 0 = true ∧ s.teamLive 16 = true ∧ s.teamLive 17 = true
      ∧ (a.seqr 0).st ≠ .running := by decide +kernel

/-- One command of each kind in flight, on a team that runs, nothing else outstanding. -/
theorem witness_matrixPerforms :
    let cmd (i : Instr) : MCmd := { seqBase.blankM 0 16 i .engine with winA := ⟨0, 1, 0x3F800000⟩, winB := ⟨1, 1, 0x3F800000⟩, vals := [0, 0, 0, 0] }
    let soft := cmd (.msoft 0 true 2 (.t 3) (.a 0) (.a 1) (.m 2))
    let drain := cmd (.mdrain 0 .none false false false .scr 4 (.m 2) (.a 0) (.m 4) (.m 5))
    let ended := { drain with performed := true, bytes := 128 }
    let s (k : MCmd) : State := { seqBase with mcmds := [(0, k)] }
    (∀ k ∈ [cmd (.mzero 0 (.a 0)), cmd (.mma 0 1 2 (.a 0) (.t 0) (.t 14)), cmd (.mldt 0 (.t 9) (.m 1) (.m 2) (.neg 15)), soft, drain, ended],
        sget (s k).mcmds 0 = some k ∧ ((s k).team k.tid).st ≠ .suspended ∧ (∀ e ∈ (s k).groups, e.2.ops = []) ∧ k.fault = none
          ∧ ((s k).ctx ((s k).team k.tid).ctx).killing = none ∧ (s k).conflicts 0 k = false ∧ k.tid2 = none
          ∧ (s k).heldTile k.tid k.winD = some 5 ∧ (s k).heldTile k.tid k.winA = some 5 ∧ (s k).heldTile k.tid k.winB = some 6)
      ∧ isNone (.neg 15) = true ∧ seqBase.scrPoison = []
      ∧ (match (s soft).softDo soft true 2 (.t 3) with | .ok _ => true | .error _ => false) = true
      ∧ slotKind (seqBase.slotOf 16 4) = 4 ∧ (drain.vals.getD 2 0) = 0
      ∧ (∀ x < 128, seqBase.mapOff 16 .l0 (((drain.vals.getD 0 0).toNat + x) % 2 ^ 32) = some (0 + x))
      ∧ ended.performed = true ∧ ended.child = none ∧ ended.rel = none ∧ isNone (.m 5) = false
      ∧ seqBase.mapOff 16 .l0 (alignObj (ended.vals.getD 3 0).toNat) = some 0 ∧ (seqBase.core 0).frozen = none
      ∧ (seqBase.core 0).triggers = [] := by decide +kernel

/-! ### System instructions -/

/-- A state with the issuing group at a privilege level. -/
def atLevel (s : State) (l : Level) : State := s.modGroup 512 fun g => { g with level := l }

theorem witness_systemRegisters :
    let r (n : BitVec 10) (d : Opnd) (w : Bool) : Instr × Meta :=
      (.sysrd c0 d n, { Meta.system c0 [(d, w)] [] with lat := some 8, exact := false })
    let w (n : BitVec 10) (a : Opnd) (b : Bool) : Instr × Meta := (.syswr c0 n a, .system c0 [] [(a, b)])
    let l : List (Instr × Meta) := [r 0 (.s 4) false, w 0 (.s 4) false, r 0x010 (.s 4) false, r 0x020 (.s 4) true, w 0x020 (.s 4) true]
    AllMeet [atLevel base .l0, atLevel base .l1] gang l
      ∧ cregWide 0 = some false ∧ cregWide 0x010 = some false ∧ cregWide 0x020 = some true
      ∧ ((atLevel base .l0).group 512).level = .l0 ∧ ((atLevel base .l1).group 512).level ≠ .l0
      ∧ (base.core 0).age = 0 ∧ (base.part (base.team 16).part).quantum = 0 ∧ (⟨2048, 0, 0, [0], 0, 0, 1⟩ : Iss).sys = true :=
  ⟨allMeet_of (by decide +kernel), by decide +kernel⟩

theorem witness_timersAndCounters :
    let s (n : Word) (l : Level) := atLevel (base.wrS 512 0 1 n) l
    let l (clr : Bool) : List (Instr × Meta) := [(.timerrd c0 (.s 3), { Meta.system c0 [(.s 3, false)] [] with exact := false }),
      (.timerset c0 (.s 1), .system c0 [] [(.s 1, false)]), (.timerclr c0, .system c0 [] []),
      (.pmon c0 clr (.s 4) (.s 1), { Meta.system c0 [(.s 4, true)] [(.s 1, false)] with exact := clr })]
    let due : State := ({ base with clock := 5 }).modGroup 512 fun g => { g with timer := some 5 }
    AllMeet [s 7 .l0, s 6 .l0, s 8 .l0] gang (l false) ∧ AllMeet [s 7 .l1, s 7 .l0] gang (l true)
      ∧ ((s 7 .l0).rd32 512 0 0 (.s 1)).toNat = 7 ∧ ((s 8 .l0).rd32 512 0 0 (.s 1)).toNat = 8
      ∧ (due.group 512).timer = some 5 ∧ 5 ≤ due.cycles 512 ∧ due.groupDone 512 = false ∧ isSys (due.team (tidOf 512)).core = false :=
  ⟨allMeet_of (by decide +kernel), allMeet_of (by decide +kernel), by decide +kernel⟩

/-- `mapped` with a launch record at 0x400 of one cluster of one core, in partition 0 of the whole array. -/
def recorded : State :=
  let s := mapped.modPart 0 fun p => { p with live := true, w := 64, h := 32 }
  { s with mem := s.mem.take 0 ++ [(0x410, 1), (0x412, 1), (0x414, 1), (0x418, 9)] ++ s.mem }

/-- A placed cluster of a running grid with LAUNCH.ID 5. -/
def gridded : State :=
  { atLevel base .l1 with launches := [(0, { Launch.absent with ident := 5, st := .running, record := (List.replicate 32 0).set 3 9 })]
                          clusters := [(0, { Cluster.absent with st := .placed, teams := [16] })] }

theorem witness_launchVacate :
    let l : List (Instr × Meta) := [(.launch c0 (.s 4) (.s 2), .system c0 [(.s 4, true)] [(.s 2, true)]),
      (.vacate c0 (.s 4) (.s 1) (.s 2), .systemOp c0 [(.s 4, false)] [(.s 1, false), (.s 2, false)]),
      (.ctxkill c0 (.s 4) (.s 1), .systemOp c0 [(.s 4, false)] [(.s 1, false)]),
      (.haltcore c0 true (.s 4) (.s 1), .system c0 [(.s 4, false)] [(.s 1, false)])]
    let odd := recorded.wrS 512 0 2 1
    let bad := recorded.wrS 512 0 2 0x800
    let good := recorded.wrS 512 0 2 0x400
    let shut : State := { good with mem := [(0x10000, 1), (0x10002, 2), (0x20000, 0x23)] }
    let full : State := { good with launches := (List.range 64).map fun k => (k, { Launch.absent with st := .queued }) }
    let opened (s : State) : State := s.modGroup 512 fun g => { g with pre := [(0, 3)] }
    let after (s : State) : State := ((s.issuing (.system c0 [(.s 4, true)] [(.s 2, true)]) lone).forgetRel 3).modGroup 512 fun g =>
      { g with pre := [] }
    let got (s : State) (bad : Bool) (n : Nat) : Bool := match (after s).readRecord lone (s.rd64 512 0 0 (.s 2)).toNat 4 [] with
      | .got r w => recordBad (w.part 0) { Launch.absent with record := r } == bad && w.queueLen 0 0 == n | _ => false
    AllMeet [odd, good, full, bad, opened odd, opened good, opened full, opened bad, opened shut] lone l
      ∧ AllMeet [atLevel base .l0, atLevel base .l1, atLevel base .l2, gridded] gang l ∧ Idle good lone ∧ Idle base gang
      ∧ (∀ s ∈ [(odd, 1), (bad, 0), (good, 0), (full, 0)], (s.1.rd64 512 0 0 (.s 2)).toNat % 64 = s.2 ∧ (s.1.group 512).pre = []
        ∧ (∀ e ∈ (opened s.1).groups, e.2.ops = []) ∧ ((opened s.1).group 512).pre.find? (fun p => p.1 == 0) = some (0, 3)
        ∧ (opened s.1).relDone 3 = true ∧ tsLe ((opened s.1).relTs 3) (after (opened s.1)).hDev = true)
      ∧ (match (after (opened shut)).readRecord lone 0x400 4 [] with | .unreadable _ => true | _ => false) = true
      ∧ (shut.rd64 512 0 0 (.s 2)).toNat = 0x400 ∧ got (opened bad) true 0 = true ∧ got (opened good) false 0 = true ∧ got (opened full) false 64 = true
      ∧ (atLevel base .l1).gridOf 0 0 = none ∧ gridded.gridOf 0 5 = some 0 ∧ gridded.youngest 0 false = [0] :=
  ⟨allMeet_of (by decide +kernel), allMeet_of (by decide +kernel), ⟨rfl, rfl⟩, ⟨rfl, rfl⟩, by decide +kernel⟩

/-- A live and a dead context; a core with a team and one without. -/
theorem witness_killHalt :
    (atLevel base .l1).ctxLive 0 0 = true ∧ (atLevel base .l1).ctxLive 0 9 = false
      ∧ (base.ctx 0).killed = false ∧ (base.ctx 0).killing = none ∧ base.teamsOn 0 ≠ [] ∧ base.teamsOn 1 = [] ∧ base.emptying 1 = false
      ∧ ({ base.modTeam 20 (fun t => { t with st := .suspended, core := 1 }) with clusters := [(0, { Cluster.absent with st := .placed, teams := [20], vacating := some 0 })] } : State).emptying 1 = true ∧ cidOf (0 % 64) (0 / 64 % 32) = 0 := by
  decide +kernel

/-- RTE at L0, outside a handler, in one with an all-zero record, and in one with a malformed record; the other instructions. -/
theorem witness_returnAndCaches :
    let handler (s : State) : State := (s.modGroup 512 fun g => { g with frame := some 5, level := .l1 })
    let broken := (handler base).scrWrite 0 (State.frameAt 5 + 8 * (16 + 2)) [1]
    let r (s : State) (i : Nat) : List DWord := ((dwords 304 (s.scrBytes 0 (State.frameAt 5) 2560)).drop (16 + 36 * i)).take 36
    let l : List (Instr × Meta) := [(.rte c0, { Meta.system c0 [] [] with bound := false }), (.icinv c0 .core, .system c0 [] []),
      (.icinv c0 .context, .system c0 [] []), (.dcflush c0 (.s 2) (.s 1), .system c0 [] [(.s 2, true), (.s 1, false)]),
      (.tlbinv c0 .page (some (.s 2)) (some (.s 1)), .systemOp c0 [] [(.s 2, true), (.s 1, false)]),
      (.tlbinv c0 .context none (some (.s 1)), .systemOp c0 [] [(.s 1, false)]), (.tlbinv c0 .all none none, .systemOp c0 [] [])]
    let barred : State := { mapped with mem := [(0x10000, 1), (0x10002, 2), (0x20000, 0x23)] }
    AllMeet [base, atLevel base .l1, handler base, broken] gang l ∧ AllMeet [mapped, barred] lone l ∧ Idle base gang
      ∧ gang.sys = false ∧ base.allPerformed 512 = true ∧ isSys (base.team (tidOf 512)).core = false ∧ (base.group 512).frame = none ∧ ((handler base).group 512).frame = some 5
      ∧ (∀ i ∈ base.liveSlices 512, recordOk (r (handler base) i) (base.live 512 i) = true) ∧ recordOk (r broken 0) (broken.live 512 0) = false
      ∧ ((mapped.flushPages lone (pagesOf 0 65537)).1 = none)
      ∧ (barred.flushPages lone (pagesOf 0 1)).1 = some (0, .perm)
      ∧ ((mapped.modDev fun d => { d with chansReady := [] }).flushPages lone (pagesOf 0 1)).1 = some (0, .wait)
      ∧ mapped.walk (mapped.ctx 0).root 0 = .leaf 0x3B 30 ∧ base.walk (base.ctx 0).root 0 = .fault :=
  ⟨allMeet_of (by decide +kernel), allMeet_of (by decide +kernel), ⟨rfl, rfl⟩, by decide +kernel⟩

/-! ### Dispatch, placement, and the end of a team -/

/-- The module in service, with park 0 and partition 0, the whole array. -/
def served : State :=
  (State.reset.modDev fun d => { d with st := .service, parksReady := [0, 1] }).modPart 0 fun p => { p with live := true, w := 64, h := 32 }

/-- A launch with LAUNCH.ID 5 of two clusters of one core and one group, entered at 0x1000. -/
def grid (st : LaunchSt) : Launch :=
  { Launch.absent with
    ident := 5, st := st, ready := true, rect := (0, 0, 64, 32)
    record := (((List.replicate 32 0).set 0 0x1000).set 2 0x100010002).set 3 9 }

/-- A cluster of that launch in park 0. -/
def block (st : ClusterSt) : Cluster := { Cluster.absent with st := st }

/-- A launch about to be read, one whose blocks are handed out; an unstarted and a suspended cluster; a core that held another
context, and one in a reload. -/
theorem witness_dispatchAndPlacement :
    let q : State := { served with launches := [(0, grid .queued)] }
    let d : State := { served with launches := [(0, grid .dispatching)] }
    let c (st : ClusterSt) : State := { served with launches := [(0, grid .running)], clusters := [(0, block st)] }
    let stale := (c .unstarted).modCore 0 fun k => { k with lastCtx := some 3 }
    let loading := served.modCore 0 fun k => { k with reload := some (3, 0) }
    let l := d.launch 0
    let note : Packet := { Packet.plain (.park 0) (.core 0) 1 (.ctrl 0 8) with bytes := leBytes 8 77 }
    let told : State := { served with packets := [(7, note)] }
    q.dev.st = .service ∧ q.nextLaunch 0 = some 0 ∧ (q.launch 0).st ≠ .dispatching ∧ q.regionFree 0 = true
      ∧ d.dev.st = .service ∧ d.nextLaunch 0 = some 0 ∧ l.st = .dispatching ∧ d.nextPark l = some 0
      ∧ d.dev.parksReady.contains 0 = true ∧ dfld (l.dw 0x10) 0 16 = 2 ∧ dfld (l.dw 0x10) 16 16 = 1
      ∧ (∀ s ∈ [c .unstarted, c .suspended, stale], s.nextPlace 0 0 = some (0, 0, 0) ∧ s.dev.st = .service ∧ s.dev.parksReady.contains 0 = true)
      ∧ (∀ s ∈ [c .unstarted, c .suspended], ∀ d ∈ State.spots (s.launch 0), s.needsReload (cidOf d.1 d.2) 0 = false)
      ∧ ((c .unstarted).cluster 0).st = .unstarted ∧ ((c .suspended).cluster 0).st = .suspended
      ∧ (∀ d ∈ State.spots (stale.launch 0), stale.needsReload (cidOf d.1 d.2) 0 = true ∧ stale.queuesEmpty (cidOf d.1 d.2) = true)
      ∧ told.deliverable 7 = some note ∧ told.ctrlPacket 0 0 8 note.bytes = some 7 ∧ note.err = .clean ∧ told.inReach note.ptag note.src = true ∧ told.homeReady note = true ∧ (told.team note.tid).st ≠ .killed
      ∧ (told.core 0).fenced = false ∧ (told.take 7 note).queuesEmpty 0 = true ∧ (told.core 0).reload = none ∧ isSys 0 = false
      ∧ 8 + note.bytes.length ≤ Config.scratchBytes ∧ (loading.core 0).reload = some (3, 0) := by
  decide +kernel

/-- A running team with every group done and nothing left, and a finishing one whose release is done. -/
theorem witness_teamEnds :
    let spent : State := ({ served with launches := [(0, grid .running)] }).modTeam 16 fun _ =>
      { Team.absent with st := .running, groups := 1 }
    let fin : State := { spent with
        teams := [(16, { spent.team 16 with st := .finishing })]
        rels := [(0, ⟨16, none, .device, .complete, 1, none, .teamDone 16⟩)] }
    (∀ s ∈ [spent, fin], isSys (s.team 16).core = false ∧ (s.ctx (s.team 16).ctx).killing = none ∧ ∀ g ∈ s.teamGroups 16, s.groupDone g = true)
      ∧ (spent.team 16).st = .running ∧ (spent.cluster (spent.team 16).cluster).vacating = none ∧ spent.teamIdle 16 = true
      ∧ (fin.team 16).st = .finishing
      ∧ ∃ e ∈ fin.rels, (fin.rels.find? fun e => e.2.purpose == .teamDone 16) = some (e.1, e.2)
          ∧ fin.relDone e.1 = true ∧ fin.allInstalled 16 = true := by
  decide +kernel

/-- A suspended cluster that has waited a quantum beside a running one, one that has not; an idle park that may ask, and one
whose wait is over; a count that has changed; and a steal request, a reply and a count that arrive. -/
theorem witness_quantumAndSteals :
    let two (n : Nat) : State :=
      { served with
        clock := n, launches := [(0, grid .running)]
        clusters := [(0, { block .placed with placed := 1 }), (1, { block .suspended with suspended := 2 })] }
    let ask := served.modPark 0 0 fun p => { p with view := [(1, 4)] }
    let waits := served.modPark 0 0 fun p => { p with retryAt := 1 }
    let tells : State := { served with launches := [(0, grid .running)], clusters := [(0, block .unstarted)] }
    let due : State := { waits with clock := 1 }
    let p (load : Payload) (vc : Nat) : Packet := { Packet.plain (.park 1) (.park 0) vc load with bytes := leBytes 16 (5 * 2 ^ 64) }
    let gets (load : Payload) (vc : Nat) : State := { tells with packets := [(7, p load vc)] }
    let answered : State := ({ gets .stealBlocks 1 with clusters := [(0, { block .unstarted with park := 128 })] }).modPark 0 0 fun k => { k with asking := some 1, reply := some (1, 1, []) }
    let late := two (2 ^ 20 + 2)
    (late.suspendedQ 0 0 = [1] ∧ (late.cluster 1).suspended + 2 ^ 20 ≤ late.clock ∧ (late.part 0).quantum = 0
        ∧ (∀ e ∈ late.clusters, e.2.heir ≠ some 1) ∧ late.youngest (late.cluster 1).launch true = [0] ∧ late.hasSlots 0 = true)
      ∧ (∀ c ∈ (two 3).suspendedQ 0 0, (two 3).clock < ((two 3).cluster c).suspended + 2 ^ 20)
      ∧ (ask.dev.st = .service ∧ ask.parkIdle 0 0 = true ∧ (ask.park 0 0).asking = none ∧ (ask.park 0 0).retryAt = 0
        ∧ ((ask.park 0 0).view.filter fun e => ask.dev.parksReady.contains e.1) = [(1, 4)]
        ∧ ask.inReach 0 (.park 1) = true ∧ ask.atDead (.park 0) = false ∧ tells.atDead (.park 0) = false ∧ tells.inReach 0 (.park 1) = true)
      ∧ ((due.park 0 0).retryAt ≠ 0 ∧ (due.park 0 0).retryAt ≤ due.clock)
      ∧ (0 ∈ tells.partParks 0 ∧ 1 ∈ tells.partParks 0 ∧ (tells.reaching 0 0 1).length ≠ (sgetD (tells.park 0 0).sent 1 (0, 0)).1
        ∧ (sgetD (tells.park 0 0).sent 1 (0, 0)).1 = 0)
      ∧ ∀ e ∈ [(Payload.stealReq 1 1, 0), (.countUpd 1 3, 0), (.stealRep 1 1 1, 1)],
        (gets e.1 e.2).deliverable 7 = some (p e.1 e.2) ∧ (p e.1 e.2).err = .clean ∧ (p e.1 e.2).dst = .park 0
          ∧ (gets e.1 e.2).inReach (p e.1 e.2).ptag (.park 1) = true
          ∧ (answered.deliverable 7 = some (p .stealBlocks 1) ∧ (answered.park 0 0).reply = some (1, 1, [])
            ∧ (answered.launch (answered.cluster 0).launch).ident = 5 ∧ answered.namedBlock 0 0 (5 * 2 ^ 64) = some 0) := by
  decide +kernel

/-! ### Clauses, traps that wait, and the service ring -/

/-- `base` in service, its group in no pipe, with a clause of one ADD at address 0 in memory: header 0xA00001FFFFFE0000. -/
def between : State :=
  let s := (base.modDev fun d => { d with st := .service, chansReady := List.range 2048 }).modCore 0 fun k => { k with pipe0 := none }
  let s := (s.modPart 0 fun p => { p with live := true, w := 64, h := 32 }).modCtx 0 fun c => { c with root := 0x10000 }
  { s with cur := .none
           mem := mwrites [(0x10000, 1), (0x10002, 2), (0x20000, 0x3B)] 0
             (bytesOfDword 0xA00001FFFFFE0000 ++ bytesOfDword 0x0401E00A09000007) }

/-- `between` with that clause, or one of another header, in memory and in the instruction cache. -/
def cached (h : DWord) : State := ({ between with mem := mwrites between.mem 0 (bytesOfDword h) }).modCore 0 fun k => { k with icache := [(0, 0, h), (0, 8, 0x0401E00A09000007)], tlb := [⟨0, 0, 30, 0x3B⟩] }

/-- A clause that starts, one whose class is wrong, and a trap that is pending; and fetches that give the clause, a page fault, the
refusal to execute, and a page nothing backs. -/
theorem witness_clauses :
    let good := cached 0xA00001FFFFFE0000
    let bad := cached 0xA20001FFFFFE0000
    let due := good.modGroup 512 fun g => { g with asyncs := [⟨19, 0, 0, 0, 0, []⟩] }
    let got (s : State) : Nat := match s.fetchClause 0 16 .l0 0 true 0 with
      | .got .. => 0 | .page .. => 1 | .noExec _ => 2 | .unbacked .. => 3 | _ => 4
    let leaf (e : Nat) : State := { between with mem := mwrites between.mem 0x20000 (leBytes 8 e) }
    let stream : State := { between with seqrs := [(0, { Seqr.idleFor 16 with st := .running })] }
    let s4 : State := { stream with mem := mwrites stream.mem 0 (bytesOfDword 0xA60001FFFFFE0000 ++ bytesOfDword 0xC061E011EB03BE8D) }
    let got4 : Bool := match s4.fetchClause 0 (s4.leadTeam 0) .l0 4096 true 0 with
      | .got l _ => !streamBad (l.headD 0) (l.drop 1) | _ => false
    (∀ s ∈ [(good, false, false), (bad, false, true), (due, true, false)],
        s.1.mayPick 0 0 = true ∧ s.1.blockedAsync 0 = none ∧ s.1.asyncDue 512 = s.2.1
          ∧ (s.1.pick 0 0).any (fun c => c.gid == 512 && c.bad == s.2.2) = true)
      ∧ (∀ s ∈ [between, leaf 0, leaf 0x0B, leaf (cxlBase + 0x3B)], (0 : Nat) < 8 ∧ (s.slice 512 0).st = .ganged
          ∧ s.groupFree 0 512 = true ∧ (s.slice 512 0).pc.toNat % 8 = 0 ∧ (s.team (tidOf 512)).core = 0 ∧ (s.team (tidOf 512)).ctx = 0)
      ∧ got between = 0 ∧ got (leaf 0) = 1 ∧ got (leaf 0x0B) = 2 ∧ got (leaf (cxlBase + 0x3B)) = 3
      ∧ (sget stream.seqrs 0).isSome = true ∧ (stream.seqr 0).st = .running ∧ (stream.seqr 0).words = [] ∧ (stream.seqr 0).fault = none
      ∧ (stream.seqr 0).stop = none ∧ (stream.team (stream.leadTeam 0)).st = .running ∧ stream.leaving (stream.leadTeam 0) = false
      ∧ (stream.ctx (stream.team (stream.leadTeam 0)).ctx).killing = none ∧ (stream.seqr 0).pc.toNat % 8 = 0
      ∧ got4 = true := by
  decide +kernel

/-- A slice whose ageing counter is due, with a path pending; slices at REGANG for long enough, and for less; a trap that waits. -/
theorem witness_ageingAndRegang :
    let aged : State := ({ between with clock := 4096 }).modSlice 512 0 fun x =>
      { x with exec := 1, path := 1, stack := [⟨64, 15, some ⟨72, 14, 14⟩, 0⟩] }
    let met (n : Nat) : State := ({ between with clock := n }).modSlice 512 0 fun x => { x with st := .regangWait }
    let trapped := between.modGroup 512 fun g => { g with trapWait := some ⟨3, 0, 0, 0, 0, []⟩ }
    let s := trapped.modCtx 0 fun c => { c with trapvec := 0x8000 }
    0 ∈ aged.sliceNos 512 ∧ aged.ageDue 512 0 = true ∧ aged.inPipe (aged.team (tidOf 512)).core 512 = false
      ∧ (aged.slice 512 0).stack = [⟨64, 15, some ⟨72, 14, 14⟩, 0⟩]
      ∧ (met 4096).firstArrival 512 = some 0 ∧ (met 4095).firstArrival 512 = some 0
      ∧ 0 + ((met 4096).launchOf (tidOf 512)).ageLimit ≤ (met 4096).cycles 512
      ∧ (met 4095).cycles 512 < 0 + ((met 4095).launchOf (tidOf 512)).ageLimit
      ∧ (s.group 512).trapWait.isSome = true ∧ s.freeSlot (s.team (tidOf 512)).core = some 0
      ∧ (s.ctx (s.team (tidOf 512)).ctx).trapvec.extractLsb' 0 56 ≠ 0 := by
  decide +kernel

/-- A gang of slices 0 and 1 that waits for a service request, before and after it is appended, and a full ring. -/
theorem witness_serviceRing :
    let x (n : Option Nat) : Stall := ⟨512, [0, 1], 0x5000, .read, 8, n, none⟩
    let e (b : Bool) : RingEntry := ⟨0x5000, 0, 0, 0, 0, 0, 8, 0, b⟩
    let asks := between.modCore 0 fun k => { k with stalls := [x none], stallFrom := some 0 }
    let full := asks.modPart 0 fun p => { p with ring := (List.range 64).map fun k => (k, e false) }
    let open_ (b : Bool) : State := (between.modCore 0 fun k => { k with stalls := [x (some 0)], stallFrom := some 0 }).modPart 0 fun p =>
      { p with ring := [(0, e b)], head := 1 }
    full.ringFree 0 = false ∧ asks.ringFree 0 = true ∧ asks.waitingStalls 0 = [(0, x none)] ∧ x none ∈ (asks.core 0).stalls
      ∧ sget ((open_ true).part 0).ring 0 = some (e true) ∧ (e true).answered = true
      ∧ sget ((open_ false).part 0).ring 0 = some (e false) ∧ (e false).answered = false
      ∧ (open_ false).cmds = [] ∧ (open_ false).mcmds = [] ∧ (open_ false).seqrs = []
      ∧ ((open_ false).core (e false).cid).stalls = [x (some 0)] ∧ (x (some 0)).entry = some 0 ∧ (x (some 0)).retry = none
      ∧ ((open_ false).ctx (e false).ctx).killed = false ∧ ((open_ false).ctx (e false).ctx).killing = none := by
  decide +kernel

/-- A cluster of one quiet team that is to be vacated, one whose cross-rank copy has outlasted the wait, and a context to be
killed, and killed. -/
theorem witness_vacationsAndKills :
    let leaves (n : Nat) : State :=
      { between with
        clock := n, launches := [(0, grid .running)]
        clusters := [(0, { block .placed with teams := [16], vacating := some 0, slots := [0] })] }
    let k := cmdOf .copyx [] []
    let late : State := { leaves 52500 with cmds := [(3, k)] }
    let kill : Kill := ⟨3, 5, 0, 0, 0, []⟩
    let dying := (leaves 0).modCtx 0 fun c => { c with killing := some kill }
    let dead : State := ({ between with teams := [] }).modCtx 0 fun c => { c with killing := some kill, killed := true }
    let s := leaves 0
    let saved := s.modTeam 16 fun t => { t with st := .suspended, saved := some ⟨0, none, none, [], [], [], [], [], [], [], []⟩ }
    (s.cluster 0).vacating ≠ none ∧ (s.cluster 0).heir = none ∧ s.liveTeams 0 = [16] ∧ s.teamQuiet 0 16 = true ∧ (s.cluster 0).slots = [0] ∧ s.slotsReady 0 = true
      ∧ saved.liveTeams 0 = [16] ∧ (saved.cluster 0).vacating ≠ none ∧ (saved.cluster 0).heir = none ∧ (saved.team 16).st = .suspended ∧ saved.slotWritten 16 = true ∧ s.mcmds = []
      ∧ late.waitedOut 0 = true ∧ sget late.cmds 3 = some k ∧ k.tid ∈ (late.cluster 0).teams ∧ k.kind = .copyx ∧ k.status = none
      ∧ k.sent = false ∧ late.mcmds = [] ∧ s.scrPoison = [] ∧ s.arrPoison = []
      ∧ (dying.ctx 0).killing = some kill ∧ (dying.ctx 0).killed = false ∧ (dying.dropRequests 0).ringFree (dying.ctx 0).part = true
      ∧ (dead.ctx 0).killing = some kill ∧ (dead.ctx 0).killed = true ∧ dead.ctxTeams 0 = [] ∧ dead.recordDone 0 = true := by
  decide +kernel

/-! ### Versions, releases, homes and cores -/

/-- `mapped`, its team's snapshot and the Sundial at `n`. -/
def homed (n : Nat) : State :=
  { mapped.modTeam 16 fun t => { t with snap := n } with sundial := n }

/-- `homed` with the line at 0x400 committed at 2, and as many older versions of it kept as a channel has lines. -/
def kept : State :=
  { homed 2 with
    lineTs := [(16, 2)], orangery := [(16, List.replicate State.orangeryLines ⟨1, List.replicate 64 9, [], none⟩)], lacking := [(0, 0)]
    clock := 65536 }

/-- A channel that keeps at least as many older versions as it has lines is full. -/
theorem full_of (s : State) (l : List Version) (h : s.orangery = [(16, l)]) (hl : State.orangeryLines ≤ l.length) :
    s.orangeryFull 0 = true := by
  have e : homeOf (16 * 64) = 0 := by decide +kernel
  simp only [State.orangeryFull, State.oldLines, h, List.foldl, if_pos e, Nat.zero_add, decide_eq_true_eq]
  omega

theorem kept_full (s : State) (h : s.orangery = kept.orangery) : s.orangeryFull 0 = true :=
  full_of s _ h (Nat.le_of_eq List.length_replicate.symm)

/-- The oldest snapshot that keeps versions there, or else the launch with the most pinned lines; a channel that has not lacked space
for long; a snapshot 2^46 behind, and one that is not. -/
theorem witness_collector :
    let old : State := kept.modTeam 16 fun t => { t with snap := 1 }
    let bare : State := { kept with teams := [], launches := [(3, { grid .running with pins := [16] })] }
    let soon : State := { kept with clock := 65535 }
    let aged : State := { base with sundial := 2 ^ 46 }
    (∀ s ∈ [old, bare], sget s.lacking 0 = some 0 ∧ 0 + 65536 ≤ s.clock) ∧ old.orangeryFull 0 = true ∧ bare.orangeryFull 0 = true
      ∧ old.oldestIn 0 = some 16 ∧ bare.oldestIn 0 = none ∧ bare.mostPinned 0 = some 3
      ∧ sget soon.lacking 0 = some 0 ∧ soon.clock < 0 + 65536
      ∧ 16 ∈ aged.snapTeams ∧ tsBehind (2 ^ 46) (aged.team 16).snap aged.sundial = true
      ∧ tsBehind (2 ^ 46) (base.team 16).snap base.sundial = false
      ∧ (let low := kept.lowWater
        (2 + (2 ^ 48 - low % 2 ^ 48)) % 2 ^ 48 < 2 ^ 46 ∧ (low + (2 ^ 48 - 1 % 2 ^ 48)) % 2 ^ 48 < 2 ^ 46
          ∧ (low + (2 ^ 48 - kept.lineStamp 0x400 % 2 ^ 48)) % 2 ^ 48 < 2 ^ 46) :=
  ⟨by decide +kernel, kept_full _ rfl, kept_full _ rfl, by decide +kernel⟩

/-- A release that waits, with two pending bytes of one line, at each of the scopes; a held write of 128 cycles before, and of fewer. -/
theorem witness_releases :
    let s (c : Scope) : State :=
      { (homed 0).modTeam 16 fun t => { t with pending := [(0x400, (7, 0)), (0x404, (8, 1))] } with
        rels := [(0, ⟨16, none, c, .waiting, 0, none, .device⟩)] }
    let p : Packet := { Packet.plain (.core 0) (.home 0) 0 .write with held := true, tid := 16, pa := 0x400, size := 1, bytes := [7] }
    let held (n : Nat) : State := { homed 0 with packets := [(5, p)], clock := n }
    (∀ c ∈ [Scope.team, .cluster, .device, .system],
        (∃ r, sget (s c).rels 0 = some r ∧ r.st = .waiting ∧ (s c).seenAt r.tid r.scope = true
          ∧ (s c).atomicAhead r.tid (skeys ((s c).team r.tid).pending) = false))
      ∧ ((s .team).team 16).pending ≠ [] ∧ Rising ((s .team).team 16).pending ∧ (∀ p ∈ ((s .team).team 16).pending, canonPa p.1 = p.1)
      ∧ sget (held 128).packets 5 = some p ∧ (held 128).canDrain 5 = true ∧ (held 128).inReach p.ptag p.dst = true
      ∧ p.isRead = false ∧ sget (held 127).packets 5 = some p ∧ 127 < p.born + 128 := by
  refine ⟨fun c hc => ⟨⟨16, none, c, .waiting, 0, none, .device⟩, rfl, rfl, ?_, ?_⟩, by decide +kernel, ?_, by decide +kernel⟩
  · revert c; decide +kernel
  · revert c; decide +kernel
  · unfold Rising
    decide +kernel

/-- One access of each kind of packet that arrives at a home: a read of good and of poisoned bytes, a write, a commit, an atomic of
each shape and a reduction, with space in the Orangery; and a write without it. -/
theorem witness_homes :
    let p (load : Payload) (n : Nat) (b : List Byte) : Packet :=
      { Packet.plain (.core 0) (.home 0) 0 load with tid := 16, gid := 512, oid := 1, pa := 0x400, size := n, bytes := b }
    let rd := p (.read (.load false) none) 4 []
    let wr := p .write 4 [1, 2, 3, 4]
    let cm : Packet := { p (.commit none) 32 (List.replicate 32 5) with lane := 3, ts := 1 }
    let at_ (op : AOp) : Packet := p (.atomic op [0, 0, 0, 0]) 4 [1, 0, 0, 0]
    let re := p (.reduce .add) 4 [1, 0, 0, 0]
    let s (q : Packet) : State := { homed 0 with packets := [(5, q)] }
    let bad : State := { s rd with poison := [32] }
    let full : State := { kept with packets := [(5, wr)] }
    Contained bad ∧ (∀ q ∈ [rd, wr, cm, at_ .add, at_ .cas, re], (s q).deliverable 5 = some q ∧ (s q).inReach q.ptag q.src = true ∧ q.err = .clean ∧ (s q).homeReady q = true
        ∧ ((s q).team q.tid).st ≠ .killed ∧ (∀ i < q.size, canonPa (q.pa + i) = q.pa + i) ∧ (s q).orangeryFull (homeOf q.pa) = false
        ∧ (s q).poisoned q.pa q.size = false ∧ (s q).lineBusy q.pa = (q == cm) ∧ (s q).earlierCommit q = false)
      ∧ re.group = none ∧ tsLe ((s cm).lineStamp cm.pa) 0 = true ∧ tsLe cm.ts 0 = false
      ∧ bad.deliverable 5 = some rd ∧ bad.homeReady rd = true ∧ (bad.team 16).st ≠ .killed ∧ bad.poisoned 0x400 4 = true
      ∧ State.rollsBack (bad.launchOf 16) = false ∧ (bad.ctx (bad.team 16).ctx).killing = none ∧ (bad.ctx (bad.team 16).ctx).killed = false
      ∧ wr.bytes ≠ [] ∧ wr.size = wr.bytes.length ∧ cm.size = 32 ∧ cm.pa % 32 = 0 ∧ cm.lane.testBit 0 = true
      ∧ full.deliverable 5 = some wr ∧ full.homeReady wr = true ∧ (full.team 16).st ≠ .killed ∧ homeOf wr.pa = 0
      ∧ full.orangeryFull 0 = true :=
by
  refine ⟨fun e he => ?_, by decide +kernel, ?_⟩
  · obtain rfl := List.mem_singleton.mp he; decide +kernel
  · simp only [kept_full full rfl]; decide +kernel

/-- One packet of each kind that arrives at a core. -/
theorem witness_cores :
    let o (d : Reg × Bool) : Op := { Op.of lone (Meta.reg c0 true 4 [] []) [] with oid := 1, wait := 1, dest := some d }
    let p (load : Payload) (n : Nat) (b : List Byte) : Packet :=
      { Packet.plain (.home 0) (.core 0) 1 load with tid := 16, gid := 512, oid := 1, pa := 0x100, size := n, bytes := b }
    let s (d : Reg × Bool) (q : Packet) : State :=
      { one with packets := [(5, q)] }.modGroup 512 fun g => { g with ops := [o d] }
    let wl := p (.winLoad false true) 4 []
    let ws := p (.winStore true) 4 [1, 2, 3, 4]
    let br := p (.bar ⟨0x100, 16, 1⟩) 0 []
    let dt := p (.data (.load true) none none) 4 [1, 2, 3, 4]
    let ti := p (.data (.tileIn 0 1) none none) 32 (List.replicate 32 1)
    let ak := p .ack 0 []
    let mc : Packet := { p (.ackCopy 0) 0 [] with src := .io 0 }
    let marked : State := { one with copies := [(0, ⟨16, (1, 0, 0), 1, 0x400, none, [1], some 3, true⟩)] }
    (∀ q ∈ [wl, ws, br, ti, ak, mc], (s (.v 4, false) q).deliverable 5 = some q ∧ q.err = .clean ∧ (s (.v 4, false) q).homeReady q = true
        ∧ ((s (.v 4, false) q).team q.tid).st ≠ .killed ∧ q.dst = .core 0 ∧ (s (.v 4, false) q).opOf 512 1 = some (o (.v 4, false)) ∧ (o (.v 4, false)).tops = []
        ∧ (s (.v 4, false) q).inReach q.ptag q.src = true ∧ (s (.v 4, false) q).scrSettling 0 q.pa q.size = false)
      ∧ (∀ d ∈ [(Reg.v 4, false), (.v 4, true), (.s 4, false), (.s 4, true), (.k 1, false)], (s d dt).deliverable 5 = some dt
        ∧ ((s d dt).team 16).st ≠ .killed ∧ (s d dt).homeReady dt = true ∧ (s d dt).opOf dt.gid dt.oid = some (o d) ∧ (o d).lost = []
        ∧ (o d).olds = [] ∧ (s d dt).inReach dt.ptag dt.src = true
        ∧ (∀ h ∈ ((s d dt).group dt.gid).hazards, h.ready ≠ none ∨ dt.oid ≤ h.oid))
      ∧ one.scrPoisoned 0 0x100 4 = false ∧ ws.size = ws.bytes.length
      ∧ (one.core 0).frozen = none ∧ (∀ t ∈ (one.core 0).triggers, t.off ≠ 0x100) ∧ dt.cmd = none ∧ ak.cmd = none ∧ sget marked.copies 0 = some ⟨16, (1, 0, 0), 1, 0x400, none, [1], some 3, true⟩ := by
  decide +kernel

/-! ### Collectives and multicast writes -/

/-- The contribution of device (x, 0, 0) to an ADD of one word over a box of two along x. -/
def share (x : Nat) : Contribution := ⟨1, 2, 0, (x, 0, 0), 1, 1, 0x100, 0, .w, [5], false⟩

/-- The local command of that collective, its contribution sent: the result goes to 0x3000. -/
def collCmd : Cmd :=
  { cmdOf .copyx [0x2000, 0x0001000100010001, 0, 0, 0, 0, 8, 0, 0, 0]
      [0x3000, 0x0001000100010001, 0, 0, 0, 0, 8, 0, 0x100, 0x200000011] with
    pos := 1, slot := 1, result := [5, 0, 0, 0], joined := true, sent := true, pas := [0x3000] }

/-- That command at the device (0, 0, 0), its ports up, with what its reduction slot has. -/
def member (r : Option RSlot) : State :=
  { mapped.modDev fun d => { d with colsReady := List.range 18 } with
    cmds := [(3, collCmd)], rslots := match r with | some r => [(State.rslotKey 1 2 0, r)] | none => [] }

/-- Its slot, with some contributions. -/
def slotOf (l : List Contribution) : RSlot := ⟨(1, 2, 0), 0, 200, l⟩

/-- The local contribution, where it is folded here, elsewhere or in a switch, and where its end is on its way. -/
theorem witness_localContribution :
    let p : Packet := { Packet.plain (.core 0) (.io 0) 3 (.contribution 3 (share 0)) with tid := 16, gid := 512 }
    let gets (p : Packet) : State := { member none with packets := [(5, p)] }
    let far : Packet := { p with load := .contribution 3 (share 1) }
    let there : State := (gets far).modDev fun d => { d with coords := (1, 0, 0) }
    let switched := (gets p).modDev fun d => { d with switchFolds := [1] }
    let ended : State := { gets p with packets := [(5, p), (6, Packet.plain (.io 0) (.core 0) 3 (.collStatus 3 1))] }
    (∀ e ∈ [(gets p, p), (there, far), (switched, p), (ended, p)], e.1.deliverable 5 = some e.2 ∧ e.2.err = .clean ∧ e.1.homeReady e.2 = true
        ∧ (e.1.team e.2.tid).st ≠ .killed ∧ sget e.1.cmds 3 = some collCmd ∧ State.foldsAt (share 0) = some (0, 0, 0))
      ∧ collCmd.status = none ∧ (share 0).dev = (gets p).dev.coords ∧ (share 1).dev = there.dev.coords
      ∧ State.foldsAt (share 1) = some (0, 0, 0) ∧ there.bundleUp (0, 0, 0) = true
      ∧ (gets p).rslots = [] ∧ (∃ q ∈ contributors (share 0).box (share 0).repl (share 0).dev, q ≠ (gets p).dev.coords)
      ∧ switched.switchFor (share 0) = some (1, 0, 0) ∧ switched.bundleUp (1, 0, 0) = true ∧ (gets p).switchFor (share 0) = none
      ∧ there.switchFor (share 1) = none ∧ switched.endSent 3 = false ∧ (gets p).endSent 3 = false ∧ there.endSent 3 = false
      ∧ ended.endSent 3 = true ∧ ended.contWaits (share 0) = false := by
  decide +kernel

/-- Contributions of the other member: the first, a second one, the last, one that disagrees, and one without data. -/
theorem witness_contributions :
    let fails : Contribution := { share 1 with data := [], fail := true }
    let full : State := { member none with rslots := (List.range 64).map fun n => (n, slotOf []) }
    let cs := contributors 0x100 1 (0, 0, 0)
    let first : State := member (some (slotOf [share 0]))
    cs = [(0, 0, 0), (1, 0, 0)] ∧ contributors 0x100 1 (1, 0, 0) = cs
      ∧ (member none).dev.coords = (0, 0, 0) ∧ (share 1).dev ≠ (0, 0, 0)
      ∧ sget full.rslots (State.rslotKey 1 2 0) = none ∧ full.rslots.length = 64
      ∧ sget first.rslots (State.rslotKey 1 2 0) = some (slotOf [share 0]) ∧ first.localMember 1 2 0 = some (3, collCmd)
      ∧ (∀ y ∈ [share 0], y.dev ≠ (share 1).dev ∧ agree (share 1) y = true ∧ agree { share 1 with rop := 2 } y = false)
      ∧ (∀ y ∈ [share 0, fails], agree fails y = true) ∧ (∀ q ∈ cs, ∃ y ∈ [share 0, share 1], y.dev = q)
      ∧ (∃ y ∈ [share 1], y.dev = (share 1).dev) ∧ first.inReach (first.team 16).part (.core 0) = true ∧ first.bundleUp (1, 0, 0) = true
      ∧ (share 1).group ∉ first.dev.switchFolds ∧ (State.reset).bundleUp (1, 0, 0) = false := by
  decide +kernel

/-- A timer that expires; a result and a status that arrive, from this device's die and from another device. -/
theorem witness_collectiveAnswers :
    let s := member none
    let there := s.modDev fun d => { d with coords := (1, 0, 0) }
    let p (load : Payload) (b : List Byte) : Packet :=
      { Packet.plain (.io 0) (.core 0) 3 load with tid := 16, gid := 512, bytes := b }
    let back (q : Packet) : State := { s with packets := [(5, q)] }
    let res := p (.collResult 3 0) [10, 0, 0, 0]
    let st (v : Nat) := p (.collStatus 3 v) []
    let late : State := { member (some (slotOf [share 0])) with clock := 200 * 1050 }
    sget late.rslots (State.rslotKey 1 2 0) = some (slotOf [share 0]) ∧ 0 + 200 * 1050 ≤ late.clock
      ∧ (∀ q ∈ [res, st 0, st 1], (back q).deliverable 5 = some q ∧ q.err = .clean ∧ (back q).homeReady q = true
          ∧ ((back q).team 16).st ≠ .killed ∧ sget (back q).cmds 3 = some collCmd)
      ∧ collCmd.status = none ∧ collCmd.pas = [0x3000] ∧ res.bytes.length = 1 * shES collCmd.dst
      ∧ there.localMember 1 2 0 = some (3, collCmd) ∧ there.answerPort collCmd = true ∧ (⟨1, 2, 0, [], 1⟩ : CollMsg).status ≠ 0 := by
  decide +kernel

/-- Multicast writes and a reduction that are accepted; a write that is not, and one whose ports are down. -/
theorem witness_multicast :
    let s := member none
    let ok : State := s.modPart 0 fun e => { e with live := true, mcast := [(1, 1 <<< 127)] }
    let write : Member := ⟨(0, 0, 0), 0, none⟩
    let red : Member := ⟨(0, 0, 0), 0, some .add⟩
    skeys (State.maskedCells 0x400 [some 1, none]) = [0x400] ∧ ok.lineBusy 0x400 = false ∧ ok.spaceFor [0x400] = none ∧ ok.backed 0x400 = true
      ∧ ok.accepts 1 write = true ∧ ok.accepts 1 red = true ∧ s.accepts 1 write = false ∧ ok.homesReady [0x400] = true
      ∧ ok.bundleUp write.dev = true ∧ State.reset.bundleUp write.dev = false
      ∧ (∀ i < 2, canonPa (0x400 + i) = 0x400 + i)
      ∧ (∀ a ∈ skeys (State.maskedCells 0x400 [some 1, some 2, some 3, some 4]), ok.backed a = true)
      ∧ (aopNew .add 32 (leNat (ok.newests 0x400 4)) 0x04030201 0).isSome = true := by
  decide +kernel

/-! ### Failures, tests, and the module -/

/-- A core struck for the first time, and for the seventeenth, and a sequencer of it; addresses of good bytes of each kind, and a bit on
the wire; a packet at the head of its stream for 2048 cycles, and for fewer. -/
theorem witness_strikesAndErrors :
    let often : State := base.modCore 0 fun k => { k with strikeLog := List.replicate 16 0 }
    let p : Packet := Packet.plain (.core 0) (.home 0) 0 .write
    let sent (n : Nat) : State := { base with packets := [(5, p)], clock := n }
    let n (s : State) : Nat := (s.clock :: (s.core 0).strikeLog.filter fun a => s.clock < a + 2 ^ 20).length
    (base.core 0).fenced = false ∧ n base ≤ 16 ∧ (often.core 0).fenced = false ∧ 16 < n often ∧ isSys 0 = false
      ∧ ((often.rowTable (0 / 64)).getD (0 % 64) none).isSome = true
      ∧ (seqBase.core 0).fenced = false ∧ n seqBase ≤ 16 ∧ (sget seqBase.seqrs 0).isSome = true ∧ (seqBase.team (seqBase.seqr 0).tid).core = 0
      ∧ 0x400 < 2 ^ 52 ∧ base.backed 0x400 = true ∧ 2 ^ 52 ≤ 2 ^ 52 + 32 ∧ 2 ^ 52 + 32 < 2 ^ 53 ∧ 2 ^ 53 ≤ 2 ^ 53 ∧ 2 ^ 53 < wireBase
      ∧ wireBase = wireBase + 0 * 2 ^ 16 + 0 ∧ sget (sent 0).packets 5 = some p ∧ p.held = false ∧ 270 < p.wireBits ∧ p.flips.Nodup
      ∧ (3, 4) ∉ base.dev.deadRouters ∧ (∀ n ∈ [2047, 2048], (sent n).deliverable 5 = some p) ∧ p.since + 2048 = 2048 := by
  decide +kernel

/-- A core that fails with a reserve to the east, and to the west only, and with none; a rebuild that may be made, and one that may not
yet. -/
theorem witness_failures :
    let east := base.nextTable 0
    let west : State := base.modDev fun d => { d with remap := [(0, ((List.range 64).map some).set 3 none |>.set 2 (some 3))], reserves := [(0, [2])] }
    let bare : State := base.modDev fun d => { d with reserves := [(0, [])] }
    let r : Rebuild := { row := 0, failed := 1, table := ((List.range 64).map some).set 1 (some 64), reserves := [], shrink := none, col := 1 }
    let r0 : Rebuild := { r with failed := 0, table := ((List.range 64).map some).set 0 (some 64), col := 0 }
    let due (r : Rebuild) : State := base.modDev fun d => { d with rebuilds := [r] }
    (base.rowTable 0).getD 3 none = some 3 ∧ (base.core (cidOf 3 0)).fenced = false ∧ 3 ∈ nonVoid east.1
      ∧ (64 ∈ east.2 ∧ 3 < 64 ∧ ∀ q ∈ east.2, 3 < q → 64 ≤ q)
      ∧ (west.rowTable 0).getD 2 none = some 3 ∧ (west.core (cidOf 2 0)).fenced = false ∧ 3 ∈ nonVoid (west.nextTable 0).1
      ∧ (2 ∈ (west.nextTable 0).2 ∧ 2 < 3 ∧ ∀ q ∈ (west.nextTable 0).2, q < 3 ∧ q ≤ 2)
      ∧ (bare.nextTable 0).2 = [] ∧ bare.ownerOf 3 0 = none ∧ (bare.rowTable 0).getD 3 none = some 3
      ∧ ((due r).dev.rebuilds.find? fun x => x.row = 0) = some r ∧ (due r).rebuildFree r = true ∧ r.shrink = none
      ∧ ((due r0).dev.rebuilds.find? fun x => x.row = 0) = some r0 ∧ (due r0).rebuildFree r0 = false := by
  decide +kernel

/-- A window that may start; a core whose turn it is, empty and not; a test under way, and one at its end. -/
theorem witness_inFieldTest :
    let turn (c n : Nat) : State := ({ base with clock := n }).modDev fun d => { d with testLeft := [c], testFrom := 0 }
    let under (c n : Nat) : State := (turn c n).modCore c fun k => { k with testing := true }
    let s : State := { served with clock := 2 ^ 30 }
    s.dev.st = .service ∧ s.dev.testNext ≤ s.clock ∧ s.dev.testLeft = []
      ∧ (turn 1 0).dev.testLeft = [1] ∧ ((turn 1 0).core 1).testing = false ∧ (turn 1 0).queuesEmpty 1 = true
      ∧ (turn 0 0).dev.testLeft = [0] ∧ ((turn 0 0).core 0).testing = false ∧ (turn 0 0).queuesEmpty 0 = false
      ∧ (turn 0 0).clock < (turn 0 0).dev.testFrom + 2 ^ 22
      ∧ ((under 1 0).core 1).testing = true ∧ (under 1 0).clock < (under 1 0).dev.testFrom + 2 ^ 16
      ∧ ((under 1 65536).core 1).testing = true ∧ (under 1 65536).dev.testFrom + 2 ^ 16 ≤ (under 1 65536).clock
      ∧ ((under 1 65536).core 1).hosted = [] ∧ (((under 1 65536).rowTable (1 / 64)).getD (1 % 64) none).isSome = true := by
  decide +kernel

/-- The first 0x20 bytes of an image of a kind under a key slot, with SVN and ENTRY 0 and a body of some length. -/
def header (kind key len : Nat) : List Byte :=
  [0x4A, 0x56, 0x49, 0x4D, BitVec.ofNat 8 kind, 0, BitVec.ofNat 8 key, 0] ++ List.replicate 8 0 ++ leBytes 8 len ++ List.replicate 8 0

/-- The image: that, the digest of its body, a signature of zeros, and the body. -/
def image (kind key : Nat) (body : List Byte) : List Byte :=
  header kind key body.length ++ (digest body ++ (List.replicate 0x7480 0 ++ body))

/-- A configuration body: every row at columns 0 to 63, no spare disabled, no identity, the device at (0, 0, 0). -/
def plainConfig : List Byte :=
  (List.range 2048).map (fun i => BitVec.ofNat 8 (i % 64)) ++ List.replicate 163 0

theorem header_length (kind key len : Nat) : (header kind key len).length = 32 := by
  simp only [header, leBytes, List.length_append, List.length_replicate, List.length_cons, List.length_nil, List.length_map,
    List.length_range]

theorem digest_length (l : List Byte) : (digest l).length = 64 := by simp only [digest, leBytes, List.length_map, List.length_range]

theorem image_head (kind key : Nat) (body : List Byte) (off n : Nat) (h : off + n ≤ 32) :
    imgField (image kind key body) off n = leNat (((header kind key body.length).drop off).take n) := by
  have hl := header_length kind key body.length
  rw [imgField, image, List.drop_append_of_le_length (by omega), List.take_append_of_le_length (by rw [List.length_drop]; omega)]

theorem image_tail (kind key : Nat) (body : List Byte) :
    (image kind key body).drop 0x20 = digest body ++ (List.replicate 0x7480 0 ++ body) :=
  List.drop_left' (header_length ..)

theorem image_zeros (kind key : Nat) (body : List Byte) : (image kind key body).drop 0x60 = List.replicate 0x7480 0 ++ body := by
  rw [show 0x60 = 0x20 + 64 from rfl, ← List.drop_drop, image_tail, List.drop_left' (digest_length body)]

theorem image_body (kind key : Nat) (body : List Byte) : imgBody (image kind key body) = body := by
  rw [imgBody, show 0x74E0 = 0x60 + 0x7480 from rfl, ← List.drop_drop, image_zeros, List.drop_left' List.length_replicate]

/-- It is accepted where its signature is: whether that is so the model leaves open (log entry 6). -/
theorem image_ok (s : State) (kind key : Nat) (body : List Byte) (slots : List Nat) (k : List Byte)
    (hk : (kind, key, body) = (1, 0, plainConfig) ∨ (kind, key, body) = (2, 0, []) ∨ (kind, key, body) = (3, 0, [])
      ∨ (kind, key, body) = (4, 1, [7]))
    (hm : s.dev.minima = []) (hs : s.keyIn key = some k) (h4 : kind = 4 → slots.contains key = true)
    (h : Config.imageSigned ((image kind key body).take 0x74E0) k = true) : s.imageOk kind slots (image kind key body) = true := by
  have hd : ((image kind key body).drop 0x20).take 64 = digest body := by rw [image_tail, List.take_left' (digest_length body)]
  have hz : imgField (image kind key body) 0x60 32 = 0 := by
    rw [imgField, image_zeros, List.take_append_of_le_length (by rw [List.length_replicate]; omega)]; decide +kernel
  have hl : 0x74E0 ≤ (image kind key body).length := by
    simp only [image, List.length_append, header_length, digest_length, List.length_replicate]; omega
  have hg : (image kind key body).take 4 = [0x4A, 0x56, 0x49, 0x4D] := rfl
  have hf : imgField (image kind key body) 6 2 = key := by
    rw [image_head _ _ _ _ _ (by omega)]; rcases hk with e | e | e | e <;> cases e <;> decide +kernel
  have hr : (imgField (image kind key body) 4 2 = kind && key ≤ 7 && imgField (image kind key body) 0x0C 4 = 0
      && (kind = 3 || kind = 4 || imgField (image kind key body) 0x18 8 = 0)
      && imgField (image kind key body) 0x10 8 = body.length && (kind != 1 || State.configOk body)) = true := by
    rw [image_head _ _ _ _ _ (by omega), image_head _ _ _ _ _ (by omega), image_head _ _ _ _ _ (by omega),
      image_head _ _ _ _ _ (by omega)]
    rcases hk with e | e | e | e <;> cases e <;> decide +kernel
  have hv : sgetD s.dev.minima (kind * 8 + key) 0 = 0 := by rw [hm]; rfl
  have h5 : (kind != 4 || slots.contains key) = true := by
    by_cases e : kind = 4
    · rw [h4 e, Bool.or_true]
    · simp [e]
  simp only [Bool.and_eq_true] at hr
  obtain ⟨⟨⟨⟨⟨r1, r2⟩, r3⟩, r4⟩, r5⟩, r6⟩ := hr
  simp only [State.imageOk, hf, hd, hz, hg, image_body, hs, hv, h5, r1, r2, r3, r4, r5, r6, h, hl, Option.any_some, Nat.zero_le,
    decide_true, beq_self_eq_true, Bool.and_self]

/-- The module in a state, images of some kinds verified. -/
def atState (st : ModState) (l : List Nat) : State :=
  State.reset.modDev fun d => { d with st := st, images := l.map fun k => (k, none, [], 0) }

/-- Images that pass (log entry 6), and one that cannot. -/
theorem witness_images (st : ModState) (l : List Nat) :
    (∀ k ∈ [(1, plainConfig), (2, []), (3, [])], Config.imageSigned ((image k.1 0 k.2).take 0x74E0) [] = true →
        (atState st l).imageOk k.1 [] (image k.1 0 k.2) = true)
      ∧ ∀ k, (atState st l).imageOk k [] [] = false := by
  refine ⟨fun k hk h => ?_, fun k => rfl⟩
  simp only [List.mem_cons, List.not_mem_nil, or_false] at hk
  rcases hk with e | e | e <;> subst e <;> exact image_ok _ _ 0 _ [] [] (by simp) rfl rfl (by decide) h

/-- Each state of the module in which an event of it comes about; a unit to be tested of each kind; a halted system core of a partition;
and Fjondan running, and not. -/
theorem witness_moduleStates :
    let sys : State := ((atState .service []).modPart 3 fun p => { p with live := true, sysCores := [2], entry := 0x4000 }).modCore 2050 fun k =>
      { k with held := true }
    let fj : State := { State.reset with teams := [(0, { Team.absent with st := .running })] }
    State.reset.dev.st = .off ∧ (atState .standby []).dev.st = .standby ∧ (atState .service []).dev.st ≠ .off
      ∧ (∀ x ∈ (atState .verify []).dev.images, x.1 ≠ 2) ∧ (∃ x ∈ (atState .verify [2]).dev.images, x.1 = 2)
      ∧ (atState .verify [2]).dev.faultLog = []
      ∧ (∀ x ∈ (atState .boot [2, 1]).dev.images, x.1 ≠ 3) ∧ (∃ x ∈ (atState .boot [2, 1, 3]).dev.images, x.1 = 3)
      ∧ (let d := (atState .boot []).dev
        (∀ k < 3, (k, 17) ∉ d.unitsFailed) ∧ 17 ∉ d.retired ∧ 17 ∉ d.chansReady ∧ 17 ∉ d.parksReady ∧ 17 ∉ d.colsReady
          ∧ d.ports = [] ∧ (atState .boot []).copies = [])
      ∧ (sys.part 3).live = true ∧ 2 ∈ (sys.part 3).sysCores ∧ (∀ e ∈ sys.parts, e.2.live = true → 2 ∈ e.2.sysCores → e.1 = 3)
      ∧ (sys.core (2048 + 2)).held = true ∧ fjondanRuns fj = true ∧ fjondanRuns State.reset = false := by
  decide +kernel

/-- A partition that may be created where its image's signature is accepted, one that may not, and one that lives with a context. -/
theorem witness_partitions :
    let s : State := (State.reset.modDev fun d => { d with st := .service, keys := [(1, ([9], some 3))] })
    let p : PartitionSpec :=
      { number := 3, x0 := 0, y0 := 0, w := 1, h := 1, sysCores := [2, 3], memory := [(0x100000, 0x100000)], ctxLo := 16, ctxHi := 17
        priority := 0, keySlots := [1], roots := [], sysCtx := 16, image := image 4 1 [7], entry := 0, bar2Bits := 30 }
    let t : State := (s.modPart 3 fun q => { q with live := true, sysCores := [2] }).modCtx 16 fun c => { c with part := 3 }
    s.dev.st = .service ∧ (Config.imageSigned ((image 4 1 [7]).take 0x74E0) [9] = true → s.specOk p = true) ∧ p.sysCores.Nodup
      ∧ imgBody p.image = [7] ∧ canonPa 0x100000 = 0x100000
      ∧ s.specOk { p with w := 0 } = false ∧ (t.part 3).live = true ∧ (∃ e ∈ t.ctxs, e.2.part = 3 ∧ (t.ctx e.1).killed = false) := by
  refine ⟨rfl, fun h => ?_, by decide +kernel, image_body 4 1 [7], by decide +kernel, by decide +kernel, by decide +kernel,
    by decide +kernel⟩
  have hi := image_ok (State.reset.modDev fun d => { d with st := .service, keys := [(1, ([9], some 3))] }) 4 1 [7] [1] [9] (by simp) rfl
    rfl (by decide) h
  simp only [State.specOk, State.imageCells, hi, image_body, image_head 4 1 [7] 0x18 8 (by omega), Bool.and_true]
  decide +kernel

/-- The phases of an evacuation, its end by drain and by the deadline, and a receiver with what it is shipped. -/
theorem witness_evacuation :
    let at_ (st : ModState) (e : Option ((Nat × Nat × Nat) × Nat × Bool × Bool)) (n : Nat) : State :=
      ({ State.reset with clock := n }).modDev fun d => { d with st := st, evac := e }
    let start := at_ .evacuating (some ((1, 0, 0), 5, false, false)) 6
    let gone := at_ .evacuating (some ((1, 0, 0), 5, true, true)) 6
    let late := at_ .evacuating (some ((1, 0, 0), 5, true, true)) (5 + 30 * 1050000000)
    let x := ({ mapped with scratch := [(3, 9)] }.modPart 3 fun p => { p with live := true, sysCores := [2] }).shipmentOf
    (at_ .service none 0).dev.st = .service ∧ start.dev.st = .evacuating ∧ start.dev.evac = some ((1, 0, 0), 5, false, false)
      ∧ (∀ e ∈ start.clusters, e.2.st ≠ .placed) ∧ gone.dev.evac = some ((1, 0, 0), 5, true, true)
      ∧ gone.dev.st = .evacuating ∧ gone.packets = [] ∧ late.dev.st = .evacuating ∧ 5 + 30 * 1050000000 ≤ late.clock
      ∧ (at_ .service none 0).parts = [] ∧ (at_ .service none 0).sundial < 2 ^ 47 ∧ x.mem.wf
      ∧ (x.teams.map Prod.fst).Nodup ∧ (x.planes.map Prod.fst).Nodup ∧ (∃ e ∈ x.parts, e.2.live = true ∧ 2 ∈ e.2.sysCores)
      ∧ (List.replicate 32 (0 : Byte)).length = 32 := by
  decide +kernel

/-- Partition 0 with a window of its memory and a submission ring at 0x8000 of two entries, of which one is rung; PF0 with a range. -/
def hosted : State :=
  (State.reset.modDev fun d => { d with st := .service, hostRanges := [(0x1000, 64)], cxlRanges := [(0x1000, 64)], chansReady := List.range 2048 }).modPart 0 fun p =>
    { p with
      live := true, w := 64, h := 32, bar2 := true, bar2Bits := 30, memory := [(0x2000, 64)], sqEn := true, sqBase := 0x8000, sqOrder := 1, sqTail := 1
      ctxRange := 0x00200010 }

/-- A window of PF0 and of a VF; an address outside each; a function with a configuration space, and one without; a ring with room,
one overrun, one not enabled, and one with nothing to take. -/
theorem witness_hostPort :
    let s := hosted
    s.hostLive = true ∧ State.reset.hostLive = false ∧ s.mailLive = true ∧ State.reset.mailLive = false
      ∧ s.hostPas 0 0x1000 2 = some [0x1000, 0x1001] ∧ s.hostPas 1 0 2 = some [0x2000, 0x2001] ∧ s.hostPas cxlMem 0x1000 1 = some [0x1000]
      ∧ s.hostPas 0 0 1 = none ∧ (∀ p ∈ [0x1000, 0x1001], s.lineBusy p = false ∧ canonPa p = p) ∧ [0x1000, 0x1001].Nodup
      ∧ s.homesReady [0x1000, 0x1001] = true ∧ s.spaceFor [0x1000, 0x1001] = none ∧ 0x1000 < bar0Base
      ∧ ((2 + 2 ^ 32 - (s.part 0).sqHead % 2 ^ 32) % 2 ^ 32 ≤ 2 ^ ((s.part 0).sqOrder.toNat % 16))
      ∧ (2 ^ ((s.part 0).sqOrder.toNat % 16) < (3 + 2 ^ 32 - (s.part 0).sqHead % 2 ^ 32) % 2 ^ 32)
      ∧ (let t := s.modPart 0 fun p => { p with sqTail := 0 }
        (t.part 0).sqHead % 2 ^ 32 = (t.part 0).sqTail % 2 ^ 32)
      ∧ ((s.modPart 0 fun p => { p with sqEn := false }).part 0).sqEn = false ∧ s.hasConf 1 = true ∧ s.hasConf 2 = false
      ∧ 0x08 + 4 ≤ 4096 ∧ 0x1000 < 2 ^ 44 ∧ 8 + [(1 : Byte)].length ≤ 4096 := by
  decide +kernel

/-- `hosted` with an entry for context 16, whose tables are those of `mapped`: a record's address, and the record. -/
def entered (va : Nat) (leaf : Byte) (good : Bool) : State :=
  { hosted.modCtx 16 fun c => { c with root := 0x10000, part := 0 } with
    mem := mwrites ((if good then [(0x410, 1), (0x412, 1), (0x414, 1), (0x418, 9)] else []) ++ [(0x10000, 1), (0x10002, 2), (0x20000, leaf)])
      0x8000 (leBytes 8 va ++ leBytes 8 16) }

/-- Entries of every outcome, in the state that the words due leave: malformed; outside the context range; a misaligned, an
unreadable, a poisoned and a bad record; a queue that is full, and one with room; one turned away after a fault; a record whose
page faults, and one whose home is not ready; a poisoned entry; a ring that waits for a word, and for an answer. -/
theorem witness_submissions :
    let e (t : State) : List DWord := dwords 8 (t.snapBytes (t.part 0).sqSnap (t.sqEntry 0) 64)
    let va (t : State) : Nat := dfld ((e t).getD 0 0) 0 56
    let next_ (t : State) : Bool := (t.part 0).live && (t.part 0).sqEn && (t.part 0).sqHead % 2 ^ 32 != (t.part 0).sqTail % 2 ^ 32
      && (t.part 0).sqFault.isNone && t.dev.st == .service && (t.part 0).sqWords.all (fun w => !w.2.1) && t.homesReady [t.sqEntry 0]
    let fine (t : State) : Bool := next_ t && !t.poisoned (t.sqEntry 0) 64 && !State.entryBad (e t)
      && !State.outOfRange (t.part 0).ctxRange (dfld ((e t).getD 1 0) 0 12)
    let read (t : State) : Nat := match t.readIn 0 16 (t.part 0).sqSnap (va t) 4 [] with
      | .got bs => if recordBad (t.part 0) { Launch.absent with record := dwords 32 bs, part := 0, ctx := 16 } then 1 else 0
      | .unreadable => 2
      | .page a => if a = 0x40000000 then 3 else 9
      | .poisoned a => if a = 0x400 then 4 else 9
      | .wait => 5
    let good := (entered 0x400 0x3B true).settleWords 0
    let v (a : Nat) (leaf : Byte) (b : Bool) : State := (entered a leaf b).settleWords 0
    let full : State := { good with launches := (List.range 64).map fun k => (k, { Launch.absent with st := .queued }) }
    let bad : State := { hosted with mem := [(0x803F, 1)] }.settleWords 0
    let odd : State := { hosted with mem := [(0x8008, 5)] }.settleWords 0
    let refused := good.modPart 0 fun p => { p with sqRefused := true }
    let spoilt : State := { good with poison := [32] }
    let spoiltEntry : State := { good with poison := [0x400] }
    let deaf := good.modDev fun d => { d with chansReady := [homeOf 0x8000, homeOf 0x10000, homeOf 0x20000] }
    let waits := good.modPart 0 fun p => { p with sqWords := [(7, true, [])] }
    (∀ i < 8, canonPa (0x8000 + 0x10 + i) = 0x8000 + 0x10 + i ∧ good.homesReady [0x8000 + 0x10 + i] = true
        ∧ good.lineBusy (0x8000 + 0x10 + i) = false ∧ good.orangeryFull (homeOf (0x8000 + 0x10 + i)) = false)
      ∧ (∀ t ∈ [bad, odd, good, full], t.sqEntry 0 = 0x8000)
      ∧ next_ bad = true ∧ bad.poisoned 0x8000 64 = false ∧ State.entryBad (e bad) = true
      ∧ next_ odd = true ∧ odd.poisoned 0x8000 64 = false ∧ State.entryBad (e odd) = false
      ∧ State.outOfRange (odd.part 0).ctxRange (dfld ((e odd).getD 1 0) 0 12) = true
      ∧ next_ spoiltEntry = true ∧ spoiltEntry.poisoned 0x8000 64 = true
      ∧ (∀ t ∈ [v 0x401 0x3B true, refused, v 0x400 0x23 true, v 0x40000000 0x3B true, v 0x400 0x3B false, full, good, spoilt, deaf],
        fine t = true)
      ∧ va (v 0x401 0x3B true) % 64 ≠ 0 ∧ va good % 64 = 0 ∧ (refused.part 0).sqRefused = true ∧ (good.part 0).sqRefused = false
      ∧ read (v 0x400 0x23 true) = 2 ∧ read (v 0x40000000 0x3B true) = 3 ∧ read (v 0x400 0x3B false) = 1
      ∧ read spoilt = 4 ∧ read deaf = 5 ∧ (spoilt.ctx 16).killed = false ∧ (spoilt.ctx 16).killing = none
      ∧ read good = 0 ∧ good.partOfCtx 16 = 0 ∧ good.queueLen 0 0 = 0 ∧ read full = 0 ∧ full.queueLen 0 0 = 64
      ∧ (∃ w ∈ (waits.part 0).sqWords, w.2.1 = true) := by
  decide +kernel

/-! ### Float conditions, the common frame, and a step -/

theorem meetsAnd_of {α : Type} {l : List α} {iss : Iss} {s : α → State} {p : α → Instr × Meta} {q : α → Prop} [DecidablePred q]
    (h : (l.all fun x => (p x).1.wf && readyB (s x) (p x).2 iss && decide (q x)) = true) : ∀ x ∈ l, Meets (s x) iss (p x) ∧ q x :=
  fun x hx => by
    have := List.all_eq_true.mp h x hx
    simp only [Bool.and_eq_true, decide_eq_true_eq] at this
    exact ⟨⟨this.1.1, ready_of this.1.2⟩, this.2⟩

/-- The special functions and conversions, with no trap enabled and with a condition they raise enabled; and arithmetic that raises one:
infinities that cancel, and products of zero and infinity. -/
theorem witness_floatConditions :
    let m (lat : Nat) : Meta := .reg c0 true lat [(.v 3, false)] [(.v 1, false)]
    let two : List (Opnd × Bool) := [(.v 1, false), (.v 2, false)]
    let f (l : List (Opnd × Bool)) : Meta := .reg c0 true 4 [(.v 3, false)] l
    let s (x y : Word) : State := ((base.wrV 512 0 1 x).wrV 512 0 2 y).modTeam 16 fun t => { t with fpTrapen := 16 }
    let sf (f : Nat → Nat × Nat) (s : State) (g i l : Nat) : DWord × Nat :=
      let r := f (modBits .f32 false false (s.rd32 g i l (.v 1)).toNat)
      (BitVec.ofNat 64 (fsat .f32 false r.1), r.2)
    let on (x : Word) : State := (base.wrV 512 0 1 x).modTeam 16 fun t => { t with fpTrapen := 31 }
    let inf := s 0x7F800000 0xFF800000
    let zero := s 0 0xFF800000
    let same := s 0x7F800000 0x7F800000
    (∀ p ∈ [(Instr.frcp c0 .rne false false false (.v 3) (.v 1), m 16), (.frsq c0 .rtz false false true (.v 3) (.v 1), m 16),
        (.fexp2 c0 .rne true false false (.v 3) (.v 1), m 16), (.flog2 c0 .rne false true true (.v 3) (.v 1), m 16),
        (.fsin c0 false false false (.v 3) (.v 1), m 20), (.fcos c0 false false false (.v 3) (.v 1), m 20),
        (.ftanh c0 true false false (.v 3) (.v 1), m 20),
        (.cvt c0 .f32 .i32 .rne (.v 3) (.v 1), m 4), (.cvt c0 .n8 .bf16 .rtz (.v 3) (.v 1), m 4)], Meets base gang p)
      ∧ (∀ x ∈ [((0 : Word), (Instr.frcp c0 .rne false false false (.v 3) (.v 1), m 16), sf (frcpE .rne)),
        (0xBF800000, (.frsq c0 .rne false false false (.v 3) (.v 1), m 16), sf (frsqE .rne)),
        (0x7F000000, (.fexp2 c0 .rne false false false (.v 3) (.v 1), m 16), sf (fexp2E .rne)),
        (0xBF800000, (.flog2 c0 .rne false false false (.v 3) (.v 1), m 16), sf (flog2E .rne)),
        (0x7F800000, (.fsin c0 false false false (.v 3) (.v 1), m 20), sf fsinE),
        (0x7F800000, (.fcos c0 false false false (.v 3) (.v 1), m 20), sf fcosE),
        (0x42C80000, (.ftanh c0 false false false (.v 3) (.v 1), m 20), sf ftanhE),
        (0x7F800000, (.cvt c0 .i8 .f32 .rne (.v 3) (.v 1), m 4), fun s g i l => cvtE .i8 .f32 .rne (s.rdW false g i l (.v 1)))],
          Meets (on x.1) gang x.2.1 ∧ condsOf (on x.1) x.2.1.2 gang x.2.2 &&& ((on x.1).team 16).fpTrapen.toNat % 32 ≠ 0)
      ∧ (base.team 16).fpTrapen.toNat % 32 = 0
      ∧ (∀ p ∈ [(Instr.fadd c0 .f32 .rne false md0 (.v 3) (.v 1) (.v 2), f two)], Meets inf gang p)
      ∧ (∀ p ∈ [(Instr.fmul c0 .f32 .rne false md0 (.v 3) (.v 1) (.v 2), f two),
        (.ffma c0 .f32 .rne false md0 false (.v 3) (.v 1) (.v 2) (.v 3), f (two ++ [(.v 3, false)]))], Meets zero gang p)
      ∧ (faddE .f32 .rne 0x7F800000 0xFF800000).2 &&& (inf.team 16).fpTrapen.toNat % 32 ≠ 0
      ∧ (fmulE .f32 .rne 0 0xFF800000).2 &&& (zero.team 16).fpTrapen.toNat % 32 ≠ 0
      ∧ (ffmaE .f32 .rne 0 0xFF800000 0).2 &&& (zero.team 16).fpTrapen.toNat % 32 ≠ 0
      ∧ inf.rdV 512 0 1 = 0x7F800000 ∧ inf.rdV 512 0 2 = 0xFF800000 ∧ zero.rdV 512 0 1 = 0 ∧ zero.rdV 512 0 2 = 0xFF800000
      ∧ (∀ p ∈ [(Instr.fsub c0 .f32 .rne false md0 (.v 3) (.v 1) (.v 2), f two)], Meets same gang p)
      ∧ (faddE .f32 .rne 0x7F800000 (modBits .f32 true false 0x7F800000)).2 &&& (same.team 16).fpTrapen.toNat % 32 ≠ 0
        ∧ same.rdV 512 0 1 = 0x7F800000 ∧ same.rdV 512 0 2 = 0x7F800000 :=
  ⟨meets_of (by decide +kernel), meetsAnd_of (by decide +kernel), by decide +kernel, meets_of (by decide +kernel), meets_of (by decide +kernel), by decide +kernel,
    by decide +kernel, by decide +kernel, by decide +kernel, by decide +kernel, by decide +kernel, by decide +kernel,
    meets_of (by decide +kernel), by decide +kernel⟩

/-- MOV stands for the instructions of the common frame: on a gang, with a v register the grid has not, with its flag busy, with its source
poisoned, and with no lane active; done at once, with nothing to arrive, and with a result that it overtakes or reads too early. -/
theorem witness_issueFrame :
    let m : Meta := .reg c0 true 2 [(.v 3, false)] [(.v 1, false)]
    let far : Meta := .reg c0 true 2 [(.v 63, false)] []
    let flag : Meta := { m with c := ⟨0, 2, 0⟩ }
    let busy : State := base.modGroup 512 fun g => { g with ops := [{ Op.of gang flag [] with sig := some 2 }] }
    let idle : State := base.modSlices 512 (List.range 8) fun x => { x with exec := 0 }
    let due (r : Reg) : State := base.modGroup 512 fun g =>
      { g with hazards := [{ reg := r, places := List.range 32, ready := none, timed := false, oid := 7, sig := none, ctr := none, after := 0 }] }
    let bad : State := { base with arrPoison := [regArr 512 (.v 1) 0 / 32] }
    let early (s : State) : Bool := (s.maskHazards m gang ++ s.srcHazards m gang).any fun h => !State.readable (s.issueAt m gang) h
    (∃ body, (∀ s, exec (.mov c0 .i32 (.v 3) (.v 1)) s = instr m s body)
        ∧ ∀ s ∈ [base, due (.v 3), due (.v 1)], ∃ t, body gang (s.issuing m gang) = .done t)
      ∧ (∀ s ∈ [base, due (.v 3), due (.v 1)], s.issOf = some gang ∧ s.illegalHere m gang = false ∧ s.heldBack m gang = false
        ∧ s.readsPoison m gang = false ∧ s.issueL m gang ≠ 0)
      ∧ early (due (.v 3)) = false ∧ early (due (.v 1)) = true ∧ m.ctr = none ∧ m.opFlag = false
      ∧ bad.issOf = some gang ∧ bad.illegalHere m gang = false ∧ bad.heldBack m gang = false ∧ bad.readsPoison m gang = true
      ∧ base.issOf = some gang ∧ gang.slices.Nodup
      ∧ (∀ j ∈ gang.slices, j < 8) ∧ base.illegalHere far gang = true ∧ busy.issOf = some gang ∧ busy.illegalHere flag gang = false
      ∧ busy.heldBack flag gang = true ∧ idle.issOf = some gang ∧ idle.illegalHere m gang = false ∧ idle.heldBack m gang = false
      ∧ idle.readsPoison m gang = false ∧ m.vec = true ∧ idle.issueL m gang = 0
      ∧ m.bound = false ∧ (∀ r ∈ dstRegs m, (∀ n, r = .v n → n < 64) ∧ ∀ n, r = .s n → n < 32) := by
  intro m far flag busy idle due bad early
  have regs : ∀ r ∈ dstRegs m, (∀ n, r = .v n → n < 64) ∧ ∀ n, r = .s n → n < 32 := by
    intro r hr
    have : r = .v 3 := by revert r; decide +kernel
    subst this
    exact ⟨fun n e => by cases e; decide, fun n e => by cases e⟩
  refine ⟨⟨_, fun s => rfl, fun s _ => ⟨_, rfl⟩⟩, ?_⟩
  simp only [← and_assoc]
  exact ⟨by decide +kernel, regs⟩

/-- An issuer already chosen, one whose turn it is, a word that is none, an event decided on, one that is due, and a machine in which
nothing is. -/
theorem witness_step :
    let s (w : Nat) : State := State.reset.withFetchWord 64 w
    let g : Issuer := .gang 0 0 512 (List.range 8) 0 0 1
    let add : Instr := .addImm c0 .i32 false (.v 2) (.sp .groupId) 7
    let free (w : Nat) : State := { s w with cur := .none }
    let p : Packet := Packet.plain (.core 0) (.home 0) 0 .write
    let sent : State := { State.reset with packets := [(5, { p with held := true })], clock := 128, turn := 1 }
    (s 0x0401E00A09000007).agenda = [] ∧ (s 0x0401E00A09000007).cur = g ∧ (s 0x0401E00A09000007).decodedAt g = .ok add
      ∧ (free 0x0401E00A09000007).cur = .none ∧ (free 0x0401E00A09000007).dueIssuer exec = some g ∧ (free 0x0401E00A09000007).turn % 2 = 0
      ∧ (match (s 0xFC00000000000000).decodedAt g with | .rejected _ => true | _ => false) = true
      ∧ ({ s 0xFC00000000000000 with cur := g } : State).issOf = some gang
      ∧ isEvent (.powerLimit 3) = true ∧ sent.agenda = [] ∧ sent.cur = .none ∧ sent.dueEvent exec = some (.settleBufferDrain 5)
      ∧ sent.turn % 2 = 1 ∧ State.reset.agenda = [] ∧ State.reset.cur = .none ∧ State.reset.dueEvent exec = none
      ∧ State.reset.dueIssuer exec = none :=
  by constructorm* _ ∧ _ <;> decide +kernel

/-- A state with the invariant, from which a step goes on. -/
theorem witness_invariant : Inv State.reset ∧ (match step State.reset with | .next _ => true | _ => false) = true :=
  ⟨by refine ⟨?_, ?_, ?_, ?_⟩ <;> decide +kernel, by decide +kernel⟩

/-- A stop: an issuer chosen that does not exist. -/
theorem witness_noIssuer :
    let s : State := { State.reset.withFetchWord 64 0x0401E00A09000007 with groups := [] }
    (match step s with | .fault .noIssuer => true | _ => false) = true := by decide +kernel

/-- A well-formed instruction, its word, and an event, which has none. -/
theorem witness_encoding :
    let i : Instr := .addImm c0 .i32 false (.v 2) (.sp .groupId) 7
    i.wf = true ∧ encode i = some 0x0401E00A09000007 ∧ isEvent i = false ∧ isEvent (.powerLimit 3) = true
      ∧ decodeWord 0x0401E00A09000007 = .ok i := by decide +kernel

/-! ### Decoding and encoding: a word of every constructor, its fields written from R66, R68 and the entry -/

/-- A word with DIST 0, SIG 15 and PM 0: OP, FN, D, A, B and X. -/
def word (op fn d a b x : Nat) : Nat := op * 2 ^ 58 + fn * 2 ^ 52 + 15 * 2 ^ 45 + d * 2 ^ 34 + a * 2 ^ 26 + b * 2 ^ 18 + x

/-- C in [17:10]. -/
def cc (c : Nat) : Nat := c * 2 ^ 10

/-- The word decodes to the instruction, and the instruction encodes to the word. -/
def stands (l : List (Nat × Instr)) : Bool :=
  l.all fun p => decide (decodeTableWord 64 p.1 = some p.2) && decide (encode p.2 = some (BitVec.ofNat 64 p.1))

/-- OP 0x00: v3 is 0x03, s4 is 0x44, k1 is 0x61; TYPE in MOD[9:7], SAT in MOD[6], SH in MOD[2:0]. -/
theorem test_decodeInteger : stands [
    (word 0 0 3 1 2 0x140, .add c0 .i32 true (.v 3) (.v 1) (.v 2)), (word 0 1 3 1 0x42 0x300, .sub c0 .n32 false (.v 3) (.v 1) (.s 2)),
    (word 0 2 0x43 0x41 0xC7 0x040, .mul c0 .i8 true (.s 3) (.s 1) (.pos 7)), (word 0 3 4 6 8 0x180, .mulh c0 .i64 (.v 4) (.v 6) (.v 8)),
    (word 0 4 3 1 2 (cc 5 + 0x100), .mad c0 .i32 false (.v 3) (.v 1) (.v 2) (.v 5)),
    (word 0 5 3 1 0xEF 0x280, .min c0 .n16 (.v 3) (.v 1) (.neg 15)), (word 0 6 3 1 0x80 0x100, .max c0 .i32 (.v 3) (.v 1) (.sp .laneId)),
    (word 0 7 3 1 2 0x100, .and c0 .i32 (.v 3) (.v 1) (.v 2)), (word 0 8 3 1 2 0x080, .or c0 .i16 (.v 3) (.v 1) (.v 2)),
    (word 0 9 3 1 2 0x200, .xor c0 .n8 (.v 3) (.v 1) (.v 2)), (word 0 10 3 1 0 0x100, .not c0 .i32 (.v 3) (.v 1)),
    (word 0 11 3 1 2 0x100, .shl c0 .i32 (.v 3) (.v 1) (.v 2)), (word 0 12 3 1 2 0x300, .shr c0 .n32 (.v 3) (.v 1) (.v 2)),
    (word 0 13 3 1 2 0x100, .sar c0 .i32 (.v 3) (.v 1) (.v 2)), (word 0 14 3 1 2 0x300, .rol c0 .n32 (.v 3) (.v 1) (.v 2)),
    (word 0 15 3 1 0 0x300, .clz c0 .n32 (.v 3) (.v 1)), (word 0 16 3 1 0 0x300, .popc c0 .n32 (.v 3) (.v 1)),
    (word 0 17 3 1 0 0x300, .brev c0 .n32 (.v 3) (.v 1)), (word 0 18 3 1 2 0x100, .bfe c0 .i32 (.v 3) (.v 1) (.v 2)),
    (word 0 19 3 1 2 (cc 0x41 + 0x300), .bfi c0 .n32 (.v 3) (.v 1) (.v 2) (.s 1)),
    (word 0 20 3 1 2 (cc 0x61 + 0x100), .sel c0 .i32 (.v 3) (.v 1) (.v 2) (.k 1)),
    (word 0 21 0x44 0x46 0x41 0x100, .addx c0 .i32 (.s 4) (.s 6) (.s 1)), (word 0 22 4 6 1 0x300, .subx c0 .n32 (.v 4) (.v 6) (.v 1)),
    (0x0171E1124C000180, .mov c0 .i64 (.s 4) (.sp .paramLo)), (word 0 24 4 0x46 1 0x307, .lea c0 .n32 7 (.v 4) (.s 6) (.v 1)),
    (word 0 25 4 6 1 (cc 2 + 0x103), .leax c0 .i32 3 (.v 4) (.v 6) (.v 1) (.v 2))] = true := by decide +kernel

/-- OP 0x01 with TYPE in QUAL[7:5] and SAT in QUAL[4], and OP 0x02 with IMM34 in [33:0]. -/
theorem test_decodeImmediate : stands [
    (0x0401E00A09000007, .addImm c0 .i32 false (.v 2) (.sp .groupId) 7), (word 1 1 3 1 0x50 0x3FFFF, .subImm c0 .i32 true (.v 3) (.v 1) (-1)),
    (word 1 2 3 1 0x40 7, .mulImm c0 .i32 false (.v 3) (.v 1) 7), (word 1 5 3 1 0x40 7, .minImm c0 .i32 (.v 3) (.v 1) 7),
    (word 1 6 3 1 0x40 7, .maxImm c0 .i32 (.v 3) (.v 1) 7), (word 1 7 3 1 0xC0 7, .andImm c0 .n32 (.v 3) (.v 1) 7),
    (word 1 8 3 1 0x40 7, .orImm c0 .i32 (.v 3) (.v 1) 7), (word 1 9 3 1 0x40 7, .xorImm c0 .i32 (.v 3) (.v 1) 7),
    (word 1 11 3 1 0x40 7, .shlImm c0 .i32 (.v 3) (.v 1) 7), (word 1 12 3 1 0x40 7, .shrImm c0 .i32 (.v 3) (.v 1) 7),
    (word 1 13 3 1 0x40 7, .sarImm c0 .i32 (.v 3) (.v 1) 7), (word 1 14 3 1 0x40 7, .rolImm c0 .i32 (.v 3) (.v 1) 7),
    (word 1 23 3 0 0x40 7, .movImm c0 .i32 (.v 3) 7), (word 1 24 0x44 0x46 0x44 7, .leaImm c0 4 (.s 4) (.s 6) 7),
    (word 2 0 4 0 0 0 + 0xFFFFFFFF, .movw c0 (.v 4) 0xFFFFFFFF), (word 2 1 0x44 0 0 0 + 0x200000001, .movwx c0 (.s 4) 0x200000001),
    (word 2 2 0x5E 0 0 1, .addwx c0 (.s 30) 1), (word 2 3 0x5E 0 0 2, .movwh c0 (.s 30) 2)] = true := by decide +kernel

/-- OP 0x03 to 0x05. -/
theorem test_decodeMaskLane : stands [
    (0x0C01E18407280110, .cmp c0 .i32 .lt (.k 1) (.v 1) (.pos 10)), (word 4 0 0x61 0x62 0x60 0, .kand c0 (.k 1) (.k 2) (.k 0)),
    (word 4 1 0x61 0x62 0x63 0, .kor c0 (.k 1) (.k 2) (.k 3)), (word 4 2 0x61 0x62 0x63 0, .kxor c0 (.k 1) (.k 2) (.k 3)),
    (word 4 3 0x61 0x62 0 0, .knot c0 (.k 1) (.k 2)), (word 4 4 0x61 0x43 0 0, .kmov c0 (.k 1) (.s 3)),
    (word 4 5 0x61 0 0 0, .execget c0 (.k 1)), (word 4 6 0 0xC5 0 0, .execset c0 (.pos 5)),
    (word 4 7 0x42 0x62 0x60 0, .ktest c0 (.s 2) (.k 2) (.k 0)), (word 5 0 3 1 0xD0 0x300, .shfl c0 .xor .w32 (.v 3) (.v 1) (.pos 16)),
    (word 5 1 3 0x61 0 0, .ballot c0 (.v 3) (.k 1)), (word 5 2 0x61 1 0 1, .vote c0 .all (.k 1) (.v 1)),
    (word 5 3 3 1 0 0x141, .psum c0 .i32 true true (.v 3) (.v 1)), (word 5 4 4 2 0 0x380, .pmax c0 .n64 false (.v 4) (.v 2)),
    (word 5 5 3 0 0 1, .laneid c0 .rank (.v 3))] = true := by decide +kernel

/-- OP 0x06 to 0x08: FTYPE in MOD[9:8], RND in MOD[7:6], SAT in MOD[5], NEGA to NEGC in MOD[4:0]; CVT with DT, ST and RND. -/
theorem test_decodeFloat : stands [
    (0x1801E00C04080000, .fadd c0 .f32 .rne false md0 (.v 3) (.v 1) (.v 2)),
    (word 6 1 3 1 2 0x144, .fsub c0 .f16x2 .rtz false ⟨false, false, true, false⟩ (.v 3) (.v 1) (.v 2)),
    (word 6 2 3 1 2 0x2A8, .fmul c0 .bf16x2 .rup true ⟨false, true, false, false⟩ (.v 3) (.v 1) (.v 2)),
    (0x1831E01404080C52, .ffma c0 .f32 .rtz false ⟨true, false, false, true⟩ false (.v 5) (.v 1) (.v 2) (.v 3)),
    (word 6 4 3 1 0xF2 0x020, .fmin c0 .f32 true md0 (.v 3) (.v 1) (.fp 2)), (word 6 5 3 1 2 0, .fmax c0 .f32 false md0 (.v 3) (.v 1) (.v 2)),
    (word 6 6 0x61 1 2 0x0D2, .fcmp c0 .unord ⟨true, false, false, true⟩ (.k 1) (.v 1) (.v 2)),
    (word 7 0 3 1 0 0x050, .frcp c0 .rtz false true false (.v 3) (.v 1)), (word 7 1 3 1 0 0x008, .frsq c0 .rne false false true (.v 3) (.v 1)),
    (word 7 2 3 1 0 0x020, .fexp2 c0 .rne true false false (.v 3) (.v 1)), (word 7 3 3 1 0 0x0C0, .flog2 c0 .rdn false false false (.v 3) (.v 1)),
    (word 7 4 3 1 0 0, .fsin c0 false false false (.v 3) (.v 1)), (word 7 5 3 1 0 0x010, .fcos c0 false true false (.v 3) (.v 1)),
    (word 7 6 3 1 0 0x028, .ftanh c0 true false true (.v 3) (.v 1)), (word 8 0 3 1 0 0x209, .cvt c0 .f32 .i32 .rtz (.v 3) (.v 1)),
    (word 8 1 8 1 0 2, .pack c0 2 (.v 8) (.v 1)), (word 8 2 3 4 0 0x01D, .unpack c0 .rdn 5 (.v 3) (.v 4))] = true := by decide +kernel

/-- OP 0x09 and 0x0A. -/
theorem test_decodeFlow : stands [
    (0x2401E00003FFFFF0, .bra c0 (-16)), (0x2415E40024000006, .brx ⟨2, 15, 1⟩ 9 6), (word 9 2 0x44 0 0 6, .call c0 (.s 4) 6),
    (word 9 3 0 0x44 0 6, .braz c0 (.s 4) 6), (word 9 4 0 0x45 0xFF 0x3FFFF, .branz c0 (.s 5) (-1)), (word 10 0 0 0 0 0, .join c0),
    (word 10 1 0 0 0 0, .regang c0), (word 10 2 0 0x44 0 0, .ret c0 (.s 4)), (word 10 3 0 0x44 0 0, .jmpi c0 (.s 4)),
    (word 10 4 0x46 0x44 0 0, .calli c0 (.s 6) (.s 4)), (0x2851E00000000000, .exit c0), (word 10 6 0 0 0 0, .yield c0),
    (word 10 7 0 0xC9 0 0, .trap c0 (.pos 9)), (word 10 8 0 0 0 0, .nop c0)] = true := by decide +kernel

/-- OP 0x10: SIZE in [17:16], DIR in [13:11], OFF11 in [10:0], EXT in B. -/
theorem test_decodeScratchpad : stands [
    (word 16 0 3 1 1 0x107FF, .lds c0 .h true (.v 3) (.v 1) (-1)), (word 16 1 4 0x80 0 0x30001, .sts c0 .d (.v 4) (.sp .laneId) 1),
    (word 16 2 3 1 0 0x21000, .ldw c0 .w .e false (.v 3) (.v 1) 0), (word 16 3 3 1 0 0x23800, .stw c0 .w .nw (.v 3) (.v 1) 0),
    (word 16 4 0x43 0x44 0 0x20000, .ldss c0 .w false (.s 3) (.s 4) 0), (word 16 5 0xC7 0x44 0 0x00002, .stss c0 .b (.pos 7) (.s 4) 2),
    (word 16 6 0x44 0x46 0 0x30800, .ldws c0 .d .ne false (.s 4) (.s 6) 0), (word 16 7 0x43 0x46 0 0x22000, .stws c0 .w .s (.s 3) (.s 6) 0)]
    = true := by decide +kernel

/-- OP 0x11 to 0x16: ORDER in [15:13], SCOPE in [12:11]. -/
theorem test_decodeGlobal : stands [
    (word 17 0 3 4 1 0x13001, .ld c0 .h .acq .device true (.v 3) (.v 4) 1),
    (0x4400001120023004, .ld ⟨0, 0, 0⟩ .w .acq .device false (.v 4) (.s 8) 4),
    (word 17 1 0x44 0x46 0 0x30000, .ldsc c0 .d .rlx .team false (.s 4) (.s 6) 0), (word 17 2 0 0x44 0 0x20808, .pref c0 .w .cluster (.s 4) 8),
    (word 17 3 0x69 0x44 0x45 0x30000, .ldt c0 .rlx .team (.t 1) (.s 4) (.s 5) 0),
    (word 17 4 0x46 0x44 1 0x33000, .snap c0 .acq .device true (.s 6) (.s 4) 0),
    (0x4808000910025000, .st ⟨4, 0, 0⟩ .w .rel .device (.v 2) (.s 4) 0), (word 18 1 0xC1 0x44 0 0x25800, .stsc c0 .w .rel .system (.pos 1) (.s 4) 0),
    (word 18 2 0x68 0x44 0xC0 0x30000, .stt c0 .rlx .team (.t 0) (.s 4) (.pos 0) 0), (word 21 0 0 0 0 0x9800, .fence c0 .sc .system),
    (word 21 1 0 0 0 0x1000, .txcommit c0 .device), (word 21 2 0 0 0xC3 0, .txabort c0 (.pos 3)), (word 22 0 0 0 0 6, .txbegin c0 6)]
    = true := by decide +kernel

/-- OP 0x13 and 0x14. -/
theorem test_decodeAtomic : stands [
    (word 19 0 4 0x44 5 0x20000, .atomAdd c0 .w .rlx .team (.v 4) (.s 4) (.v 5) 0),
    (word 19 1 4 0x44 5 0x22800, .atomMin c0 .w .acq .cluster (.v 4) (.s 4) (.v 5) 0),
    (word 19 2 4 0x44 5 0x25000, .atomMax c0 .w .rel .device (.v 4) (.s 4) (.v 5) 0),
    (word 19 3 4 0x44 5 0x27000, .atomMinn c0 .w .acqrel .device (.v 4) (.s 4) (.v 5) 0),
    (word 19 4 4 0x44 5 0x29000, .atomMaxn c0 .w .sc .device (.v 4) (.s 4) (.v 5) 0),
    (word 19 5 4 0x44 5 0x20000, .atomAnd c0 .w .rlx .team (.v 4) (.s 4) (.v 5) 0),
    (word 19 6 4 0x44 5 0x20000, .atomOr c0 .w .rlx .team (.v 4) (.s 4) (.v 5) 0),
    (word 19 7 4 0x44 5 0x20000, .atomXor c0 .w .rlx .team (.v 4) (.s 4) (.v 5) 0),
    (word 19 8 4 0x44 6 0x30000, .atomSwap c0 .d .rlx .team (.v 4) (.s 4) (.v 6) 0),
    (word 19 9 4 0x44 5 0x20003, .atomCas c0 .w .rlx .team (.v 4) (.s 4) (.v 5) 3),
    (word 19 10 4 0x44 0xF2 0x20000, .atomFadd c0 .rlx .team (.v 4) (.s 4) (.fp 2) 0),
    (word 20 0 5 0x44 0 0x20000, .redAdd c0 .w .rlx .team (.v 5) (.s 4) 0), (word 20 1 5 0x44 0 0x20000, .redMin c0 .w .rlx .team (.v 5) (.s 4) 0),
    (word 20 2 5 0x44 0 0x20000, .redMax c0 .w .rlx .team (.v 5) (.s 4) 0), (word 20 3 5 0x44 0 0x20000, .redMinn c0 .w .rlx .team (.v 5) (.s 4) 0),
    (word 20 4 5 0x44 0 0x20000, .redMaxn c0 .w .rlx .team (.v 5) (.s 4) 0), (word 20 5 5 0x44 0 0x20000, .redAnd c0 .w .rlx .team (.v 5) (.s 4) 0),
    (word 20 6 6 0x44 0 0x34000, .redOr c0 .d .rel .team (.v 6) (.s 4) 0), (word 20 7 5 0x44 0 0x20000, .redXor c0 .w .rlx .team (.v 5) (.s 4) 0),
    (word 20 10 0xF8 0x44 0 0x20000, .redFadd c0 .rlx .team (.fp 8) (.s 4) 0)] = true := by decide +kernel

/-- OP 0x17 with SIZE 3, OP 0x20 and OP 0x33. -/
theorem test_decodeBarrierPlane : stands [
    (word 23 0 0xC4 0x44 0 0x30000, .binit c0 (.pos 4) (.s 4) 0), (word 23 1 0 0x44 0 0x30000, .breg c0 (.s 4) 0),
    (word 23 2 0x45 0x44 0xC4 0x30002, .barr c0 (.s 5) (.s 4) (some (.pos 4)) 2), (word 23 2 0x45 0x44 0 0x30000, .barr c0 (.s 5) (.s 4) none 0),
    (word 23 3 0x45 0x44 0 0x30000, .barrd c0 (.s 5) (.s 4) 0), (word 23 4 0xD0 0x44 0 0x30000, .bexp c0 (.pos 16) (.s 4) 0),
    (0x5C51E11510030000, .bwait c0 (.s 5) (.s 4) 0), (word 23 6 0x45 0x44 0x46 0x30000, .btest c0 (.s 5) (.s 4) (.s 6) 0),
    (word 23 7 0x45 0x44 0xC1 0x30000, .trig c0 (.s 5) (.s 4) (.pos 1) 0), (0x8001E12910000000, .scrl c0 (some (.s 10)) (.s 4)),
    (word 32 1 0 0x44 0 0, .scrlr c0 none (.s 4)), (0x8021E00109100000, .copy c0 (.s 2) (.s 4)), (word 32 3 0 0x42 0x44 0, .copyx c0 (.s 2) (.s 4)),
    (word 32 4 0 0x44 0 0x00D, .dtload c0 true .device true (.s 4)), (word 32 5 0 0x42 0x44 0, .copyDec c0 (.s 2) (.s 4)),
    (word 32 6 0x45 0xC3 0 0, .planeq c0 (.s 5) (.pos 3)), (word 51 0 0x45 0x44 0x48 0, .mstart c0 (.s 5) (.s 4) (.s 8)),
    (word 51 1 0x44 0 0 0, .mstop c0 (.s 4)), (word 51 2 0x44 0xC2 0 0, .accalloc c0 (.s 4) (.pos 2)), (word 51 3 0 0x44 0 0, .accfree c0 (.s 4))]
    = true := by decide +kernel

/-- The matrix stream: m5 is 0x05, t1 is 0x69, a2 is 0x7A. -/
theorem test_decodeMatrix : stands [
    (word 48 0 0x7A 0xC3 0xC0 (cc 0xF2), .mshape 0 (.a 2) (.pos 3) (.pos 0) (.fp 2)), (word 48 1 0x69 5 0xC0 (cc 0xEF), .mldt 0 (.t 1) (.m 5) (.pos 0) (.neg 15)),
    (word 48 2 0x7A 0 0 0, .mzero 0 (.a 2)), (0xC031E1E9A1B00011, .mma 0 1 2 (.a 2) (.t 0) (.t 4)),
    (word 48 4 0x7A 0x68 0x6C 0x011, .mmaPair 0 1 2 (.a 2) (.t 0) (.t 4)), (word 48 5 0x69 0x7A 0x7B (cc 4 + 0x00D), .msoft 0 true 5 (.t 1) (.a 2) (.a 3) (.m 4)),
    (0xC061E011EB03BE8D, .mdrain 0 .device true false false .mem 5 (.m 4) (.a 2) (.pos 0) (.neg 15)),
    (word 48 7 5 6 0 0, .mwait 0 (.m 5) (.m 6)), (word 48 8 5 6 0xC1 0, .marr 0 (.m 5) (.m 6) (.pos 1)), (word 48 9 0 0 0 5, .msig 0 5),
    (word 48 10 0 0 0 0, .mend 0), (0xC0B1E00000000000, .mpair 0), (word 49 0 0 0 0xFF 0x3FFFF, .mbra 0 (-1)), (word 49 1 0 5 0 6, .mloop 0 (.m 5) 6),
    (word 50 0 5 0 0x40 0x3FFFF, .mmov 0 (.m 5) (-1)), (word 50 0 5 0 0x41 0xFFFF, .mmovHi 0 (.m 5) 0xFFFF),
    (word 50 1 5 6 0x40 1, .madd 0 (.m 5) (.m 6) 1)] = true := by decide +kernel

/-- OP 0x38. -/
theorem test_decodeSystem : stands [
    (0xE001E15000000003, .sysrd c0 (.s 20) 3), (word 56 1 0 0x44 0 0x010, .syswr c0 0x010 (.s 4)), (word 56 2 0x44 0x46 0 0, .launch c0 (.s 4) (.s 6)),
    (word 56 3 0x44 0x45 0xC1 0, .vacate c0 (.s 4) (.s 5) (.pos 1)), (0xE041E00000000000, .rte c0), (word 56 5 0 0 0 2, .icinv c0 .context),
    (word 56 6 0 0x44 0xDF 0, .dcflush c0 (.s 4) (.pos 31)), (word 56 7 0x44 0x45 0 0, .ctxkill c0 (.s 4) (.s 5)),
    (word 56 8 0x44 0xC2 0 1, .pmon c0 true (.s 4) (.pos 2)), (word 56 9 0 0x44 0x45 0, .tlbinv c0 .page (some (.s 4)) (some (.s 5))),
    (word 56 9 0 0 0x45 1, .tlbinv c0 .context none (some (.s 5))), (word 56 9 0 0 0 2, .tlbinv c0 .all none none),
    (word 56 10 0x44 0x45 0 1, .haltcore c0 true (.s 4) (.s 5)), (word 56 11 0x44 0 0 0, .timerrd c0 (.s 4)),
    (word 56 12 0 0xC7 0 0, .timerset c0 (.pos 7)), (word 56 13 0 0 0 0, .timerclr c0)] = true := by decide +kernel

/-- Words that are no instruction: each is rejected for its own reason (R67, R69, R70, R75, R76, R81, R82). -/
theorem test_rejects :
    decodeG (BitVec.ofNat 64 (word 0x28 0 0 0 0 0)) = .rejected .unassigned
      ∧ decodeG (BitVec.ofNat 64 (word 0 26 3 1 2 0x100)) = .rejected .unassigned
      ∧ decodeG (BitVec.ofNat 64 (word 48 2 0x7A 0 0 0)) = .rejected .wrongStream
      ∧ decodeM (BitVec.ofNat 64 (word 0 0 3 1 2 0x100)) = .rejected .wrongStream
      ∧ decodeG (BitVec.ofNat 64 (word 0 0 3 0x9F 2 0x100)) = .rejected .reservedValue
      ∧ decodeG (BitVec.ofNat 64 (word 3 0 0x61 1 2 0x130)) = .rejected .reservedValue
      ∧ decodeG (BitVec.ofNat 64 (word 0 0 4 1 2 0x180)) = .rejected .illFormed
      ∧ decodeG (BitVec.ofNat 64 (word 17 0 3 4 0 0x24000)) = .rejected .illFormed
      ∧ decodeG (BitVec.ofNat 64 (word 0 10 3 1 2 0x100)) = .rejected .reservedBits := by decide +kernel

/-! ### Ill-formed terms: one for each check -/

/-- Each is refused: a SIG of 12; a PM outside vector form, with the form rule and with none; an s destination with a lane source; a destination
that is no register, a source that is none, and an odd pair (R67, R70, R73, R107). -/
theorem test_wfCommon : ([
    .add ⟨0, 12, 0⟩ .i32 false (.v 3) (.v 1) (.v 2), .add ⟨0, 15, 1⟩ .i32 false (.s 3) (.s 1) (.s 2), .bra ⟨0, 15, 1⟩ 0, .brx ⟨0, 13, 1⟩ 0 0,
    .add c0 .i32 false (.s 3) (.v 1) (.s 2), .add c0 .i32 false (.pos 3) (.v 1) (.v 2), .add c0 .i32 false (.v 3) (.k 1) (.v 2),
    .add c0 .i64 false (.v 3) (.v 2) (.v 4), .add c0 .i64 false (.v 4) (.v 1) (.v 2), .add c0 .i64 false (.v 4) (.sp .laneId) (.v 2),
    .add c0 .i32 false (.v 3) (.fp 1) (.v 2), .mad c0 .i32 false (.v 3) (.v 1) (.v 2) (.t 1), .not c0 .i32 (.a 3) (.v 1),
    .shl c0 .i64 (.v 4) (.v 2) (.fp 1), .bfi c0 .i32 (.v 3) (.v 1) (.v 2) (.k 1), .sel c0 .i32 (.v 3) (.v 1) (.v 2) (.v 4),
    .addx c0 .i64 (.v 4) (.v 2) (.v 1), .mov c0 .i64 (.v 4) (.fp 1), .lea c0 .i8 0 (.v 4) (.v 2) (.v 1), .leax c0 .i32 0 (.v 5) (.v 2) (.v 1) (.v 1),
    .addImm c0 .i32 false (.k 3) (.v 1) 0, .movImm c0 .i32 (.k 3) 0, .leaImm c0 0 (.v 5) (.v 2) 0, .movw c0 (.k 4) 0, .movwx c0 (.v 5) 0,
    .movwh c0 (.s 5) 0] : List Instr).all (fun i => !i.wf) = true := by decide +kernel

/-- The members of classes 0 and 1 (R113 to R122, R127 to R134, R158 to R173, R201, R225, R76). -/
theorem test_wfFamilies : ([
    .cmp c0 .i32 .lt (.k 0) (.v 1) (.v 2), .kand c0 (.k 0) (.k 1) (.k 2), .knot c0 (.k 1) (.s 1), .kmov c0 (.k 1) (.v 1), .execget c0 (.v 1),
    .execset c0 (.v 1), .ktest c0 (.v 1) (.k 1) (.k 2), .shfl c0 .up .w8 (.s 3) (.v 1) (.v 2), .ballot c0 (.v 3) (.s 1), .vote c0 .any (.k 0) (.v 1),
    .psum c0 .i8 false false (.v 3) (.v 1), .pmax c0 .i64 false (.v 3) (.v 2), .laneid c0 .id (.s 1),
    .fadd c0 .f32 .rne false md0 (.k 3) (.v 1) (.v 2), .ffma c0 .f32 .rne false md0 false (.v 3) (.v 1) (.v 2) (.k 1), .fcmp c0 .eq md0 (.v 1) (.v 1) (.v 2),
    .frcp c0 .rne false false false (.v 3) (.t 1), .cvt c0 .i32 .i8 .rtz (.v 3) (.v 1), .cvt c0 .i64 .f32 .rne (.v 3) (.v 1),
    .pack c0 0 (.v 3) (.v 1), .unpack c0 .rne 0 (.v 3) (.v 1), .call c0 (.s 3) 0, .braz c0 (.v 1) 0, .ret c0 (.s 3), .calli c0 (.s 4) (.v 2), .trap c0 (.v 1),
    .lds c0 .w true (.v 3) (.v 1) 0, .lds c0 .w false (.s 3) (.v 1) 0, .sts c0 .w (.v 3) (.s 1) 0, .ldss c0 .w false (.v 3) (.s 1) 0,
    .stss c0 .d (.s 3) (.s 1) 0, .ld c0 .w .rel .team false (.v 3) (.s 4) 0, .ld c0 .w .rlx .team false (.v 3) (.s 5) 0, .ldsc c0 .w .rlx .team false (.s 3) (.v 4) 0,
    .pref c0 .w .team (.s 5) 0, .ldt c0 .rlx .team (.v 1) (.s 4) (.pos 0) 0, .snap c0 .sc .team false (.s 6) (.s 4) 0, .st c0 .w .acq .team (.v 3) (.s 4) 0,
    .stsc c0 .w .rlx .team (.v 3) (.s 4) 0, .stt c0 .rlx .team (.t 1) (.s 4) (.v 1) 0, .atomAdd c0 .b .rlx .team (.v 3) (.s 4) (.v 5) 0,
    .atomFadd c0 .rlx .team (.k 3) (.s 4) (.v 5) 0, .redAdd c0 .w .acq .team (.v 5) (.s 4) 0, .redFadd c0 .sc .team (.v 5) (.s 4) 0, .fence c0 .rlx .team,
    .txabort c0 (.v 1), .binit c0 (.v 1) (.s 4) 0, .breg c0 (.v 1) 0, .barr c0 (.s 5) (.s 4) (some (.v 1)) 0, .barrd c0 (.v 5) (.s 4) 0, .bexp c0 (.v 1) (.s 4) 0,
    .bwait c0 (.pos 1) (.s 4) 0, .btest c0 (.s 5) (.s 4) (.v 6) 0, .trig c0 (.s 5) (.s 3) (.pos 1) 0] : List Instr).all (fun i => !i.wf) = true := by
  decide +kernel

/-- The members of classes 2 to 4 (R246, R272 to R294, R336, R357, R360). -/
theorem test_wfEngines : ([
    .accalloc c0 (.s 3) (.pos 1), .accfree c0 (.s 3), .scrl c0 (some (.s 3)) (.s 4), .scrlr c0 none (.v 4), .copy c0 (.v 2) (.s 4), .copyx c0 (.s 2) (.t 4),
    .dtload c0 false .device false (.s 4), .planeq c0 (.s 5) (.pos 4), .mshape 0 (.t 2) (.pos 3) (.pos 0) (.fp 2), .mshape 0 (.a 2) (.pos 3) (.pos 0) (.pos 1),
    .mldt 0 (.t 1) (.m 5) (.pos 0) (.neg 14), .mzero 0 (.t 2), .mma 0 0 0 (.a 2) (.t 0) (.a 4), .mmaPair 0 0 0 (.t 2) (.t 0) (.t 4),
    .msoft 0 false 0 (.t 1) (.a 2) (.a 3) (.m 5), .mdrain 0 .none false false false .mem 0 (.m 5) (.a 2) (.pos 0) (.neg 15), .mwait 0 (.pos 5) (.m 6),
    .marr 0 (.m 5) (.m 6) (.fp 1), .msig 0 0, .mloop 0 (.pos 5) 0, .mmov 0 (.s 5) 0, .mmovHi 0 (.t 5) 0, .madd 0 (.m 5) (.pos 6) 0,
    .mstart c0 (.s 5) (.s 4) (.s 25), .mstop c0 (.s 5), .sysrd c0 (.s 4) 5, .sysrd c0 (.s 5) 0x020, .syswr c0 0x020 (.s 5), .launch c0 (.s 4) (.s 5),
    .vacate c0 (.s 4) (.pos 5) (.pos 1), .rte ⟨0, 12, 0⟩, .dcflush c0 (.s 5) (.pos 1), .ctxkill c0 (.s 4) (.pos 5), .pmon c0 true (.s 5) (.pos 2),
    .tlbinv c0 .page none (some (.s 5)), .tlbinv c0 .context (some (.s 4)) (some (.s 5)), .tlbinv c0 .all none (some (.s 5)), .haltcore c0 true (.v 4) (.s 5),
    .timerrd c0 (.v 4), .timerset c0 (.v 7)] : List Instr).all (fun i => !i.wf) = true := by decide +kernel

/-! ### One step on a small state -/

/-- The state a step leaves. -/
def after (s : State) : State := match step s with | .next t => t | _ => s

/-- A step that runs one word placed as `withFetchWord` places it. -/
def ran (s : State) (w : Nat) : State := after (s.withFetchWord 64 w)

/-- ADD v2, GROUP.ID, 7 writes 7 in every lane, and nothing above v2. -/
theorem test_stepAdd : (ran State.reset 0x0401E00A09000007).rdV 512 0 2 = 7 ∧ (ran State.reset 0x0401E00A09000007).rdV 512 31 2 = 7
    ∧ (ran State.reset 0x0401E00A09000007).rdV 512 0 3 = 0 := by decide +kernel

/-- ADD.I8.SAT of 127 and 1, and ADD.I8 of them: 127, and -128 sign-extended (R106, R108, R111). -/
theorem test_stepSaturate :
    (ran ((State.reset.wrV 512 0 1 127).wrV 512 0 2 1) (word 0 0 3 1 2 0x040)).rdV 512 0 3 = 127
      ∧ (ran ((State.reset.wrV 512 0 1 127).wrV 512 0 2 1) (word 0 0 3 1 2 0)).rdV 512 0 3 = 0xFFFFFF80 := by decide +kernel

/-- SAR by 33 shifts by 1 (R108); BFE of bits 4 to 7 under I32 extends their sign (R109). -/
theorem test_stepBits :
    (ran ((State.reset.wrV 512 0 1 0x80000000).wrV 512 0 2 33) (word 0 13 3 1 2 0x100)).rdV 512 0 3 = 0xC0000000
      ∧ (ran ((State.reset.wrV 512 0 1 0x80).wrV 512 0 2 0x404) (word 0 18 3 1 2 0x100)).rdV 512 0 3 = 0xFFFFFFF8 := by decide +kernel

/-- The manual's CVT examples: 127.5 to I8, and 70,000 to F16 under RTZ (R169); the conditions show as the result is written (R160). -/
theorem test_stepConvert :
    (ran (State.reset.wrV 512 0 1 0x42FF0000) (word 8 0 3 1 0 0x020)).rdV 512 0 3 = 127
      ∧ ((ran (State.reset.wrV 512 0 1 0x42FF0000) (word 8 0 3 1 0 0x020)).team 16).fpStatus = 0
      ∧ ((ran (State.reset.wrV 512 0 1 0x42FF0000) (word 8 0 3 1 0 0x020)).team 16).fpAt 100 = 16
      ∧ (ran (State.reset.wrV 512 0 1 0x4788B800) (word 8 0 3 1 0 0x261)).rdV 512 0 3 = 0x7BFF
      ∧ ((ran (State.reset.wrV 512 0 1 0x4788B800) (word 8 0 3 1 0 0x261)).team 16).fpAt 100 = 5 := by decide +kernel

/-- 1.0 + 2^-24 is a tie to even under RNE and rounds up under RUP (R144, R161). -/
theorem test_stepFadd :
    (ran ((State.reset.wrV 512 0 1 0x3F800000).wrV 512 0 2 0x33800000) 0x1801E00C04080000).rdV 512 0 3 = 0x3F800000
      ∧ (ran ((State.reset.wrV 512 0 1 0x3F800000).wrV 512 0 2 0x33800000) (word 6 0 3 1 2 0x080)).rdV 512 0 3 = 0x3F800001 := by
  decide +kernel

/-- PSUM.I32.EXC of LANE.ID: lane 0 gets 0, lane 5 gets 0 + 1 + 2 + 3 + 4 (R120). -/
theorem test_stepPsum :
    (ran State.reset (word 5 3 3 0x80 0 0x101)).rdV 512 0 3 = 0 ∧ (ran State.reset (word 5 3 3 0x80 0 0x101)).rdV 512 5 3 = 10 := by
  decide +kernel

/-- BRA -16 from the clause at 0 stands the gang 128 bytes below it, mod 2^56; an OP that is unassigned traps. -/
theorem test_stepBranch : ((ran State.reset 0x2401E00003FFFFF0).slice 512 7).pc = 0xFFFFFFFFFFFF80
    ∧ ((ran (State.reset.modCtx 0 fun c => { c with trapvec := 0x8000 }) (word 0x3F 0 0 0 0 0)).slice 512 0).pc = 0x8000
    ∧ ((ran (State.reset.modCtx 0 fun c => { c with trapvec := 0x8000 }) (word 0x3F 0 0 0 0 0)).group 512).causeLow = 4 := by decide +kernel

/-- STS.W of LANE.ID at offset 0 in every lane: the highest LANE.ID leaves its value (R136). -/
theorem test_stepStore : (ran State.reset (word 16 1 0xC7 1 0 0x20000)).scrBytes 0 0 4 = [7, 0, 0, 0] := by decide +kernel

/-- The published check value of the CRC-16 of R321's generator and initial value, over the nine characters 1 to 9. -/
theorem test_crc : (((List.range 72).reverse.foldl (fun c i => crcBit c (Nat.testBit 0x313233343536373839 i)) 0xFFFF)) = 0x29B1 := by
  decide +kernel

end Sys2Proof.Tests
end

section
/-! PROOF. Where a step stops: how each row of the table acts (in the frame of a group's stream, in that of a matrix stream,
or as an event), and what that says of an issuer whose turn it is (R1, R80). -/

namespace Sys2Proof.Machine

/-- An outcome is a next state. -/
def GoesOn (o : Host.Outcome State Fault Refusal) : Prop := ∃ t, o = .next t

@[simp] theorem goesOn_next (t : State) : GoesOn (.next t) := ⟨t, rfl⟩

@[simp] theorem goesOn_deliver (s : State) (k typ : Nat) (wait : Packet → State → Option State) (f : Packet → State → State) :
    GoesOn (deliver s k typ wait f) := by
  unfold deliver
  repeat' split
  all_goals exact goesOn_next _

/-- How a row of the table acts: in the frame of a group's stream, in that of a matrix stream, or as an event. -/
inductive ActsAs (i : Instr) : Prop
  | group (op : ∃ r, fieldsOf i = some r ∧ streamOp r.op.toNat = false)
      (acts : ∀ s, ∃ m body, exec i s = instr m s body)
  | matrix (op : ∃ r, fieldsOf i = some r ∧ streamOp r.op.toNat = true)
      (acts : ∀ s, ∃ dist waits reads body, exec i s = stream dist waits reads s body)
  | event (op : fieldsOf i = none) (acts : ∀ s, GoesOn (exec i s))

/-- Every row acts in the frame that its encoding names, or has none and always goes on (R66, R80, R82). -/
theorem exec_actsAs (i : Instr) : ActsAs i := by
  cases i with
  | add | sub | mul | mulh | mad | min | max | and | or | xor | not | shl | shr | sar | rol | clz | popc | brev
  | bfe | bfi | sel | addx | subx | mov | lea | leax | addImm | subImm | mulImm | minImm | maxImm | andImm | orImm
  | xorImm | shlImm | shrImm | sarImm | rolImm | movImm | leaImm | movw | movwx | addwx | movwh | cmp | kand | kor
  | kxor | knot | kmov | execget | execset | ktest | shfl | ballot | vote | psum | pmax | laneid | fadd | fsub
  | fmul | ffma | fmin | fmax | fcmp | frcp | frsq | fexp2 | flog2 | fsin | fcos | ftanh | cvt | pack | unpack | bra
  | brx | call | braz | branz | join | regang | ret | jmpi | calli | exit | yield | trap | nop | lds | sts | ldw
  | stw | ldss | stss | ldws | stws | ld | ldsc | pref | ldt | snap | st | stsc | stt | atomAdd | atomMin | atomMax
  | atomMinn | atomMaxn | atomAnd | atomOr | atomXor | atomSwap | atomCas | atomFadd | redAdd | redMin | redMax
  | redMinn | redMaxn | redAnd | redOr | redXor | redFadd | fence | txbegin | txcommit | txabort | binit | breg
  | barr | barrd | bexp | bwait | btest | trig | accalloc | accfree | scrl | scrlr | copy | copyx | dtload | copyDec
  | planeq | mstart | mstop | sysrd | syswr | launch | vacate | rte | icinv | dcflush | ctxkill | pmon | tlbinv
  | haltcore | timerrd | timerset | timerclr =>
    exact .group ⟨_, rfl, rfl⟩ fun s => ⟨_, _, rfl⟩
  | mshape | mldt | mzero | mma | mmaPair | msoft | mdrain | mwait | marr | msig | mend | mpair | mbra | mloop
  | mmov | mmovHi | madd =>
    refine .matrix ⟨_, rfl, rfl⟩ fun s => ?_
    simp only [exec, execMshape, execMldt, execMzero, execMma, execMmaPair, execMsoft, execMdrain, execMwait, execMarr, execMsig,
      execMend, execMpair, execMbra, execMloop, execMmov, execMmovHi, execMadd]
    exact ⟨_, _, _, _, rfl⟩
  | pairTimeout | mpairTimeout | seqStatusUnpair | seqStatusRepair | clauseFetchDone | serviceRequestAppend
  | vacationCollectiveTimeout | settleBufferDrain | faultActRetry | faultActTrap | faultActKill | powerLimit
  | homeChannelFailure | coreFieldFailure | colPortDown | busPowerApplied | mainPowerRemoved | busPowerRemoved
  | fjondanRunning | evacuationCommand | evacuationReceive | identityStoreRead | partitionCreate | sqTail | sqEn
  | fjondanMailbox | conventionalReset | vfFunctionLevelReset | pf0FunctionLevelReset | backInvalidationDone
  | farMemoryCompletion =>
    exact .event rfl fun s => goesOn_next _
  | rd | wr | cmt | atom | red | win | bar | data | ack | srep =>
    refine .event rfl fun s => ?_
    simp only [exec, execRd, execWr, execCmt, execAtom, execRed, execWin, execBar, execData, execAck, execSrep]
    exact goesOn_deliver _ _ _ _ _
  | implicitDrop | barrierWatchdogExpiry | scrollStep | engineCommandEnd | dtloadTableWrite | copyDecDecode
  | matrixCommandComplete | groupTimerExpiry | launchDispatch | clusterPlace | parkCoreReload | teamDone
  | parkQuantumExpiry | parkIdleSteal | stealRetryTimeout | countUpdateSend | clauseStart | ageingSwitch
  | regangTimeout | trapEntry | clusterVacate | contextKill | killComplete | orangeryRevoke | snapshotAgeRevoke
  | collectorReclaim | releaseCommit | escTimeout | rowRemapRebuild | testWindowStart | coreTestStart | blk | sreq
  | countUpdate | cont | cres | cstat | reductionSlotTimeout | evacuationDrained | evacuationDeadline
  | submissionEntryTake | packResultWritten | ctrl | coreReloadRelease | translationWalkDone | strikeReport
  | arrayUncorrectableError | routerDeath | coreTestDone | multicastWriteArrival | mainPowerApplied
  | imageVerifyDone | functionSelfTestDone | evacuationFailure | evidenceRequest | partitionDestroy | hostWrite
  | hostRead | receiverAcknowledgement | systemCoreRestart | storedMinimumRaise | keySlotEnrolment =>
    refine .event rfl fun s => ?_
    simp only [exec, execImplicitDrop, execBarrierWatchdogExpiry, execScrollStep, execEngineCommandEnd, execDtloadTableWrite,
      execCopyDecDecode, execMatrixCommandComplete, execGroupTimerExpiry, execLaunchDispatch, execClusterPlace,
      execParkCoreReload, execTeamDone, execParkQuantumExpiry, execParkIdleSteal, execStealRetryTimeout,
      execCountUpdateSend, execClauseStart, execAgeingSwitch, execRegangTimeout, execTrapEntry, execClusterVacate,
      execContextKill, execKillComplete, execOrangeryRevoke, execSnapshotAgeRevoke, execCollectorReclaim,
      execReleaseCommit, execEscTimeout, execRowRemapRebuild, execTestWindowStart, execCoreTestStart, execBlk,
      execSreq, execCountUpdate, execCont, execCres, execCstat, execReductionSlotTimeout, execEvacuationDrained,
      execEvacuationDeadline, execSubmissionEntryTake, execPackResultWritten, execCtrl, execCoreReloadRelease,
      execTranslationWalkDone, execStrikeReport, execArrayUncorrectableError, execRouterDeath, execCoreTestDone,
      execMulticastWriteArrival, execMainPowerApplied, execImageVerifyDone, execFunctionSelfTestDone,
      execEvacuationFailure, execEvidenceRequest, execPartitionDestroy, execHostWrite, execHostRead,
      execReceiverAcknowledgement, execSystemCoreRestart, execStoredMinimumRaise, execKeySlotEnrolment]
    repeat' split
    all_goals simp only [goesOn_next, goesOn_deliver]

/-! ### Where the meaning of a row stops -/

/-- A group's instruction stops only where no gang that exists is at issue. -/
theorem instr_outcome (m : Meta) (s : State) (body : Iss → State → Res) :
    GoesOn (instr m s body) ∨ s.issOf = none ∧ instr m s body = .fault .noIssuer := by
  unfold instr
  split
  · exact .inr ⟨‹_›, rfl⟩
  · exact .inl (goesOn_next _)

/-- A matrix stream's instruction goes on where its sequencer exists. -/
theorem stream_goesOn {s : State} {q : Nat} (dist : BitVec 3) (waits : Bool) (reads : List Opnd) (body : Nat → State → SRes)
    (hc : s.cur = .seqr q) (hq : (sget s.seqrs q).isSome = true) : GoesOn (stream dist waits reads s body) := by
  simp only [stream, hc, hq, if_true]
  split
  · exact goesOn_next _
  · split <;> exact goesOn_next _

/-- A matrix stream's instruction stops only where no sequencer that exists is at issue. -/
theorem stream_outcome (dist : BitVec 3) (waits : Bool) (reads : List Opnd) (s : State) (body : Nat → State → SRes) :
    GoesOn (stream dist waits reads s body)
      ∨ (∀ q, s.cur = .seqr q → (sget s.seqrs q).isSome = false) ∧ stream dist waits reads s body = .fault .noIssuer := by
  by_cases h : ∃ q, s.cur = .seqr q ∧ (sget s.seqrs q).isSome = true
  · obtain ⟨q, hc, hq⟩ := h
    exact .inl (stream_goesOn dist waits reads body hc hq)
  · have absent : ∀ q, s.cur = .seqr q → (sget s.seqrs q).isSome = false := fun q hc => by
      simpa using fun hq => h ⟨q, hc, hq⟩
    refine .inr ⟨absent, ?_⟩
    unfold stream
    split
    · rw [if_neg (by simp [absent _ ‹_›])]
    · rfl

theorem GoesOn.ne_refused {o : Host.Outcome State Fault Refusal} (h : GoesOn o) (r : Refusal) : o ≠ .refused r := by
  obtain ⟨t, rfl⟩ := h; simp

theorem GoesOn.ne_fault {o : Host.Outcome State Fault Refusal} (h : GoesOn o) (f : Fault) : o ≠ .fault f := by
  obtain ⟨t, rfl⟩ := h; simp

/-- No row of the table is refused. -/
theorem exec_ne_refused (i : Instr) (s : State) (r : Refusal) : exec i s ≠ .refused r := by
  cases exec_actsAs i with
  | group _ run =>
    obtain ⟨m, body, e⟩ := run s
    rcases instr_outcome m s body with h | ⟨-, h⟩
    · exact e ▸ h.ne_refused r
    · simp [e, h]
  | matrix _ run =>
    obtain ⟨dist, waits, reads, body, e⟩ := run s
    rcases stream_outcome dist waits reads s body with h | ⟨-, h⟩
    · exact e ▸ h.ne_refused r
    · simp [e, h]
  | event _ run => exact (run s).ne_refused r

/-- An event never stops. -/
theorem exec_event_goesOn {i : Instr} (h : isEvent i = true) (s : State) : GoesOn (exec i s) := by
  have bare : fieldsOf i = none := by simpa [isEvent, encode] using h
  cases exec_actsAs i with
  | group op _ => obtain ⟨r, e, -⟩ := op; simp [bare] at e
  | matrix op _ => obtain ⟨r, e, -⟩ := op; simp [bare] at e
  | event _ run => exact run s

/-! ### What a stream's words decode to -/

theorem fieldsOf_of_accept {r : Raw} {o : Option Instr} {i : Instr} (h : accept r o = .ok i) : fieldsOf i = some r := by
  unfold accept at h
  split at h
  · cases h
  · split at h
    · split at h
      · cases h; assumption
      · cases h
    · cases h

theorem decodeG_op {w : DWord} {i : Instr} (h : decodeG w = .ok i) :
    ∃ r, fieldsOf i = some r ∧ streamOp r.op.toNat = false := by
  simp only [decodeG] at h
  split at h
  · cases h
  next hop =>
    split at h
    · cases h
    · exact ⟨_, fieldsOf_of_accept h, by simpa using hop⟩

theorem decodeM_op {w : DWord} {i : Instr} (h : decodeM w = .ok i) :
    ∃ r, fieldsOf i = some r ∧ streamOp r.op.toNat = true := by
  simp only [decodeM] at h
  split at h
  · cases h
  next hop =>
    split at h
    · cases h
    · exact ⟨_, fieldsOf_of_accept h, by simpa using hop⟩

/-- What a group's word decodes to stops only where no gang that exists is at issue. -/
theorem exec_decodeG_fault {w : DWord} {i : Instr} (h : decodeG w = .ok i) {s : State} {f : Fault} (hf : exec i s = .fault f) :
    s.issOf = none := by
  obtain ⟨r, hr, hop⟩ := decodeG_op h
  cases exec_actsAs i with
  | group _ run =>
    obtain ⟨m, body, e⟩ := run s
    rcases instr_outcome m s body with g | ⟨g, -⟩
    · exact absurd (e ▸ hf) (g.ne_fault f)
    · exact g
  | matrix op _ =>
    obtain ⟨r', hr', hop'⟩ := op
    cases hr.symm.trans hr'
    simp [hop] at hop'
  | event _ run => exact absurd hf ((run s).ne_fault f)

/-- What a matrix stream's word decodes to stops only where no sequencer that exists is at issue. -/
theorem exec_decodeM_fault {w : DWord} {i : Instr} (h : decodeM w = .ok i) {s : State} {f : Fault} (hf : exec i s = .fault f) :
    ∀ q, s.cur = .seqr q → (sget s.seqrs q).isSome = false := by
  obtain ⟨r, hr, hop⟩ := decodeM_op h
  cases exec_actsAs i with
  | group op _ =>
    obtain ⟨r', hr', hop'⟩ := op
    cases hr.symm.trans hr'
    simp [hop] at hop'
  | matrix _ run =>
    obtain ⟨dist, waits, reads, body, e⟩ := run s
    rcases stream_outcome dist waits reads s body with g | ⟨g, -⟩
    · exact absurd (e ▸ hf) (g.ne_fault f)
    · exact g
  | event _ run => exact absurd hf ((run s).ne_fault f)

/-! ### Issuers -/

namespace State

/-- An issuer executes what its doubleword decodes to, or is turned away and goes on. -/
theorem issueOne_cases (run : Meaning) (s : State) (i : Issuer) :
    (∃ x, decodedAt { s with cur := i } i = .ok x ∧ issueOne run s i = run x { s with cur := i }) ∨ GoesOn (issueOne run s i) := by
  simp only [issueOne]
  split
  next x hx => exact .inl ⟨x, hx, rfl⟩
  · exact .inr (goesOn_next _)

theorem issueOne_ne_refused (s : State) (i : Issuer) (r : Refusal) : issueOne exec s i ≠ .refused r := by
  rcases issueOne_cases exec s i with ⟨x, -, e⟩ | h
  · exact e ▸ exec_ne_refused x _ r
  · exact h.ne_refused r

/-- A gang at issue is no issuer only where its group does not exist. -/
theorem group_none_of_issOf_none {s : State} {cid pipe gid : Nat} {slices : List Nat} {hdr : Addr} {ix len : Nat}
    (hc : s.cur = .gang cid pipe gid slices hdr ix len) (h : s.issOf = none) : sget s.groups gid = none := by
  simpa [issOf, hc] using h

/-- A gang's issue stops only where its group does not exist. -/
theorem issueOne_gang_fault {s : State} {cid pipe gid : Nat} {slices : List Nat} {hdr : Addr} {ix len : Nat} {f : Fault}
    (h : issueOne exec s (.gang cid pipe gid slices hdr ix len) = .fault f) : sget s.groups gid = none := by
  rcases issueOne_cases exec s (.gang cid pipe gid slices hdr ix len) with ⟨x, hx, e⟩ | g
  · have absent := exec_decodeG_fault hx (e.symm.trans h)
    exact group_none_of_issOf_none (s := { s with cur := .gang cid pipe gid slices hdr ix len }) rfl absent
  · exact absurd h (g.ne_fault f)

/-- A sequencer's issue stops only where it does not exist. -/
theorem issueOne_seqr_fault {s : State} {q : Nat} {f : Fault} (h : issueOne exec s (.seqr q) = .fault f) :
    (sget s.seqrs q).isSome = false := by
  rcases issueOne_cases exec s (.seqr q) with ⟨x, hx, e⟩ | g
  · exact exec_decodeM_fault hx (e.symm.trans h) q rfl
  · exact absurd h (g.ne_fault f)

theorem sget_isSome_of_mem {α : Type} {m : Store α} {e : Nat × α} (h : e ∈ m) : (sget m e.1).isSome = true := by
  induction m with
  | nil => cases h
  | cons p m ih =>
    rw [sget_cons]
    split
    · rfl
    · next ne => exact ih ((List.mem_cons.mp h).resolve_left fun e => ne (e ▸ rfl))

theorem pipeIssuer_gang {s : State} {cid pipe : Nat} {o : Option Run} {i : Issuer} (h : s.pipeIssuer cid pipe o = some i) :
    ∃ r ix, o = some r ∧ i = .gang cid pipe r.gid r.slices r.hdr ix r.words.length := by
  obtain ⟨r, rfl, issues⟩ := Option.bind_eq_some_iff.mp h
  dsimp only at issues
  split at issues
  · cases issues
    exact ⟨r, _, rfl, rfl⟩
  · cases issues

/-- A gang whose instruction is due stands in a pipe of a core. -/
theorem dueGangs_inPipe {s : State} {i : Issuer} (h : i ∈ s.dueGangs) :
    ∃ e ∈ s.cores, ∃ r pipe ix, (e.2.pipe0 = some r ∨ e.2.pipe1 = some r)
      ∧ i = .gang e.1 pipe r.gid r.slices r.hdr ix r.words.length := by
  obtain ⟨e, he, h⟩ := List.mem_flatMap.mp h
  refine ⟨e, List.mem_of_mem_filter he, ?_⟩
  rcases List.mem_append.mp h with h | h
  · obtain ⟨r, ix, hr, rfl⟩ := pipeIssuer_gang (Option.mem_toList.mp h)
    exact ⟨r, 0, ix, .inl hr, rfl⟩
  · obtain ⟨r, ix, hr, rfl⟩ := pipeIssuer_gang (Option.mem_toList.mp h)
    exact ⟨r, 1, ix, .inr hr, rfl⟩

/-- A sequencer whose instruction is due exists. -/
theorem dueSeqrs_there {s : State} {i : Issuer} (h : i ∈ s.dueSeqrs) :
    ∃ q, i = .seqr q ∧ (sget s.seqrs q).isSome = true := by
  obtain ⟨e, he, rfl⟩ := List.mem_map.mp h
  exact ⟨e.1, rfl, sget_isSome_of_mem (List.mem_of_mem_filter he)⟩

theorem mem_of_mem_turned {α : Type} {n : Nat} {l : List α} {x : α} (h : x ∈ turned n l) : x ∈ l := by
  rcases List.mem_append.mp h with h | h
  · exact List.mem_of_mem_drop h
  · exact List.mem_of_mem_take h

theorem mem_of_dueIssuer {run : Meaning} {s : State} {i : Issuer} (h : s.dueIssuer run = some i) :
    i ∈ s.dueGangs ∨ i ∈ s.dueSeqrs := by
  unfold dueIssuer at h
  split at h
  · exact List.mem_append.mp (mem_of_mem_turned (List.mem_of_find?_eq_some h))
  · cases h

/-- The instruction of a scheduled issuer stops only in a pipe whose group does not exist. -/
theorem dueIssuer_fault {s : State} {i : Issuer} {f : Fault} (h : s.dueIssuer exec = some i)
    (hf : issueOne exec s i = .fault f) :
    ∃ e ∈ s.cores, ∃ r, (e.2.pipe0 = some r ∨ e.2.pipe1 = some r) ∧ sget s.groups r.gid = none := by
  rcases mem_of_dueIssuer h with h | h
  · obtain ⟨e, he, r, pipe, ix, hr, rfl⟩ := dueGangs_inPipe h
    exact ⟨e, he, r, hr, issueOne_gang_fault hf⟩
  · obtain ⟨q, rfl, hq⟩ := dueSeqrs_there h
    simp [issueOne_seqr_fault hf] at hq

/-! ### The next move -/

theorem moves_goesOn {s : State} {e : Instr} (h : moves exec s e = true) : GoesOn (exec e s) := by
  unfold moves at h
  split at h
  · exact ⟨_, ‹_›⟩
  · cases h

/-- What the next step can be while nobody is at issue: an issuer that is due, an event that moves the machine, or time. -/
theorem move_cases {s : State} (hc : s.cur = .none) :
    (∃ i, s.move exec = .issue i ∧ s.dueIssuer exec = some i) ∨ (∃ e, s.move exec = .event e ∧ moves exec s e = true)
      ∨ s.move exec = .time := by
  have due : ∀ e, s.dueEvent exec = some e → moves exec s e = true := fun e h => List.find?_some h
  have late : ∀ e, s.lateEvents.find? (moves exec s) = some e → moves exec s e = true := fun e h => List.find?_some h
  simp only [move, hc]
  rcases hi : s.dueIssuer exec with _ | i <;> rcases he : s.dueEvent exec with _ | e <;>
    rcases hl : s.lateEvents.find? (moves exec s) with _ | l <;> split <;> simp_all

theorem move_atIssue {s : State} (hc : s.cur ≠ .none) : s.move exec = .issue s.cur := by
  unfold move
  split <;> simp_all

end State

/-! ### The step -/

theorem settled_ne_refused {n : Nat} {o : Host.Outcome State Fault Refusal} {r : Refusal} (h : o ≠ .refused r) :
    settled n o ≠ .refused r := by
  cases o <;> simp_all [settled]

theorem settled_fault {n : Nat} {o : Host.Outcome State Fault Refusal} {f : Fault} (h : settled n o = .fault f) :
    o = .fault f := by
  cases o <;> simp_all [settled]

/-- After an instruction or an event nobody is at issue. -/
theorem settled_cur {n : Nat} {o : Host.Outcome State Fault Refusal} {t : State} (h : settled n o = .next t) :
    t.cur = .none := by
  cases o with
  | next u => cases h; rfl
  | fault _ => cases h
  | refused _ => cases h

/-- Every step is one of these. -/
theorem step_cases (s : State) :
    (∃ i u, step s = settled (s.turn + 1) (exec i u) ∧ GoesOn (exec i u))
      ∨ (∃ t, step s = .next t ∧ t.cur = .none)
      ∨ s.agenda = [] ∧ ∃ i, step s = settled (s.turn + 1) (State.issueOne exec s i)
        ∧ (s.cur = .none → s.dueIssuer exec = some i) := by
  unfold step
  split
  next e rest _ =>
    dsimp only
    split
    · exact .inl ⟨_, _, rfl, exec_event_goesOn ‹_› _⟩
    · exact .inr (.inl ⟨_, rfl, rfl⟩)
  next ha =>
    dsimp only
    by_cases hc : s.cur = .none
    · rcases State.move_cases hc with ⟨i, hm, hd⟩ | ⟨e, hm, hd⟩ | hm <;> rw [hm]
      · exact .inr (.inr ⟨ha, i, rfl, fun _ => hd⟩)
      · exact .inl ⟨e, s, rfl, State.moves_goesOn hd⟩
      · exact .inr (.inl ⟨_, rfl, hc⟩)
    · rw [State.move_atIssue hc]
      exact .inr (.inr ⟨ha, s.cur, rfl, fun h => absurd h hc⟩)

end Sys2Proof.Machine

open Sys2Proof.Machine

/-- Settles O7: only the two frames can stop, each where its issuer does not exist; what a due gang's or sequencer's word
decodes to runs in its own stream's frame, and a due sequencer exists. -/
theorem onlyAMissingIssuerStops : Obligations.OnlyAMissingIssuerStops := by
  intro s
  rcases step_cases s with ⟨i, u, e, go⟩ | ⟨t, e, hc⟩ | ⟨ha, i, e, due⟩
  · refine ⟨fun r => e ▸ settled_ne_refused (go.ne_refused r), fun t h => settled_cur (e ▸ h), fun f h => ?_⟩
    exact absurd (settled_fault (e ▸ h)) (go.ne_fault f)
  · simp only [e]
    exact ⟨by simp, fun u h => by cases h; exact hc, by simp⟩
  · refine ⟨fun r => e ▸ settled_ne_refused (State.issueOne_ne_refused s i r), fun t h => settled_cur (e ▸ h), fun f h => ⟨ha, ?_⟩⟩
    by_cases hc : s.cur = .none
    · exact .inr (State.dueIssuer_fault (due hc) (settled_fault (e ▸ h)))
    · exact .inl hc
end

section
/-! PROOF. Row remap tables: the reserve a failed position takes, and the columns assigned anew (R19, R20). -/

namespace Sys2Proof.Machine

/-! ### The reserve taken -/

theorem least_eq_min? (l : List Nat) : least l = l.min? := by
  have run : ∀ (l : List Nat) (b : Nat),
      l.foldl (fun b x => match b with | some y => some (Nat.min x y) | none => some x) (some b) = some (l.foldl min b) := by
    intro l
    induction l with
    | nil => intro b; rfl
    | cons a l ih => intro b; exact (ih (Nat.min a b)).trans (by rw [List.foldl_cons, Nat.min_comm b a])
  cases l with
  | nil => rfl
  | cons a l => exact run l a

theorem greatest_eq_max? (l : List Nat) : greatest l = l.max? := by
  have run : ∀ (l : List Nat) (b : Nat),
      l.foldl (fun b x => match b with | some y => some (Nat.max x y) | none => some x) (some b) = some (l.foldl max b) := by
    intro l
    induction l with
    | nil => intro b; rfl
    | cons a l ih => intro b; exact (ih (Nat.max a b)).trans (by rw [List.foldl_cons, Nat.max_comm b a])
  cases l with
  | nil => rfl
  | cons a l => exact run l a

/-- The nearest reserve to the east is taken. -/
theorem takeReserve_east {px r : Nat} {rs : List Nat} (hr : r ∈ rs) (hpx : px < r) (near : ∀ q ∈ rs, px < q → r ≤ q) :
    takeReserve px rs = some r := by
  have : (rs.filter fun r => px < r).min? = some r :=
    List.min?_eq_some_iff.mpr ⟨by simp [hr, hpx], fun q hq => by
      obtain ⟨hq, lt⟩ := List.mem_filter.mp hq
      exact near q hq (of_decide_eq_true lt)⟩
  rw [takeReserve, least_eq_min?, this, Option.some_or]

/-- Where no reserve lies to the east, the nearest to the west is taken. -/
theorem takeReserve_west {px r : Nat} {rs : List Nat} (hr : r ∈ rs) (hpx : r < px) (near : ∀ q ∈ rs, q < px ∧ q ≤ r) :
    takeReserve px rs = some r := by
  have east : (rs.filter fun r => px < r) = [] :=
    List.filter_eq_nil_iff.mpr fun q hq => by have := (near q hq).1; simp; omega
  have west : (rs.filter fun r => r < px).max? = some r :=
    List.max?_eq_some_iff.mpr ⟨by simp [hr, hpx], fun q hq => (near q (List.mem_of_mem_filter hq)).2⟩
  rw [takeReserve, least_eq_min?, greatest_eq_max?, east, west]
  rfl

/-! ### Columns -/

/-- As many positions as there are backed columns are all listed, in their order. -/
theorem nonVoid_assignCols (t : List (Option Nat)) (ps : List Nat) (h : (nonVoid t).length = ps.length) :
    nonVoid (assignCols t ps) = ps := by
  induction t generalizing ps with
  | nil => cases ps with
    | nil => rfl
    | cons p ps => cases h
  | cons c t ih => cases c with
    | none => exact ih ps h
    | some c => cases ps with
      | nil => cases h
      | cons p ps => exact congrArg (p :: ·) (ih ps (by simpa [nonVoid] using h))

theorem length_insertAsc (x : Nat) (l : List Nat) : (insertAsc x l).length = l.length + 1 := by
  induction l with
  | nil => rfl
  | cons y l ih =>
    unfold insertAsc
    split
    · rfl
    · simp [ih]

/-- A reserve put in the place of a backed position keeps the columns backed, with the positions rising. -/
theorem nonVoid_replaced {px : Nat} {base : List (Option Nat)} (r : Nat) (h : px ∈ nonVoid base) :
    nonVoid (assignCols base (insertAsc r ((nonVoid base).erase px))) = insertAsc r ((nonVoid base).erase px) := by
  refine nonVoid_assignCols _ _ ?_
  have := List.length_pos_of_mem h
  rw [length_insertAsc, List.length_erase_of_mem h]
  omega

/-! ### Positions of cores -/

theorem cidOf_pos (cid : Nat) : cidOf (cid % 64) (cid / 64) = cid := by unfold cidOf; omega

theorem cidOf_inj {x x' y : Nat} (h : cidOf x y = cidOf x' y) : x = x' := by unfold cidOf at h; omega

end Sys2Proof.Machine
end

section
/-! PROOF. What the failure of a core in the field changes: the fence, the vacations it begins, the rebuild it queues, and,
where its row gives up a column, what that leaves of cores and module (R19, R20, R325, R353). -/

namespace Sys2Proof.Machine
namespace State

/-! ### Vacations -/

/-- Beginning vacations changes contexts and clusters alone. -/
theorem vacateOn_eq (s : State) (cids : List Nat) (only : Option Nat) :
    ∃ cx cl, s.vacateOn cids only = { s with ctxs := cx, clusters := cl } := by
  have run : ∀ (l : List Nat) (s : State), ∃ cx cl,
      l.foldl (fun s c => if s.hasSlots c then s.beginVacate c none else s) s = { s with ctxs := cx, clusters := cl } := by
    intro l
    induction l with
    | nil => intro s; exact ⟨s.ctxs, s.clusters, rfl⟩
    | cons c l ih =>
      intro s
      obtain ⟨cx, cl, e⟩ := ih (if s.hasSlots c then s.beginVacate c none else s)
      refine ⟨cx, cl, e.trans ?_⟩
      split <;> rfl
  exact run _ s

theorem vacateFor_eq (s : State) (r : Rebuild) : ∃ cx cl, s.vacateFor r = { s with ctxs := cx, clusters := cl } := by
  obtain ⟨cx, cl, e⟩ := s.vacateOn_eq ((s.movingCols r).map fun c => cidOf c r.row) none
  simp only [vacateFor, e]
  cases r.shrink with
  | none => exact ⟨cx, cl, rfl⟩
  | some p => exact vacateOn_eq _ _ _

/-- A rebuild queued is last in the queue; but for that only vacations begin. -/
theorem pushRebuild_eq (s : State) (r : Rebuild) : ∃ cx cl, s.pushRebuild r =
    { s with ctxs := cx, clusters := cl, dev := { s.dev with rebuilds := s.dev.rebuilds ++ [r] } } := by
  obtain ⟨cx, cl, e⟩ := s.vacateFor_eq r
  exact ⟨cx, cl, by rw [pushRebuild, e]; rfl⟩

end State

/-! ### What a shrink leaves of cores and module -/

/-- Cores differ at most in being held in reset, the module at most in its fault store and in the rebuilds queued. -/
structure Spared (s t : State) : Prop where
  core : ∀ c, { t.core c with held := false } = { s.core c with held := false }
  dev : { t.dev with faultLog := [], rebuilds := [] } = { s.dev with faultLog := [], rebuilds := [] }

namespace Spared

variable {s t u : State}

theorem refl (s : State) : Spared s s := ⟨fun _ => rfl, rfl⟩

theorem trans (h : Spared s t) (g : Spared t u) : Spared s u := ⟨fun c => (g.core c).trans (h.core c), g.dev.trans h.dev⟩

theorem fenced (h : Spared s t) (c : Nat) : (t.core c).fenced = (s.core c).fenced := (congrArg Core.fenced (h.core c) :)
theorem testing (h : Spared s t) (c : Nat) : (t.core c).testing = (s.core c).testing := (congrArg Core.testing (h.core c) :)
theorem testFailed (h : Spared s t) : t.dev.testFailed = s.dev.testFailed := (congrArg Dev.testFailed h.dev :)

/-- A fold spares what each of its steps spares. -/
theorem foldl {β : Type} (g : State → β → State) (l : List β) (step : ∀ t q, Spared t (g t q)) (s : State) :
    Spared s (l.foldl g s) := by
  induction l generalizing s with
  | nil => exact refl s
  | cons q l ih => exact (step s q).trans (ih _)

/-- What changes neither cores nor the module spares them. -/
theorem of_eq (hc : t.cores = s.cores) (hd : t.dev = s.dev) : Spared s t :=
  ⟨fun c => by rw [State.core, State.core, hc], by rw [hd]⟩

theorem emit (s : State) (o : Out) : Spared s (s.emit o) := of_eq rfl rfl

theorem modPart (s : State) (p : Nat) (f : Part → Part) : Spared s (s.modPart p f) := of_eq rfl rfl

theorem logFault (s : State) (kind a b : Nat) : Spared s (s.logFault kind a b) := ⟨fun _ => rfl, rfl⟩

theorem pushRebuild (s : State) (r : Rebuild) : Spared s (s.pushRebuild r) := by
  obtain ⟨cx, cl, e⟩ := s.pushRebuild_eq r
  rw [e]
  exact ⟨fun _ => rfl, rfl⟩

theorem bringDown (s : State) (p : Nat) : Spared s (s.bringDown p) := by
  have kill : ∀ (s : State) c, Spared s (s.requestKill c { kind := 6, launch := 0, reason := 0, gslot := 0, cid := 0, body := [] }) :=
    fun _ _ => of_eq rfl rfl
  have hold : ∀ (s : State) n, Spared s (s.modCore (sysBase + n) fun k => { k with held := true }) := fun s n =>
    ⟨fun c => by rw [State.modCore_core]; split <;> simp_all, rfl⟩
  exact ((foldl _ _ kill s).trans (foldl _ _ hold _)).trans (emit _ _)

theorem dropColumn (s : State) (y px : Nat) (base : List (Option Nat)) (rs : List Nat) : Spared s (s.dropColumn y px base rs) :=
  ((logFault s 1 y _).trans (pushRebuild _ _)).trans (emit _ _)

theorem shrinkRow (s : State) (x y px : Nat) (base : List (Option Nat)) (rs : List Nat) :
    Spared s (s.shrinkRow x y px base rs) := by
  unfold State.shrinkRow
  split
  · exact dropColumn s y px base rs
  · split
    · exact (((((bringDown s _).trans (modPart _ _ _)).trans (emit _ _)).trans (emit _ _)).trans (dropColumn _ y px base rs)).trans
        (emit _ _)
    · exact ((modPart s _ _).trans (logFault _ 1 y _)).trans (pushRebuild _ _)

end Spared

/-! ### The failure of a core -/

namespace State

/-- A core that fails is fenced, its pipes emptied, and the fault store has it. -/
def fenceOff (s : State) (cid y px : Nat) : State :=
  (s.modCore cid fun k => { k with fenced := true, pipe0 := none, pipe1 := none }).logFault 0 y px

theorem fenceOff_core (s : State) (cid y px : Nat) :
    (s.fenceOff cid y px).core cid = { s.core cid with fenced := true, pipe0 := none, pipe1 := none } := by
  simp [fenceOff, State.logFault]

section
variable {s : State} {x y px : Nat} {base : List (Option Nat)} {rs : List Nat}

theorem fieldFail_fenced (h : (s.core (cidOf x y)).fenced = true) : s.fieldFail x y = s := by
  unfold fieldFail
  dsimp only
  split
  · rfl
  · rw [if_pos (by simp [h])]

/-- Where a reserve is left, the row takes it. -/
theorem fieldFail_reserve {r : Nat} (hx : x < 64) (hy : y < 32) (hp : (s.rowTable y).getD x none = some px)
    (hf : (s.core (cidOf x y)).fenced = false) (hn : s.nextTable y = (base, rs)) (hr : takeReserve px rs = some r) :
    s.fieldFail x y = (s.fenceOff (cidOf x y) y px).pushRebuild
      { row := y, failed := px, table := assignCols base (insertAsc r ((nonVoid base).erase px)), reserves := rs.erase r
        shrink := none, col := x } := by
  have next : (s.fenceOff (cidOf x y) y px).nextTable y = (base, rs) := hn
  unfold fieldFail
  simp only [hp]
  rw [if_neg (by simp [hf]; omega)]
  unfold fenceOff at next ⊢
  simp only [next, hr]

/-- Where none is left, the row gives up a column. -/
theorem fieldFail_shrink (hx : x < 64) (hy : y < 32) (hp : (s.rowTable y).getD x none = some px)
    (hf : (s.core (cidOf x y)).fenced = false) (hn : s.nextTable y = (base, rs)) (hr : takeReserve px rs = none) :
    s.fieldFail x y = (s.fenceOff (cidOf x y) y px).shrinkRow x y px base rs := by
  have next : (s.fenceOff (cidOf x y) y px).nextTable y = (base, rs) := hn
  unfold fieldFail
  simp only [hp]
  rw [if_neg (by simp [hf]; omega)]
  unfold fenceOff at next ⊢
  simp only [next, hr]

/-- A core that carries a position is fenced after its failure, whatever its row takes or gives up. -/
theorem fieldFail_fences (hx : x < 64) (hy : y < 32) (hp : (s.rowTable y).getD x none = some px) :
    ((s.fieldFail x y).core (cidOf x y)).fenced = true ∧ ((s.fieldFail x y).core (cidOf x y)).testing = (s.core (cidOf x y)).testing
      ∧ (s.fieldFail x y).dev.testFailed = s.dev.testFailed := by
  cases hf : (s.core (cidOf x y)).fenced with
  | true => rw [fieldFail_fenced hf]; exact ⟨hf, rfl, rfl⟩
  | false =>
    have spared : Spared (s.fenceOff (cidOf x y) y px) (s.fieldFail x y) := by
      cases hr : takeReserve px (s.nextTable y).2 with
      | some r => rw [fieldFail_reserve hx hy hp hf rfl hr]; exact .pushRebuild _ _
      | none => rw [fieldFail_shrink hx hy hp hf rfl hr]; exact .shrinkRow _ x y px _ _
    rw [spared.fenced, spared.testing, spared.testFailed, fenceOff_core]
    exact ⟨rfl, rfl, rfl⟩

end
end State
end Sys2Proof.Machine
end

section
/-! PROOF. Strikes, and the failure of a core in the field (R19, R20, R362, R363, R382). -/

namespace Sys2Proof.Machine

theorem SameRegs.of_eq {s t : State} (hv : t.vreg = s.vreg) (hs : t.sreg = s.sreg) (hk : t.kreg = s.kreg)
    (hm : t.mreg = s.mreg) : SameRegs s t := by
  simp [SameRegs, State.rdV, State.rdS, State.rdK, State.rdM, hv, hs, hk, hm]

/-- A store whose values change key by key reads the changed value. -/
theorem sget_mapVals {α : Type} (m : Store α) (f : Nat → α → α) (k : Nat) :
    sget (m.map fun e => (e.1, f e.1 e.2)) k = (sget m k).map (f k) := by
  induction m with
  | nil => rfl
  | cons e m ih =>
    rw [List.map_cons, sget_cons, sget_cons, ih]
    split
    · subst_vars; rfl
    · rfl

namespace State

/-! ### What a strike has done anew -/

/-- Distinct groups are each changed once. -/
theorem foldl_modGroup_group (f : Group → Group) (l : List Nat) (s : State) {g : Nat} (hn : l.Nodup) (hg : g ∈ l) :
    (l.foldl (fun s g => s.modGroup g f) s).group g = f (s.group g) := by
  induction l generalizing s with
  | nil => cases hg
  | cons a l ih =>
    obtain ⟨ha, hn⟩ := List.nodup_cons.mp hn
    rw [List.foldl_cons]
    rcases List.mem_cons.mp hg with rfl | hg
    · rw [foldl_keep _ (State.group · g) l _ fun t q hq => by
        rw [modGroup_group, if_neg]; rintro rfl; contradiction]
      rw [modGroup_group, if_pos rfl]
    · rw [ih _ hn hg, modGroup_group, if_neg]; rintro rfl; contradiction

theorem foldl_modGroup_eq (f : Group → Group) (l : List Nat) (s : State) :
    ∃ gs, l.foldl (fun s g => s.modGroup g f) s = { s with groups := gs } := by
  induction l generalizing s with
  | nil => exact ⟨s.groups, rfl⟩
  | cons g l ih => obtain ⟨gs, e⟩ := ih (s.modGroup g f); exact ⟨gs, e⟩

theorem foldl_modTeam_eq (f : Team → Team) (l : List Nat) (s : State) :
    ∃ ts, l.foldl (fun s t => s.modTeam t f) s = { s with teams := ts } := by
  induction l generalizing s with
  | nil => exact ⟨s.teams, rfl⟩
  | cons t l ih => obtain ⟨ts, e⟩ := ih (s.modTeam t f); exact ⟨ts, e⟩

/-- The re-execution of a core changes packets, commands, sequencers, landings, groups and teams alone. -/
theorem redo_eq (s : State) (cid : Nat) : ∃ ps cs qs ls gs ts, s.redo cid =
    { s with packets := ps, cmds := cs, seqrs := qs, settling := ls, groups := gs, teams := ts } := by
  obtain ⟨gs, e⟩ := foldl_modGroup_eq (redoGroup s.clock) (s.groupsOn cid) _
  obtain ⟨ts, e'⟩ := foldl_modTeam_eq _ _ _
  exact ⟨_, _, _, _, gs, ts, (congrArg (List.foldl _ · _) e).trans e'⟩

/-- A packet as the re-execution of a core leaves it: dated anew where it has waited in the settle buffer for no more than 128
cycles (R362). -/
def redated (now cid : Nat) (p : Packet) : Packet :=
  if !p.isRead && p.held && p.src == .core cid && now ≤ p.born + 128 && !p.queued then { p with born := now } else p

theorem redo_packets (s : State) (cid : Nat) : (s.redo cid).packets = s.packets.map fun e => (e.1, redated s.clock cid e.2) := by
  simp only [redo]
  rw [foldl_keep (read := State.packets), foldl_keep (read := State.packets)]
  · rfl
  · intros; rfl
  · intros; rfl

theorem redated_held {now cid : Nat} {p : Packet} (hr : p.isRead = false) (hh : p.held = true) (hs : p.src = .core cid) :
    redated now cid p = { p with born := if now ≤ p.born + 128 ∧ p.queued = false then now else p.born } := by
  by_cases h : now ≤ p.born + 128 ∧ p.queued = false
  · rw [redated, if_pos (by simp [hr, hh, hs, h]), if_pos h]
  · rw [redated, if_neg (by simpa [hr, hh, hs] using h), if_neg h]

theorem redo_group {s : State} {cid g : Nat} (hn : (s.groupsOn cid).Nodup) (hg : g ∈ s.groupsOn cid) :
    (s.redo cid).group g = redoGroup s.clock (s.group g) := by
  simp only [redo]
  rw [foldl_keep (read := fun t => t.group g)]
  · exact foldl_modGroup_group _ _ _ hn hg
  · intros; rfl

/-! ### Recoveries -/

/-- A recovery counted, with those of the last 2^20 cycles (R359, R363). -/
def counted (s : State) (cid : Nat) : State :=
  s.modCore cid fun k =>
    { k with strikes := k.strikes + 1, strikeLog := s.clock :: k.strikeLog.filter fun c => s.clock < c + 2 ^ 20 }

/-- The recoveries of a core in the last 2^20 cycles, with one that comes now. -/
def strikesNow (s : State) (cid : Nat) : List Nat := s.clock :: (s.core cid).strikeLog.filter fun a => s.clock < a + 2 ^ 20

theorem redo_strikesNow (s : State) (cid : Nat) : (s.redo cid).strikesNow cid = s.strikesNow cid := by
  obtain ⟨_, _, _, _, _, _, e⟩ := s.redo_eq cid
  rw [e]; rfl

theorem counted_core (s : State) (cid : Nat) : (s.counted cid).core cid =
    { s.core cid with strikes := (s.core cid).strikes + 1, strikeLog := s.strikesNow cid } := by
  simp [counted, strikesNow]

theorem recovered_few {s : State} {cid : Nat} (h : (s.strikesNow cid).length ≤ 16 ∨ isSys cid = true) :
    s.recovered cid = s.counted cid := by
  have : ¬((16 < ((s.counted cid).core cid).strikeLog.length && !isSys cid) = true) := by
    rw [counted_core]; rcases h with h | h <;> simp [h]
  exact if_neg this

theorem recovered_many {s : State} {cid : Nat} (h : 16 < (s.strikesNow cid).length) (hs : isSys cid = false) :
    s.recovered cid = ((s.counted cid).fieldFail (cid % 64) (cid / 64)).settle := by
  have : (16 < ((s.counted cid).core cid).strikeLog.length && !isSys cid) = true := by
    rw [counted_core]; simp [h, hs]
  exact if_pos this

end State

/-! ### STRIKE_REPORT -/

/-- One more strike is counted on a core, which is not fenced; no register and no byte differs. -/
def Struck (cid : Nat) (s t : State) : Prop :=
  (t.core cid).strikes = (s.core cid).strikes + 1 ∧ (t.core cid).fenced = false ∧ SameRegs s t ∧ SameBytes s t

section
variable {s : State} {cid : Nat} (hf : (s.core cid).fenced = false)
include hf

theorem counted_struck {u : State} (hc : u.core cid = s.core cid) (regs : SameRegs s u) (bytes : SameBytes s u) :
    Struck cid s (u.counted cid) := by
  unfold Struck
  rw [State.counted_core, hc]
  exact ⟨rfl, hf, regs, bytes⟩

theorem exec_strikeReport_core : exec (.strikeReport (.core cid)) s = .next ((s.redo cid).recovered cid) :=
  congrArg _ (if_neg (by simp [hf]))

/-- A strike on a core that stays in service restarts what its settle buffer holds, and the counts of its groups (R362). -/
theorem strikeReport_core (few : (s.strikesNow cid).length ≤ 16 ∨ isSys cid = true) :
    Occurs (.strikeReport (.core cid)) s fun t => Struck cid s t
      ∧ (∀ k p, sget s.packets k = some p → p.isRead = false → p.held = true → p.src = .core cid →
        ∃ q, sget t.packets k = some q ∧ q.bytes = p.bytes ∧ q.held = true
          ∧ q.born = (if s.clock ≤ p.born + 128 ∧ p.queued = false then s.clock else p.born))
      ∧ ((s.groupsOn cid).Nodup → ∀ g ∈ s.groupsOn cid, (t.group g).lastStart = (s.group g).lastStart + 128
        ∧ ((s.group g).cycFrom ≤ s.clock → t.cycles g = s.cycles g) ∧ (t.group g).lastC =
        if s.clock ≤ (s.group g).lastC + 128 then (s.group g).lastC + 128 else (s.group g).lastC) := by
  have run : exec (.strikeReport (.core cid)) s = .next ((s.redo cid).counted cid) := by
    rw [exec_strikeReport_core hf, State.recovered_few (s.redo_strikesNow cid ▸ few)]
  refine ⟨_, run, ?_, ?_, ?_⟩
  · obtain ⟨_, _, _, _, _, _, e⟩ := s.redo_eq cid
    rw [e]
    exact counted_struck hf rfl (.of_eq rfl rfl rfl rfl) ⟨rfl, rfl, rfl⟩
  · intro k p hp hr hh hs
    have sent : sget ((s.redo cid).counted cid).packets k = some (State.redated s.clock cid p) := by
      show sget (s.redo cid).packets k = _
      rw [State.redo_packets, sget_mapVals s.packets fun _ => State.redated s.clock cid, hp]
      rfl
    exact ⟨_, sent, by rw [State.redated_held hr hh hs]; exact ⟨rfl, hh, rfl⟩⟩
  · intro hn g hg
    have group : ((s.redo cid).counted cid).group g = State.redoGroup s.clock (s.group g) := State.redo_group hn hg
    refine ⟨by rw [group]; rfl, fun _ => ?_, by rw [group]; rfl⟩
    have clock' : ((s.redo cid).counted cid).clock = s.clock := by
      obtain ⟨_, _, _, _, _, _, e⟩ := s.redo_eq cid
      rw [e]; rfl
    simp only [State.cycles, group, clock', State.redoGroup]
    have : s.clock ≤ Nat.max (s.group g).cycFrom s.clock := Nat.le_max_right _ _
    cases (s.group g).cycRun <;> simp [Config.settleCycles]; omega

/-- A strike on a sequencer has its instruction issued again (R362). -/
theorem strikeReport_seqr (few : (s.strikesNow cid).length ≤ 16 ∨ isSys cid = true) {q : Nat}
    (hq : (sget s.seqrs q).isSome = true) (hc : (s.team (s.seqr q).tid).core = cid) :
    Occurs (.strikeReport (.seqr cid q)) s fun t => Struck cid s t ∧ (t.seqr q).lastC = s.clock ∧ t.packets = s.packets := by
  let u := s.modSeqr q fun x => { x with lastC := s.clock }
  have run : exec (.strikeReport (.seqr cid q)) s = .next (u.counted cid) := by
    rw [← State.recovered_few (s := u) few]
    exact if_pos (by simp [hf, hq, hc])
  exact ⟨_, run, counted_struck hf rfl (.of_eq rfl rfl rfl rfl) ⟨rfl, rfl, rfl⟩, by simp [State.counted, u], rfl⟩

/-- More than 16 strikes within 2^20 cycles fence the core (R363). -/
theorem strikeReport_fences (many : 16 < (s.strikesNow cid).length) (hs : isSys cid = false)
    (hp : ((s.rowTable (cid / 64)).getD (cid % 64) none).isSome = true) :
    Happens (.strikeReport (.core cid)) s fun t => (t.core cid).fenced = true := by
  obtain ⟨px, hp⟩ := Option.isSome_iff_exists.mp hp
  have table : (((s.redo cid).counted cid).rowTable (cid / 64)).getD (cid % 64) none = some px := by
    obtain ⟨_, _, _, _, _, _, e⟩ := s.redo_eq cid
    rw [e]; exact hp
  have small : cid / 64 < 32 := by
    have : ¬2048 ≤ cid := of_decide_eq_false hs
    omega
  refine ⟨((s.redo cid).counted cid).fieldFail (cid % 64) (cid / 64), ?_, ?_⟩
  · rw [exec_strikeReport_core hf, State.recovered_many (s.redo_strikesNow cid ▸ many) hs]
  · have := (State.fieldFail_fences (Nat.mod_lt cid (by decide)) small table).1
    rwa [cidOf_pos] at this

end

/-! ### CORE_FIELD_FAILURE -/

section
variable {s : State} {x y px : Nat} {base : List (Option Nat)} {rs : List Nat} (hx : x < 64) (hy : y < 32)
  (hp : (s.rowTable y).getD x none = some px) (hf : (s.core (cidOf x y)).fenced = false) (hn : s.nextTable y = (base, rs))
include hx hy hp hf hn

/-- A core that fails is fenced, and its row takes the reserve (R19). -/
theorem coreFieldFailure_reserve {r : Nat} (hb : px ∈ nonVoid base) (hr : takeReserve px rs = some r) :
    Happens (.coreFieldFailure x y) s fun t => (t.core (cidOf x y)).fenced = true ∧ (t.core (cidOf x y)).pipe0 = none
      ∧ (t.core (cidOf x y)).pipe1 = none ∧ t.dev.faultLog = s.dev.faultLog ++ [(0, y, px)] ∧ SameRegs s t ∧ SameBytes s t
      ∧ ∃ b, (t.dev.rebuilds = s.dev.rebuilds ++ [b] ∧ b.row = y ∧ b.failed = px) ∧ b.col = x
        ∧ nonVoid b.table = insertAsc r ((nonVoid base).erase px) ∧ b.reserves = rs.erase r ∧ b.shrink = none := by
  refine ⟨s.fieldFail x y, rfl, ?_⟩
  obtain ⟨cx, cl, e⟩ := (s.fenceOff (cidOf x y) y px).pushRebuild_eq _
  rw [State.fieldFail_reserve hx hy hp hf hn hr, e]
  have core := s.fenceOff_core (cidOf x y) y px
  exact ⟨congrArg Core.fenced core, congrArg Core.pipe0 core, congrArg Core.pipe1 core, rfl, .of_eq rfl rfl rfl rfl,
    ⟨rfl, rfl, rfl⟩, _, ⟨rfl, rfl, rfl⟩, rfl, nonVoid_replaced r hb, rfl, rfl⟩

/-- With no reserve left, and nobody on its column, the failed position becomes a void (R20). -/
theorem coreFieldFailure_void (hr : rs = []) (ho : s.ownerOf x y = none) :
    Happens (.coreFieldFailure x y) s fun t => (t.core (cidOf x y)).fenced = true
      ∧ ∃ b, (t.dev.rebuilds = s.dev.rebuilds ++ [b] ∧ b.row = y ∧ b.failed = px)
        ∧ b.table = base.set (base.idxOf (some px)) none ∧ b.shrink = none := by
  subst hr
  refine ⟨s.fieldFail x y, rfl, ?_⟩
  have owner : (s.fenceOff (cidOf x y) y px).ownerOf x y = none := ho
  rw [State.fieldFail_shrink hx hy hp hf hn rfl]
  simp only [State.shrinkRow, owner, State.dropColumn]
  obtain ⟨cx, cl, e⟩ := ((s.fenceOff (cidOf x y) y px).logFault 1 y (base.idxOf (some px))).pushRebuild_eq _
  rw [e]
  exact ⟨congrArg Core.fenced (s.fenceOff_core (cidOf x y) y px), _, ⟨rfl, rfl, rfl⟩, rfl, rfl⟩

end

end Sys2Proof.Machine
end

section
/-! PROOF. Power limits, array errors, failed channels and routers, rebuilds, and the in-field test (R24, R321, R324, R364 to
R367). -/

namespace Sys2Proof.Machine

/-! ### Array errors and channels (R321, R364) -/

namespace State

theorem poisoned_one (s : State) (a : Nat) :
    s.poisoned a 1 = (s.poison.contains (canonPa a / 32) || s.dev.failedChans.contains (homeOf a)) := by
  simp [poisoned]

/-- A poisoned sector of memory reads poisoned, and what was poisoned stays so. -/
theorem poisonAt_memory {s : State} {n : Nat} (hn : n < 2 ^ 52) (hb : s.backed n = true) :
    SameBytes s (s.poisonAt n) ∧ (s.poisonAt n).poisoned n 1 = true
      ∧ ∀ a, s.poisoned a 1 = true → (s.poisonAt n).poisoned a 1 = true := by
  by_cases hp : s.poison.contains (canonPa n / 32) = true
  · have same : s.poisonAt n = s := by simp only [poisonAt, hn, hp, if_true, Bool.true_or]
    rw [same, poisoned_one, hp]
    exact ⟨⟨rfl, rfl, rfl⟩, rfl, fun _ h => h⟩
  · have more : s.poisonAt n = { s with poison := canonPa n / 32 :: s.poison } := by
      simp only [poisonAt, hn, hb, hp, if_true]; rfl
    rw [more]
    refine ⟨⟨rfl, rfl, rfl⟩, by simp [poisoned_one], fun a h => ?_⟩
    rw [poisoned_one] at h ⊢
    simp only [List.contains_cons, Bool.or_eq_true] at h ⊢
    tauto

theorem poisonAt_scratch {s : State} {n : Nat} (lo : 2 ^ 52 ≤ n) (hi : n < 2 ^ 53) :
    SameBytes s (s.poisonAt n) ∧ (n - 2 ^ 52) / 32 ∈ (s.poisonAt n).scrPoison := by
  simp only [poisonAt, if_neg (Nat.not_lt.mpr lo), hi, if_true]
  split
  · exact ⟨⟨rfl, rfl, rfl⟩, List.contains_iff_mem.mp ‹_›⟩
  · exact ⟨⟨rfl, rfl, rfl⟩, List.mem_cons_self⟩

theorem poisonAt_array {s : State} {n : Nat} (lo : 2 ^ 53 ≤ n) :
    SameBytes s (s.poisonAt n) ∧ n / 32 ∈ (s.poisonAt n).arrPoison := by
  simp only [poisonAt, if_neg (show ¬n < 2 ^ 52 by omega), if_neg (Nat.not_lt.mpr lo)]
  split
  · exact ⟨⟨rfl, rfl, rfl⟩, List.contains_iff_mem.mp ‹_›⟩
  · exact ⟨⟨rfl, rfl, rfl⟩, List.mem_cons_self⟩

/-- A changed bit of a packet in flight is noted, or, changed once more, no longer is (R321). -/
theorem flipBit_packet {s : State} {k b : Nat} {p : Packet} (hp : sget s.packets k = some p) (hh : p.held = false)
    (hb : b < p.wireBits) (hn : p.flips.Nodup) :
    ∃ q, sget (s.flipBit k b).packets k = some q ∧ { q with flips := p.flips } = p ∧ (b ∈ q.flips ↔ b ∉ p.flips)
      ∧ ∀ a, a ≠ b → (a ∈ q.flips ↔ a ∈ p.flips) := by
  have flipped : sget (s.flipBit k b).packets k =
      some { p with flips := if p.flips.contains b then p.flips.erase b else b :: p.flips } := by
    simp only [flipBit, hp, hh, Nat.not_le.mpr hb, decide_false, Bool.or_self, Bool.false_eq_true, if_false, sget_sput, if_true]
  refine ⟨_, flipped, rfl, ?_⟩
  by_cases h : b ∈ p.flips
  · simp only [List.contains_iff_mem.mpr h, if_true]
    exact ⟨by simp [hn.mem_erase_iff, h], fun a ha => by simp [hn.mem_erase_iff, ha]⟩
  · simp only [if_neg (fun c => h (List.contains_iff_mem.mp c))]
    exact ⟨by simp [h], fun a ha => by simp [ha]⟩

/-- A failed channel is noted as such; but for that only the fault store and the reports change. -/
theorem channelFail_eq {s : State} {n : Nat} (hn : n < 2048) : ∃ cs l o, n ∈ cs
    ∧ s.channelFail n = { s with dev := { s.dev with failedChans := cs, faultLog := l }, out := o } := by
  by_cases h : s.dev.failedChans.contains n = true
  · exact ⟨s.dev.failedChans, s.dev.faultLog, s.out, List.contains_iff_mem.mp h, by simp only [channelFail, h, Bool.or_true, if_true]⟩
  · refine ⟨n :: s.dev.failedChans, s.dev.faultLog ++ [(2, n, 0)], .report "Fjondan: channel failed" :: s.out, List.mem_cons_self, ?_⟩
    rw [channelFail, if_neg (by simp only [h, Nat.not_le.mpr hn]; simp)]
    rfl

end State

theorem arrayError_uncorrectable (s : State) {n : Nat} (hn : n < wireBase) :
    exec (.arrayUncorrectableError (.uncorrectable n)) s = .next (s.poisonAt n) := by
  simp only [exec, execArrayUncorrectableError, if_neg (Nat.not_le.mpr hn)]

theorem arrayError_corrected (s : State) {n : Nat} (hn : n < wireBase) :
    exec (.arrayUncorrectableError (.corrected n)) s = .next (s.modDev fun d => { d with errorLog := d.errorLog ++ [n] }) := by
  simp only [exec, execArrayUncorrectableError, if_neg (Nat.not_le.mpr hn)]

/-- An error whose argument names a bit on a link changes that bit, whatever else it says. -/
theorem arrayError_wire (s : State) {n k b : Nat} {x : ArrayError} (hx : x = .corrected n ∨ x = .uncorrectable n)
    (hn : n = wireBase + k * 2 ^ 16 + b) (hb : b < 2 ^ 16) :
    exec (.arrayUncorrectableError x) s = .next (s.flipBit k b) := by
  have on : wireBase ≤ n := by omega
  have pkt : (n - wireBase) / 2 ^ 16 = k := by omega
  have bit : (n - wireBase) % 2 ^ 16 = b := by omega
  rcases hx with rfl | rfl <;> simp only [exec, execArrayUncorrectableError, if_pos on, pkt, bit]

theorem homeChannelFailure_poisons (s : State) {n : Nat} (hn : n < 2048) :
    Occurs (.homeChannelFailure n) s fun t => SameBytes s t ∧ n ∈ t.dev.failedChans ∧ ∀ a, homeOf a = n → t.poisoned a 1 = true := by
  refine ⟨s.channelFail n, rfl, ?_⟩
  obtain ⟨cs, l, o, hc, e⟩ := State.channelFail_eq (s := s) hn
  rw [e]
  exact ⟨⟨rfl, rfl, rfl⟩, hc, fun a ha => by simp [State.poisoned_one, ha, hc]⟩

/-! ### Routers (R324) -/

/-- The machine after a router's death, but for the channel it takes with it. -/
def State.routerGone (s : State) (px py : Nat) : State :=
  let s := s.modDev fun d =>
    { d with
      deadRouters := (px, py) :: d.deadRouters
      detours := d.detours ++ (aroundRouter px py).map fun p => (p, (px, py)) }
  { s with packets := s.packets.map fun e => (e.1, { e.2 with esc := e.2.esc || (!e.2.held && s.routeDead e.2.src e.2.dst) }) }

/-- Packets in flight whose route meets a dead router are on ESC (R324). -/
theorem routerGone_esc {s : State} {px py : Nat} {e : Nat × Packet} (he : e ∈ (s.routerGone px py).packets)
    (hh : e.2.held = false) (hr : (s.routerGone px py).routeDead e.2.src e.2.dst = true) : e.2.esc = true := by
  obtain ⟨e, -, rfl⟩ := List.mem_map.mp he
  exact Bool.or_eq_true_iff.mpr (.inr (Bool.and_eq_true_iff.mpr ⟨by simpa using hh, hr⟩))

/-- A dead router takes its position's channel with it, and packets whose route meets it go on ESC (R324). -/
theorem routerDeath_occurs (s : State) {px py : Nat} (hx : px < 68) (hy : py < 32) (hd : (px, py) ∉ s.dev.deadRouters) :
    Occurs (.routerDeath px py) s fun t => (px, py) ∈ t.dev.deadRouters ∧ SameRegs s t ∧ SameBytes s t
      ∧ (let col := (sgetD s.dev.made py ((List.range 64).map some)).idxOf (some px)
        col < 64 → py * 64 + col ∈ t.dev.failedChans)
      ∧ ∀ e ∈ t.packets, e.2.held = false → t.routeDead e.2.src e.2.dst = true → e.2.esc = true := by
  let col := (sgetD s.dev.made py ((List.range 64).map some)).idxOf (some px)
  let u := s.routerGone px py
  have run : exec (.routerDeath px py) s = .next (if col < 64 then u.channelFail (py * 64 + col) else u) := by
    simp only [exec, execRouterDeath]
    rw [if_neg (by simp [Nat.not_le.mpr hx, Nat.not_le.mpr hy, hd])]
    rfl
  refine ⟨_, run, ?_⟩
  by_cases hcol : col < 64
  · obtain ⟨cs, l, o, hc, e⟩ := State.channelFail_eq (s := u) (n := py * 64 + col) (by omega)
    rw [if_pos hcol, e]
    exact ⟨List.mem_cons_self, .of_eq rfl rfl rfl rfl, ⟨rfl, rfl, rfl⟩, fun _ => hc, fun e he hh hr => routerGone_esc he hh hr⟩
  · rw [if_neg hcol]
    exact ⟨List.mem_cons_self, .of_eq rfl rfl rfl rfl, ⟨rfl, rfl, rfl⟩, fun h => absurd h hcol,
      fun e he hh hr => routerGone_esc he hh hr⟩

theorem deliverable_sget {s : State} {k : Nat} {p : Packet} (h : s.deliverable k = some p) : sget s.packets k = some p := by
  unfold State.deliverable at h
  split at h
  · cases h
  · split at h
    · rwa [← h]
    · cases h

/-- The head of a stream held there for 2048 cycles goes on ESC (R324). -/
theorem escTimeout_due {s : State} {k : Nat} {p : Packet} (hp : s.deliverable k = some p) (due : p.since + 2048 ≤ s.clock) :
    Occurs (.escTimeout k) s fun t =>
      (sget t.packets k).map Packet.esc = some true ∧ { t with packets := s.packets } = s := by
  simp only [Occurs, exec, execEscTimeout, hp]
  refine ⟨_, rfl, ?_⟩
  split
  · exact ⟨by simp [sget_sput], rfl⟩
  next h => exact ⟨by simpa [deliverable_sget hp, due] using h, rfl⟩

theorem escTimeout_early {s : State} {k : Nat} {p : Packet} (hp : s.deliverable k = some p) (early : s.clock < p.since + 2048) :
    exec (.escTimeout k) s = .next s := by
  simp [exec, execEscTimeout, hp, Nat.not_le.mpr early]

/-! ### Rebuilds (R19, R20) -/

section
variable {α : Type} (key : Nat → Nat) (v : Nat → α)

theorem sget_foldl_sput_other (l : List Nat) (m : Store α) {k : Nat} (h : ∀ c ∈ l, k ≠ key c) :
    sget (l.foldl (fun m c => sput m (key c) (v c)) m) k = sget m k := by
  induction l generalizing m with
  | nil => rfl
  | cons c l ih => rw [List.foldl_cons, ih _ fun d hd => h d (by simp [hd]), sget_sput, if_neg (h c (by simp))]

theorem sget_foldl_sput_mem (inj : ∀ c d, key c = key d → c = d) (l : List Nat) (m : Store α) {c : Nat} (h : c ∈ l) :
    sget (l.foldl (fun m c => sput m (key c) (v c)) m) (key c) = some (v c) := by
  induction l generalizing m with
  | nil => cases h
  | cons d l ih =>
    rw [List.foldl_cons]
    by_cases hc : c ∈ l
    · exact ih _ hc
    · obtain rfl : c = d := (List.mem_cons.mp h).resolve_right hc
      rw [sget_foldl_sput_other key v l _ fun d hd e => hc ((inj c d e).symm ▸ hd), sget_sput, if_pos rfl]

end

namespace State

/-- Choosing the sectors lost uses free choices alone. -/
theorem lostSectors_eq (s : State) (r : Rebuild) : ∃ n, (s.lostSectors r).2 = { s with free := n } := by
  have run : ∀ (l : List Nat) (p : List Nat × State), ∃ n, (l.foldl (fun (p : List Nat × State) x =>
      let (b, s) := p.2.freeBool
      (if b then p.1 ++ [x] else p.1, s)) p).2 = { p.2 with free := n } := by
    intro l
    induction l with
    | nil => exact fun p => ⟨p.2.free, rfl⟩
    | cons x l ih => intro p; obtain ⟨n, e⟩ := ih _; exact ⟨n, e⟩
  exact run _ _

/-- A rebuild gives the moving columns their new cores and installs the row's table and reserves; but for scratchpads and tile
registers, which go with the cores, nothing else of the machine changes. -/
theorem rebuildRow_eq (s : State) (r : Rebuild) : ∃ n scr tiles lists poison, s.rebuildRow r = { s with
    free := n, scratch := scr, tiles := tiles, tileLists := lists, scrPoison := poison
    cores := (s.movingCols r).foldl (fun m c => sput m (cidOf c r.row) (s.movedCore r c)) s.cores
    dev := { s.dev with remap := sput s.dev.remap r.row r.table, reserves := sput s.dev.reserves r.row r.reserves
                        rebuilds := s.dev.rebuilds.erase r } } := by
  unfold rebuildRow
  dsimp only
  split
  · obtain ⟨n, e⟩ := s.lostSectors_eq r
    rw [e]
    exact ⟨n, _, _, _, _, rfl⟩
  · exact ⟨s.free, _, _, _, _, rfl⟩

end State

section
variable {s : State} {row : Nat} {b : Rebuild} (first : (s.dev.rebuilds.find? fun r => r.row = row) = some b)
include first

/-- Until the positions of a rebuild are empty, what stands there is vacated (R19, R20). -/
theorem rowRemapRebuild_waits (hf : s.rebuildFree b = false) : Occurs (.rowRemapRebuild row) s fun t =>
    t = s.vacateFor b ∧ t.dev = s.dev ∧ SameRegs s t ∧ SameBytes s t := by
  refine ⟨s.vacateFor b, by simp [exec, execRowRemapRebuild, first, hf], rfl, ?_⟩
  obtain ⟨cx, cl, e⟩ := s.vacateFor_eq b
  rw [e]
  exact ⟨rfl, .of_eq rfl rfl rfl rfl, rfl, rfl, rfl⟩

/-- Once they are, the row has its new table, and the moving columns their new cores (R19). -/
theorem rowRemapRebuild_made (hf : s.rebuildFree b = true) (hs : b.shrink = none) : Occurs (.rowRemapRebuild row) s fun t =>
    t.rowTable row = b.table ∧ t.rowReserves row = b.reserves ∧ t.dev.rebuilds = s.dev.rebuilds.erase b ∧ SameRegs s t ∧ t.mem = s.mem
      ∧ (∀ c ∈ s.movingCols b, t.core (cidOf c row) = s.movedCore b c)
      ∧ ∀ k, (∀ c ∈ s.movingCols b, k ≠ cidOf c row) → t.core k = s.core k := by
  obtain rfl : b.row = row := by simpa using List.find?_some first
  refine ⟨s.rebuildRow b, by simp [exec, execRowRemapRebuild, first, hf, hs], ?_⟩
  obtain ⟨n, scr, tiles, lists, poison, e⟩ := s.rebuildRow_eq b
  rw [e]
  refine ⟨by simp [State.rowTable], by simp [State.rowReserves], rfl, .of_eq rfl rfl rfl rfl, rfl, fun c hc => ?_, fun k hk => ?_⟩
  · simp only [State.core, sgetD]
    rw [sget_foldl_sput_mem (fun c => cidOf c b.row) (s.movedCore b) (fun _ _ => cidOf_inj) _ _ hc]
    rfl
  · simp only [State.core, sgetD]
    rw [sget_foldl_sput_other (fun c => cidOf c b.row) (s.movedCore b) _ _ hk]

end

/-! ### The in-field test (R365 to R367) -/

theorem testWindowStart_occurs {s : State} (hst : s.dev.st = .service) (hn : s.dev.testNext ≤ s.clock) (hl : s.dev.testLeft = []) :
    let park : Nat := if s.dev.testWindows = [] then 0 else (s.dev.testPark + 1) % 128
    Occurs .testWindowStart s fun t =>
      t.dev.testPark = park ∧ t.dev.testNext = s.clock + s.dev.testInterval ∧ { t with dev := s.dev } = s
        ∧ ∀ c, c ∈ t.dev.testLeft ↔ (∃ p ∈ rectCells (parkRect park), c = cidOf p.1 p.2) ∧ (s.core c).fenced = false := by
  have due : (s.dev.st != .service || s.clock < s.dev.testNext || !s.dev.testLeft.isEmpty) = false := by
    simp [hst, hl, Nat.not_lt.mpr hn]
  simp only [Occurs, exec, execTestWindowStart, due, Bool.false_eq_true, if_false]
  refine ⟨_, rfl, by simp [State.modDev], rfl, rfl, fun c => ?_⟩
  simp [State.modDev, eq_comm (b := c)]

section
variable {s : State} {cid : Nat}

theorem coreTestStart_empty {l : List Nat} (hl : s.dev.testLeft = cid :: l) (ht : (s.core cid).testing = false)
    (he : s.queuesEmpty cid = true) : Occurs (.coreTestStart cid) s fun t =>
      (t.core cid).testing = true ∧ t.dev.testFrom = s.clock ∧ SameRegs s t ∧ SameBytes s t ∧ ∀ c, c ≠ cid → t.core c = s.core c := by
  refine ⟨(s.modCore cid fun k => { k with testing := true }).modDev fun d => { d with testFrom := s.clock }, ?_,
    by simp, rfl, .of_eq rfl rfl rfl rfl, ⟨rfl, rfl, rfl⟩, fun c hc => by simp [hc]⟩
  simp [exec, execCoreTestStart, hl, ht, he]

theorem coreTestStart_waits {l : List Nat} (hl : s.dev.testLeft = cid :: l) (ht : (s.core cid).testing = false)
    (he : s.queuesEmpty cid = false) (hc : s.clock < s.dev.testFrom + 2 ^ 22) : exec (.coreTestStart cid) s = .next s := by
  simp only [exec, execCoreTestStart, hl, ht, he, Nat.not_le.mpr hc]
  simp

theorem coreTestDone_early (hc : s.clock < s.dev.testFrom + 2 ^ 16) (ok : Bool) : exec (.coreTestDone cid ok) s = .next s := by
  simp only [exec, execCoreTestDone, hc, decide_true, Bool.or_true, Bool.true_or, if_true]

/-- A core that passes its test goes on, and the next core's turn comes (R365). -/
theorem coreTestDone_passes (ht : (s.core cid).testing = true) (hc : s.dev.testFrom + 2 ^ 16 ≤ s.clock) :
    Occurs (.coreTestDone cid true) s fun t => (t.core cid).testing = false ∧ (t.core cid).fenced = (s.core cid).fenced
      ∧ t.dev.testLeft = s.dev.testLeft.erase cid ∧ SameRegs s t ∧ SameBytes s t := by
  simp only [Occurs, exec, execCoreTestDone, ht, Nat.not_lt.mpr hc]
  exact ⟨_, rfl, by simp, by simp, rfl, .of_eq rfl rfl rfl rfl, rfl, rfl, rfl⟩

/-- A core that fails it is fenced (R367). -/
theorem coreTestDone_fails (ht : (s.core cid).testing = true) (hc : s.dev.testFrom + 2 ^ 16 ≤ s.clock)
    (hh : (s.core cid).hosted = []) (hs : cid < 2048) (hp : ((s.rowTable (cid / 64)).getD (cid % 64) none).isSome = true) :
    Happens (.coreTestDone cid false) s fun t =>
      (t.core cid).testing = false ∧ (t.core cid).fenced = true ∧ t.dev.testFailed = true := by
  obtain ⟨px, hp⟩ := Option.isSome_iff_exists.mp hp
  have nobody : ∀ n, s.hostedSince cid n = [] := fun n => by simp [State.hostedSince, hh]
  let u := (s.modCore cid fun k => { k with testing := false }).modDev fun d =>
    { d with testLeft := d.testLeft.erase cid, testFrom := s.clock, testFailed := d.testFailed || true }
  have core : u.core cid = { s.core cid with testing := false } := by simp [u]
  refine ⟨u.fieldFail (cid % 64) (cid / 64), ?_, ?_⟩
  · simp only [exec, execCoreTestDone, ht, Nat.not_lt.mpr hc, nobody, State.taintedOf]
    rfl
  · have := State.fieldFail_fences (s := u) (Nat.mod_lt cid (by decide)) (by omega : cid / 64 < 32) hp
    rw [cidOf_pos, core] at this
    obtain ⟨fenced, testing, failed⟩ := this
    exact ⟨testing, fenced, failed.trans (Bool.or_true _)⟩

end

end Sys2Proof.Machine
end

section
open Sys2Proof.Machine

/-- Settles O57: one lemma for each event and outcome, over what a failure in the field, a strike, a rebuild and an error leave
of the state. -/
theorem strikesFailuresAndInFieldTest : Obligations.StrikesFailuresAndInFieldTest := by
  refine ⟨⟨fun s cid n => ⟨?_, ?_, ?_, ?_, ?_, ?_, ?_, ?_, ?_, ?_⟩, fun s px py k p => ⟨?_, ?_, ?_⟩, ?_, ?_⟩, fun s cid l => ⟨?_, ?_, ?_, ?_, ?_, ?_⟩⟩
  · exact fun hf few => strikeReport_core hf few
  · exact fun q hf few hq hc => strikeReport_seqr hf few hq hc
  · exact fun hf many hs hp => strikeReport_fences hf many hs hp
  · exact ⟨_, rfl, (Nat.add_assoc _ _ _).symm, rfl, rfl⟩
  · exact fun hn hb => ⟨_, arrayError_uncorrectable s (hn.trans (by decide)), State.poisonAt_memory hn hb⟩
  · exact fun lo hi => ⟨_, arrayError_uncorrectable s (hi.trans (by decide)), State.poisonAt_scratch lo hi⟩
  · exact fun lo hi => ⟨_, arrayError_uncorrectable s hi, State.poisonAt_array lo⟩
  · exact fun hn => ⟨_, arrayError_corrected s hn, rfl, rfl⟩
  · exact fun k b p x hx hn hb hp hh hw hd => ⟨_, arrayError_wire s hx hn hb, State.flipBit_packet hp hh hw hd⟩
  · exact homeChannelFailure_poisons s
  · exact routerDeath_occurs s
  · exact escTimeout_due
  · exact escTimeout_early
  · intro s x y px r base rs cid left hx hy hp hf hn
    refine ⟨fun hb hr => coreFieldFailure_reserve hx hy hp hf hn hb ?_, coreFieldFailure_void hx hy hp hf hn⟩
    rcases hr with ⟨hr, lt, near⟩ | ⟨hr, lt, near⟩
    · exact takeReserve_east hr lt near
    · exact takeReserve_west hr lt near
  · exact fun s row b first => ⟨rowRemapRebuild_waits first, rowRemapRebuild_made first⟩
  · exact testWindowStart_occurs
  · exact coreTestStart_empty
  · exact coreTestStart_waits
  · exact fun _ hc ok => coreTestDone_early hc ok
  · exact coreTestDone_passes
  · exact coreTestDone_fails

end

section
/-! PROOF. What leaves the device or goes on its fabric changes no register, no byte and nothing of the module (R316, R323,
R325, R369). -/

namespace Sys2Proof.Machine

/-- The module, the registers and the bytes of a state alone. -/
def State.kept (s : State) : State :=
  { State.reset with
    dev := s.dev, vreg := s.vreg, sreg := s.sreg, kreg := s.kreg, mreg := s.mreg
    mem := s.mem, scratch := s.scratch, tiles := s.tiles }

/-- The module, the registers and the bytes stay as they are, and what has left the device has left. -/
structure SendsOnly (s t : State) : Prop where
  kept : t.kept = s.kept
  out : s.out ⊆ t.out

namespace SendsOnly

variable {s t u : State}

theorem refl (s : State) : SendsOnly s s := ⟨rfl, fun _ h => h⟩

theorem trans (h : SendsOnly s t) (g : SendsOnly t u) : SendsOnly s u := ⟨g.kept.trans h.kept, fun _ o => g.out (h.out o)⟩

/-- What only sends after a change of something else only sends. -/
theorem after (h : SendsOnly t u) (hk : t.kept = s.kept) (ho : t.out = s.out) : SendsOnly s u :=
  ⟨h.kept.trans hk, fun _ o => h.out (ho.symm ▸ o)⟩

theorem dev (h : SendsOnly s t) : t.dev = s.dev := (congrArg State.dev h.kept :)

theorem sameRegs (h : SendsOnly s t) : SameRegs s t :=
  .of_eq (congrArg State.vreg h.kept :) (congrArg State.sreg h.kept :) (congrArg State.kreg h.kept :) (congrArg State.mreg h.kept :)

theorem sameBytes (h : SendsOnly s t) : SameBytes s t :=
  ⟨(congrArg State.mem h.kept :), (congrArg State.scratch h.kept :), (congrArg State.tiles h.kept :)⟩

theorem foldl {β : Type} (g : State → β → State) (l : List β) (step : ∀ t q, SendsOnly t (g t q)) (s : State) :
    SendsOnly s (l.foldl g s) := by
  induction l generalizing s with
  | nil => exact refl s
  | cons q l ih => exact (step s q).trans (ih _)

theorem emit (s : State) (o : Out) : SendsOnly s (s.emit o) := ⟨rfl, List.subset_cons_self _ _⟩

theorem bringDown (s : State) (p : Nat) : SendsOnly s (s.bringDown p) := by
  have kill : ∀ (s : State) c, SendsOnly s (s.requestKill c { kind := 6, launch := 0, reason := 0, gslot := 0, cid := 0, body := [] }) :=
    fun _ _ => ⟨rfl, fun _ h => h⟩
  have hold : ∀ (s : State) n, SendsOnly s (s.modCore (sysBase + n) fun k => { k with held := true }) :=
    fun _ _ => ⟨rfl, fun _ h => h⟩
  exact ((foldl _ _ kill s).trans (foldl _ _ hold _)).trans (emit _ _)

theorem headerError (s : State) (tag : Nat) : SendsOnly s (s.headerError tag) := by
  unfold State.headerError
  split
  · exact emit _ _
  · exact bringDown _ _

theorem nextSeq (s : State) (src dst : Endpoint) (vc : Nat) : SendsOnly s (s.nextSeq src dst vc).2 := by
  unfold State.nextSeq
  split <;> exact ⟨rfl, fun _ h => h⟩

theorem pressurize (s : State) (e : Endpoint) : SendsOnly s (s.pressurize e) := by
  unfold State.pressurize
  split
  · dsimp only
    split
    · exact ⟨rfl, fun _ h => h⟩
    · split
      · exact ⟨rfl, fun _ h => h⟩
      · exact refl s
  · exact refl s

theorem packets (s : State) (ps : Store Packet) : SendsOnly s { s with packets := ps } := ⟨rfl, fun _ h => h⟩

theorem inject (s : State) (k : Nat) : SendsOnly s (s.inject k) := by
  unfold State.inject
  split
  · exact refl s
  · split
    · exact (packets s _).trans (headerError _ _)
    · split
      · exact refl s
      · exact ((nextSeq s _ _ _).trans (packets _ _)).trans (pressurize _ _)

theorem sendNow (s : State) (p : Packet) : SendsOnly s (s.sendNow p) := by
  refine foldl _ _ (fun _ _ => ?_) s
  exact (inject _ _).after rfl rfl

theorem noteEsn (s : State) (tid esn : Nat) : SendsOnly s (s.noteEsn tid esn) := by
  unfold State.noteEsn
  dsimp only
  split
  · exact refl s
  · exact ⟨rfl, fun _ h => h⟩

theorem leave (s : State) (team : Option Nat) (o : Out) : SendsOnly s (s.leave team o) := by
  cases team with
  | none => exact emit s o
  | some tid => exact ((noteEsn _ tid _).trans (emit _ o)).after rfl rfl

theorem sendCopy (s : State) (k : Nat) : SendsOnly s (s.sendCopy k) := by
  unfold State.sendCopy
  split
  · split
    · exact refl s
    · dsimp only
      split
      · exact (leave _ _ _).after rfl rfl
      · exact ((leave _ _ _).trans (sendNow _ _)).after rfl rfl
  · exact refl s

end SendsOnly

namespace State

theorem mem_out_leave (s : State) (team : Option Nat) (o : Out) : o ∈ (s.leave team o).out := by
  cases team <;> exact List.mem_cons_self

/-- What leaves in order has left. -/
theorem mem_out_leaves {l : List ((Nat × Nat × Nat) × Option Nat × Out)} {p : (Nat × Nat × Nat) × Option Nat × Out} (h : p ∈ l)
    (s : State) : p.2.2 ∈ (l.foldl (fun s p => s.leave p.2.1 p.2.2) s).out := by
  induction l generalizing s with
  | nil => cases h
  | cons q l ih =>
    rcases List.mem_cons.mp h with rfl | h
    · exact (SendsOnly.foldl _ l (fun _ _ => .leave _ _ _) _).out (mem_out_leave s _ _)
    · exact ih h _

/-- A port that has become ready takes from the queue what its bundle lets leave, and nothing else of the module, of registers
or of bytes changes. -/
theorem flushPorts_sendsOnly (s : State) :
    SendsOnly (s.modDev fun v => { v with ports := v.ports.filter fun p => !s.bundleUp p.1 }) s.flushPorts :=
  (SendsOnly.foldl _ _ (fun _ _ => .leave _ _ _) _).trans (.foldl _ _ .sendCopy _)

theorem mem_out_flushPorts {s : State} {p : (Nat × Nat × Nat) × Option Nat × Out} (h : p ∈ s.dev.ports)
    (up : s.bundleUp p.1 = true) : p.2.2 ∈ s.flushPorts.out :=
  (SendsOnly.foldl _ (skeys _) .sendCopy _).out (mem_out_leaves (List.mem_filter.mpr ⟨h, up⟩) _)

/-- Where nothing waits, nothing leaves. -/
theorem flushPorts_idle {s : State} (hp : s.dev.ports = []) (hc : s.copies = []) : s.flushPorts = s := by
  have none : (s.modDev fun v => { v with ports := v.ports.filter fun p => !s.bundleUp p.1 }) = s := by
    simp only [modDev, hp, List.filter_nil]
    rw [← hp]
  simp only [flushPorts, none, hp, hc, List.filter_nil, List.foldl_nil, skeys, List.map_nil]

end State

end Sys2Proof.Machine
end

section
/-! PROOF. Module states, images and readiness (R16, R21, R57, R191, R343, R364, R368 to R371, R373). -/

namespace Sys2Proof.Machine

/-! ### Module states (R368) -/

namespace State

/-- A summary told, or found unchanged, adds at most to what has left the device. -/
theorem tellReady_eq (old s : State) : ∃ o, old.tellReady s = { s with out := o } := by
  unfold tellReady
  split
  · exact ⟨s.out, rfl⟩
  · exact ⟨_, rfl⟩

theorem tellReady_sendsOnly (old s : State) : SendsOnly s (old.tellReady s) := by
  unfold tellReady
  split
  · exact .refl s
  · exact (SendsOnly.emit _ _).trans (.emit _ _)

/-- A summary that differs is reported, with an interrupt to PF0 (R369, R380). -/
theorem tellReady_tells {old s : State} (h : (old.tellReady s).readiness ≠ old.readiness) :
    .readiness (old.tellReady s).readiness ∈ (old.tellReady s).out ∧ .irq 0 1 ∈ (old.tellReady s).out := by
  unfold tellReady at h ⊢
  split
  next same => exact absurd same (by rwa [if_pos same] at h)
  · exact ⟨List.mem_cons_of_mem _ List.mem_cons_self, List.mem_cons_self⟩

/-- Entering a module state changes it, and tells of it. -/
theorem enterFrom_eq (old s : State) (st : ModState) : ∃ o, old.enterFrom s st = { s with dev := { s.dev with st := st }, out := o } :=
  tellReady_eq _ _

theorem enterFrom_tells {old s : State} {st : ModState} (h : (old.enterFrom s st).readiness ≠ old.readiness) :
    .readiness (old.enterFrom s st).readiness ∈ (old.enterFrom s st).out ∧ .irq 0 1 ∈ (old.enterFrom s st).out :=
  tellReady_tells h

theorem enter_eq (s : State) (st : ModState) : ∃ o, s.enter st = { s with dev := { s.dev with st := st }, out := o } :=
  enterFrom_eq s s st

@[simp] theorem enter_dev (s : State) (st : ModState) : (s.enter st).dev = { s.dev with st := st } := by
  obtain ⟨o, e⟩ := s.enter_eq st
  rw [e]

@[simp] theorem enter_core (s : State) (st : ModState) (c : Nat) : (s.enter st).core c = s.core c := by
  obtain ⟨o, e⟩ := s.enter_eq st
  rw [e]
  rfl

@[simp] theorem enter_rowTable (s : State) (st : ModState) (row : Nat) : (s.enter st).rowTable row = s.rowTable row := by
  simp only [rowTable, enter_dev]

end State

/-- The module is `e`, and but for what has left the device nothing else has changed. -/
def ModuleOnly (s : State) (e : Dev) (t : State) : Prop := { t with out := s.out } = { s with dev := e }

theorem enter_moduleOnly (s : State) (st : ModState) : ModuleOnly s { s.dev with st := st } (s.enter st) := by
  obtain ⟨o, e⟩ := s.enter_eq st
  rw [e]
  rfl

theorem busPowerApplied_standby {s : State} (h : s.dev.st = .off) :
    Occurs .busPowerApplied s (ModuleOnly s { s.dev with st := .standby }) :=
  ⟨s.enter .standby, by simp [exec, execBusPowerApplied, h], enter_moduleOnly s _⟩

/-- The channels that failed before are retired as main power comes (R364, R368). -/
theorem mainPowerApplied_verify {s : State} (h : s.dev.st = .standby) :
    Occurs .mainPowerApplied s fun t => t.dev.st = .verify ∧ t.dev.failedChans = []
      ∧ (∀ c, c ∈ t.dev.retired ↔ c ∈ s.dev.retired ∨ c ∈ s.dev.failedChans) ∧ SameRegs s t ∧ SameBytes s t := by
  let u := s.modDev fun d => { d with retired := (d.failedChans ++ d.retired).eraseDups, failedChans := [] }
  obtain ⟨o, e⟩ := u.enter_eq .verify
  refine ⟨u.enter .verify, by simp [exec, execMainPowerApplied, h, u], ?_⟩
  rw [e]
  exact ⟨rfl, rfl, fun c => by simp [u, State.modDev, or_comm], .of_eq rfl rfl rfl rfl, rfl, rfl, rfl⟩

/-- Without main power the stores of the module are kept, and the rest is as at reset; a summary that differs is told. -/
def PoweredDown (s : State) (st : ModState) (t : State) : Prop :=
  t.dev.st = st ∧ t.dev.minima = s.dev.minima ∧ t.dev.keys = s.dev.keys
    ∧ t.dev.faultLog = s.dev.faultLog ∧ t.dev.identity = s.dev.identity ∧ t.dev.images = [] ∧ t.dev.chansReady = []
    ∧ (t.readiness ≠ s.readiness → .readiness t.readiness ∈ t.out ∧ .irq 0 1 ∈ t.out)
    ∧ { t with dev := State.reset.dev, out := [], names := State.reset.names, agenda := [], turn := 0, free := 0 } = State.reset

theorem poweredDown (s : State) (st : ModState) : PoweredDown s st (s.enterFrom (s.powerDown st) st) := by
  have tells := State.enterFrom_tells (old := s) (s := s.powerDown st) (st := st)
  obtain ⟨o, e⟩ := s.enterFrom_eq (s.powerDown st) st
  unfold PoweredDown
  rw [e] at tells ⊢
  exact ⟨rfl, rfl, rfl, rfl, rfl, rfl, rfl, tells, rfl⟩

section
variable {s : State} (h : s.dev.st ≠ .off)
include h

theorem mainPowerRemoved_occurs : Occurs .mainPowerRemoved s (PoweredDown s .standby) :=
  ⟨_, by simp [exec, execMainPowerRemoved, h], poweredDown s .standby⟩

theorem busPowerRemoved_occurs : Occurs .busPowerRemoved s (PoweredDown s .off) :=
  ⟨_, by simp [exec, execBusPowerRemoved, h], poweredDown s .off⟩

end

/-- Once Fjondan's image is verified and Fjondan runs, the module serves (R368). -/
theorem fjondanRunning_service {s : State} (h : s.dev.st = .boot) (hv : ∃ x ∈ s.dev.images, x.1 = 3) :
    Occurs .fjondanRunning s (ModuleOnly s { s.dev with st := .service }) := by
  have hv : (s.dev.images.any fun x => x.1 = 3) = true := by simpa using hv
  exact ⟨s.enter .service, by simp [exec, execFjondanRunning, h, hv], enter_moduleOnly s _⟩

/-! ### System cores (R57, R343) -/

/-- A store left with some of its keys reads at those alone. -/
theorem sget_filter {α : Type} (p : Nat → Bool) (m : Store α) (k : Nat) :
    sget (m.filter fun e => p e.1) k = if p k then sget m k else none := by
  induction m with
  | nil => simp
  | cons e m ih =>
    obtain ⟨a, x⟩ := e
    by_cases hk : a = k
    · subst hk
      cases hp : p a <;> simp [hp, sget_cons, ih]
    · cases hp : p a <;> simp [hp, sget_cons, ih, hk]

/-- A store made key by key reads what was made for a key. -/
theorem sget_map_keys {α : Type} {f : Nat → α} {l : List Nat} {k : Nat} (h : k ∈ l) :
    sget (l.map fun c => (c, f c)) k = some (f k) := by
  induction l with
  | nil => cases h
  | cons a l ih =>
    rw [List.map_cons, sget_cons]
    split
    next hk => rw [hk]
    next hk => exact ih ((List.mem_cons.mp h).resolve_left fun e => hk e.symm)

theorem mem_of_sget {α : Type} {m : Store α} {k : Nat} {x : α} (h : sget m k = some x) : (k, x) ∈ m := by
  induction m with
  | nil => cases h
  | cons e m ih =>
    rw [sget_cons] at h
    split at h
    next hk => cases h; subst hk; exact List.mem_cons_self
    · exact List.mem_cons_of_mem _ (ih h)

/-- System core `k` runs: its one group stands at an address, at a level. -/
def Started (t : State) (k : Nat) (e : Addr) (level : Level) : Prop :=
  (t.team k).st = .running ∧ (t.team k).core = 2048 + k ∧ (t.group (gidOf k 0)).level = level ∧ (t.slice (gidOf k 0) 0).pc = e
    ∧ (t.slice (gidOf k 0) 0).ix = 0 ∧ (t.core (2048 + k)).held = false

section
variable (s : State) (n : Nat) (e : Addr) (level : Level) (ctx part : Nat)

/-- A system core's start replaces its team, its core and its one group and slice. -/
theorem startSys_records :
    (∀ k, (s.startSys n e level ctx part).team k = if k = n then
        { Team.absent with st := .running, core := 2048 + n, ctx := ctx, part := part, groups := 1, snap := s.hDev } else s.team k)
      ∧ (∀ c, (s.startSys n e level ctx part).core c = if c = 2048 + n then Core.fresh else s.core c)
      ∧ (∀ k, (s.startSys n e level ctx part).group (gidOf k 0) =
        if k = n then Group.start 0 level s.clock else s.group (gidOf k 0))
      ∧ ∀ k, (s.startSys n e level ctx part).slice (gidOf k 0) 0 = if k = n then Slice.start e else s.slice (gidOf k 0) 0 := by
  refine ⟨fun k => ?_, fun c => ?_, fun k => ?_, fun k => ?_⟩
  · simp [State.startSys, State.team, State.eraseTeam, sysBase]; rfl
  · simp [State.startSys, State.core, State.eraseTeam, sysBase]
  · by_cases hk : k = n
    · simp [State.startSys, State.group, hk, State.eraseTeam]
    · have other : keyOfTeam n 1 (gidOf k 0) = false := by simp [keyOfTeam, gidOf]; omega
      have key : gidOf k 0 ≠ gidOf n 0 := by simp [gidOf]; omega
      simp [State.startSys, State.group, hk, key, State.eraseTeam, sgetD, sget_filter (fun k => !keyOfTeam n 1 k), other, sget_sput]
  · by_cases hk : k = n
    · simp [State.startSys, State.modSlice_slice, hk]
    · have other : keyOfTeam n 8 (sidOf (gidOf k 0) 0) = false := by simp [keyOfTeam, gidOf, sidOf]; omega
      have key : sidOf (gidOf k 0) 0 ≠ sidOf (gidOf n 0) 0 := by simp [gidOf, sidOf]; omega
      simp only [State.startSys, State.modSlice_slice, if_neg hk, if_neg key]
      simp [State.slice, State.eraseTeam, sgetD, sget_filter (fun k => !keyOfTeam n 8 k), other]

theorem startSys_started : Started (s.startSys n e level ctx part) n e level := by
  obtain ⟨team, core, group, slice⟩ := startSys_records s n e level ctx part
  simp [Started, team, core, group, slice, Group.start, Slice.start, Core.fresh]

variable {s n e level}

/-- What runs on another system core goes on. -/
theorem Started.startSys {k : Nat} {e' : Addr} {level' : Level} (h : Started s k e' level') (hk : k ≠ n) :
    Started (s.startSys n e level ctx part) k e' level' := by
  obtain ⟨team, core, group, slice⟩ := startSys_records s n e level ctx part
  simpa [Started, team, core, group, slice, hk] using h

end

/-- The one live partition that has a system core is found. -/
theorem sysPart_found {s : State} {p n : Nat} (hp : (s.part p).live = true) (hn : n ∈ (s.part p).sysCores)
    (one : ∀ e ∈ s.parts, e.2.live = true → n ∈ e.2.sysCores → e.1 = p) :
    (skeysWhere s.parts fun q => q.live && q.sysCores.contains n).head? = some p := by
  have same : ∀ q ∈ skeysWhere s.parts fun q => q.live && q.sysCores.contains n, q = p := fun q hq => by
    obtain ⟨e, he, rfl⟩ := List.mem_map.mp hq
    obtain ⟨he, has⟩ := List.mem_filter.mp he
    simp only [Bool.and_eq_true, List.contains_iff_mem] at has
    exact one e he has.1 has.2
  have there : p ∈ skeysWhere s.parts fun q => q.live && q.sysCores.contains n := by
    cases h : sget s.parts p with
    | none => simp [State.part, sgetD, h, Part.none] at hp
    | some q =>
      obtain rfl : s.part p = q := by simp [State.part, sgetD, h]
      exact List.mem_map.mpr ⟨_, List.mem_filter.mpr ⟨mem_of_sget h, by simp [hp, hn]⟩, rfl⟩
  cases h : skeysWhere s.parts fun q => q.live && q.sysCores.contains n with
  | nil => rw [h] at there; cases there
  | cons q l => exact congrArg some (same q (h ▸ List.mem_cons_self))

/-- A halted system core starts again at its partition's entry (R343, R373). -/
theorem systemCoreRestart_occurs {s : State} {p n : Nat} (hp : (s.part p).live = true) (hn : n ∈ (s.part p).sysCores)
    (one : ∀ e ∈ s.parts, e.2.live = true → n ∈ e.2.sysCores → e.1 = p) (lo : 2 ≤ n) (hi : n < 16)
    (held : (s.core (2048 + n)).held = true) :
    Occurs (.systemCoreRestart n) s fun t => Started t n (s.part p).entry .l1 ∧ (t.team n).part = p ∧ SameBytes s t := by
  have held : (s.core (sysBase + n)).held = true := held
  refine ⟨s.startSys n (s.part p).entry .l1 (s.team n).ctx p, ?_, startSys_started .., ?_, rfl, rfl, rfl⟩
  · simp only [exec, execSystemCoreRestart, sysPart_found hp hn one, lo, hi, held, decide_true, Bool.and_self, if_true]
  · simp [(startSys_records ..).1]

/-! ### Images (R21, R368, R370) -/

/-- The kind of image whose verification is due. -/
inductive ImageDue (s : State) : Nat → Prop
  | firmware : s.dev.st = .verify → (¬∃ x ∈ s.dev.images, x.1 = 2) → ImageDue s 2
  | config : s.dev.st = .verify → (∃ x ∈ s.dev.images, x.1 = 2) → ImageDue s 1
  | fjondan : s.dev.st = .boot → (¬∃ x ∈ s.dev.images, x.1 = 3) → ImageDue s 3

/-- What an image of a kind, once verified, makes of the machine. -/
def State.imageTaken (s : State) (k : Nat) (im : List Byte) : State :=
  let s := s.noteImage k none im
  if k = 1 then (s.configure (imgBody im)).enter .boot
  else if k = 3 then
    let e := BitVec.ofNat 56 (imgField im 0x18 8)
    (s.startSys 0 e .l2 0xFFF 31).startSys 1 e .l2 0xFFF 31
  else s

/-- Cores held in reset. -/
def State.holding (s : State) (l : List Nat) : State := { s with cores := l.map fun c => (c, { s.core c with held := true }) }

theorem holding_held {s : State} {l : List Nat} {c : Nat} (h : c ∈ l) : ((s.holding l).core c).held = true := by
  simp only [State.holding, State.core, sgetD, sget_map_keys h]
  rfl

theorem holdAll_eq (s : State) :
    s.holdAll = ((s.holding (List.range 2064)).enter .held).emit (.report "Gazebo: verification failed") := rfl

theorem holdAll_holds (s : State) : s.holdAll.dev.st = .held ∧ ∀ c < 2064, (s.holdAll.core c).held = true := by
  rw [holdAll_eq]
  refine ⟨by rw [State.emit_dev, State.enter_dev], fun c hc => ?_⟩
  rw [State.emit_core, State.enter_core]
  exact holding_held (List.mem_range.mpr hc)

section
variable {s : State} {k kind : Nat} {im : List Byte} (due : ImageDue s k)
include due

/-- An image of the kind due that is accepted is taken, and any other holds the module. -/
theorem exec_imageVerifyDone : exec (.imageVerifyDone kind im) s =
    if (kind != k || !s.imageOk k [] im) = true then .next s.holdAll else .next (s.imageTaken k im) := by
  have any : ∀ n, (s.dev.images.any fun x => x.1 = n) = decide (∃ x ∈ s.dev.images, x.1 = n) := fun n => by
    rw [Bool.eq_iff_iff]; simp
  cases due with
  | firmware hs hv => simp only [exec, execImageVerifyDone, hs, any, decide_eq_true_eq, if_neg hv]; rfl
  | config hs hv => simp only [exec, execImageVerifyDone, hs, any, decide_eq_true_eq, if_pos hv, if_true, State.imageTaken]
  | fjondan hs hv => simp only [exec, execImageVerifyDone, hs, any, decide_eq_true_eq, if_neg hv]; rfl

theorem imageVerifyDone_takes {post : State → Prop} (ok : kind = k ∧ s.imageOk k [] im = true) (h : post (s.imageTaken k im)) :
    Occurs (.imageVerifyDone kind im) s post :=
  ⟨s.imageTaken k im, by rw [exec_imageVerifyDone due, if_neg (by simp [ok])], h⟩

/-- An image refused holds the module, with every core in reset (R21, R368). -/
theorem imageVerifyDone_holds (bad : ¬(kind = k ∧ s.imageOk k [] im = true)) : Occurs (.imageVerifyDone kind im) s fun t =>
    t.dev.st = .held ∧ ∀ c < 2064, (t.core c).held = true := by
  have bad : (kind != k || !s.imageOk k [] im) = true := by by_cases e : kind = k <;> simp_all
  exact ⟨_, by rw [exec_imageVerifyDone due, if_pos bad], holdAll_holds s⟩

end

/-! ### The configuration (R17, R21, R371) -/

/-- Values put at the keys of a list read back there, and no other key changes. -/
theorem sgetD_foldl_sputD {α : Type} [DecidableEq α] (d : α) (v : Nat → α) (l : List Nat) (m : Store α) (k : Nat) :
    sgetD (l.foldl (fun m i => sputD d m i (v i)) m) k d = if k ∈ l then v k else sgetD m k d := by
  induction l generalizing m with
  | nil => simp
  | cons a l ih =>
    rw [List.foldl_cons, ih, sgetD_sputD]
    by_cases hl : k ∈ l
    · simp [hl]
    · by_cases ha : k = a
      · simp [ha]
      · simp [hl, ha]

namespace State

/-- A row's table as the configuration gives it, with the fault store applied. -/
def configTable (body : List Byte) (log : List (Nat × Nat × Nat)) (row : Nat) : List (Option Nat) :=
  (replayRow row (imageTable body row) (imageReserves body row) log).1

/-- A row's table and reserves of the configuration, taken. -/
def takeRow (body : List Byte) (s : State) (row : Nat) : State :=
  let now := replayRow row (imageTable body row) (imageReserves body row) s.dev.faultLog
  s.modDev fun d =>
    { d with made := sput d.made row (imageTable body row), remap := sput d.remap row now.1, reserves := sput d.reserves row now.2 }

theorem takeRows_eq (body : List Byte) (l : List Nat) (s : State) : ∃ made reserves, l.foldl (takeRow body) s =
    { s with dev := { s.dev with
        made := made, reserves := reserves
        remap := l.foldl (fun m row => sput m row (configTable body s.dev.faultLog row)) s.dev.remap } } := by
  induction l generalizing s with
  | nil => exact ⟨s.dev.made, s.dev.reserves, rfl⟩
  | cons row l ih =>
    obtain ⟨made, reserves, e⟩ := ih (s.takeRow body row)
    exact ⟨made, reserves, e⟩

/-- A configuration taken, but for the fences of what it leaves UNBACKED. -/
def takeConfig (s : State) (body : List Byte) : State :=
  let at_ (i : Nat) : Nat := (body.getD i 0).toNat
  ((List.range 32).foldl (takeRow body) s).modDev fun d =>
    { d with
      identity := (List.range 128).foldl (fun m i => sputD 0 m i (body.getD (2080 + i) 0)) d.identity
      coords := (at_ 2208, at_ 2209 % 128, at_ 2210 % 128) }

theorem configure_eq (s : State) (body : List Byte) : s.configure body = (List.range 32).foldl fenceUnbacked (s.takeConfig body) := rfl

theorem takeConfig_images (s : State) (body : List Byte) : (s.takeConfig body).dev.images = s.dev.images := by
  obtain ⟨made, reserves, e⟩ := takeRows_eq body (List.range 32) s
  simp only [takeConfig, modDev, e]

theorem takeConfig_rowTable (s : State) (body : List Byte) {row : Nat} (h : row < 32) :
    (s.takeConfig body).rowTable row = configTable body s.dev.faultLog row := by
  obtain ⟨made, reserves, e⟩ := takeRows_eq body (List.range 32) s
  simp only [takeConfig, modDev, e, rowTable, sgetD]
  rw [sget_foldl_sput_mem (fun row => row) (configTable body s.dev.faultLog) (fun _ _ same => same) _ _ (List.mem_range.mpr h)]
  rfl

theorem takeConfig_identity (s : State) (body : List Byte) {i : Nat} (h : i < 128) :
    sgetD (s.takeConfig body).dev.identity i 0 = body.getD (2080 + i) 0 := by
  simp only [takeConfig, modDev]
  rw [sgetD_foldl_sputD 0 (fun i => body.getD (2080 + i) 0), if_pos (List.mem_range.mpr h)]

/-! A table's UNBACKED columns are fenced (R20). -/

/-- Column `c` of a row is UNBACKED, and its core is `k`. -/
def Unbacked (s : State) (row k : Nat) : Prop := ∃ c < 64, (s.rowTable row).getD c none = none ∧ k = cidOf c row

theorem foldl_fence_iff (key : Nat → Nat) (l : List Nat) (s : State) (k : Nat) :
    ((l.foldl (fun s c => s.modCore (key c) fun x => { x with fenced := true }) s).core k).fenced = true
      ↔ (s.core k).fenced = true ∨ ∃ c ∈ l, k = key c := by
  induction l generalizing s with
  | nil => simp
  | cons c l ih =>
    rw [List.foldl_cons, ih, modCore_core]
    by_cases hk : k = key c <;> simp [hk]

theorem fenceUnbacked_iff (s : State) (row k : Nat) :
    ((s.fenceUnbacked row).core k).fenced = true ↔ (s.core k).fenced = true ∨ s.Unbacked row k := by
  rw [fenceUnbacked, foldl_fence_iff]
  simp [Unbacked, and_assoc]

@[simp] theorem fenceUnbacked_dev (s : State) (row : Nat) : (s.fenceUnbacked row).dev = s.dev :=
  foldl_keep _ State.dev _ _ fun _ _ _ => rfl

theorem foldl_fenceUnbacked_dev (l : List Nat) (s : State) : (l.foldl fenceUnbacked s).dev = s.dev :=
  foldl_keep _ State.dev _ _ fun t q _ => t.fenceUnbacked_dev q

theorem foldl_fenceUnbacked_fences {l : List Nat} {s : State} {k : Nat} (h : (s.core k).fenced = true ∨ ∃ row ∈ l, s.Unbacked row k) :
    ((l.foldl fenceUnbacked s).core k).fenced = true := by
  induction l generalizing s with
  | nil => simpa using h
  | cons row l ih =>
    have same : ∀ r, (s.fenceUnbacked row).Unbacked r k = s.Unbacked r k := fun r => by simp [Unbacked, rowTable]
    refine ih ?_
    rw [fenceUnbacked_iff]
    simp only [same]
    simp only [List.exists_mem_cons_iff] at h
    tauto

end State

/-- A configuration keeps what images are verified, and gives tables, identity and fences (R17, R20, R371). -/
theorem configure_configures (s : State) (body : List Byte) :
    (s.configure body).dev.images = s.dev.images
      ∧ (∀ row < 32, (s.configure body).rowTable row = State.configTable body s.dev.faultLog row)
      ∧ (∀ row < 32, ∀ k, (s.configure body).Unbacked row k → ((s.configure body).core k).fenced = true)
      ∧ ∀ i < 128, sgetD (s.configure body).dev.identity i 0 = body.getD (2080 + i) 0 := by
  have dev : (s.configure body).dev = (s.takeConfig body).dev := by
    rw [State.configure_eq, State.foldl_fenceUnbacked_dev]
  have table : ∀ row, (s.configure body).rowTable row = (s.takeConfig body).rowTable row := fun row => by
    rw [State.rowTable, State.rowTable, dev]
  refine ⟨by rw [dev, State.takeConfig_images], fun row hr => by rw [table, State.takeConfig_rowTable s body hr],
    fun row hr k hk => ?_, fun i hi => by rw [dev, State.takeConfig_identity s body hi]⟩
  rw [State.configure_eq]
  refine State.foldl_fenceUnbacked_fences (.inr ⟨row, List.mem_range.mpr hr, ?_⟩)
  simpa only [State.Unbacked, table] using hk

/-- An image is noted among those verified since power-on (R372). -/
def Noted (s : State) (kind : Nat) (im : List Byte) (t : State) : Prop :=
  t.dev.images = s.dev.images ++ [(kind, none, (im.drop 0x20).take 64, imgField im 8 4)]

section
variable {s : State} {kind : Nat} {im : List Byte}

theorem firmware_taken (hs : s.dev.st = .verify) (hv : ¬∃ x ∈ s.dev.images, x.1 = 2) (ok : kind = 2 ∧ s.imageOk 2 [] im = true) :
    Occurs (.imageVerifyDone kind im) s fun t => Noted s kind im t ∧ t.dev.st = .verify :=
  imageVerifyDone_takes (.firmware hs hv) ok ⟨by rw [ok.1]; rfl, hs⟩

/-- A verified configuration boots the module with its tables and its identity (R17, R20, R21, R371). -/
theorem config_taken (hs : s.dev.st = .verify) (hv : ∃ x ∈ s.dev.images, x.1 = 2) (ok : kind = 1 ∧ s.imageOk 1 [] im = true) :
    Occurs (.imageVerifyDone kind im) s fun t => Noted s kind im t ∧ t.dev.st = .boot
      ∧ (∀ row < 32, s.dev.faultLog = [] → t.rowTable row = State.imageTable (imgBody im) row)
      ∧ (∀ row < 32, ∀ c < 64, (t.rowTable row).getD c none = none → (t.core (cidOf c row)).fenced = true)
      ∧ ∀ i < 128, sgetD t.dev.identity i 0 = (imgBody im).getD (2080 + i) 0 := by
  obtain ⟨images, table, fence, identity⟩ := configure_configures (s.noteImage 1 none im) (imgBody im)
  have taken : s.imageTaken 1 im = ((s.noteImage 1 none im).configure (imgBody im)).enter .boot := by
    rw [State.imageTaken, if_pos rfl]
  refine imageVerifyDone_takes (.config hs hv) ok ?_
  rw [taken]
  refine ⟨?_, by rw [State.enter_dev], fun row hr hl => ?_, fun row hr c hc hn => ?_, fun i hi => ?_⟩
  · simp only [Noted, State.enter_dev, images, ok.1]
    rfl
  · have log : (s.noteImage 1 none im).dev.faultLog = [] := hl
    rw [State.enter_rowTable, table row hr, log]
    rfl
  · rw [State.enter_core]
    exact fence row hr _ ⟨c, hc, State.enter_rowTable _ _ row ▸ hn, rfl⟩
  · simp only [State.enter_dev, identity i hi]

/-- Fjondan's image starts the two first system cores at its entry, at L2 (R16, R57). -/
theorem fjondan_taken (hs : s.dev.st = .boot) (hv : ¬∃ x ∈ s.dev.images, x.1 = 3) (ok : kind = 3 ∧ s.imageOk 3 [] im = true) :
    Occurs (.imageVerifyDone kind im) s fun t => Noted s kind im t ∧ t.dev.st = .boot
      ∧ ∀ k < 2, Started t k (BitVec.ofNat 56 (imgField im 0x18 8)) .l2 := by
  refine imageVerifyDone_takes (.fjondan hs hv) ok ⟨by rw [ok.1]; rfl, hs, fun k hk => ?_⟩
  obtain rfl | rfl : k = 0 ∨ k = 1 := by omega
  · exact (startSys_started (s.noteImage 3 none im) 0 _ .l2 0xFFF 31).startSys 0xFFF 31 (by decide)
  · exact startSys_started _ 1 _ .l2 0xFFF 31

end

/-! ### Self-tests (R369) -/

/-- What was waiting for a port that is up has left; but for that the module alone has changed, whose functions ready are those
of `e`. -/
def Readied (s : State) (e : Dev) (t : State) : Prop :=
  t.dev.chansReady = e.chansReady ∧ t.dev.parksReady = e.parksReady ∧ t.dev.colsReady = e.colsReady ∧ SameRegs s t ∧ SameBytes s t
    ∧ (∀ p ∈ s.dev.ports, t.bundleUp p.1 = true → p.2.2 ∈ t.out) ∧ (s.dev.ports = [] → s.copies = [] → ModuleOnly s e t)

theorem readied {s : State} {e : Dev} (hp : e.ports = s.dev.ports) : Readied s e (s.tellReady { s with dev := e }.flushPorts) := by
  let u : State := { s with dev := e }
  have told := State.tellReady_sendsOnly s u.flushPorts
  have sends := u.flushPorts_sendsOnly.trans told
  have up : ∀ d, (s.tellReady u.flushPorts).bundleUp d = u.bundleUp d := fun d => by simp only [State.bundleUp, sends.dev]; rfl
  refine ⟨by rw [sends.dev]; rfl, by rw [sends.dev]; rfl, by rw [sends.dev]; rfl, sends.sameRegs, sends.sameBytes,
    fun p h hu => told.out (State.mem_out_flushPorts (s := u) (hp ▸ h) (up p.1 ▸ hu)), fun none copies => ?_⟩
  obtain ⟨o, eq⟩ := s.tellReady_eq u.flushPorts
  rw [eq, State.flushPorts_idle (s := u) (hp.trans none) copies]
  rfl

section
variable {s : State} {n : Nat} (hs : s.dev.st = .boot ∨ s.dev.st = .service)
include hs

theorem selfTest_channel (hf : (0, n) ∉ s.dev.unitsFailed) (hn : n < 2048) (hr : n ∉ s.dev.retired) (hc : n ∉ s.dev.chansReady) :
    Occurs (.functionSelfTestDone 0 n true) s (Readied s { s.dev with chansReady := n :: s.dev.chansReady })
      ∧ Occurs (.functionSelfTestDone 0 n false) s fun t => n ∈ t.dev.failedChans ∧ t.dev.chansReady = s.dev.chansReady := by
  let u := s.modDev fun d => { d with unitsFailed := (0, n) :: d.unitsFailed }
  refine ⟨⟨_, ?_, readied rfl⟩, u.channelFail n, ?_, ?_⟩
  · rcases hs with hs | hs <;> simp [exec, execFunctionSelfTestDone, hs, hf, hn, hr, hc, State.modDev]
  · rcases hs with hs | hs <;> simp [exec, execFunctionSelfTestDone, hs, hf, hn, hr, hc, u]
  · obtain ⟨cs, l, o, failed, e⟩ := State.channelFail_eq (s := u) hn
    rw [e]
    exact ⟨failed, rfl⟩

theorem selfTest_park (hf : (1, n) ∉ s.dev.unitsFailed) (hn : n < 128) (hp : n ∉ s.dev.parksReady) :
    Occurs (.functionSelfTestDone 1 n true) s (Readied s { s.dev with parksReady := n :: s.dev.parksReady }) := by
  refine ⟨_, ?_, readied rfl⟩
  rcases hs with hs | hs <;> simp [exec, execFunctionSelfTestDone, hs, hf, hn, hp, State.modDev]

theorem selfTest_colPort (hf : (2, n) ∉ s.dev.unitsFailed) (hn : n < 18) (hc : n ∉ s.dev.colsReady) :
    Occurs (.functionSelfTestDone 2 n true) s (Readied s { s.dev with colsReady := n :: s.dev.colsReady }) := by
  refine ⟨_, ?_, readied rfl⟩
  rcases hs with hs | hs <;> simp [exec, execFunctionSelfTestDone, hs, hf, hn, hc, State.modDev]

end

/-! ### Minima and keys (R370) -/

section
variable {s : State}

theorem minimaAndKeys_stay (kind slot svn : Nat) (key : List Byte) (owner : Option Nat) (h : fjondanRuns s = false) :
    exec (.storedMinimumRaise kind slot svn) s = .next s ∧ exec (.keySlotEnrolment slot key owner) s = .next s := by
  simp [exec, execStoredMinimumRaise, execKeySlotEnrolment, h]

variable {kind slot : Nat} (h : fjondanRuns s = true)
include h

theorem storedMinimumRaise_raises (lo : 1 ≤ kind) (hi : kind ≤ 4) (hs : slot ≤ 7) (svn : Nat) :
    Occurs (.storedMinimumRaise kind slot svn) s fun t =>
      sget t.dev.minima (kind * 8 + slot) = some (max (sgetD s.dev.minima (kind * 8 + slot) 0) (svn % 2 ^ 32))
        ∧ { t with dev := s.dev } = s := by
  simp only [Occurs, exec, execStoredMinimumRaise, lo, hi, hs, h]
  exact ⟨_, rfl, by simp [State.modDev, sget_sput], rfl⟩

theorem keySlotEnrolment_enrols (lo : 1 ≤ slot) (hi : slot ≤ 7) (key : List Byte) (owner : Option Nat) :
    Occurs (.keySlotEnrolment slot key owner) s fun t => sget t.dev.keys slot = some (key, owner) ∧ { t with dev := s.dev } = s := by
  simp only [Occurs, exec, execKeySlotEnrolment, lo, hi, h]
  exact ⟨_, rfl, by simp [State.modDev, sget_sput], rfl⟩

end

end Sys2Proof.Machine
end

section
open Sys2Proof.Machine

/-- Settles O58: one lemma for each event and outcome, over what entering a module state, starting a system core, taking a
configuration and flushing the ports leave of the state. -/
theorem powerImagesAndReadiness : Obligations.PowerImagesAndReadiness := by
  intro s im kind unit n slot svn key owner
  refine ⟨busPowerApplied_standby, mainPowerApplied_verify, fun on => ⟨mainPowerRemoved_occurs on, busPowerRemoved_occurs on⟩,
    ⟨fun hs hv => ⟨firmware_taken hs hv, imageVerifyDone_holds (.firmware hs hv)⟩,
      fun hs hv => ⟨config_taken hs hv, imageVerifyDone_holds (.config hs hv)⟩,
      fun hs hv => ⟨fjondan_taken hs hv, imageVerifyDone_holds (.fjondan hs hv)⟩⟩,
    fjondanRunning_service, fun hs hf => ⟨?_, ?_, ?_⟩, ?_, minimaAndKeys_stay kind slot svn key owner, ?_, ?_⟩
  · rintro rfl hn hr hc
    exact selfTest_channel hs hf hn hr hc
  · rintro rfl hn hp
    exact selfTest_park hs hf hn hp
  · rintro rfl hn hc
    exact selfTest_colPort hs hf hn hc
  · exact fun p live has one lo hi held => systemCoreRestart_occurs live has one lo hi held
  · exact fun h lo hi hs => storedMinimumRaise_raises h lo hi hs svn
  · exact fun h lo hi => keySlotEnrolment_enrols h lo hi key owner

end

section
/-! PROOF. What the invariant speaks of: a state's registers and byte memories, and the form they keep (R27). -/

namespace Sys2Proof.Machine

/-- What a state's registers and byte memories hold. -/
structure Held where
  vreg : Store Word
  sreg : Store Word
  kreg : Store Mask
  mreg : Store Word
  mem : Memory
  scratch : Memory
  tiles : Memory

/-- Registers and bytes of a state, and nothing else of it. -/
def State.held (s : State) : Held := ⟨s.vreg, s.sreg, s.kreg, s.mreg, s.mem, s.scratch, s.tiles⟩

@[simp] theorem held_mk
    {vreg sreg kreg slices groups teams cores dies seqrs mreg wins scratch tiles tileLists acc side mem lineTs byteTs orangery
    poison scrPoison arrPoison settling packets pressure seqnos rels outside copies lacking cmds mcmds launches clusters parks
    parts ctxs rslots dev out clock sundial names cur agenda turn free} :
      State.held ⟨vreg, sreg, kreg, slices, groups, teams, cores, dies, seqrs, mreg, wins, scratch, tiles, tileLists, acc,
      side, mem, lineTs, byteTs, orangery, poison, scrPoison, arrPoison, settling, packets, pressure, seqnos, rels, outside,
      copies, lacking, cmds, mcmds, launches, clusters, parks, parts, ctxs, rslots, dev, out, clock, sundial, names, cur,
      agenda, turn, free⟩
      = ⟨vreg, sreg, kreg, mreg, mem, scratch, tiles⟩ :=
  (rfl)

@[simp] theorem held_eta (s : State) : (⟨s.vreg, s.sreg, s.kreg, s.mreg, s.mem, s.scratch, s.tiles⟩ : Held) = s.held := (rfl)

@[simp] theorem held_ite (c : Prop) [Decidable c] (a b : State) :
    (if c then a else b).held = if c then a.held else b.held := apply_ite State.held c a b

@[simp] theorem held_ite_snd {α : Type} (c : Prop) [Decidable c] (a b : α × State) :
    (if c then a else b).2.held = if c then a.2.held else b.2.held := apply_ite (fun p : α × State => p.2.held) c a b

@[simp] theorem held_foldl {β : Type} (f : State → β → State) (l : List β) (step : ∀ t q, (f t q).held = t.held) (s : State) :
    (l.foldl f s).held = s.held := by
  induction l generalizing s with
  | nil => rfl
  | cons q l ih => exact (ih _).trans (step s q)

theorem mem_sputD {α : Type} [DecidableEq α] {d : α} {m : Store α} {k : Nat} {x : α} {p : Nat × α} (h : p ∈ sputD d m k x) :
    p = (k, x) ∨ p ∈ m := by
  unfold sputD at h
  split at h
  · exact .inr (List.mem_of_mem_filter h)
  · exact mem_sput m k x p h

/-- What a canonical memory keeps of its bytes is canonical. -/
theorem Memory.wf_filter {m : Memory} (p : Nat × Byte → Bool) (h : m.wf) : Memory.wf (m.filter p) :=
  ⟨h.1.filter _, fun q hq => h.2 q (List.mem_of_mem_filter hq)⟩

/-- Every byte memory is in canonical form, and no k0 is stored. -/
def Held.Canon (h : Held) : Prop := h.mem.wf ∧ h.scratch.wf ∧ h.tiles.wf ∧ ∀ p ∈ h.kreg, p.1 % 8 ≠ 0

theorem inv_iff (s : State) : Inv s ↔ s.held.Canon := Iff.rfl

@[simp] theorem canon_ite (c : Prop) [Decidable c] (a b : Held) :
    (if c then a else b).Canon ↔ if c then a.Canon else b.Canon := by split <;> rfl

/-- States that hold the same have the same registers. -/
theorem SameRegs.of_held {s t : State} (h : t.held = s.held) : SameRegs s t := by
  obtain ⟨hv, hs, hk, hm, -, -, -⟩ := Held.mk.inj h
  refine ⟨fun g l n => ?_, fun g i n => ?_, fun g i n => ?_, fun q n => ?_⟩
  · simp only [State.rdV, hv]
  · simp only [State.rdS, hs]
  · simp only [State.rdK, hk]
  · simp only [State.rdM, hm]

/-- States that hold the same have the same bytes. -/
theorem SameBytes.of_held {s t : State} (h : t.held = s.held) : SameBytes s t := by
  obtain ⟨-, -, -, -, hmem, hscr, htile⟩ := Held.mk.inj h
  exact ⟨hmem, hscr, htile⟩

theorem canon_of_pair {α : Type} {p : α × State} {a : α} {t : State} (e : p = (a, t)) (h : p.2.held.Canon) : t.held.Canon := by
  subst e
  exact h

theorem held_of_pair {α : Type} {p : α × State} {a : α} {s t : State} (e : p = (a, t)) (h : p.2.held = s.held) :
    t.held = s.held := by
  subst e
  exact h

theorem canon_foldl {β : Type} (f : State → β → State) (l : List β) {s : State}
    (step : ∀ t q, t.held.Canon → (f t q).held.Canon) (h : s.held.Canon) : (l.foldl f s).held.Canon := by
  induction l generalizing s with
  | nil => exact h
  | cons q l ih => exact ih (step s q h)

end Sys2Proof.Machine
end

section
/-! PROOF. What the operations of the state and of traps leave of registers and bytes. `held_f`: all of it; `canon_f`: its
canonical form. (`(rfl)` stands where `rfl` would make the lemma one that `simp` uses by definitional unfolding only, and not
to discharge the hypothesis of `held_foldl`.) -/

namespace Sys2Proof.Machine

@[simp] theorem held_modSlice (s : State) (gid i : Nat) (f : Slice → Slice) : (s.modSlice gid i f).held = s.held := (rfl)
@[simp] theorem held_modGroup (s : State) (gid : Nat) (f : Group → Group) : (s.modGroup gid f).held = s.held := (rfl)
@[simp] theorem held_modTeam (s : State) (tid : Nat) (f : Team → Team) : (s.modTeam tid f).held = s.held := (rfl)
@[simp] theorem held_modCore (s : State) (cid : Nat) (f : Core → Core) : (s.modCore cid f).held = s.held := (rfl)
@[simp] theorem held_modPart (s : State) (p : Nat) (f : Part → Part) : (s.modPart p f).held = s.held := (rfl)
@[simp] theorem held_modCtx (s : State) (c : Nat) (f : Context → Context) : (s.modCtx c f).held = s.held := (rfl)
@[simp] theorem held_modLaunch (s : State) (l : Nat) (f : Launch → Launch) : (s.modLaunch l f).held = s.held := (rfl)
@[simp] theorem held_modCluster (s : State) (c : Nat) (f : Cluster → Cluster) : (s.modCluster c f).held = s.held := (rfl)
@[simp] theorem held_modSeqr (s : State) (q : Nat) (f : Seqr → Seqr) : (s.modSeqr q f).held = s.held := (rfl)
@[simp] theorem held_modPark (s : State) (p k : Nat) (f : Park → Park) : (s.modPark p k f).held = s.held := (rfl)

@[simp] theorem held_modSlices (s : State) (gid : Nat) (is : List Nat) (f : Slice → Slice) :
    (s.modSlices gid is f).held = s.held := by
  simp [State.modSlices]

@[simp] theorem held_modDev (s : State) (f : Dev → Dev) : (s.modDev f).held = s.held := (rfl)
@[simp] theorem held_emit (s : State) (o : Out) : (s.emit o).held = s.held := (rfl)

@[simp] theorem canon_wrV (s : State) (gid lane n : Nat) (x : Word) : (s.wrV gid lane n x).held.Canon ↔ s.held.Canon :=
  (Iff.rfl)

@[simp] theorem canon_wrS (s : State) (gid i n : Nat) (x : Word) : (s.wrS gid i n x).held.Canon ↔ s.held.Canon := (Iff.rfl)

@[simp] theorem canon_wrK (s : State) (gid i : Nat) (n : BitVec 3) (x : Mask) (h : s.held.Canon) :
    (s.wrK gid i n.toNat x).held.Canon := by
  unfold State.wrK
  split
  · exact h
  · obtain ⟨hmem, hscr, htile, hk⟩ := h
    refine ⟨hmem, hscr, htile, fun p hp => (mem_sputD hp).elim (fun e => ?_) (hk p)⟩
    have := n.isLt
    subst e
    dsimp only
    omega

@[simp] theorem canon_wrM (s : State) (q n : Nat) (x : Word) : (s.wrM q n x).held.Canon ↔ s.held.Canon := (Iff.rfl)

@[simp] theorem canon_wrV64 (s : State) (gid lane n : Nat) (x : DWord) : (s.wrV64 gid lane n x).held.Canon ↔ s.held.Canon :=
  (Iff.rfl)

@[simp] theorem canon_wrS64 (s : State) (gid i n : Nat) (x : DWord) : (s.wrS64 gid i n x).held.Canon ↔ s.held.Canon := (Iff.rfl)

@[simp] theorem canon_wrSlices (s : State) (gid : Nat) (is : List Nat) (n : Nat) (x : Word) (h : s.held.Canon) :
    (s.wrSlices gid is n x).held.Canon := by
  simp [State.wrSlices, h, canon_foldl]

@[simp] theorem canon_wrSlices64 (s : State) (gid : Nat) (is : List Nat) (n : Nat) (x : DWord) (h : s.held.Canon) :
    (s.wrSlices64 gid is n x).held.Canon := by
  simp [State.wrSlices64, h, canon_foldl]

@[simp] theorem held_freeWord (s : State) : s.freeWord.2.held = s.held := (rfl)
@[simp] theorem held_freeBool (s : State) : s.freeBool.2.held = s.held := (rfl)
@[simp] theorem held_stopCycles (s : State) (gid : Nat) : (s.stopCycles gid).held = s.held := (rfl)
@[simp] theorem held_startCycles (s : State) (gid : Nat) : (s.startCycles gid).held = s.held := (rfl)

@[simp] theorem held_formGang (s : State) (gid : Nat) (is : List Nat) : (s.formGang gid is).held = s.held := by
  simp [State.formGang]

@[simp] theorem held_formByPc (s : State) (gid : Nat) (is : List Nat) : (s.formByPc gid is).held = s.held := by
  simp [State.formByPc]

@[simp] theorem held_dropRuns (s : State) (cid gid : Nat) : (s.dropRuns cid gid).held = s.held := (rfl)

@[simp] theorem held_regionEntry (s : State) (gid : Nat) (is : List Nat) : (s.regionEntry gid is).held = s.held := by
  simp [State.regionEntry]

@[simp] theorem held_leaveWaits (s : State) (gid : Nat) (is : List Nat) : (s.leaveWaits gid is).held = s.held := by
  simp [State.leaveWaits]

@[simp] theorem held_takeTs (s : State) : s.takeTs.2.held = s.held := (rfl)

@[simp] theorem held_retireLine (s : State) (ts line : Nat) (pin : Option Nat) : (s.retireLine ts line pin).held = s.held := by
  simp [State.retireLine]

@[simp] theorem canon_commitAt (s : State) (ts : Nat) (pin : Option Nat) (l : Store Byte) (h : s.held.Canon) :
    (s.commitAt ts pin l).held.Canon := by
  have old : ((State.linesOf l).foldl (fun s line => s.retireLine ts line pin) s).held.Canon := by simpa using h
  obtain ⟨hmem, rest⟩ := old
  exact ⟨Memory.wf_writeAll _ _ _ _ hmem, rest⟩

@[simp] theorem held_acquire (s : State) (tid : Nat) (scope : Scope) : (s.acquire tid scope).held = s.held := by
  simp only [State.acquire]
  split <;> simp

@[simp] theorem held_addPending (s : State) (tid pa : Nat) (bs : List Byte) : (s.addPending tid pa bs).held = s.held := (rfl)

@[simp] theorem held_fillTlb (s : State) (cid ctx va : Nat) (e : DWord) (bits : Nat) :
    (s.fillTlb cid ctx va e bits).held = s.held := by
  simp [State.fillTlb]

@[simp] theorem held_pickFree {α : Type} (s : State) (l : List α) : (s.pickFree l).2.held = s.held := by
  induction l generalizing s with
  | nil => rfl
  | cons x l ih =>
    simp only [State.pickFree]
    split
    · rfl
    · exact ih _

@[simp] theorem held_lookup (s : State) (cid ctx va : Nat) : (s.lookup cid ctx va).2.held = s.held := by
  simp only [State.lookup]
  split <;> simp

@[simp] theorem held_translate (s : State) (cid tid : Nat) (level : Level) (need : Need) (va : Nat) :
    (s.translate cid tid level need va).2.held = s.held := by
  simp only [State.translate]
  split <;> simp

@[simp] theorem held_nextSeq (s : State) (src dst : Endpoint) (vc : Nat) : (s.nextSeq src dst vc).2.held = s.held := by
  simp only [State.nextSeq]
  split <;> simp

@[simp] theorem held_pressurize (s : State) (e : Endpoint) : (s.pressurize e).held = s.held := by
  simp only [State.pressurize]
  split <;> simp

@[simp] theorem held_requestKill (s : State) (c : Nat) (k : Kill) : (s.requestKill c k).held = s.held := (rfl)
@[simp] theorem held_bringDown (s : State) (p : Nat) : (s.bringDown p).held = s.held := by simp [State.bringDown]
@[simp] theorem held_headerError (s : State) (tag : Nat) : (s.headerError tag).held = s.held := by simp [State.headerError]

@[simp] theorem held_inject (s : State) (k : Nat) : (s.inject k).held = s.held := by
  simp only [State.inject]
  split <;> simp

@[simp] theorem held_sendNow (s : State) (p : Packet) : (s.sendNow p).held = s.held := by simp [State.sendNow]

@[simp] theorem held_noteOutside (s : State) (ts : Nat) (l : Store Byte) : (s.noteOutside ts l).held = s.held := by
  simp [State.noteOutside]

theorem held_spaceWait {s t : State} {pa : Nat} (h : s.spaceWait pa = some t) : t.held = s.held := by
  simp only [State.spaceWait] at h
  split at h
  · cases h; simp
  · cases h

@[simp] theorem held_spaceFound (s : State) (pa : Nat) : (s.spaceFound pa).held = s.held := (rfl)

@[simp] theorem canon_deviceCommit (s : State) (tag part : Nat) (l : Store Byte) (h : s.held.Canon) :
    (s.deviceCommit tag part l).2.held.Canon := by
  simp [State.deviceCommit, h]

@[simp] theorem held_consumeCtx (s : State) (c pa : Nat) : (s.consumeCtx c pa).held = s.held := (rfl)

@[simp] theorem canon_deviceWriteVa (s : State) (ctx tag va : Nat) (bs : List Byte) (h : s.held.Canon) :
    (s.deviceWriteVa ctx tag va bs).2.held.Canon := by
  unfold State.deviceWriteVa
  split <;> simp [h]

@[simp] theorem canon_scrWrite (s : State) (cid off : Nat) (bs : List Byte) (h : s.held.Canon) :
    (s.scrWrite cid off bs).held.Canon := by
  obtain ⟨hmem, hscr, rest⟩ := h
  exact ⟨hmem, Memory.wf_mwrites _ _ _ hscr, rest⟩

@[simp] theorem held_arrClear (s : State) (a n : Nat) : (s.arrClear a n).held = s.held := (rfl)

@[simp] theorem canon_tileStore (s : State) (key : Nat) (bs : List Byte) (h : s.held.Canon) :
    (s.tileStore key bs).held.Canon := by
  obtain ⟨hmem, hscr, htile, hk⟩ := h
  exact ⟨hmem, hscr, Memory.wf_mwrites _ _ _ htile, hk⟩

@[simp] theorem held_restartNow (s : State) (gid : Nat) (is : List Nat) : (s.restartNow gid is).held = s.held := by
  simp [State.restartNow]

@[simp] theorem held_tryRestarts (s : State) (gid : Nat) : (s.tryRestarts gid).held = s.held := by simp [State.tryRestarts]

@[simp] theorem held_restart (s : State) (gid : Nat) (is : List Nat) : (s.restart gid is).held = s.held := by
  simp [State.restart]

@[simp] theorem held_dropAccReq (s : State) (gid : Nat) : (s.dropAccReq gid).held = s.held := by
  simp only [State.dropAccReq]
  split <;> simp

@[simp] theorem held_enterHandler (s : State) (gid : Nat) (vec : Addr) : (s.enterHandler gid vec).held = s.held := by
  simp [State.enterHandler]

@[simp] theorem canon_enterFrame (s : State) (gid slot : Nat) (c : Cause) (h : s.held.Canon) :
    (s.enterFrame gid slot c).held.Canon := by
  unfold State.enterFrame
  dsimp only
  split <;> simp [h]

@[simp] theorem held_haltSys (s : State) (cid : Nat) : (s.haltSys cid).held = s.held := (rfl)

@[simp] theorem canon_enterSys (s : State) (gid : Nat) (c : Cause) (h : s.held.Canon) : (s.enterSys gid c).held.Canon := by
  unfold State.enterSys
  dsimp only
  split
  · simp [h]
  · split
    next written => simp [canon_of_pair written (canon_deviceWriteVa s _ _ _ _ h)]
    next written => simp [canon_of_pair written (canon_deviceWriteVa s _ _ _ _ h)]

@[simp] theorem canon_takeTrap (s : State) (gid : Nat) (c : Cause) (h : s.held.Canon) : (s.takeTrap gid c).held.Canon := by
  unfold State.takeTrap
  dsimp only
  split
  · simp [h]
  · split
    · simp [h]
    · split
      · simp [h]
      · simpa using h

@[simp] theorem held_standAt (s : State) (gid : Nat) (is : List Nat) (pc : Addr) (ix : Nat) :
    (s.standAt gid is pc ix).held = s.held := by
  simp [State.standAt]

@[simp] theorem held_returnFrom (s : State) (gid : Nat) (frame : List DWord) (body : List Byte) :
    (s.returnFrom gid frame body).held = s.held := by
  simp [State.returnFrom]

@[simp] theorem canon_wr32 (s : State) (gid i lane : Nat) (o : Opnd) (x : Word) (h : s.held.Canon) :
    (s.wr32 gid i lane o x).held.Canon := by
  simp only [State.wr32]
  split <;> simp [h]

@[simp] theorem canon_wr64 (s : State) (gid i lane : Nat) (o : Opnd) (x : DWord) (h : s.held.Canon) :
    (s.wr64 gid i lane o x).held.Canon := by
  simp only [State.wr64]
  split <;> simp [h]

@[simp] theorem canon_wrW (s : State) (wide : Bool) (gid i lane : Nat) (o : Opnd) (x : DWord) (h : s.held.Canon) :
    (s.wrW wide gid i lane o x).held.Canon := by
  simp [State.wrW, h]

@[simp] theorem canon_wrKbit (s : State) (gid i lane : Nat) (o : Opnd) (b : Bool) (h : s.held.Canon) :
    (s.wrKbit gid i lane o b).held.Canon := by
  simp only [State.wrKbit]
  split <;> simp [h]

@[simp] theorem canon_wrKall (s : State) (gid i : Nat) (o : Opnd) (b : Bool) (h : s.held.Canon) :
    (s.wrKall gid i o b).held.Canon := by
  simp only [State.wrKall]
  split <;> simp [h]

@[simp] theorem held_wrapOut (s : State) (tid : Nat) : (s.wrapOut tid).held = s.held := (rfl)
@[simp] theorem held_winOut (s : State) (tid : Nat) : (s.winOut tid).held = s.held := (rfl)

end Sys2Proof.Machine
end

section
/-! PROOF. What the operations of memory, packets, fabric and teams leave of registers and bytes. -/

namespace Sys2Proof.Machine

@[simp] theorem held_toQueue (s : State) (k : Nat) : (s.toQueue k).held = s.held := (rfl)

@[simp] theorem held_leaveQueue (s : State) (k : Nat) (q : Packet) : (s.leaveQueue k q).held = s.held := by
  simp [State.leaveQueue]

@[simp] theorem held_pumpOne (s : State) (k : Nat) : (s.pumpOne k).held = s.held := by
  simp only [State.pumpOne]
  split <;> simp

@[simp] theorem held_pump (s : State) : (s.pump).held = s.held := by simp [State.pump]
@[simp] theorem held_produce (s : State) (p : Packet) : (s.produce p).held = s.held := by simp [State.produce]
@[simp] theorem held_drain (s : State) (k : Nat) : (s.drain k).held = s.held := by simp [State.drain]
@[simp] theorem held_fenceNow (s : State) (gid : Nat) : (s.fenceNow gid).held = s.held := (rfl)
@[simp] theorem held_frontNow (s : State) (p : Packet) : (s.frontNow p).held = s.held := (rfl)
@[simp] theorem held_take (s : State) (k : Nat) (p : Packet) : (s.take k p).held = s.held := by simp [State.take]
@[simp] theorem held_modOp (s : State) (gid oid : Nat) (f : Op → Op) : (s.modOp gid oid f).held = s.held := (rfl)
@[simp] theorem held_lose (s : State) (gid oid : Nat) (l : List (Reg × Nat × Nat)) : (s.lose gid oid l).held = s.held := (rfl)

@[simp] theorem canon_wrReg (s : State) (gid p : Nat) (r : Reg) (x : Word) (h : s.held.Canon) :
    (s.wrReg gid p r x).held.Canon := by
  simp only [State.wrReg]
  split <;> simp [h]

@[simp] theorem canon_freeReg (s : State) (gid p : Nat) (r : Reg) (h : s.held.Canon) : (s.freeReg gid p r).held.Canon := by
  simp [State.freeReg, h]

@[simp] theorem canon_landWord (s : State) (gid p : Nat) (o : Op) (r : Reg) (x : Word) (h : s.held.Canon) :
    (s.landWord gid p o r x).held.Canon := by
  simp only [State.landWord]
  split <;> simp [h]

@[simp] theorem canon_land (s : State) (gid oid at_ : Nat) (x : DWord) (h : s.held.Canon) :
    (s.land gid oid at_ x).held.Canon := by
  simp only [State.land]
  split <;> simp +contextual [h, canon_foldl]

@[simp] theorem held_tellReady (old s : State) : (State.tellReady old s).held = s.held := by simp [State.tellReady]

@[simp] theorem held_regWrite (s : State) (level : Level) (part : Nat) (r : Config.DevReg) (off : Nat) (bytes : List Byte) :
    (s.regWrite level part r off bytes).held = s.held := by
  simp only [State.regWrite]
  split <;> simp

@[simp] theorem held_freeBytes (s : State) (n : Nat) : (s.freeBytes n).2.held = s.held := (rfl)
@[simp] theorem held_regRead (s : State) (pa n : Nat) : (s.regRead pa n).2.held = s.held := by simp [State.regRead]

@[simp] theorem held_regStore (s : State) (level : Level) (part pa : Nat) (bytes : List Byte) :
    (s.regStore level part pa bytes).held = s.held := by
  simp only [State.regStore]
  split <;> simp

@[simp] theorem held_sendAccess (s : State) (gid oid : Nat) (act : Act) (a : Access) :
    (s.sendAccess gid oid act a).held = s.held := by
  simp [State.sendAccess]

@[simp] theorem held_noteEsn (s : State) (tid esn : Nat) : (s.noteEsn tid esn).held = s.held := by simp [State.noteEsn]

@[simp] theorem held_leave (s : State) (team : Option Nat) (o : Out) : (s.leave team o).held = s.held := by
  simp only [State.leave]
  split <;> simp

@[simp] theorem held_sendOut (s : State) (d : Nat × Nat × Nat) (team : Option Nat) (o : Out) :
    (s.sendOut d team o).held = s.held := by
  simp [State.sendOut]

@[simp] theorem held_sendCopy (s : State) (k : Nat) : (s.sendCopy k).held = s.held := by
  simp only [State.sendCopy]
  split <;> simp

@[simp] theorem held_addCopy (s : State) (c : Copy) : (s.addCopy c).held = s.held := by simp [State.addCopy]

@[simp] theorem held_sendCopies (s : State) (tid : Nat) (group : Option Nat) (pa : Nat) (op : Option AOp) (bytes : List Byte) :
    (s.sendCopies tid group pa op bytes).held = s.held := by
  simp only [State.sendCopies]
  split <;> simp

@[simp] theorem held_flushPorts (s : State) : (s.flushPorts).held = s.held := by simp [State.flushPorts]

@[simp] theorem held_openRelease (s : State) (tid : Nat) (gid : Option Nat) (scope : Scope) (purpose : RelFor) :
    (s.openRelease tid gid scope purpose).2.held = s.held :=
  (rfl)

@[simp] theorem held_dropPins (s : State) (lid : Nat) : (s.dropPins lid).held = s.held := (rfl)
@[simp] theorem held_noteExport (s : State) (tid ts : Nat) : (s.noteExport tid ts).held = s.held := by simp [State.noteExport]

@[simp] theorem canon_commitTeam (s : State) (tid ts : Nat) (l : Store Byte) (h : s.held.Canon) :
    (s.commitTeam tid ts l).held.Canon := by
  simp [State.commitTeam, h]

@[simp] theorem held_toOverlay (s : State) (tid ts : Nat) (l : Store (Byte × Nat)) : (s.toOverlay tid ts l).held = s.held :=
  (rfl)

@[simp] theorem canon_redAt (s : State) (pa n : Nat) (op : AOp) (b : Nat) (h : s.held.Canon) :
    (s.redAt pa n op b).held.Canon := by
  unfold State.redAt
  split
  · obtain ⟨hmem, rest⟩ := h
    exact ⟨Memory.wf_writeAll _ _ _ _ hmem, rest⟩
  · exact h

@[simp] theorem held_copiesOut (s : State) (tid ts : Nat) : (s.copiesOut tid ts).held = s.held := (rfl)

@[simp] theorem held_takePending (s : State) (tid : Nat) (scope : Scope) : (s.takePending tid scope).2.2.held = s.held := by
  simp [State.takePending]

@[simp] theorem held_relInstalled (s : State) (r : Nat) : (s.relInstalled r).held = s.held := by
  simp only [State.relInstalled]
  (repeat' split) <;> simp

@[simp] theorem held_sendCommits (s : State) (tid rel ts : Nat) (l : Store Byte) :
    (s.sendCommits tid rel ts l).held = s.held := by
  simp [State.sendCommits]

@[simp] theorem held_forgetRel (s : State) (k : Nat) : (s.forgetRel k).held = s.held := by
  simp only [State.forgetRel]
  split <;> simp

@[simp] theorem held_runStages (s : State) (gid oid n : Nat) : (s.runStages gid oid n).held = s.held := by
  induction n generalizing s with
  | zero => rfl
  | succ n ih =>
    simp only [State.runStages]
    split
    · rfl
    · split <;> simp [ih]

@[simp] theorem held_finishOp (s : State) (gid oid : Nat) : (s.finishOp gid oid).held = s.held := by
  simp only [State.finishOp]
  split <;> simp

@[simp] theorem held_settleGroup (s : State) (gid : Nat) : (s.settleGroup gid).held = s.held := by simp [State.settleGroup]
@[simp] theorem held_settle (s : State) : (s.settle).held = s.held := by simp [State.settle]
@[simp] theorem held_answered (s : State) (gid oid : Nat) : (s.answered gid oid).held = s.held := (rfl)
@[simp] theorem held_clearTile (s : State) (cid p : Nat) : (s.clearTile cid p).held = s.held := (rfl)
@[simp] theorem held_grantTiles (s : State) (tid n : Nat) : (s.grantTiles tid n).2.held = s.held := by simp [State.grantTiles]

@[simp] theorem canon_endAcc (s : State) (tid : Nat) (r : AccReq) (x : DWord) (h : s.held.Canon) :
    (s.endAcc tid r x).held.Canon := by
  simp [State.endAcc, h]

@[simp] theorem canon_accGrant (s : State) (cid : Nat) (h : s.held.Canon) : (s.accGrant cid).held.Canon := by
  simp only [State.accGrant]
  split <;> simp [h]

@[simp] theorem canon_freeTiles (s : State) (tid : Nat) (nums : List Nat) (h : s.held.Canon) :
    (s.freeTiles tid nums).held.Canon := by
  simp [State.freeTiles, h]

@[simp] theorem canon_eraseTeam (s : State) (tid : Nat) (h : s.held.Canon) : (s.eraseTeam tid).held.Canon := by
  obtain ⟨hmem, hscr, htile, hk⟩ := h
  exact ⟨hmem, hscr, htile, fun p hp => hk p (List.mem_of_mem_filter hp)⟩

@[simp] theorem canon_storeBank (s : State) (tid : Nat) (h : s.held.Canon) : (s.storeBank tid).held.Canon := by
  simp [State.storeBank, h]

@[simp] theorem canon_leaveCore (s : State) (tid : Nat) (h : s.held.Canon) : (s.leaveCore tid).held.Canon := by
  simp [State.leaveCore, h]

@[simp] theorem held_purgeTeam (s : State) (tid : Nat) : (s.purgeTeam tid).held = s.held := (rfl)

@[simp] theorem canon_killTeam (s : State) (tid : Nat) (h : s.held.Canon) : (s.killTeam tid).held.Canon := by
  have erased : (((s.leaveCore tid).purgeTeam tid).eraseTeam tid).held.Canon := by simp [h]
  unfold State.killTeam
  dsimp only
  split <;> exact erased

@[simp] theorem canon_unLine (s : State) (lid line : Nat) (ts : List Nat) (h : s.held.Canon) :
    (s.unLine lid line ts).held.Canon := by
  obtain ⟨hmem, rest⟩ := h
  unfold State.unLine
  dsimp only
  split
  · exact ⟨hmem, rest⟩
  · split
    · split <;> exact ⟨Memory.wf_mwrites _ _ _ hmem, rest⟩
    · exact ⟨Memory.wf_mwrites _ _ _ hmem, rest⟩

@[simp] theorem held_dropCommits (s : State) (lid : Nat) : (s.dropCommits lid).held = s.held := (rfl)

@[simp] theorem canon_rollback (s : State) (lid : Nat) (h : s.held.Canon) : (s.rollback lid).held.Canon := by
  have killed : ((s.teamsOf lid).foldl (fun s t => s.killTeam t) s).held.Canon := canon_foldl _ _ (fun t q => canon_killTeam t q) h
  simp only [State.rollback, held_modLaunch, held_mk, held_eta]
  exact canon_foldl _ _ (fun t line => canon_unLine t lid line _) (by simpa using killed)

@[simp] theorem canon_consume (s : State) (tid pa : Nat) (h : s.held.Canon) : (s.consume tid pa).held.Canon := by
  simp [State.consume, h]

end Sys2Proof.Machine
end

section
/-! PROOF. What the frame of a group's instructions leaves of registers and bytes. -/

namespace Sys2Proof.Machine

@[simp] theorem held_rewritten (s : State) (m : Meta) (iss : Iss) : (s.rewritten m iss).held = s.held := by
  simp [State.rewritten]

@[simp] theorem held_advance (s : State) (iss : Iss) : (s.advance iss).held = s.held := by simp [State.advance]
@[simp] theorem held_noteIssue (s : State) (iss : Iss) (l : Nat) : (s.noteIssue iss l).held = s.held := (rfl)

@[simp] theorem held_busyUntil (s : State) (gid : Nat) (c : Ctl) (t : Nat) : (s.busyUntil gid c t).held = s.held := by
  simp [State.busyUntil]

@[simp] theorem held_addHazards (s : State) (m : Meta) (iss : Iss) (allL : Bool) (ready : Option Nat) (oid : Nat) :
    (s.addHazards m iss allL ready oid).held = s.held :=
  (rfl)

@[simp] theorem canon_spoilOne (s : State) (iss : Iss) (places : List (Nat × Nat)) (d : Opnd × Bool) (h : s.held.Canon) :
    (s.spoilOne iss places d).held.Canon := by
  simp +contextual [State.spoilOne, h, canon_foldl]

@[simp] theorem canon_spoil (s : State) (m : Meta) (iss : Iss) (allL : Bool) (h : s.held.Canon) :
    (s.spoil m iss allL).held.Canon := by
  simp +contextual [State.spoil, h, canon_foldl]

@[simp] theorem canon_overtake (s : State) (m : Meta) (iss : Iss) (allL : Bool) (ready : Nat) (hs : List Hazard) (h : s.held.Canon) :
    (s.overtake m iss allL ready hs).held.Canon := by
  refine canon_foldl _ _ (fun t q ht => ?_) h
  dsimp only
  split
  · exact ht
  · split
    · exact canon_foldl _ _ (fun u p hu => canon_freeReg u _ _ _ hu) ht
    · exact ht

@[simp] theorem canon_settleDests (s : State) (m : Meta) (iss : Iss) (early maskEarly : Bool) (ready : Nat) (waw : List Hazard)
    (h : s.held.Canon) : (s.settleDests m iss early maskEarly ready waw).held.Canon := by
  have overtaken := canon_overtake s m iss maskEarly ready waw h
  simp only [State.settleDests]
  split <;> simp [overtaken]

@[simp] theorem canon_serviceFault (s : State) (iss : Iss) (va : Nat) (kind : AccKind) (ipc : Addr) (h : s.held.Canon) :
    (s.serviceFault iss va kind ipc).held.Canon := by
  simp [State.serviceFault, h]

@[simp] theorem held_moveOn (s : State) (m : Meta) (iss : Iss) : (s.moveOn m iss).held = s.held := by simp [State.moveOn]

@[simp] theorem held_addOp (s : State) (m : Meta) (iss : Iss) (l : Nat) (allL : Bool) (waw : List Hazard) (o : Op) :
    (s.addOp m iss l allL waw o).held = s.held := by
  simp [State.addOp]

/-- Every state that an instruction's body comes to is canonical. -/
def Res.Canon : Res → Prop
  | .done s | .op s _ | .jump s | .trap s _ | .service s _ _ | .holding s | .block s _ | .gone s => s.held.Canon
  | .hold => True

@[simp] theorem Res.canon_done {s : State} : (Res.done s).Canon ↔ s.held.Canon := Iff.rfl
@[simp] theorem Res.canon_op {s : State} {o : Op} : (Res.op s o).Canon ↔ s.held.Canon := Iff.rfl
@[simp] theorem Res.canon_jump {s : State} : (Res.jump s).Canon ↔ s.held.Canon := Iff.rfl
@[simp] theorem Res.canon_trap {s : State} {c : Cause} : (Res.trap s c).Canon ↔ s.held.Canon := Iff.rfl
@[simp] theorem Res.canon_service {s : State} {va : Nat} {k : AccKind} : (Res.service s va k).Canon ↔ s.held.Canon := Iff.rfl
@[simp] theorem Res.canon_holding {s : State} : (Res.holding s).Canon ↔ s.held.Canon := Iff.rfl
@[simp] theorem Res.canon_block {s : State} {o : Op} : (Res.block s o).Canon ↔ s.held.Canon := Iff.rfl
@[simp] theorem Res.canon_gone {s : State} : (Res.gone s).Canon ↔ s.held.Canon := Iff.rfl
@[simp] theorem Res.canon_hold : Res.hold.Canon := trivial

@[simp] theorem Res.canon_ite {c : Prop} [Decidable c] {a b : Res} :
    (if c then a else b).Canon ↔ if c then a.Canon else b.Canon := by
  split <;> rfl

@[simp] theorem canon_unread (m : Meta) (iss : Iss) (s : State) (r : Res) (h : s.held.Canon) (hr : r.Canon) :
    (State.unread m iss s r).Canon := by
  have blank : ∀ b : Bool, (if b then Res.op s (Op.of iss m []) else Res.done s).Canon := fun b => by cases b <;> simpa using h
  unfold State.unread
  dsimp only
  split
  · trivial
  · exact hr
  · split
    · exact hr
    · exact blank _
  · exact blank _

/-- What an instruction's body comes to at its issue, or what is left of it where it reads too early, is canonical. -/
theorem canon_comesTo {s : State} {m : Meta} {iss : Iss} {body : Iss → State → Res} (h : s.held.Canon)
    (hb : ∀ t, t.held.Canon → (body iss t).Canon) {early : Prop} [Decidable early] {r : Res}
    (e : (if early then State.unread m iss (s.issuing m iss) (body iss (s.issuing m iss)) else body iss (s.issuing m iss)) = r) :
    r.Canon := by
  have timed : (s.issuing m iss).held.Canon := h
  subst e
  split
  · exact canon_unread m iss _ _ timed (hb _ timed)
  · exact hb _ timed

theorem canon_run (s : State) (m : Meta) (iss : Iss) (body : Iss → State → Res) (h : s.held.Canon)
    (hb : ∀ t, t.held.Canon → (body iss t).Canon) : (s.run m iss body).held.Canon := by
  unfold State.run
  dsimp only
  split
  · simpa using h
  · split
    next => exact h
    next e => exact canon_comesTo h hb e
    next e => exact canon_comesTo h hb e
    next e => simpa using canon_comesTo h hb e
    next t k e =>
      have ht : t.held.Canon := canon_comesTo h hb e
      simp [ht]
    next t va kind e =>
      have ht : t.held.Canon := canon_comesTo h hb e
      simp [ht]
    next t e =>
      have ht : t.held.Canon := canon_comesTo h hb e
      split <;> simp [ht]
    next t e =>
      have ht : t.held.Canon := canon_comesTo h hb e
      simp [ht]
    next t o e =>
      have ht : t.held.Canon := canon_comesTo h hb e
      split <;> simp [ht]

theorem canon_issue (s : State) (m : Meta) (iss : Iss) (body : Iss → State → Res) (h : s.held.Canon)
    (hb : ∀ t, t.held.Canon → (body iss t).Canon) : (s.issue m iss body).held.Canon := by
  unfold State.issue
  split
  · simp [h]
  · split
    · exact h
    · split
      · simp [h]
      · exact canon_run s m iss body h hb

theorem canon_releaseFirst {scope : Scope} {iss : Iss} {s : State} {rest : Nat → State → Res} (h : s.held.Canon)
    (hr : ∀ n t, t.held.Canon → (rest n t).Canon) : (releaseFirst scope iss s rest).Canon := by
  unfold releaseFirst
  dsimp only
  split
  · split
    · exact hr _ _ (by simpa using h)
    · trivial
  · split
    · trivial
    · split
      · exact hr _ _ h
      · exact h

@[simp] theorem canon_fpFinish (m : Meta) (iss : Iss) (s t : State) (conds : Nat) (h : s.held.Canon) (ht : t.held.Canon) :
    (fpFinish m iss s t conds).Canon := by
  simp [fpFinish, h, ht]

@[simp] theorem canon_perTarget (s : State) (iss : Iss) (vec : Bool) (pm : BitVec 3) (wide : Bool) (d : Opnd)
    (f : Nat → Nat → DWord) (h : s.held.Canon) :
    (s.perTarget iss vec pm wide d f).held.Canon := by
  simp +contextual [State.perTarget, h, canon_foldl]

@[simp] theorem canon_perTargetK (s : State) (iss : Iss) (vec : Bool) (pm : BitVec 3) (d : Opnd) (f : Nat → Nat → Bool)
    (h : s.held.Canon) :
    (s.perTargetK iss vec pm d f).held.Canon := by
  simp +contextual [State.perTargetK, h, canon_foldl]

end Sys2Proof.Machine
end

section
/-! PROOF. What the control flow, the objects and the acceptance of commands leave of registers and bytes. -/

namespace Sys2Proof.Machine

@[simp] theorem canon_perTargetF (s : State) (iss : Iss) (vec : Bool) (pm : BitVec 3) (wide : Bool) (d : Opnd)
    (f : Nat → Nat → DWord × Nat) (h : s.held.Canon) :
    (s.perTargetF iss vec pm wide d f).1.held.Canon := by
  simp +contextual [State.perTargetF, h, canon_foldl]

@[simp] theorem held_capture (s : State) (tid : Nat) (acq : Bool) (scope : Scope) :
    (s.capture tid acq scope).held = s.held := by
  simp [State.capture]

theorem held_acceptScroll {s t : State} {tid gid : Nat} {addr : Addr} {resume : Bool} {o : Word} {spill : Option DWord} {c : Cmd}
    (e : s.acceptScroll tid gid addr resume o spill = .ok (c, t)) : t.held = s.held := by
  simp only [State.acceptScroll] at e
  repeat' split at e
  all_goals cases e
  all_goals exact held_capture ..

theorem held_acceptCopy {s t : State} {tid gid : Nat} {addr : Addr} {kind : CmdKind} {a b : Word} {c : Cmd}
    (e : s.acceptCopy tid gid addr kind a b = .ok (c, t)) : t.held = s.held := by
  unfold State.acceptCopy at e
  dsimp only at e
  split at e
  · cases e
  · cases e
  · split at e
    · cases e
    · cases e
      exact held_capture ..

@[simp] theorem held_modTslot (s : State) (cid slot : Nat) (f : TSlot → TSlot) : (s.modTslot cid slot f).held = s.held := (rfl)

@[simp] theorem held_acceptDtload (s : State) (tid gid : Nat) (addr : Addr) (acq : Bool) (scope : Scope) (slot : Bool)
    (a : DWord) :
    (s.acceptDtload tid gid addr acq scope slot a).2.held = s.held := by
  simp [State.acceptDtload]

@[simp] theorem held_endReplay (s : State) (c : Cmd) : (s.endReplay c).held = s.held := by simp [State.endReplay]
@[simp] theorem held_queueCmd (s : State) (c : Cmd) : (s.queueCmd c).2.held = s.held := (rfl)

@[simp] theorem held_postAsync (s : State) (tid gid : Nat) (c : Cause) : (s.postAsync tid gid c).held = s.held := by
  simp only [State.postAsync]
  split <;> simp

@[simp] theorem held_planeFault (s : State) (tid gid reason : Nat) (addr : Addr) (aux : List DWord) :
    (s.planeFault tid gid reason addr aux).held = s.held := by
  simp [State.planeFault]

@[simp] theorem held_fireWord (s : State) (tid gid : Nat) (addr : Addr) (w : DWord) (vals : List DWord) :
    (s.fireWord tid gid addr w vals).held = s.held := by
  unfold State.fireWord
  dsimp only
  split
  next c t got =>
    have accepted : t.held = s.held := by
      split at got
      · exact held_acceptScroll got
      · exact held_acceptScroll got
      · exact held_acceptCopy got
      · exact held_acceptCopy got
      · exact held_acceptCopy got
      · cases got
        simp
      · cases got
    simp [accepted]
  · simp

@[simp] theorem held_seqAdvance (s : State) (q : Nat) : (s.seqAdvance q).held = s.held := (rfl)
@[simp] theorem held_seqGo (s : State) (q : Nat) : (s.seqGo q).held = s.held := (rfl)

@[simp] theorem held_seqCheck (s : State) (q : Nat) : (s.seqCheck q).held = s.held := by
  simp only [State.seqCheck]
  split <;> simp

@[simp] theorem held_unpairTo (s : State) (q other : Nat) : (s.unpairTo q other).held = s.held := by simp [State.unpairTo]
@[simp] theorem held_follow (s : State) (q n : Nat) : (s.follow q n).held = s.held := by simp [State.follow]
@[simp] theorem held_mpairCheck (s : State) (q : Nat) : (s.mpairCheck q).held = s.held := by simp [State.mpairCheck]
@[simp] theorem held_twinGone (s : State) (q n : Nat) : (s.twinGone q n).held = s.held := by simp [State.twinGone]

@[simp] theorem held_meet (s : State) (tid off : Nat) (tgt : Word) : (s.meet tid off tgt).held = s.held := by
  simp only [State.meet]
  (repeat' split) <;> simp

@[simp] theorem held_wakeSeqrs (s : State) (cid : Nat) : (s.wakeSeqrs cid).held = s.held := by simp [State.wakeSeqrs]

@[simp] theorem canon_answerStop (s : State) (q : Nat) (a : Addr) (h : s.held.Canon) : (s.answerStop q a).held.Canon := by
  unfold State.answerStop
  split
  · exact h
  · split
    · exact h
    · dsimp only
      split
      · exact h
      next o _ =>
        simp only [held_settleGroup, held_modOp]
        exact canon_foldl _ _ (fun t i ht => canon_land t _ _ _ _ ht) h

@[simp] theorem held_pairWrite (s : State) (q : Nat) (unpair : Bool) : (s.pairWrite q unpair).held = s.held := by
  simp [State.pairWrite]

@[simp] theorem held_pairDue (s : State) (q : Nat) : (s.pairDue q).held = s.held := by
  simp only [State.pairDue]
  split <;> simp

@[simp] theorem canon_seqStop (s : State) (q : Nat) (a : Addr) (h : s.held.Canon) : (s.seqStop q a).held.Canon := by
  simp [State.seqStop, h]

@[simp] theorem canon_seqFault (s : State) (q reason : Nat) (addr : Addr) (tid : Option Nat) (h : s.held.Canon) :
    (s.seqFault q reason addr tid).held.Canon := by
  simp [State.seqFault, h]

@[simp] theorem held_letGo (s : State) (gid : Nat) (is : List Nat) : (s.letGo gid is).held = s.held := by simp [State.letGo]
@[simp] theorem held_wakeWaits (s : State) (cid off : Nat) : (s.wakeWaits cid off).held = s.held := by simp [State.wakeWaits]
@[simp] theorem held_readyLaunches (s : State) (cid : Nat) : (s.readyLaunches cid).held = s.held := (rfl)
@[simp] theorem held_fire (s : State) (cid : Nat) (l : List Trigger) : (s.fire cid l).held = s.held := by simp [State.fire]

@[simp] theorem canon_objUpdate (s : State) (ctx cid off : Nat) (f : Obj → Obj) (h : s.held.Canon) :
    (s.objUpdate ctx cid off f).held.Canon := by
  unfold State.objUpdate
  dsimp only
  split
  · exact h
  · simp [h]

@[simp] theorem canon_objLand (s : State) (ctx cid off n : Nat) (h : s.held.Canon) : (s.objLand ctx cid off n).held.Canon := by
  simp [State.objLand, h]

@[simp] theorem canon_objArrive (s : State) (ctx cid off n : Nat) (h : s.held.Canon) :
    (s.objArrive ctx cid off n).held.Canon := by
  simp [State.objArrive, h]

@[simp] theorem canon_scrStore (s : State) (cid off : Nat) (bs : List Byte) (h : s.held.Canon) :
    (s.scrStore cid off bs).held.Canon := by
  simp [State.scrStore, h]

@[simp] theorem held_putEntry (s : State) (gid : Nat) (e : RegEntry) : (s.putEntry gid e).held = s.held := (rfl)

@[simp] theorem canon_dropLanes (s : State) (cid gid off : Nat) (lanes : BitVec 32) (h : s.held.Canon) :
    (s.dropLanes cid gid off lanes).held.Canon := by
  simp [State.dropLanes, h]

@[simp] theorem held_regangRelease (s : State) (gid : Nat) : (s.regangRelease gid).held = s.held := by
  simp [State.regangRelease]

@[simp] theorem held_regangCheck (s : State) (gid : Nat) : (s.regangCheck gid).held = s.held := by simp [State.regangCheck]
@[simp] theorem held_sendTo (s : State) (iss : Iss) (f : Nat → Addr) : (s.sendTo iss f).held = s.held := by simp [State.sendTo]

@[simp] theorem canon_wrReturn (s : State) (iss : Iss) (d : Opnd) (h : s.held.Canon) : (s.wrReturn iss d).held.Canon := by
  simp +contextual [State.wrReturn, h, canon_foldl]

@[simp] theorem held_passAsyncs (s : State) (gid : Nat) : (s.passAsyncs gid).held = s.held := by simp [State.passAsyncs]

@[simp] theorem held_afterExit (s : State) (gid : Nat) : (s.afterExit gid).held = s.held := by
  simp only [State.afterExit]
  (repeat' split) <;> simp

@[simp] theorem held_closeTx (s : State) (gid : Nat) : (s.closeTx gid).held = s.held := (rfl)

@[simp] theorem held_noteRange (s : State) (tid : Nat) (b : Option Nat) : (s.noteRange tid b).held = s.held := by
  simp [State.noteRange]

@[simp] theorem canon_ownLoad (s : State) (iss : Iss) (vec : Bool) (c : Ctl) (sz : Size) (sx : Bool) (d a : Opnd)
    (off : BitVec 11) (h : s.held.Canon) :
    (s.ownLoad iss vec c sz sx d a off).held.Canon := by
  simp [State.ownLoad, h]

@[simp] theorem held_settleScr (s : State) (cid b n : Nat) : (s.settleScr cid b n).held = s.held := (rfl)

@[simp] theorem canon_ownStore (s : State) (iss : Iss) (vec : Bool) (c : Ctl) (sz : Size) (d a : Opnd) (off : BitVec 11)
    (h : s.held.Canon) : (s.ownStore iss vec c sz d a off).held.Canon := by
  refine canon_foldl _ _ (fun t q ht => ?_) h
  split <;> simp [ht]

@[simp] theorem canon_landZero (s : State) (gid oid : Nat) (lanes : List Nat) (h : s.held.Canon) :
    (s.landZero gid oid lanes).held.Canon := by
  simp +contextual [State.landZero, h, canon_foldl]

end Sys2Proof.Machine
end

section
/-! PROOF. What accesses, atomics and barrier instructions leave of registers and bytes. -/

namespace Sys2Proof.Machine

@[simp] theorem held_translateAll (s : State) (iss : Iss) (need : Need) (l : List Want) :
    (s.translateAll iss need l).2.held = s.held := by
  induction l generalizing s with
  | nil => rfl
  | cons w l ih => exact (ih _).trans (held_translate ..)

/-- Accesses that pass their checks have filled translation caches and nothing else. -/
theorem held_checked {s t : State} {iss : Iss} {need : Need} {noGroup : Bool} {size : Nat} {l : List Want} {acc : List Access}
    (e : checked s iss need noGroup size l = .ok (acc, t)) : t.held = s.held := by
  simp only [checked] at e
  repeat' split at e
  all_goals cases e
  simp

theorem canon_checked {s : State} {iss : Iss} {need : Need} {noGroup : Bool} {size : Nat} {l : List Want} {r : Res}
    (e : checked s iss need noGroup size l = .error r) (h : s.held.Canon) : r.Canon := by
  simp only [checked] at e
  repeat' split at e
  all_goals cases e
  all_goals simp [h]

@[simp] theorem canon_readBody (m : Meta) (act : Act) (ord : Order) (scope : Scope) (size : Nat) (l : List Want) (iss : Iss) (s : State)
    (h : s.held.Canon) : (readBody m act ord scope size l iss s).Canon := by
  unfold readBody
  split
  next e => exact canon_checked e h
  next e => simp [held_checked e, h]

theorem canon_tileAccesses {s : State} {iss : Iss} {a b : Opnd} {off : BitVec 11} {data : Nat → List Byte} {r : Res}
    (e : tileAccesses s iss a b off data = .error r) (h : s.held.Canon) : r.Canon := by
  simp only [tileAccesses] at e
  split at e
  · cases e
    exact h
  · cases e

@[simp] theorem held_txStore (s : State) (gid : Nat) (l : List Access) : (s.txStore gid l).held = s.held := (rfl)

@[simp] theorem canon_storeBody (m : Meta) (ord : Order) (scope : Scope) (size : Nat) (l : List Want) (iss : Iss) (s : State)
    (h : s.held.Canon) : (storeBody m ord scope size l iss s).Canon := by
  unfold storeBody
  dsimp only
  split
  next e => exact canon_checked e h
  next e => simp [held_checked e, h]

@[simp] theorem held_abortTx (s : State) (gid cause code : Nat) : (s.abortTx gid cause code).held = s.held := by
  simp only [State.abortTx]
  split <;> simp

@[simp] theorem canon_abortAtomic (rel : Bool) (scope : Scope) (iss : Iss) (s : State) (h : s.held.Canon) :
    (abortAtomic rel scope iss s).Canon := by
  unfold abortAtomic
  split
  · exact canon_releaseFirst h fun n t ht => by simpa using ht
  · simp [h]

@[simp] theorem canon_txTrap (s : State) (iss : Iss) (reason : Nat) : (txTrap s iss reason).Canon ↔ s.held.Canon := by
  simp [txTrap]

@[simp] theorem held_joinPending (s : State) (tid : Nat) (l : Store Byte) : (s.joinPending tid l).held = s.held := (rfl)

@[simp] theorem held_commitTx (s : State) (tid gid ts : Nat) (scope : Scope) (l : Store Byte) :
    (s.commitTx tid gid ts scope l).2.held = s.held := by
  simp [State.commitTx]

theorem held_spaceFor {s t : State} {l : List Nat} (e : s.spaceFor l = some t) : t.held = s.held := by
  obtain ⟨pa, -, waits⟩ := List.exists_of_findSome?_eq_some e
  exact held_spaceWait waits

/-- A result that is a state is canonical. -/
def OkCanon {ε : Type} (r : Except ε State) : Prop := ∀ t, r = .ok t → t.held.Canon

@[simp] theorem okCanon_ok {ε : Type} {t : State} : OkCanon (.ok t : Except ε State) ↔ t.held.Canon := by simp [OkCanon]

@[simp] theorem okCanon_error {ε : Type} {x : ε} : OkCanon (.error x : Except ε State) := by simp [OkCanon]

@[simp] theorem okCanon_ite {ε : Type} {c : Prop} [Decidable c] {a b : Except ε State} :
    OkCanon (if c then a else b) ↔ if c then OkCanon a else OkCanon b := by split <;> rfl

theorem canon_perSlice (iss : Iss) (s : State) (f : Nat → State → Except Cause State) (h : s.held.Canon)
    (hf : ∀ i t, t.held.Canon → OkCanon (f i t)) : (perSlice iss s f).Canon := by
  have each (l : List Nat) : ∀ r : Except Cause State, OkCanon r → OkCanon (l.foldl (fun r i => r.bind (f i)) r) := by
    induction l with
    | nil => exact fun r hr => hr
    | cons i l ih =>
      refine fun r hr => ih _ ?_
      cases r with
      | ok t => exact hf i t (hr t rfl)
      | error k => simp [Except.bind]
  unfold perSlice
  split
  next e => exact each _ _ (by simpa using h) _ e
  · exact h

@[simp] theorem canon_initObj (s : State) (ctx cid off n : Nat) (h : s.held.Canon) : (s.initObj ctx cid off n).held.Canon := by
  simp [State.initObj, h]

@[simp] theorem canon_binitSlice (iss : Iss) (d a : Opnd) (off : BitVec 11) (i : Nat) (s : State) (h : s.held.Canon) :
    OkCanon (binitSlice iss d a off i s) := by
  simp only [binitSlice]
  split <;> simp [h]

@[simp] theorem canon_bregSlice (iss : Iss) (a : Opnd) (off : BitVec 11) (i : Nat) (s : State) (h : s.held.Canon) :
    OkCanon (bregSlice iss a off i s) := by
  simp only [bregSlice]
  split <;> simp [h]

@[simp] theorem canon_wrD (s : State) (iss : Iss) (i : Nat) (d : Opnd) (x : Word) (h : s.held.Canon) :
    (s.wrD iss i d x).held.Canon := by
  simp [State.wrD, h]

@[simp] theorem canon_barrSlice (iss : Iss) (d a : Opnd) (b : Option Opnd) (off : BitVec 11) (i : Nat) (s : State) (h : s.held.Canon) :
    OkCanon (barrSlice iss d a b off i s) := by
  simp only [barrSlice]
  split <;> simp [h]

@[simp] theorem canon_arrival (iss : Iss) (r : Res) : (arrival iss r).Canon ↔ r.Canon := by
  cases r <;> simp [arrival]

@[simp] theorem canon_barrdSlice (iss : Iss) (d a : Opnd) (off : BitVec 11) (i : Nat) (s : State) (h : s.held.Canon) :
    OkCanon (barrdSlice iss d a off i s) := by
  simp only [barrdSlice]
  split <;> simp [h]

@[simp] theorem canon_bexpSlice (iss : Iss) (d a : Opnd) (off : BitVec 11) (i : Nat) (s : State) (h : s.held.Canon) :
    OkCanon (bexpSlice iss d a off i s) := by
  simp only [bexpSlice]
  split <;> simp [h]

@[simp] theorem held_bwaitSlice (iss : Iss) (d a : Opnd) (off : BitVec 11) (age : Nat) (s : State) (i : Nat) :
    (bwaitSlice iss d a off age s i).held = s.held := by
  simp only [bwaitSlice]
  split <;> simp

@[simp] theorem canon_btestSlice (iss : Iss) (d a b : Opnd) (off : BitVec 11) (i : Nat) (s : State) (h : s.held.Canon) :
    OkCanon (btestSlice iss d a b off i s) := by
  simp only [btestSlice]
  split <;> simp [h]

theorem okCanon_either {ε : Type} {c : Prop} [Decidable c] {a b : Except ε State} (ha : OkCanon a) (hb : OkCanon b) :
    OkCanon (if c then a else b) := by split <;> assumption

theorem canon_either {c : Prop} [Decidable c] {a b : State} (ha : a.held.Canon) (hb : b.held.Canon) :
    (if c then a else b).held.Canon := by split <;> assumption

@[simp] theorem canon_trigSlice (iss : Iss) (d a b : Opnd) (off : BitVec 11) (i : Nat) (s : State) (h : s.held.Canon) :
    OkCanon (trigSlice iss d a b off i s) := by
  have written (x : Word) : (s.wrD iss i d x).held.Canon := by simp [h]
  have wrapped : OkCanon (.ok ((s.wrapOut iss.tid).wrD iss i d 0) : Except Cause State) := by simp [h]
  unfold trigSlice
  extract_lets level pair thr rOff rBytes
  cases s.mapOff iss.tid level (objOff (pair.extractLsb' 0 32) off) with
  | none => exact wrapped
  | some x =>
    refine okCanon_either wrapped (okCanon_either okCanon_error (okCanon_either (okCanon_ok.mpr (written 0)) ?_))
    refine okCanon_ok.mpr (canon_either ?_ ?_)
    · rw [held_fireWord]
      exact written 1
    · exact written 1

end Sys2Proof.Machine
end

section
/-! PROOF. What the engines leave of registers and bytes. -/

namespace Sys2Proof.Machine

@[simp] theorem canon_accepted (m : Meta) (iss : Iss) (s : State) (r : Except (Nat × Word) (Cmd × State)) (h : s.held.Canon)
    (hr : ∀ k t, r = .ok (k, t) → t.held = s.held) : (accepted m iss s r).Canon := by
  unfold accepted
  split
  · exact h
  next k t => simp [hr k t rfl, h]

@[simp] theorem held_modCmd (s : State) (n : Nat) (f : Cmd → Cmd) : (s.modCmd n f).held = s.held := (rfl)

@[simp] theorem canon_cmdStore (s : State) (n : Nat) (k : Cmd) (src cid b : Nat) (bs : List Byte) (h : s.held.Canon) :
    (s.cmdStore n k src cid b bs).held.Canon := by
  simp [State.cmdStore, h]

@[simp] theorem canon_cmdLandAt (s : State) (n : Nat) (k : Cmd) (cid b m : Nat) (h : s.held.Canon) :
    (s.cmdLandAt n k cid b m).held.Canon := by
  simp [State.cmdLandAt, h]

@[simp] theorem held_engineStore (s : State) (n : Nat) (k : Cmd) (pa : Nat) (g : Option Nat) (bs : List Byte) :
    (s.engineStore n k pa g bs).held = s.held := by
  simp [State.engineStore]

@[simp] theorem held_askFor (s : State) (n : Nat) (k : Cmd) (dst : Endpoint) (place pa m : Nat) :
    (s.askFor n k dst place pa m).held = s.held := by
  simp [State.askFor]

@[simp] theorem canon_writeGranule (s : State) (n : Nat) (k : Cmd) (r : List DWord) (bs : List Byte) (l : List Nat) (h : s.held.Canon) :
    (s.writeGranule n k r bs l).held.Canon := by
  unfold State.writeGranule
  split
  · exact h
  · dsimp only
    split
    · exact canon_foldl _ _ (fun t q ht => canon_tileStore t _ _ ht) h
    split
    · refine canon_foldl _ _ (fun t q ht => ?_) h
      split <;> simp [ht]
    · simp [h]

@[simp] theorem canon_flushOpen (s : State) (n : Nat) (k : Cmd) (h : s.held.Canon) : (s.flushOpen n k).held.Canon := by
  unfold State.flushOpen
  dsimp only
  split
  · exact h
  · exact canon_foldl _ _ (fun t q ht => canon_writeGranule _ _ _ _ _ _ ht) h

@[simp] theorem canon_stopCmd (s : State) (n : Nat) (k : Cmd) (reason : Nat) (aux : List DWord) (h : s.held.Canon) :
    (s.stopCmd n k reason aux).held.Canon := by
  simp [State.stopCmd, h]

@[simp] theorem canon_expireCmd (s : State) (n : Nat) (k : Cmd) (va : Nat) (h : s.held.Canon) :
    (s.expireCmd n k va).held.Canon := by
  simp [State.expireCmd, h]

/-- What an attempt leaves, failed or not, is canonical. -/
def Tried {α : Type} (st : α → State) (r : Except State α) : Prop :=
  match r with
  | .error t => t.held.Canon
  | .ok a => (st a).held.Canon

@[simp] theorem tried_error {α : Type} {st : α → State} {t : State} : Tried st (.error t) ↔ t.held.Canon := Iff.rfl

@[simp] theorem tried_ok {α : Type} {st : α → State} {a : α} : Tried st (.ok a) ↔ (st a).held.Canon := Iff.rfl

theorem Tried.error {α : Type} {st : α → State} {r : Except State α} {t : State} (h : Tried st r) (e : r = .error t) :
    t.held.Canon := by
  subst e
  exact h

theorem Tried.ok {α : Type} {st : α → State} {r : Except State α} {a : α} (h : Tried st r) (e : r = .ok a) :
    (st a).held.Canon := by
  subst e
  exact h

@[simp] theorem canon_engineTr (s : State) (n : Nat) (k : Cmd) (need : Need) (va : Nat) (h : s.held.Canon) :
    Tried (fun r => r.2.2) (s.engineTr n k need va) := by
  simp only [State.engineTr]
  split <;> simp [h]

@[simp] theorem canon_engineLoad (s : State) (n : Nat) (k : Cmd) (va m : Nat) (h : s.held.Canon) :
    Tried Prod.snd (s.engineLoad n k va m) := by
  unfold State.engineLoad
  split
  · exact h
  split
  · simp [h]
  split
  next e => exact (canon_engineTr s n k _ va h).error e
  next e => simpa using (canon_engineTr s n k _ va h).ok e

@[simp] theorem canon_readElem (s : State) (n : Nat) (k : Cmd) (r : List DWord) (e : Int) (h : s.held.Canon) :
    Tried Prod.snd (s.readElem n k r e) := by
  simp only [State.readElem]
  split
  · simp [h]
  · split <;> simp [h]
  split
  · simp [h]
  split
  · split <;> simp [h]
  · split <;> simp [h]

@[simp] theorem canon_writeElem (s : State) (n : Nat) (k : Cmd) (r : List DWord) (bs : List Byte) (h : s.held.Canon) :
    Tried id (s.writeElem n k r bs) := by
  simp only [State.writeElem]
  split
  · split
    next e => exact (canon_engineTr s n k _ _ h).error e
    next e => simpa using (canon_engineTr s n k _ _ h).ok e
  split
  · simp [h]
  split <;> simp [h]

@[simp] theorem held_cmdReleases (s : State) (n : Nat) : (s.cmdReleases n).held = s.held := by
  simp only [State.cmdReleases]
  (repeat' split) <;> simp

@[simp] theorem held_wroteAll (s : State) (n : Nat) : (s.wroteAll n).held = s.held := by simp [State.wroteAll]

@[simp] theorem held_stopScroll (s : State) (n : Nat) (k : Cmd) (reason : Nat) : (s.stopScroll n k reason).held = s.held := by
  simp [State.stopScroll]

@[simp] theorem canon_spillTr (s : State) (k : Cmd) (vas : List Nat) (h : s.held.Canon) : (s.spillTr k vas).2.held.Canon := by
  induction vas generalizing s with
  | nil => exact h
  | cons va vas ih =>
    have ht : (s.translate (s.team k.tid).core k.tid k.level .write1 (va % 2 ^ 56)).2.held.Canon := by rwa [held_translate]
    simp only [State.spillTr]
    split
    · split
      next e => exact canon_of_pair e (ih _ ht)
      · exact ih _ ht
    case h_5 => exact canon_consume _ _ _ ht
    all_goals exact ht

@[simp] theorem canon_scrollStep (s : State) (n : Nat) (k : Cmd) (h : s.held.Canon) : (s.scrollStep n k).held.Canon := by
  unfold State.scrollStep
  extract_lets d f dest
  split
  extract_lets
  split
  · exact h
  split
  · simp [h]
  split
  next e => exact canon_of_pair e (canon_spillTr _ _ _ h)
  next e => simpa using canon_of_pair e (canon_spillTr _ _ _ h)
  next pas t e =>
    have ht : t.held.Canon := canon_of_pair e (canon_spillTr _ _ _ h)
    extract_lets t1 t2 t3 t4
    have h1 : t1.held.Canon := canon_foldl _ _ (fun u x hu => by simpa using hu) ht
    have h2 : t2.held.Canon := canon_foldl _ _ (fun u x hu => by split <;> simp [hu]) h1
    have h3 : t3.held.Canon := by
      unfold t3
      split
      · exact canon_foldl _ _ (fun u x hu => by simp [hu]) h2
      · exact h2
    simpa [t4] using h3

@[simp] theorem canon_copyRead (s : State) (n : Nat) (k : Cmd) (h : s.held.Canon) : Tried Prod.snd (s.copyRead n k) := by
  unfold State.copyRead
  split <;> simp [h]

@[simp] theorem canon_copyElem (s : State) (n : Nat) (k : Cmd) (h : s.held.Canon) : (s.copyElem n k).held.Canon := by
  simp only [State.copyElem]
  split
  next e => exact (canon_copyRead s n k h).error e
  next e =>
    have ht := (canon_copyRead s n k h).ok e
    split
    next e => exact (canon_writeElem _ n k _ _ ht).error e
    next e =>
      have hu := (canon_writeElem _ n k _ _ ht).ok e
      simpa using hu

@[simp] theorem held_contribute (s : State) (n : Nat) (k : Cmd) (fail : Bool) : (s.contribute n k fail).held = s.held := by
  simp [State.contribute]

@[simp] theorem held_collStopped (s : State) (n : Nat) : (s.collStopped n).held = s.held := by
  simp only [State.collStopped]
  (repeat' split) <;> simp

@[simp] theorem canon_collStop (s : State) (n : Nat) (k : Cmd) (reason : Nat) (h : s.held.Canon) :
    (s.collStop n k reason).held.Canon := by
  unfold State.collStop
  split <;> simp [h]

@[simp] theorem canon_collRefuse (s : State) (n : Nat) (k : Cmd) (reason : Nat) (h : s.held.Canon) :
    (s.collRefuse n k reason).held.Canon := by
  unfold State.collRefuse
  split
  · split <;> simp [h]
  · simp [h]

@[simp] theorem canon_resultTr (s : State) (n : Nat) (k : Cmd) (l : List Nat) (h : s.held.Canon) :
    Tried Prod.snd (s.resultTr n k l) := by
  induction l generalizing s with
  | nil => exact h
  | cons va l ih =>
    have ht : ((s.translate (s.team k.tid).core k.tid k.level .write1 va).2).held.Canon := by simpa using h
    simp only [State.resultTr]
    split
    · split
      next e =>
        have hu := (ih _ ht).ok e
        exact hu
      next e => exact (ih _ ht).error e
    all_goals simp [h]

@[simp] theorem canon_collJoin (s : State) (n : Nat) (k : Cmd) (h : s.held.Canon) : (s.collJoin n k).held.Canon := by
  simp only [State.collJoin]
  split
  next e => exact (canon_resultTr s n k _ h).error e
  next e =>
    have ht := (canon_resultTr s n k _ h).ok e
    dsimp only at ht
    split
    · simp [ht]
    · (repeat' split) <;> simp [ht]

@[simp] theorem canon_collElem (s : State) (n : Nat) (k : Cmd) (h : s.held.Canon) : (s.collElem n k).held.Canon := by
  unfold State.collElem
  split
  · simp [h]
  split
  · split
    next e => simpa using (canon_readElem s n k _ _ h).error e
    next e => simpa using (canon_readElem s n k _ _ h).ok e
  split <;> simp [h]

@[simp] theorem canon_cmdElement (s : State) (n : Nat) (h : s.held.Canon) : (s.cmdElement n).held.Canon := by
  unfold State.cmdElement
  split
  · (repeat' split) <;> simp [h]
  · exact h

@[simp] theorem canon_readImage (s : State) (n : Nat) (k : Cmd) (va m fuel : Nat) (h : s.held.Canon) :
    Tried Prod.snd (s.readImage n k va m fuel) := by
  induction fuel generalizing s va m with
  | zero => exact h
  | succ fuel ih =>
    simp only [State.readImage]
    split
    · exact h
    split
    next e => exact (canon_engineLoad s n k _ _ h).error e
    next t e =>
      have ht : t.held.Canon := (canon_engineLoad s n k _ _ h).ok e
      split
      next e => exact (ih _ _ _ ht).error e
      next e =>
        have hu := (ih _ _ _ ht).ok e
        exact hu

@[simp] theorem held_loadSlot (s : State) (k : Cmd) (t : Option Table) : (s.loadSlot k t).held = s.held := (rfl)

@[simp] theorem canon_nextSymbol (s : State) (n : Nat) (k : Cmd) (t : Table) (w : Walk16) (at_ len fuel : Nat) (h : s.held.Canon) :
    Tried Prod.snd (s.nextSymbol n k t w at_ len fuel) := by
  induction fuel generalizing s w at_ len with
  | zero => exact h
  | succ fuel ih =>
    unfold State.nextSymbol
    split
    · exact h
    split
    next e => exact (canon_readElem s n k _ _ h).error e
    next u e =>
      have hu : u.held.Canon := (canon_readElem s n k _ _ h).ok e
      extract_lets bit code cnt
      split
      · exact hu
      · exact ih _ _ _ _ hu

@[simp] theorem canon_decodeSymbol (s : State) (n : Nat) (k : Cmd) (h : s.held.Canon) : (s.decodeSymbol n k).held.Canon := by
  simp only [State.decodeSymbol]
  split
  · exact h
  split
  · simp [h]
  split
  next e => exact (canon_nextSymbol s n k _ _ _ _ _ h).error e
  next e => simpa using canon_stopCmd _ n k 4 [] ((canon_nextSymbol s n k _ _ _ _ _ h).ok e)
  next e =>
    have ht := (canon_nextSymbol s n k _ _ _ _ _ h).ok e
    split
    next e => exact (canon_writeElem _ n k _ _ ht).error e
    next e =>
      have hu := (canon_writeElem _ n k _ _ ht).ok e
      simpa using hu

@[simp] theorem canon_landAt (s : State) (k : Cmd) (o n : Nat) (h : s.held.Canon) : (s.landAt k o n).held.Canon := by
  simp only [State.landAt]
  split <;> simp [h]

@[simp] theorem canon_arriveAt (s : State) (k : Cmd) (o : Nat) (h : s.held.Canon) : (s.arriveAt k o).held.Canon := by
  simp only [State.arriveAt]
  split <;> simp [h]

@[simp] theorem canon_cmdLand (s : State) (n : Nat) (k : Cmd) (h : s.held.Canon) : (s.cmdLand n k).held.Canon := by
  unfold State.cmdLand
  split
  · dsimp only
    split
    · refine canon_foldl _ _ (fun t q ht => ?_) h
      split <;> simp [ht]
    · exact h
  · exact h
  · dsimp only
    (repeat' split) <;> simp [h]

@[simp] theorem canon_cmdArrive (s : State) (k : Cmd) (h : s.held.Canon) : (s.cmdArrive k).held.Canon := by
  simp only [State.cmdArrive]
  split <;> simp [h]

@[simp] theorem canon_cmdStatus (s : State) (k : Cmd) (h : s.held.Canon) : (s.cmdStatus k).held.Canon := by
  simp only [State.cmdStatus]
  (repeat' split) <;> simp [h]

@[simp] theorem canon_endWrites (s : State) (cmd : Nat) (k : Cmd) (h : s.held.Canon) : (s.endWrites cmd k).held.Canon := by
  unfold State.endWrites
  split <;> simp [h]

end Sys2Proof.Machine
end

section
/-! PROOF. What the matrix stream and its commands leave of registers and bytes. -/

namespace Sys2Proof.Machine

@[simp] theorem held_seqIssue (s : State) (q c : Nat) : (s.seqIssue q c).held = s.held := by simp [State.seqIssue]

@[simp] theorem canon_mwrite2 (s : State) (q n : Nat) (early : Bool) (x : Word) (h : s.held.Canon) :
    (mwrite2 s q n early x).held.Canon := by
  simp [mwrite2, h]

@[simp] theorem held_seqGoto (s : State) (q : Nat) (a : Addr) : (seqGoto s q a).held = s.held := (rfl)
@[simp] theorem held_queueM (s : State) (l : List MCmd) : (s.queueM l).held = s.held := by simp [State.queueM]

@[simp] theorem held_seqWrap (s : State) (tids : List Nat) (o : Nat) : (s.seqWrap tids o).held = s.held := by
  simp [State.seqWrap]

@[simp] theorem canon_seqStart (s : State) (q : Nat) (pc : Addr) (vals : List Word) (h : s.held.Canon) :
    (seqStart s q pc vals).held.Canon := by
  simp [seqStart, h, canon_foldl]

@[simp] theorem canon_setTile (s : State) (tid t : Nat) (bs : List Byte) (l : List DWord) (h : s.held.Canon) :
    (s.setTile tid t bs l).held.Canon := by
  simp [State.setTile, h]

@[simp] theorem held_accWr (s : State) (cid p r j x : Nat) : (s.accWr cid p r j x).held = s.held := (rfl)

@[simp] theorem canon_streamRead (s : State) (tid o n : Nat) (h : s.held.Canon) : (s.streamRead tid o n).2.held.Canon := by
  simp [State.streamRead, h]

@[simp] theorem canon_loadRows (s : State) (tid o st n : Nat) (h : s.held.Canon) : (s.loadRows tid o st n).2.held.Canon := by
  induction n with
  | zero => exact h
  | succ n ih => exact canon_streamRead _ _ _ _ ih

@[simp] theorem canon_loadTile (s : State) (k : MCmd) (d : Nat) (noList : Bool) (h : s.held.Canon) :
    OkCanon (s.loadTile k d noList) := by
  unfold State.loadTile
  extract_lets al o st
  have rows := canon_loadRows s k.tid o (if st = 0 then 128 else st) 16 h
  split
  next e =>
    have ht := canon_of_pair e rows
    split
    · exact okCanon_ok.mpr (canon_setTile _ _ _ _ _ ht)
    · have hu := canon_streamRead _ k.tid (al 8 (k.vals.getD 2 0).toNat) 8 ht
      dsimp only
      split
      · exact okCanon_error
      · exact okCanon_ok.mpr (canon_setTile _ _ _ _ _ (canon_streamRead _ _ _ _ hu))

@[simp] theorem held_mmaTile (s : State) (cid p rows : Nat) (a b : Tile) : (s.mmaTile cid p rows a b).held = s.held := by
  simp [State.mmaTile]

@[simp] theorem held_mmaDo (s : State) (k : MCmd) (sa sb : BitVec 3) (a b : Opnd) : (s.mmaDo k sa sb a b).held = s.held := by
  simp only [State.mmaDo]
  (repeat' split) <;> simp

@[simp] theorem canon_softDo (s : State) (k : MCmd) (mask : Bool) (slot : BitVec 3) (d : Opnd) (h : s.held.Canon) :
    OkCanon (s.softDo k mask slot d) := by
  unfold State.softDo
  extract_lets cid x lb
  split
  · extract_lets rows packed outs t
    split
    · exact okCanon_error
    · refine okCanon_ok.mpr (canon_setTile _ _ _ _ _ ?_)
      refine canon_foldl _ _ (fun u r hu => ?_) h
      exact canon_foldl _ _ (fun v j hv => by simpa using hv) (by simpa using hu)
  · exact okCanon_ok.mpr h

@[simp] theorem canon_drainScr (s : State) (tid : Nat) (add : Bool) (o : Nat) (bs : List Byte) (h : s.held.Canon) :
    (s.drainScr tid add o bs).held.Canon := by
  simp only [State.drainScr]
  split <;> simp [h]

@[simp] theorem held_drainTr (s : State) (tid : Nat) (l : List (Nat × List Byte)) : (s.drainTr tid l).2.2.held = s.held := by
  induction l generalizing s with
  | nil => rfl
  | cons w l ih =>
    simp only [State.drainTr]
    split
    · exact (ih _).trans (held_translate ..)
    · exact held_translate ..

@[simp] theorem held_drainRed (s : State) (n : Nat) (k : MCmd) (l : List (Nat × Option Nat × List Byte)) :
    (s.drainRed n k l).held = s.held := by
  simp only [State.drainRed]
  split <;> simp

@[simp] theorem canon_stopM (s : State) (n : Nat) (k : MCmd) (reason : Nat) (h : s.held.Canon) :
    (s.stopM n k reason).held.Canon := by
  simp [State.stopM, h]

@[simp] theorem held_drained (s : State) (n : Nat) (k : MCmd) (bytes : Nat) : (s.drained n k bytes).held = s.held := (rfl)
@[simp] theorem held_drainNet (s : State) (n : Nat) (k : MCmd) (norm : Bool) : (s.drainNet n k norm).held = s.held := (rfl)

@[simp] theorem canon_drainDo (s : State) (n : Nat) (k : MCmd) (norm add : Bool) (dest : DrainDest) (slot : BitVec 3) (h : s.held.Canon) :
    (s.drainDo n k norm add dest slot).held.Canon := by
  unfold State.drainDo
  extract_lets x b st lo l inside t va l'
  cases dest with
  | scr =>
    have ht : t.held.Canon := canon_foldl _ _ (fun t w ht => canon_drainScr _ _ _ _ _ ht) h
    exact ht
  | mem =>
    refine iteInduction (motive := fun t : State => t.held.Canon) (fun _ => canon_stopM _ _ _ _ h) fun _ => ?_
    split
    next ok bad t e =>
    have ht := held_drainTr s k.tid (((State.drainWords l').drop k.bytes).map fun w => ((va + w.1) % 2 ^ 56, w.2))
    rw [e] at ht
    extract_lets whole t1
    have h1 : t1.held.Canon := by simpa [t1, ht] using h
    clear_value t1
    split
    · exact h1
    · exact h1
    · exact canon_consume _ _ _ h1
    · exact canon_stopM _ _ _ _ h1
    · exact h1
  | net => exact h

@[simp] theorem canon_endM (s : State) (n : Nat) (k : MCmd) (r : Except Nat State) (h : s.held.Canon) (hr : OkCanon r) :
    (s.endM n k r).held.Canon := by
  unfold State.endM
  split
  next t => simpa using hr t rfl
  · simp [h]

@[simp] theorem canon_performM (s : State) (n : Nat) (k : MCmd) (h : s.held.Canon) : (s.performM n k).held.Canon := by
  unfold State.performM
  split
  · simp [h]
  · cases k.instr <;> simp [h]
    split <;> simp [h]

@[simp] theorem canon_finishM (s : State) (n : Nat) (k : MCmd) (h : s.held.Canon) : (s.finishM n k).held.Canon := by
  simp only [State.finishM]
  (repeat' split) <;> simp [h]

end Sys2Proof.Machine
end

section
/-! PROOF. What packets that arrive leave of registers and bytes. -/

namespace Sys2Proof.Machine

@[simp] theorem held_copyAccepted (s : State) (k : Nat) : (s.copyAccepted k).held = s.held := by
  simp only [State.copyAccepted]
  split <;> simp

@[simp] theorem held_discard (s : State) (p : Packet) : (s.discard p).held = s.held := by
  simp only [State.discard]
  split <;> simp

@[simp] theorem held_discardHeld (s : State) (p : Packet) : (s.discardHeld p).held = s.held := by simp [State.discardHeld]

@[simp] theorem held_badHeader (s : State) (p : Packet) (tag : Nat) : (s.badHeader p tag).held = s.held := by
  simp [State.badHeader]

@[simp] theorem canon_consumeFor (s : State) (p : Packet) (h : s.held.Canon) : (s.consumeFor p).held.Canon := by
  simp only [State.consumeFor]
  split <;> simp [h]

theorem canon_damaged {s t : State} {p : Packet} (e : s.damaged p = some t) (h : s.held.Canon) : t.held.Canon := by
  unfold State.damaged at e
  split at e <;> cases e <;> simp [h]

@[simp] theorem held_noteFixed (s : State) (p : Packet) : (s.noteFixed p).held = s.held := by simp [State.noteFixed]

@[simp] theorem held_answerOn (s : State) (vc : Nat) (p : Packet) (load : Payload) (bytes : List Byte) :
    (s.answerOn vc p load bytes).held = s.held := by
  simp [State.answerOn]

@[simp] theorem held_answer (s : State) (p : Packet) (load : Payload) (bytes : List Byte) :
    (s.answer p load bytes).held = s.held := by
  simp [State.answer]

@[simp] theorem canon_readAt (s : State) (p : Packet) (h : s.held.Canon) : (s.readAt p).held.Canon := by
  simp only [State.readAt]
  split <;> simp [h]

@[simp] theorem held_readReg (s : State) (p : Packet) : (s.readReg p).held = s.held := by
  simp only [State.readReg]
  split <;> simp

@[simp] theorem canon_readPlane (s : State) (p : Packet) (h : s.held.Canon) : (s.readPlane p).held.Canon := by
  simp [State.readPlane, h]

@[simp] theorem held_storeAt (s : State) (p : Packet) : (s.storeAt p).held = s.held := by simp [State.storeAt]

@[simp] theorem canon_commitArrives (s : State) (p : Packet) (h : s.held.Canon) : (s.commitArrives p).held.Canon := by
  simp only [State.commitArrives]
  split <;> simp [h]

@[simp] theorem canon_atomicAt (s : State) (p : Packet) (op : AOp) (cmp : List Byte) (h : s.held.Canon) :
    (s.atomicAt p op cmp).held.Canon := by
  simp only [State.atomicAt]
  (repeat' split) <;> simp [h]

@[simp] theorem held_atomicReg (s : State) (p : Packet) (op : AOp) : (s.atomicReg p op).held = s.held := by
  simp [State.atomicReg]

@[simp] theorem canon_reduceAt (s : State) (p : Packet) (op : AOp) (pa : Nat) (bs : List Byte) (h : s.held.Canon) :
    (s.reduceAt p op pa bs).held.Canon := by
  simp [State.reduceAt, h]

@[simp] theorem held_cmdNext (s : State) (p : Packet) : (s.cmdNext p).held = s.held := by
  simp only [State.cmdNext]
  split <;> simp

@[simp] theorem canon_blockLands (s : State) (p : Packet) (h : s.held.Canon) : (s.blockLands p).held.Canon := by
  simp +contextual [State.blockLands, h, canon_foldl]

@[simp] theorem held_cmdGets (s : State) (p : Packet) : (s.cmdGets p).held = s.held := by
  simp only [State.cmdGets]
  split <;> simp

@[simp] theorem canon_tileGranule (s : State) (p : Packet) (bank tile : Nat) (h : s.held.Canon) :
    (s.tileGranule p bank tile).held.Canon := by
  simp [State.tileGranule, h]

@[simp] theorem canon_dataArrives (s : State) (p : Packet) (act : Act) (v t : Option Nat) (h : s.held.Canon) :
    (s.dataArrives p act v t).held.Canon := by
  simp only [State.dataArrives]
  (repeat' split) <;> simp [h]

@[simp] theorem held_outsideDone (s : State) (ts : Nat) (k : Outside) : (s.outsideDone ts k).held = s.held := (rfl)

@[simp] theorem canon_commitOutside (s : State) (l : Store Byte) (h : s.held.Canon) : (s.commitOutside l).held.Canon := by
  simp [State.commitOutside, h]

@[simp] theorem held_revoke (s : State) (tid : Nat) : (s.revoke tid).held = s.held := (rfl)

@[simp] theorem held_collPacket (s : State) (c : Cmd) (load : Payload) (bytes : List Byte) :
    (s.collPacket c load bytes).held = s.held := by
  simp [State.collPacket]

@[simp] theorem held_tellRank (s : State) (x : Contribution) (v : Nat) (res : List DWord) (p : Nat × Nat × Nat) :
    (s.tellRank x v res p).held = s.held := by
  simp only [State.tellRank]
  (repeat' split) <;> simp

@[simp] theorem held_endSlot (s : State) (k : Nat) (x : Contribution) (v : Nat) (res : List DWord) :
    (s.endSlot k x v res).held = s.held := by
  simp [State.endSlot]

@[simp] theorem held_foldSlot (s : State) (k : Nat) (r : RSlot) (x : Contribution) : (s.foldSlot k r x).held = s.held := by
  simp [State.foldSlot]

@[simp] theorem held_enterSlot (s : State) (k : Nat) (x : Contribution) : (s.enterSlot k x).held = s.held := by
  simp only [State.enterSlot]
  split <;> simp

@[simp] theorem held_contArrives (s : State) (n : Nat) (x : Contribution) : (s.contArrives n x).held = s.held := by
  simp only [State.contArrives]
  (repeat' split) <;> simp

@[simp] theorem held_writeResult (s : State) (n : Nat) (k : Cmd) (bytes : List Byte) :
    (s.writeResult n k bytes).held = s.held := by
  simp [State.writeResult]

@[simp] theorem held_cmdStatusIs (s : State) (n v : Nat) : (s.cmdStatusIs n v).held = s.held := (rfl)

@[simp] theorem held_submit (s : State) (c : Nat) (record : List DWord) (snap : Nat) :
    (s.submit c record snap).2.2.2.held = s.held := by
  simp only [State.submit]
  (repeat' split) <;> simp

end Sys2Proof.Machine
end

section
/-! PROOF. What launches, kills, placement and a team's end leave of registers and bytes. -/

namespace Sys2Proof.Machine

@[simp] theorem canon_ringWrite (s : State) (p : Nat) (bs : List Byte) (h : s.held.Canon) : (s.ringWrite p bs).held.Canon := by
  simp [State.ringWrite, h]

@[simp] theorem canon_ringAppend (s : State) (p : Nat) (e : RingEntry) (h : s.held.Canon) :
    (s.ringAppend p e).2.held.Canon := by
  simp [State.ringAppend, h]

@[simp] theorem canon_appendStall (s : State) (p cid : Nat) (x : Stall) (h : s.held.Canon) :
    (s.appendStall p cid x).held.Canon := by
  simp [State.appendStall, h]

@[simp] theorem canon_appendNext (s : State) (p : Nat) (h : s.held.Canon) : (s.appendNext p).held.Canon := by
  simp only [State.appendNext]
  (repeat' split) <;> simp [h]

@[simp] theorem canon_afterStall (s : State) (x : Stall) (h : s.held.Canon) : (s.afterStall x).held.Canon := by
  simp [State.afterStall, h]

@[simp] theorem canon_endStall (s : State) (cid : Nat) (h : s.held.Canon) : (s.endStall cid).held.Canon := by
  simp +contextual [State.endStall, h, canon_foldl]

@[simp] theorem canon_answerCores (s : State) (p idx : Nat) (retry : Bool) (h : s.held.Canon) :
    (s.answerCores p idx retry).held.Canon := by
  simp +contextual [State.answerCores, h, canon_foldl]

@[simp] theorem canon_answerEngines (s : State) (p idx : Nat) (retry : Bool) (h : s.held.Canon) :
    (s.answerEngines p idx retry).held.Canon := by
  unfold State.answerEngines
  extract_lets mine cs ms qs t1 t2 t3
  have h1 : t1.held.Canon := by
    unfold t1
    split
    · simp [h]
    · exact h
  have h2 : t2.held.Canon := canon_foldl _ _ (fun u e hu => by (repeat' split) <;> simp [hu]) h1
  have h3 : t3.held.Canon := canon_foldl _ _ (fun u e hu => by dsimp only; split <;> simp [hu]) h2
  exact canon_foldl _ _ (fun u e hu => by dsimp only; split <;> simp [hu]) h3

@[simp] theorem canon_faultAct (s : State) (p idx action : Nat) (h : s.held.Canon) : (s.faultAct p idx action).held.Canon := by
  unfold State.faultAct
  split
  · exact h
  split
  · exact h
  split
  · simp [h]
  · exact canon_answerCores _ _ _ _ ((congrArg Held.Canon (held_modPart ..)).mpr (canon_answerEngines _ _ _ _ (by simpa using h)))

@[simp] theorem canon_writeRecord (s : State) (c : Nat) (k : Kill) (h : s.held.Canon) : (s.writeRecord c k).held.Canon := by
  simp [State.writeRecord, h]

@[simp] theorem canon_killNotice (s : State) (c : Nat) (k : Kill) (h : s.held.Canon) : (s.killNotice c k).held.Canon := by
  simp [State.killNotice, h]

@[simp] theorem held_dropContributions (s : State) (c : Nat) : (s.dropContributions c).held = s.held := (rfl)
@[simp] theorem held_dropRequests (s : State) (c : Nat) : (s.dropRequests c).held = s.held := (rfl)
@[simp] theorem held_dropStalls (s : State) (c : Nat) : (s.dropStalls c).held = s.held := by simp [State.dropStalls]
@[simp] theorem held_purgeQueues (s : State) (c : Nat) : (s.purgeQueues c).held = s.held := (rfl)
@[simp] theorem held_stopSystem (s : State) (c : Nat) : (s.stopSystem c).held = s.held := by simp [State.stopSystem]

@[simp] theorem canon_loadBank (s : State) (cid base bank : Nat) (h : s.held.Canon) :
    (s.loadBank cid base bank).held.Canon := by
  obtain ⟨hm, hs, ht, hk⟩ := h
  unfold State.loadBank
  extract_lets bs
  clear_value bs
  exact ⟨hm, hs, Memory.wf_mwrites _ _ _ ht, hk⟩

@[simp] theorem held_beginCycles (s : State) (cid gid : Nat) : (s.beginCycles cid gid).held = s.held := by
  simp [State.beginCycles]

@[simp] theorem held_chargeFree (s : State) (c : Nat) : (s.chargeFree c).held = s.held := (rfl)

@[simp] theorem held_startGroups (s : State) (tid : Nat) (entry : Addr) : (s.startGroups tid entry).held = s.held := by
  simp [State.startGroups]

@[simp] theorem held_occupy (s : State) (cid c : Nat) (fresh : Bool) : (s.occupy cid c fresh).held = s.held := (rfl)

@[simp] theorem canon_startTeam (s : State) (cl cid x y twin base : Nat) (pair seqr : Option Nat) (h : s.held.Canon) :
    (s.startTeam cl cid x y twin base pair seqr).held.Canon := by
  unfold State.startTeam
  split <;> simp [h]

@[simp] theorem canon_startAt (s : State) (cl cid x y : Nat) (h : s.held.Canon) : (s.startAt cl cid x y).held.Canon := by
  unfold State.startAt
  extract_lets l base tid q names t seqr
  have ht : t.held.Canon := by
    unfold t
    split <;> exact h
  split <;> simp [ht]

@[simp] theorem canon_restoreGroups (s : State) (tid : Nat) (old : Team) (v : Saved) (h : s.held.Canon) :
    (s.restoreGroups tid old v).held.Canon := by
  simp +contextual [State.restoreGroups, h, canon_foldl]

@[simp] theorem held_restoreAcc (s : State) (tid : Nat) (v : Saved) : (s.restoreAcc tid v).held = s.held := by
  simp [State.restoreAcc]

@[simp] theorem canon_writeBank (s : State) (bank : Nat) (bs : List Byte) (lists : List (List DWord)) (h : s.held.Canon) :
    (s.writeBank bank bs lists).held.Canon := by
  obtain ⟨hm, hs, ht, hk⟩ := h
  exact ⟨hm, hs, Memory.wf_mwrites _ _ _ ht, hk⟩

@[simp] theorem held_resumeCmds (s : State) (tid : Nat) : (s.resumeCmds tid).held = s.held := by simp [State.resumeCmds]

@[simp] theorem canon_restoreTeam (s : State) (tid cid base : Nat) (alone : Bool) (h : s.held.Canon) :
    (s.restoreTeam tid cid base alone).held.Canon := by
  unfold State.restoreTeam
  extract_lets old now
  split
  · exact h
  next v _ =>
    extract_lets at_ seen t0 l newBase bank t1 t2 t3 t4 t5 t6
    have h0 : t0.held.Canon := by simpa [t0] using h
    split
    · simp [h0]
    · have h1 : t1.held.Canon := by
        unfold t1
        split
        · exact canon_writeBank _ _ _ _ h0
        · exact h0
      have h2 : t2.held.Canon := by
        unfold t2
        split
        · exact h1
        · exact canon_writeBank _ _ _ _ h1
      have h3 : t3.held.Canon := h2
      have h4 : t4.held.Canon := (congrArg Held.Canon (held_occupy ..)).mpr (canon_scrWrite _ _ _ _ h3)
      have h5 : t5.held.Canon := (congrArg Held.Canon (held_restoreAcc ..)).mpr (canon_restoreGroups _ _ _ _ h4)
      exact (congrArg Held.Canon (held_resumeCmds ..)).mpr h5

@[simp] theorem canon_restoreAt (s : State) (cl cid x y : Nat) (h : s.held.Canon) : (s.restoreAt cl cid x y).held.Canon := by
  have restored := canon_foldl (fun (t : State) e => t.restoreTeam e cid ((s.freeBase cid (s.launch (s.cluster cl).launch).scrNeed).getD 0)
    (s.teamsOn cid).isEmpty) (s.savedAt cl x y) (fun t e ht => canon_restoreTeam _ _ _ _ _ ht) h
  simp [State.restoreAt, restored]

@[simp] theorem canon_placeAt (s : State) (cl x0 y0 : Nat) (h : s.held.Canon) : (s.placeAt cl x0 y0).held.Canon := by
  unfold State.placeAt
  extract_lets c l now back t1 t2
  have h2 : t2.held.Canon := canon_foldl _ _ (fun u d hu => by dsimp only; split <;> simp [hu]) h
  exact h2

@[simp] theorem held_dropTables (s : State) (cid : Nat) : (s.dropTables cid).held = s.held := (rfl)

@[simp] theorem canon_clearCore (s : State) (cid c : Nat) (h : s.held.Canon) : (s.clearCore cid c).held.Canon := by
  obtain ⟨hm, hs, ht, hk⟩ := h
  exact ⟨hm, Memory.wf_filter _ hs, Memory.wf_filter _ ht, hk⟩

@[simp] theorem held_handBlock (s : State) (k park : Nat) : (s.handBlock k park).held = s.held := (rfl)

@[simp] theorem canon_endStream (s : State) (tid : Nat) (h : s.held.Canon) : (s.endStream tid).held.Canon := by
  simp only [State.endStream]
  split <;> simp [h]

@[simp] theorem held_settleWords (s : State) (p : Nat) : (s.settleWords p).held = s.held := by simp [State.settleWords]

@[simp] theorem canon_writeWord (s : State) (p pa : Nat) (bs : List Byte) (head : Bool) (vectors : List Nat)
    (h : s.held.Canon) :
    (s.writeWord p pa bs head vectors).held.Canon := by
  simp [State.writeWord, h]

@[simp] theorem canon_gridDone (s : State) (k : Nat) (h : s.held.Canon) : (s.gridDone k).held.Canon := by
  simp only [State.gridDone]
  split <;> simp [h]

@[simp] theorem canon_clusterEnd (s : State) (cl : Nat) (h : s.held.Canon) : (s.clusterEnd cl).held.Canon := by
  simp [State.clusterEnd, h]

@[simp] theorem canon_teamEnd (s : State) (tid : Nat) (h : s.held.Canon) : (s.teamEnd tid).held.Canon := by
  unfold State.teamEnd
  extract_lets t t1 t2 t3
  have h2 : t2.held.Canon := by simp [t2, t1, h]
  refine canon_clusterEnd _ _ ?_
  unfold t3
  split
  · split
    · exact h2
    · exact h2
  · exact h2

end Sys2Proof.Machine
end

section
/-! PROOF. What vacations, steals and system instructions leave of registers and bytes. -/

namespace Sys2Proof.Machine

@[simp] theorem held_beginVacate (s : State) (cl : Nat) (heir : Option Nat) : (s.beginVacate cl heir).held = s.held := (rfl)

@[simp] theorem held_selectVacate (s : State) (n : Nat) (l : List Nat) : (s.selectVacate n l).2.2.held = s.held := by
  induction l generalizing s n with
  | nil => rfl
  | cons cl l ih =>
    simp only [State.selectVacate]
    split
    · exact (ih _ _).trans (held_beginVacate ..)
    · exact ih _ _

@[simp] theorem held_dropDrains (s : State) (cl : Nat) : (s.dropDrains cl).held = s.held := by simp [State.dropDrains]
@[simp] theorem held_dropUnsent (s : State) (cl : Nat) : (s.dropUnsent cl).held = s.held := by simp [State.dropUnsent]

@[simp] theorem canon_dropPlaneRegs (s : State) (gid : Nat) (h : s.held.Canon) : (s.dropPlaneRegs gid).held.Canon := by
  simp +contextual [State.dropPlaneRegs, h, canon_foldl]

@[simp] theorem held_slotImage (s : State) (tid : Nat) (v : Saved) : (s.slotImage tid v).2.held = s.held := (rfl)

@[simp] theorem canon_saveTeam (s : State) (tid slot : Nat) (h : s.held.Canon) : (s.saveTeam tid slot).held.Canon := by
  unfold State.saveTeam
  extract_lets t s1 v s2 s3
  have h3 : s3.held.Canon := canon_foldl _ _ (fun u g hu => canon_dropPlaneRegs _ _ hu) (by simp [s2, s1, h])
  simp [h3]

@[simp] theorem canon_saveCluster (s : State) (cl : Nat) (h : s.held.Canon) : (s.saveCluster cl).held.Canon :=
  canon_foldl _ _ (fun t _ ht => canon_saveTeam t _ _ ht) h

@[simp] theorem canon_placeHeir (s : State) (heir park x0 y0 : Nat) (h : s.held.Canon) :
    (s.placeHeir heir park x0 y0).held.Canon := by
  simp [State.placeHeir, h]

@[simp] theorem canon_freeCluster (s : State) (cl : Nat) (h : s.held.Canon) : (s.freeCluster cl).held.Canon := by
  simp only [State.freeCluster]
  (repeat' split) <;> simp [h]

@[simp] theorem held_sendReply (s : State) (part v dst reqn : Nat) (blocks : List Nat) :
    (s.sendReply part v dst reqn blocks).held = s.held := by
  simp [State.sendReply]

@[simp] theorem held_takeBlocks (s : State) (part k : Nat) (ds : List Nat) : (s.takeBlocks part k ds).held = s.held := by
  simp [State.takeBlocks]

@[simp] theorem held_replyArrives (s : State) (part k : Nat) (p : Packet) : (s.replyArrives part k p).held = s.held := by
  simp only [State.replyArrives]
  (repeat' split) <;> simp

@[simp] theorem held_parkAsked (s : State) (p : Packet) : (s.parkAsked p).held = s.held := by
  simp only [State.parkAsked]
  split <;> simp

@[simp] theorem canon_result (s : State) (iss : Iss) (wide : Bool) (d : Opnd) (x : DWord) (h : s.held.Canon) :
    (s.result iss wide d x).held.Canon := by
  simp +contextual [State.result, h, canon_foldl]

@[simp] theorem held_seqStatusWrite (s : State) (tid : Nat) (x : Word) : (s.seqStatusWrite tid x).held = s.held := by
  simp only [State.seqStatusWrite]
  split <;> simp

@[simp] theorem canon_cregWrite (s : State) (iss : Iss) (n : Nat) (x : DWord) (h : s.held.Canon) :
    (s.cregWrite iss n x).held.Canon := by
  simp only [State.cregWrite]
  split <;> simp [h]

theorem held_foldl_snd {α β : Type} (f : α × State → β → α × State) (l : List β) (step : ∀ r q, (f r q).2.held = r.2.held)
    (r : α × State) : (l.foldl f r).2.held = r.2.held := by
  induction l generalizing r with
  | nil => rfl
  | cons q l ih => exact (ih _).trans (step r q)

@[simp] theorem held_recordLine (s : State) (tid pa : Nat) : (s.recordLine tid pa).2.held = s.held := by
  unfold State.recordLine
  split
  · refine held_foldl_snd _ _ (fun r _ => ?_) _
    exact held_freeWord r.2
  · rfl

/-- What the read of a launch record leaves holds what was held before. -/
def RecRead.Holds (x : Held) : RecRead → Prop
  | .got _ t => t.held = x
  | .wait => True
  | .page _ t => t.held = x
  | .unreadable t => t.held = x
  | .badGroup _ t => t.held = x
  | .poisoned _ t => t.held = x

theorem holds_readRecord (s : State) (iss : Iss) (va n : Nat) (bs : List Byte) : (s.readRecord iss va n bs).Holds s.held := by
  induction n generalizing s va bs with
  | zero => rfl
  | succ n ih =>
    have same := held_translate s iss.cid iss.tid (s.group iss.gid).level .read1 va
    simp only [State.readRecord]
    (repeat' split) <;> try exact same
    · trivial
    · trivial
    · have next := ih ((s.translate iss.cid iss.tid (s.group iss.gid).level .read1 va).2.recordLine iss.tid ‹Nat›).2 (va + 64)
      rw [held_recordLine, same] at next
      exact next _

/-- What the read of a frame leaves holds what was held before. -/
def FrameRead.Holds (x : Held) : FrameRead → Prop
  | .got _ t => t.held = x
  | .wait => True
  | .poisoned _ t => t.held = x
  | .bad _ => True

theorem holds_sysFrameBytes (s : State) (iss : Iss) (va n : Nat) (bs : List Byte) :
    (s.sysFrameBytes iss va n bs).Holds s.held := by
  induction n generalizing s va bs with
  | zero => rfl
  | succ n ih =>
    have same := held_translate s iss.cid iss.tid (s.group iss.gid).level .read1 va
    simp only [State.sysFrameBytes]
    split
    · split
      · trivial
      split
      · exact same
      · have next := ih (s.translate iss.cid iss.tid (s.group iss.gid).level .read1 va).2 (va + 8)
        rw [same] at next
        exact next _
    · trivial
    · exact same
    · trivial

@[simp] theorem held_flushPages (s : State) (iss : Iss) (l : List Nat) : (s.flushPages iss l).2.held = s.held := by
  induction l generalizing s with
  | nil => rfl
  | cons va l ih =>
    simp only [State.flushPages]
    have tried : (if (s.translate iss.cid iss.tid (s.group iss.gid).level .read1 va).1 == Tr.perm then
        (s.translate iss.cid iss.tid (s.group iss.gid).level .read1 va).2.translate iss.cid iss.tid (s.group iss.gid).level .write1 va
      else s.translate iss.cid iss.tid (s.group iss.gid).level .read1 va).2.held = s.held := by simp
    split
    · exact (ih _).trans tried
    · exact tried

@[simp] theorem held_dropTlb (s : State) (hit : TlbEntry → Bool) : (s.dropTlb hit).held = s.held := (rfl)

@[simp] theorem held_pmonClear (s : State) (iss : Iss) (n : Nat) : (s.pmonClear iss n).held = s.held := by
  simp only [State.pmonClear]
  split <;> simp

end Sys2Proof.Machine
end

section
/-! PROOF. What fetches, clause starts, rebuilds and tests leave of registers and bytes. -/

namespace Sys2Proof.Machine

@[simp] theorem held_homeWord (s : State) (pa : Nat) : (s.homeWord pa).2.held = s.held := by simp [State.homeWord]
@[simp] theorem held_cacheWord (s : State) (cid key pa : Nat) (w : DWord) : (s.cacheWord cid key pa w).held = s.held := (rfl)
@[simp] theorem held_fillLine (s : State) (cid key pa : Nat) : (s.fillLine cid key pa).held = s.held := by simp [State.fillLine]

theorem held_fetchWord {s t : State} {cid key pa : Nat} {fill : Bool} {w : DWord} (e : s.fetchWord cid key pa fill = some (w, t)) :
    t.held = s.held := by
  simp only [State.fetchWord] at e
  split at e
  · split at e <;> cases e
    simp
  · split at e
    · cases e
      simp
    · split at e <;> cases e <;> simp

/-- What a fetch leaves holds what was held before. -/
def Fetched.Holds (x : Held) : Fetched → Prop
  | .got _ t => t.held = x
  | .absent => True
  | .page _ t => t.held = x
  | .noExec t => t.held = x
  | .unbacked _ t => t.held = x
  | .badGroup _ t => t.held = x
  | .poison _ t => t.held = x

theorem holds_fetchFrom (s : State) (cid tid : Nat) (level : Level) (key : Nat) (fill : Bool) (va n : Nat) (l : List DWord) :
    (s.fetchFrom cid tid level key fill va n l).Holds s.held := by
  induction n generalizing s va l with
  | zero => rfl
  | succ n ih =>
    have same := held_translate s cid tid level ⟨false, false, true⟩ (va % 2 ^ 56)
    unfold State.fetchFrom
    dsimp only
    split <;> try exact same
    · trivial
    · split
      · trivial
      split
      · exact same
      split
      next w t e =>
        have next := ih t (va + 8) (l ++ [w])
        rw [held_fetchWord e, same] at next
        exact next
      · trivial

/-- A fetch goes on from where an earlier one has left off. -/
theorem holds_fetchClause (s : State) (cid tid : Nat) (level : Level) (key : Nat) (fill : Bool) (pc : Addr) :
    (s.fetchClause cid tid level key fill pc).Holds s.held := by
  have first := holds_fetchFrom s cid tid level key fill pc.toNat 1 []
  unfold State.fetchClause
  split
  next l t e =>
    rw [e] at first
    exact (show t.held = s.held from first) ▸ holds_fetchFrom t cid tid level key fill (pc.toNat + 8) (hdrCount (l.headD 0)) l
  · exact first

@[simp] theorem canon_groupFetch (s : State) (gid lead : Nat) (h : s.held.Canon) : (s.groupFetch gid lead).held.Canon := by
  unfold State.groupFetch
  extract_lets t x is
  split
  · exact h
  · have same := holds_fetchClause s t.core (tidOf gid) (s.group gid).level t.ctx true x.pc
    split
    case h_2 => exact h
    all_goals
      rename_i e
      rw [e] at same
      simp [show _ = _ from same, h]

@[simp] theorem canon_streamFetch (s : State) (q : Nat) (h : s.held.Canon) : (s.streamFetch q).held.Canon := by
  unfold State.streamFetch
  extract_lets x tid t
  split
  · exact h
  split
  · simp [h]
  split
  · simp [h]
  split
  · exact h
  split
  · simp [h]
  have same := holds_fetchClause s t.core tid .l0 (4096 + q) true x.pc
  split
  · exact h
  all_goals
    rename_i e
    rw [e] at same
    replace same := show _ = _ from same
  · split <;> simp [same, h]
  all_goals simp [same, h]

@[simp] theorem canon_takeAsync (s : State) (gid : Nat) (h : s.held.Canon) : (s.takeAsync gid).held.Canon := by
  simp only [State.takeAsync]
  split <;> simp [h]

@[simp] theorem held_coverHazards (s : State) (gid : Nat) (h : DWord) : (s.coverHazards gid h).held = s.held := (rfl)

@[simp] theorem held_startClause (s : State) (cid pipe : Nat) (c : Cand) : (s.startClause cid pipe c).held = s.held := by
  simp [State.startClause]

@[simp] theorem canon_select (s : State) (cid pipe : Nat) (c : Cand) (h : s.held.Canon) : (s.select cid pipe c).held.Canon := by
  unfold State.select
  extract_lets t
  have ht : t.held.Canon := by
    have same : (s.clauseAt cid c.gid c.gang).Holds s.held := holds_fetchClause ..
    unfold t
    split
    next e =>
      rw [e] at same
      exact (congrArg Held.Canon same).mpr h
    · exact h
  split
  · simp [ht]
  split <;> simp [ht]

@[simp] theorem held_vacateOn (s : State) (cids : List Nat) (only : Option Nat) : (s.vacateOn cids only).held = s.held := by
  simp [State.vacateOn]

@[simp] theorem held_logFault (s : State) (kind a b : Nat) : (s.logFault kind a b).held = s.held := (rfl)

@[simp] theorem held_vacateFor (s : State) (r : Rebuild) : (s.vacateFor r).held = s.held := by
  simp only [State.vacateFor]
  split <;> simp

@[simp] theorem held_pushRebuild (s : State) (r : Rebuild) : (s.pushRebuild r).held = s.held := by simp [State.pushRebuild]

@[simp] theorem held_dropColumn (s : State) (y px : Nat) (base : List (Option Nat)) (rs : List Nat) :
    (s.dropColumn y px base rs).held = s.held := by
  simp [State.dropColumn]

@[simp] theorem held_tellSupervisor (s : State) (p : Nat) (what : String) : (s.tellSupervisor p what).held = s.held := (rfl)

@[simp] theorem held_shrinkRow (s : State) (x y px : Nat) (base : List (Option Nat)) (rs : List Nat) :
    (s.shrinkRow x y px base rs).held = s.held := by
  simp only [State.shrinkRow]
  (repeat' split) <;> simp

@[simp] theorem held_fieldFail (s : State) (x y : Nat) : (s.fieldFail x y).held = s.held := by
  simp only [State.fieldFail]
  (repeat' split) <;> simp

@[simp] theorem held_lostSectors (s : State) (r : Rebuild) : (s.lostSectors r).2.held = s.held := by
  refine held_foldl_snd _ _ (fun p _ => ?_) _
  exact held_freeBool p.2

/-- Bytes written one after the other to a canonical memory leave it canonical. -/
theorem Memory.wf_foldl_mwrite (l : List (Nat × Byte)) {m : Memory} (h : m.wf) :
    Memory.wf (l.foldl (fun (m : Memory) (e : Nat × Byte) => mwrite m e.1 e.2) m) := by
  induction l generalizing m with
  | nil => exact h
  | cons e l ih => exact ih (Memory.wf_mwrite m e.1 e.2 h)

@[simp] theorem canon_rebuildRow (s : State) (r : Rebuild) (h : s.held.Canon) : (s.rebuildRow r).held.Canon := by
  unfold State.rebuildRow
  extract_lets lost t cores poison u
  have ht : t.held.Canon := by
    unfold t lost
    split <;> simp [h]
  obtain ⟨hm, -, -, hk⟩ := ht
  exact ⟨hm, Memory.wf_foldl_mwrite _ Memory.wf_nil, Memory.wf_foldl_mwrite _ Memory.wf_nil, hk⟩

@[simp] theorem held_afterShrink (s : State) (p col row : Nat) (told : List Nat) :
    (s.afterShrink p col row told).held = s.held := by
  simp [State.afterShrink]

@[simp] theorem held_redo (s : State) (cid : Nat) : (s.redo cid).held = s.held := by simp [State.redo]
@[simp] theorem held_recovered (s : State) (cid : Nat) : (s.recovered cid).held = s.held := by simp [State.recovered]

@[simp] theorem held_flipBit (s : State) (k b : Nat) : (s.flipBit k b).held = s.held := by
  simp only [State.flipBit]
  split <;> simp

@[simp] theorem held_poisonAt (s : State) (pa : Nat) : (s.poisonAt pa).held = s.held := by simp [State.poisonAt]
@[simp] theorem held_channelFail (s : State) (chan : Nat) : (s.channelFail chan).held = s.held := by simp [State.channelFail]

@[simp] theorem canon_reportTaint (s : State) (cid : Nat) (x : Nat × List (Nat × Nat)) (h : s.held.Canon) :
    (s.reportTaint cid x).held.Canon := by
  simp [State.reportTaint, h]

end Sys2Proof.Machine
end

section
/-! PROOF. What the platform and the host port leave of registers and bytes. -/

namespace Sys2Proof.Machine

@[simp] theorem held_enterFrom (old s : State) (st : ModState) : (State.enterFrom old s st).held = s.held := by
  simp [State.enterFrom]

@[simp] theorem held_enter (s : State) (st : ModState) : (s.enter st).held = s.held := by simp [State.enter]

theorem canon_reset : State.reset.held.Canon := ⟨Memory.wf_nil, Memory.wf_nil, Memory.wf_nil, fun p h => by cases h⟩

@[simp] theorem canon_powerDown (s : State) (st : ModState) : (s.powerDown st).held.Canon := canon_reset

@[simp] theorem canon_startSys (s : State) (n : Nat) (entry : Addr) (level : Level) (ctx part : Nat) (h : s.held.Canon) :
    (s.startSys n entry level ctx part).held.Canon := by
  simp [State.startSys, h]

@[simp] theorem held_noteImage (s : State) (kind : Nat) (part : Option Nat) (im : List Byte) :
    (s.noteImage kind part im).held = s.held :=
  (rfl)

@[simp] theorem held_holdAll (s : State) : (s.holdAll).held = s.held := by simp [State.holdAll]

@[simp] theorem held_fenceUnbacked (s : State) (row : Nat) : (s.fenceUnbacked row).held = s.held := by
  simp [State.fenceUnbacked]

@[simp] theorem canon_configure (s : State) (body : List Byte) (h : s.held.Canon) : (s.configure body).held.Canon := by
  simp [State.configure, h]

@[simp] theorem canon_install (s : State) (p : PartitionSpec) (h : s.held.Canon) : (s.install p).held.Canon := by
  simp +contextual [State.install, h, canon_foldl]

@[simp] theorem held_vacateAll (s : State) : (s.vacateAll).held = s.held := by simp [State.vacateAll]

@[simp] theorem held_evacuate (s : State) (receiver : Nat × Nat × Nat) (accepted : Bool) :
    (s.evacuate receiver accepted).held = s.held := by
  simp [State.evacuate]

/-- Two stores without a k0 make one without. -/
theorem mod_joinStores {α : Type} {a b : Store α} (ha : ∀ p ∈ a, p.1 % 8 ≠ 0) (hb : ∀ p ∈ b, p.1 % 8 ≠ 0) :
    ∀ p ∈ State.joinStores a b, p.1 % 8 ≠ 0 := by
  unfold State.joinStores
  induction b generalizing a with
  | nil => exact ha
  | cons e b ih =>
    refine ih (fun p hp => ?_) fun p hp => hb p (List.mem_cons_of_mem e hp)
    rcases mem_sput _ _ _ _ hp with rfl | hp
    · exact hb e List.mem_cons_self
    · exact ha p hp

@[simp] theorem canon_receive (s : State) (sundial : Nat) (coords : Nat × Nat × Nat) (x : Shipment) (h : s.held.Canon) :
    (s.receive sundial coords x).held.Canon := by
  obtain ⟨-, hs, ht, hk⟩ := h
  unfold State.receive
  extract_lets at_ held t t1 t2
  have taken : t.held.Canon := ⟨Memory.wf_foldl_mwrite _ Memory.wf_nil, Memory.wf_foldl_mwrite _ hs, ht,
    mod_joinStores hk fun p hp => by simpa using List.of_mem_filter hp⟩
  simp [t2, t1, taken]

@[simp] theorem held_refuse (s : State) (fn addr : Nat) : (s.refuse fn addr).held = s.held := (rfl)

@[simp] theorem held_confWrite (s : State) (fn off : Nat) (bytes : List (Option Byte)) :
    (s.confWrite fn off bytes).held = s.held := by
  simp [State.confWrite]

@[simp] theorem held_doorbell (s : State) (part : Nat) (tail : Word) : (s.doorbell part tail).held = s.held := by
  simp [State.doorbell]

@[simp] theorem held_ringEnable (s : State) (part : Nat) (on : Bool) : (s.ringEnable part on).held = s.held := by
  simp [State.ringEnable]

@[simp] theorem canon_finishEntry (s : State) (part pa : Nat) (irq : Bool) (ident outcome : Nat) (h : s.held.Canon) :
    (s.finishEntry part pa irq ident outcome).held.Canon := by
  simp [State.finishEntry, h]

@[simp] theorem canon_submitEntry (s : State) (part pa : Nat) (e : List DWord) (h : s.held.Canon) :
    (s.submitEntry part pa e).held.Canon := by
  simp only [State.submitEntry]
  (repeat' split) <;> simp [h]

@[simp] theorem held_pageWrite (s : State) (part off : Nat) (bytes : List (Option Byte)) :
    (s.pageWrite part off bytes).held = s.held := by
  simp [State.pageWrite]

@[simp] theorem held_mailIn (s : State) (off : Nat) (bytes : List (Option Byte)) : (s.mailIn off bytes).held = s.held := (rfl)

@[simp] theorem held_evacAsk (s : State) (off : Nat) (bytes : List (Option Byte)) : (s.evacAsk off bytes).held = s.held := by
  simp [State.evacAsk]

@[simp] theorem held_pageAccess (s : State) (fn off : Nat) (bytes : List (Option Byte)) :
    (s.pageAccess fn off bytes).held = s.held := by
  simp only [State.pageAccess]
  (repeat' split) <;> simp

@[simp] theorem held_resetVf (s : State) (part : Nat) : (s.resetVf part).held = s.held := by simp [State.resetVf]
@[simp] theorem held_resetPf (s : State) : (s.resetPf).held = s.held := (rfl)

@[simp] theorem canon_rejectWord (s : State) (h : s.held.Canon) : (s.rejectWord).held.Canon := by
  simp only [State.rejectWord]
  (repeat' split) <;> simp [h]

end Sys2Proof.Machine
end

section
/-! PROOF. The invariant through the three frames: a group's instruction, a stream's, a packet's delivery. -/

namespace Sys2Proof.Machine

/-- Where a state follows, it is canonical. -/
def OutCanon (o : Host.Outcome State Fault Refusal) : Prop := ∀ t, o = .next t → t.held.Canon

@[simp] theorem outCanon_next {t : State} : OutCanon (.next t) ↔ t.held.Canon := by simp [OutCanon]

@[simp] theorem outCanon_fault {f : Fault} : OutCanon (.fault f) := fun t e => by cases e

@[simp] theorem outCanon_refused {r : Refusal} : OutCanon (.refused r) := fun t e => by cases e

@[simp] theorem outCanon_ite {c : Prop} [Decidable c] {a b : Host.Outcome State Fault Refusal} :
    OutCanon (if c then a else b) ↔ if c then OutCanon a else OutCanon b := by split <;> rfl

theorem canon_instr {m : Meta} {s : State} {body : Iss → State → Res} (h : s.held.Canon)
    (hb : ∀ iss t, t.held.Canon → (body iss t).Canon) : OutCanon (instr m s body) := by
  unfold instr
  split
  · exact outCanon_fault
  · exact outCanon_next.mpr (canon_issue s m _ body h (hb _))

/-- What a stream instruction comes to leaves its state canonical. -/
def SRes.Canon : SRes → Prop
  | .done t => t.held.Canon
  | .jump t => t.held.Canon
  | .hold => True
  | .fault _ _ => True

@[simp] theorem SRes.canon_done {s : State} : (SRes.done s).Canon ↔ s.held.Canon := Iff.rfl
@[simp] theorem SRes.canon_jump {s : State} : (SRes.jump s).Canon ↔ s.held.Canon := Iff.rfl
@[simp] theorem SRes.canon_hold : SRes.hold.Canon := trivial
@[simp] theorem SRes.canon_fault {r : Nat} {t : Option Nat} : (SRes.fault r t).Canon := trivial

@[simp] theorem SRes.canon_ite {c : Prop} [Decidable c] {a b : SRes} :
    (if c then a else b).Canon ↔ if c then a.Canon else b.Canon := by split <;> rfl

theorem canon_stream {dist : BitVec 3} {waits : Bool} {reads : List Opnd} {s : State} {body : Nat → State → SRes} (h : s.held.Canon)
    (hb : ∀ q t, t.held.Canon → (body q t).Canon) : OutCanon (stream dist waits reads s body) := by
  unfold stream
  split
  next q _ =>
    split
    · extract_lets rs t
      have ht : t.held.Canon := by simp [t, h]
      have := hb q t ht
      split
      · simp [ht]
      · split <;> simp_all
    · exact outCanon_fault
  · exact outCanon_fault

theorem canon_deliver {s : State} {k typ : Nat} {wait : Packet → State → Option State} {f : Packet → State → State} (h : s.held.Canon)
    (hw : ∀ p t, wait p s = some t → t.held.Canon) (hf : ∀ p t, t.held.Canon → (f p t).held.Canon) :
    OutCanon (deliver s k typ wait f) := by
  unfold deliver
  split
  · simpa using h
  next p _ =>
    split
    · simpa using h
    split
    next e => simpa using canon_damaged e (by simpa using h)
    split
    · simpa using h
    · split
      next e => simpa using hw _ _ e
      · simpa using hf p _ (by simpa using h)

end Sys2Proof.Machine
end

section
/-! PROOF. The invariant through the rows whose effect has cases of its own. -/

namespace Sys2Proof.Machine

theorem canon_indirect {s : State} {iss : Iss} {a : Opnd} {f : State → State} (h : s.held.Canon)
    (hf : ∀ t, t.held.Canon → (f t).held.Canon) : (indirect s iss a f).Canon := by
  unfold indirect
  split
  · simp [h]
  · simpa using hf _ (by simpa using h)

theorem canon_atomOp (c : Ctl) (op : AOp) (sz : Size) (ord : Order) (scope : Scope) (d a b : Opnd) (off : BitVec 11) {s : State}
    (h : s.held.Canon) : OutCanon (atomOp c op sz ord scope d a b off s) := by
  refine canon_instr h fun iss t ht => ?_
  dsimp only
  split
  next e => exact canon_checked e ht
  next e => simp [held_checked e, ht]

theorem canon_redOp (c : Ctl) (op : AOp) (sz : Size) (ord : Order) (scope : Scope) (d a : Opnd) (off : BitVec 11) {s : State}
    (h : s.held.Canon) : OutCanon (redOp c op sz ord scope d a off s) := by
  refine canon_instr h fun iss t ht => ?_
  dsimp only
  split
  next e => exact canon_checked e ht
  next e => simp [held_checked e, ht]

theorem canon_execLdt (c : Ctl) (ord : Order) (scope : Scope) (d a b : Opnd) (off : BitVec 11) {s : State} (h : s.held.Canon) :
    OutCanon (execLdt c ord scope d a b off s) := by
  refine canon_instr h fun iss t ht => ?_
  dsimp only
  split
  next e => exact canon_tileAccesses e ht
  next l _ =>
    have read := canon_readBody { Meta.glob c false true (some .tiles) [] [(a, true), (b, false)] with sys := false }
      (.tileIn (t.bankOf iss.tid (tileNo d)) (tileNo d)) ord scope 32 l iss t ht
    split
    next e =>
      rw [e] at read
      exact read
    · exact read

theorem canon_execStt (c : Ctl) (ord : Order) (scope : Scope) (d a b : Opnd) (off : BitVec 11) {s : State} (h : s.held.Canon) :
    OutCanon (execStt c ord scope d a b off s) := by
  refine canon_instr h fun iss t ht => ?_
  dsimp only
  split
  next e => exact canon_tileAccesses e ht
  · split <;> simp [ht]

theorem canon_execTxcommit (c : Ctl) (scope : Scope) {s : State} (h : s.held.Canon) : OutCanon (execTxcommit c scope s) := by
  refine canon_instr h fun iss t ht => ?_
  dsimp only
  split
  · simp [ht]
  split
  · simp [ht]
  split
  · simp
  (repeat' split) <;> simp [ht]
  next e => simpa [held_spaceFor e] using ht

theorem canon_perSlices {m : Meta} {s : State} {f : Iss → Nat → State → Except Cause State} (h : s.held.Canon)
    (hf : ∀ iss i t, t.held.Canon → OkCanon (f iss i t)) : OutCanon (instr m s fun iss t => perSlice iss t (f iss)) :=
  canon_instr h fun iss t ht => canon_perSlice iss t _ ht (hf iss)

theorem canon_execBarr (c : Ctl) (d a : Opnd) (b : Option Opnd) (off : BitVec 11) {s : State} (h : s.held.Canon) :
    OutCanon (execBarr c d a b off s) :=
  canon_instr h fun iss t ht => by
    have arrived := canon_perSlice iss t (barrSlice iss d a b off) ht fun i u hu => canon_barrSlice iss d a b off i u hu
    split <;> simp [arrived]

theorem canon_execBarrd (c : Ctl) (d a : Opnd) (off : BitVec 11) {s : State} (h : s.held.Canon) :
    OutCanon (execBarrd c d a off s) :=
  canon_instr h fun iss t ht => by
    have arrived := canon_perSlice iss t (barrdSlice iss d a off) ht fun i u hu => canon_barrdSlice iss d a off i u hu
    split <;> simp [arrived]

theorem canon_execTrig (c : Ctl) (d a b : Opnd) (off : BitVec 11) {s : State} (h : s.held.Canon) :
    OutCanon (execTrig c d a b off s) :=
  canon_instr h fun iss t ht => by
    have fired := canon_perSlice iss (t.fenceNow iss.gid) (trigSlice iss d a b off) (by simpa using ht)
      fun i u hu => canon_trigSlice iss d a b off i u hu
    split <;> simp [fired]

theorem canon_execImplicitDrop (gid : Nat) {s : State} (h : s.held.Canon) : OutCanon (execImplicitDrop gid s) := by
  unfold execImplicitDrop
  split
  · have dropped (l : List RegEntry) (x : BitVec 32) (t : State) (cid : Nat) (ht : t.held.Canon) :
        (l.foldl (fun s e => s.dropLanes cid gid e.off x) t).held.Canon :=
      canon_foldl _ _ (fun u e hu => canon_dropLanes _ _ _ _ _ hu) ht
    simp [dropped, h]
  · simpa using h

theorem canon_execAccalloc (c : Ctl) (d a : Opnd) {s : State} (h : s.held.Canon) : OutCanon (execAccalloc c d a s) := by
  refine canon_instr h fun iss t ht => ?_
  dsimp only
  split
  · simp [ht]
  split
  · simp [ht]
  split
  · simp [ht]
  split
  · simp [ht]
  · refine (congrArg Held.Canon ((held_modTeam ..).trans (held_modSlices ..))).mpr ?_
    exact canon_foldl _ _ (fun u x hu => by split <;> simp [hu]) ht

theorem canon_accept {m : Meta} {s : State} {f : Iss → State → Except (Nat × Word) (Cmd × State)} (h : s.held.Canon)
    (hf : ∀ iss t k u, f iss t = .ok (k, u) → u.held = t.held) : OutCanon (instr m s fun iss t => accepted m iss t (f iss t)) :=
  canon_instr h fun iss t ht => canon_accepted m iss t _ ht (hf iss t)

theorem canon_execDtloadTableWrite (cmd : Nat) {s : State} (h : s.held.Canon) : OutCanon (execDtloadTableWrite cmd s) := by
  unfold execDtloadTableWrite
  split
  next k _ =>
    have read := canon_readImage s cmd k ((k.src.getD 0 0).toNat % 2 ^ 56) 288 10 h
    split
    · split
      next e => simpa using read.ok e
      next e => simpa using read.error e
    · simpa using h
  · simpa using h

theorem canon_execMdrain (dist : BitVec 3) (rscope : RScope) (norm guide add : Bool) (dest : DrainDest) (slot : BitVec 3)
    (d a b e : Opnd) {s : State} (h : s.held.Canon) : OutCanon (execMdrain dist rscope norm guide add dest slot d a b e s) := by
  unfold execMdrain
  refine canon_stream h fun q t ht => ?_
  dsimp only
  split
  · trivial
  split
  · trivial
  split
  · trivial
  split
  · trivial
  split
  · split
    · split <;> simp [ht]
    · trivial
  · simpa using ht

theorem canon_execMarr (dist : BitVec 3) (d a b : Opnd) {s : State} (h : s.held.Canon) : OutCanon (execMarr dist d a b s) := by
  refine canon_stream h fun q t ht => ?_
  dsimp only
  split
  · trivial
  · refine (congrArg Held.Canon (held_modSeqr ..)).mpr ((canon_wrM ..).mpr ?_)
    exact canon_foldl _ _ (fun u x hu => by split <;> simp [hu]) ht

theorem canon_execLaunch (c : Ctl) (d a : Opnd) {s : State} (h : s.held.Canon) : OutCanon (execLaunch c d a s) := by
  refine canon_instr h fun iss t ht => ?_
  refine canon_releaseFirst ht fun ts u hu => ?_
  dsimp only
  split
  · trivial
  split
  · simp [hu]
  · have same := holds_readRecord u iss ((u.rd64 iss.gid iss.lead 0 a).toNat % 2 ^ 56) 4 []
    split
    case h_2 => trivial
    all_goals
      rename_i e
      rw [e] at same
      replace same := show _ = _ from same
      simp [same, hu]

theorem canon_execRte (c : Ctl) {s : State} (h : s.held.Canon) : OutCanon (execRte c s) := by
  refine canon_instr h fun iss t ht => ?_
  dsimp only
  split
  · simp [ht]
  split
  · simp [ht]
  split
  · trivial
  split
  · split
    · trivial
    · have same := holds_sysFrameBytes t iss ((t.core iss.cid).framebase.toNat % 2 ^ 56) 52 []
      split
      case h_2 => trivial
      case h_4 => simp [ht]
      all_goals
        rename_i e
        rw [e] at same
        replace same := show _ = _ from same
        simp [same, ht]
  · split <;> simp [ht]

theorem canon_execDcflush (c : Ctl) (a b : Opnd) {s : State} (h : s.held.Canon) : OutCanon (execDcflush c a b s) := by
  refine canon_instr h fun iss t ht => ?_
  dsimp only
  have same := held_flushPages t iss (pagesOf ((t.rd64 iss.gid iss.lead 0 a).toNat % 2 ^ 56)
    (if (t.rd32 iss.gid iss.lead 0 b).toNat = 0 then 1 else (t.rd32 iss.gid iss.lead 0 b).toNat))
  split
  case h_2 => trivial
  all_goals
    rename_i e
    rw [e] at same
    replace same := show _ = _ from same
    simp [same, ht]

theorem canon_execContextKill (ctx : Nat) {s : State} (h : s.held.Canon) : OutCanon (execContextKill ctx s) := by
  unfold execContextKill
  split
  next k _ =>
    split
    · simpa using h
    · extract_lets t t1 t2 t3
      have ht : t.held.Canon := by simpa [t] using h
      have h1 : t1.held.Canon := by simp [t1, ht]
      have h2 : t2.held.Canon := by
        have killed (l : List Nat) : (l.foldl (fun s u => s.killTeam u) t1).held.Canon :=
          canon_foldl _ _ (fun u x hu => canon_killTeam u x hu) h1
        simp [t2, killed]
      split
      · simpa using ht
      · simpa [t3] using h2
  · simpa using h

theorem canon_execRd (pkt : Nat) {s : State} (h : s.held.Canon) : OutCanon (execRd pkt s) := by
  refine canon_deliver h (fun p t e => ?_) fun p t ht => ?_
  · split at e
    · split at e <;> cases e
      exact h
    · cases e
  · split
    · exact ht
    · split <;> simp [ht]

theorem canon_execWr (pkt : Nat) {s : State} (h : s.held.Canon) : OutCanon (execWr pkt s) := by
  refine canon_deliver h (fun p t e => ?_) fun p t ht => by simp [ht]
  split at e
  · cases e
  · rwa [held_spaceWait e]

theorem canon_execCmt (pkt : Nat) {s : State} (h : s.held.Canon) : OutCanon (execCmt pkt s) := by
  refine canon_deliver h (fun p t e => ?_) fun p t ht => by simp [ht]
  split at e
  · cases e
    exact h
  · rwa [held_spaceWait e]

theorem canon_execAtom (pkt : Nat) {s : State} (h : s.held.Canon) : OutCanon (execAtom pkt s) := by
  refine canon_deliver h (fun p t e => ?_) fun p t ht => ?_
  · split at e
    · cases e
    · split at e
      · cases e
        exact h
      · rwa [held_spaceWait e]
  · (repeat' split) <;> simp [ht]

theorem canon_execRed (pkt : Nat) {s : State} (h : s.held.Canon) : OutCanon (execRed pkt s) := by
  refine canon_deliver h (fun p t e => by cases e) fun p t ht => ?_
  split
  · exact ht
  split
  · split <;> simp [ht]
  · have reduced (l : List (Nat × List Byte)) : (l.foldl (fun s x => s.reduceAt p .fadd x.1 x.2) t).held.Canon :=
      canon_foldl _ _ (fun u x hu => canon_reduceAt _ _ _ _ _ hu) ht
    split <;> simp [ht, reduced]
  · exact ht

theorem canon_execWin (pkt : Nat) {s : State} (h : s.held.Canon) : OutCanon (execWin pkt s) := by
  refine canon_deliver h (fun p t e => ?_) fun p t ht => ?_
  · split at e <;> cases e
    exact h
  · (repeat' split) <;> simp [ht]

theorem canon_execData (pkt : Nat) {s : State} (h : s.held.Canon) : OutCanon (execData pkt s) :=
  canon_deliver h (fun p t e => by cases e) fun p t ht => by (repeat' split) <;> simp [ht]

theorem canon_execAck (pkt : Nat) {s : State} (h : s.held.Canon) : OutCanon (execAck pkt s) :=
  canon_deliver h (fun p t e => by cases e) fun p t ht => by (repeat' split) <;> simp [ht]

theorem canon_execBlk (x : BlkStep) {s : State} (h : s.held.Canon) : OutCanon (execBlk x s) := by
  unfold execBlk
  cases x with
  | packet n => exact canon_deliver h (fun p t e => by cases e) fun p t ht => by split <;> simp [ht]
  | element n => simp [h]

theorem canon_parkAsks (pkt : Nat) {s : State} (h : s.held.Canon) : OutCanon (deliver s pkt 10 noWait fun p s => s.parkAsked p) :=
  canon_deliver h (fun p t e => by cases e) fun p t ht => by simpa using ht

theorem canon_execCont (x : ContStep) {s : State} (h : s.held.Canon) : OutCanon (execCont x s) := by
  unfold execCont
  cases x with
  | packet n =>
    refine canon_deliver h (fun p t e => ?_) fun p t ht => by split <;> simp [ht]
    split at e
    · split at e <;> cases e
      exact h
    · cases e
  | remote m late => simp [h]

theorem canon_execCres (x : CollStep) {s : State} (h : s.held.Canon) : OutCanon (execCres x s) := by
  unfold execCres
  cases x with
  | packet n => exact canon_deliver h (fun p t e => by cases e) fun p t ht => by (repeat' split) <;> simp [ht]
  | remote m =>
    dsimp only
    (repeat' split) <;> simp [h]

theorem canon_execCstat (x : CollStep) {s : State} (h : s.held.Canon) : OutCanon (execCstat x s) := by
  unfold execCstat
  cases x with
  | packet n => exact canon_deliver h (fun p t e => by cases e) fun p t ht => by split <;> simp [ht]
  | remote m =>
    dsimp only
    split <;> simp [h]

theorem canon_execPackResultWritten (op : Nat) {s : State} (h : s.held.Canon) : OutCanon (execPackResultWritten op s) := by
  unfold execPackResultWritten
  split
  · simpa using h
  next p _ =>
    have landed : (p.results.foldl (fun s r => s.land p.gid op r.1 r.2) s).held.Canon :=
      canon_foldl _ _ (fun u x hu => canon_land _ _ _ _ _ hu) h
    simp [landed]

theorem canon_execCtrl (cid ctx off : Nat) (data : List Byte) {s : State} (h : s.held.Canon) :
    OutCanon (execCtrl cid ctx off data s) := by
  unfold execCtrl
  split
  · refine canon_deliver h (fun p t e => by cases e) fun p t ht => ?_
    extract_lets t1 k now t2 t3
    have h1 : t1.held.Canon := by simpa [t1] using ht
    have h3 : t3.held.Canon := by
      have h2 : t2.held.Canon := by
        unfold t2
        split
        · exact canon_clearCore _ _ _ h1
        · exact h1
      exact h2
    split
    · exact h1
    split
    · simp [h3]
    · exact h3
  · simpa using h

theorem canon_execCoreTestDone (cid : Nat) (pass : Bool) {s : State} (h : s.held.Canon) :
    OutCanon (execCoreTestDone cid pass s) := by
  unfold execCoreTestDone
  extract_lets from_ ls bad parts room now t1 t2 again t3
  have h1 : t1.held.Canon := h
  have h3 : t3.held.Canon := canon_foldl _ _ (fun u x hu => canon_rollback _ _ hu) (by simpa [t2] using h1)
  split
  · simpa using h
  split
  · simpa using h1
  · have told (l : List (Nat × List (Nat × Nat))) : (l.foldl (fun s x => s.reportTaint cid x) t3).held.Canon :=
      canon_foldl _ _ (fun u x hu => canon_reportTaint _ _ _ hu) h3
    simp [told]

theorem canon_execMulticastWriteArrival (group : Nat) (src : Member) (pa : Nat) (bytes : List (Option Byte)) {s : State}
    (h : s.held.Canon) : OutCanon (execMulticastWriteArrival group src pa bytes s) := by
  unfold execMulticastWriteArrival
  dsimp only
  (repeat' split) <;> simp [h]
  next e => rwa [held_spaceFor e]

theorem canon_execHostWrite (fn addr : Nat) (bytes : List (Option Byte)) {s : State} (h : s.held.Canon) :
    OutCanon (execHostWrite fn addr bytes s) := by
  unfold execHostWrite
  (repeat' split) <;> simp [h]
  · next e => rwa [held_spaceFor e]
  next e => exact canon_commitAt _ _ _ _ (by simpa [held_of_pair e (held_takeTs s)] using h)

end Sys2Proof.Machine
end

section
/-! PROOF. The invariant through the table and a step (O4, O5). -/

namespace Sys2Proof.Machine

/-- Every row keeps what the invariant asks of registers and bytes. -/
theorem canon_exec (i : Instr) {s : State} (h : s.held.Canon) : OutCanon (exec i s) := by
  cases i with
  | add | sub | mul | mulh | mad | min | max | and | or | xor | not | shl | shr | sar | rol | clz | popc |
  brev | bfe | bfi | sel | addx | subx | mov | lea | leax | addImm | subImm | mulImm | minImm | maxImm |
  andImm | orImm | xorImm | shlImm | shrImm | sarImm | rolImm | movImm | leaImm | movw | movwx | addwx | movwh
  | cmp | kand | kor | kxor | knot | kmov | execget | execset | ktest | shfl | ballot | vote | psum | pmax |
  laneid | fadd | fsub | fmul | ffma | fmin | fmax | fcmp | frcp | frsq | fexp2 | flog2 | fsin | fcos | ftanh
  | cvt | pack | unpack | bra | brx | call | braz | branz | join | regang | exit | yield | trap | nop | lds |
  sts | ldss | stss | ld | ldsc | pref | snap | st | stsc | fence | txbegin | txabort | bwait | accfree |
  planeq | sysrd | syswr | icinv | ctxkill | pmon | tlbinv | haltcore | timerrd | timerset | timerclr =>
    exact canon_instr h fun iss t ht => by simp [ht]
  | ldw | stw | ldws | stws | mstart | mstop | vacate =>
    exact canon_instr h fun iss t ht => by dsimp only; (repeat' split) <;> simp [ht]
  | mshape | mldt | mwait | msig | mend | mpair | mbra | mloop | mmov | mmovHi | madd =>
    unfold exec
    exact canon_stream h fun q t ht => by simp [ht]
  | mzero | mma | mmaPair | msoft =>
    unfold exec
    exact canon_stream h fun q t ht => by dsimp only; (repeat' split) <;> simp [ht]
  | srep =>
    unfold exec
    exact canon_deliver h (fun p t e => by cases e) fun p t ht => by simp [ht]
  | bar =>
    unfold exec
    exact canon_deliver h (fun p t e => by cases e) fun p t ht => by dsimp only; (repeat' split) <;> simp [ht]
  | atomAdd | atomMin | atomMax | atomMinn | atomMaxn | atomAnd | atomOr | atomXor | atomSwap | atomCas |
  atomFadd => exact canon_atomOp _ _ _ _ _ _ _ _ _ h
  | redAdd | redMin | redMax | redMinn | redMaxn | redAnd | redOr | redXor | redFadd => exact canon_redOp _ _ _ _ _ _ _ _ h
  | ret | jmpi => exact canon_instr h fun iss t ht => canon_indirect ht fun u hu => hu
  | calli => exact canon_instr h fun iss t ht => canon_indirect ht fun u hu => by simp [hu]
  | binit => exact canon_perSlices h fun iss i t ht => by simp [ht]
  | breg => exact canon_perSlices h fun iss i t ht => by simp [ht]
  | bexp => exact canon_perSlices h fun iss i t ht => by simp [ht]
  | btest => exact canon_perSlices h fun iss i t ht => by simp [ht]
  | scrl | scrlr => exact canon_accept h fun iss t k u e => held_acceptScroll e
  | copy | copyx | copyDec => exact canon_accept h fun iss t k u e => held_acceptCopy e
  | dtload => exact canon_accept h fun iss t k u e => by cases e; simp
  | sreq | countUpdate => exact outCanon_ite.mpr (by split <;> simp [h, canon_parkAsks])
  | ldt => exact canon_execLdt _ _ _ _ _ _ _ h
  | stt => exact canon_execStt _ _ _ _ _ _ _ h
  | txcommit => exact canon_execTxcommit _ _ h
  | barr => exact canon_execBarr _ _ _ _ _ h
  | barrd => exact canon_execBarrd _ _ _ _ h
  | trig => exact canon_execTrig _ _ _ _ _ h
  | implicitDrop => exact canon_execImplicitDrop _ h
  | accalloc => exact canon_execAccalloc _ _ _ h
  | dtloadTableWrite => exact canon_execDtloadTableWrite _ h
  | mdrain => exact canon_execMdrain _ _ _ _ _ _ _ _ _ _ _ h
  | marr => exact canon_execMarr _ _ _ _ h
  | launch => exact canon_execLaunch _ _ _ h
  | rte => exact canon_execRte _ h
  | dcflush => exact canon_execDcflush _ _ _ h
  | contextKill => exact canon_execContextKill _ h
  | rd => exact canon_execRd _ h
  | wr => exact canon_execWr _ h
  | cmt => exact canon_execCmt _ h
  | atom => exact canon_execAtom _ h
  | red => exact canon_execRed _ h
  | win => exact canon_execWin _ h
  | data => exact canon_execData _ h
  | ack => exact canon_execAck _ h
  | blk => exact canon_execBlk _ h
  | cont => exact canon_execCont _ h
  | cres => exact canon_execCres _ h
  | cstat => exact canon_execCstat _ h
  | packResultWritten => exact canon_execPackResultWritten _ h
  | ctrl => exact canon_execCtrl _ _ _ _ h
  | coreTestDone => exact canon_execCoreTestDone _ _ h
  | multicastWriteArrival => exact canon_execMulticastWriteArrival _ _ _ _ h
  | hostWrite => exact canon_execHostWrite _ _ _ h
  | barrierWatchdogExpiry | pairTimeout | mpairTimeout | seqStatusUnpair | seqStatusRepair | stealRetryTimeout
  | countUpdateSend | clauseFetchDone | ageingSwitch | serviceRequestAppend | vacationCollectiveTimeout |
  killComplete | snapshotAgeRevoke | collectorReclaim | settleBufferDrain | testWindowStart | coreTestStart |
  submissionEntryTake | faultActRetry | faultActTrap | faultActKill | powerLimit | homeChannelFailure |
  routerDeath | coreFieldFailure | colPortDown | busPowerApplied | mainPowerApplied | mainPowerRemoved |
  busPowerRemoved | fjondanRunning | evacuationCommand | evacuationReceive | evidenceRequest |
  identityStoreRead | partitionCreate | partitionDestroy | sqTail | sqEn | fjondanMailbox | conventionalReset
  | vfFunctionLevelReset | pf0FunctionLevelReset | backInvalidationDone | farMemoryCompletion |
  storedMinimumRaise | keySlotEnrolment =>
    simp [exec, execBarrierWatchdogExpiry, execPairTimeout, execMpairTimeout, execSeqStatusUnpair,
      execSeqStatusRepair, execStealRetryTimeout, execCountUpdateSend, execClauseFetchDone, execAgeingSwitch,
      execServiceRequestAppend, execVacationCollectiveTimeout, execKillComplete, execSnapshotAgeRevoke,
      execCollectorReclaim, execSettleBufferDrain, execTestWindowStart, execCoreTestStart,
      execSubmissionEntryTake, execFaultActRetry, execFaultActTrap, execFaultActKill, execPowerLimit,
      execHomeChannelFailure, execRouterDeath, execCoreFieldFailure, execColPortDown, execBusPowerApplied,
      execMainPowerApplied, execMainPowerRemoved, execBusPowerRemoved, execFjondanRunning, execEvacuationCommand,
      execEvacuationReceive, execEvidenceRequest, execIdentityStoreRead, execPartitionCreate,
      execPartitionDestroy, execSqTail, execSqEn, execFjondanMailbox, execConventionalReset,
      execVfFunctionLevelReset, execPf0FunctionLevelReset, execBackInvalidationDone, execFarMemoryCompletion,
      execStoredMinimumRaise, execKeySlotEnrolment, h]
  | scrollStep | engineCommandEnd | copyDecDecode | matrixCommandComplete | groupTimerExpiry | clusterPlace |
  parkCoreReload | parkQuantumExpiry | regangTimeout | trapEntry | releaseCommit | escTimeout |
  evacuationDrained | evacuationDeadline | coreReloadRelease | strikeReport | arrayUncorrectableError |
  imageVerifyDone | functionSelfTestDone | evacuationFailure | receiverAcknowledgement | systemCoreRestart =>
    simp only [exec, execScrollStep, execEngineCommandEnd, execCopyDecDecode, execMatrixCommandComplete,
      execGroupTimerExpiry, execClusterPlace, execParkCoreReload, execParkQuantumExpiry,
      execRegangTimeout, execTrapEntry, execReleaseCommit, execEscTimeout, execEvacuationDrained,
      execEvacuationDeadline, execCoreReloadRelease, execStrikeReport, execArrayUncorrectableError,
      execImageVerifyDone, execFunctionSelfTestDone, execEvacuationFailure, execReceiverAcknowledgement,
      execSystemCoreRestart]
    split <;> simp [h]
  | launchDispatch | teamDone | parkIdleSteal | clauseStart | clusterVacate | orangeryRevoke | rowRemapRebuild
  | reductionSlotTimeout | translationWalkDone | hostRead =>
    simp only [exec, execLaunchDispatch, execTeamDone, execParkIdleSteal, execClauseStart, execClusterVacate,
      execOrangeryRevoke, execRowRemapRebuild, execReductionSlotTimeout, execTranslationWalkDone,
      execHostRead]
    (repeat' split) <;> simp [h]

theorem canon_settled {n : Nat} {o : Host.Outcome State Fault Refusal} (h : OutCanon o) : OutCanon (settled n o) := by
  cases o with
  | next t =>
    have ht := outCanon_next.mp h
    exact outCanon_next.mpr ht
  | fault f => exact outCanon_fault
  | refused r => exact outCanon_refused

theorem canon_issueOne {s : State} (i : Issuer) (h : s.held.Canon) : OutCanon (State.issueOne exec s i) := by
  unfold State.issueOne
  dsimp only
  split
  · exact canon_exec _ h
  · exact outCanon_next.mpr (canon_rejectWord _ h)

theorem canon_step {s : State} (h : s.held.Canon) : OutCanon (step s) := by
  unfold step
  split
  · dsimp only
    split
    · exact canon_settled (canon_exec _ h)
    · exact outCanon_next.mpr h
  · dsimp only
    split
    · exact canon_settled (canon_issueOne _ h)
    · exact canon_settled (canon_exec _ h)
    · exact outCanon_next.mpr h

end Sys2Proof.Machine

open Sys2Proof.Machine

/-- Settles O4: a memory without bytes is canonical, and no mask register is stored. -/
theorem invariantHoldsAtReset : Obligations.InvariantHoldsAtReset := canon_reset

/-- Settles O5: every write of a mask register goes to one of seven, every write of bytes is one of `mwrite`, and a step runs
operations that keep both. -/
theorem everyStepKeepsTheInvariant : Obligations.EveryStepKeepsTheInvariant :=
  fun s t h e => ⟨(inv_iff t).mpr (canon_step ((inv_iff s).mp h) t e), fun _ _ => rfl⟩
end

section
/-! PROOF. What a step is, by what its move chooses (O1). -/

namespace Sys2Proof.Machine

/-- What a step comes to where an outcome settles it: its state, nobody at issue and the turn passed, or its fault. -/
theorem after_of_settled {s : State} {o : Host.Outcome State Fault Refusal} (e : step s = settled (s.turn + 1) o) :
    (∀ t, o = .next t → step s = .next { t with cur := .none, turn := s.turn + 1 }) ∧ ∀ f, o = .fault f → step s = .fault f := by
  refine ⟨fun t h => ?_, fun f h => ?_⟩ <;> rw [e, h] <;> rfl

theorem step_of_issue {s : State} {i : Issuer} (ha : s.agenda = []) (hm : s.move exec = .issue i) :
    step s = settled (s.turn + 1) (State.issueOne exec s i) := by
  simp only [step, ha, hm]

theorem step_of_event {s : State} {e : Instr} (ha : s.agenda = []) (hm : s.move exec = .event e) :
    step s = settled (s.turn + 1) (exec e s) := by
  simp only [step, ha, hm]

theorem step_of_time {s : State} (ha : s.agenda = []) (hm : s.move exec = .time) :
    step s = .next { s with clock := s.clock + 1, turn := s.turn + 1 } := by
  simp only [step, ha, hm]

theorem step_of_agenda {s : State} {e : Instr} {l : List Instr} (ha : s.agenda = e :: l) (he : isEvent e = true) :
    step s = settled (s.turn + 1) (exec e { s with agenda := l, cur := .none }) := by
  simp only [step, ha, he, if_true]

namespace State

/-- The issuer whose turn it is: the one at issue, or the one due in an even turn or where no event is due. -/
theorem move_issue {s : State} {who : Issuer} (h : s.cur = who ∧ who ≠ .none
    ∨ s.cur = .none ∧ s.dueIssuer exec = some who ∧ (s.turn % 2 = 0 ∨ s.dueEvent exec = none)) : s.move exec = .issue who := by
  rcases h with ⟨rfl, hn⟩ | ⟨hc, hi, turn⟩
  · exact move_atIssue hn
  · simp only [move, hc, hi]
    rcases turn with ht | he
    · simp [ht]
    · simp [he]

theorem move_event {s : State} {e : Instr} (hc : s.cur = .none) (he : s.dueEvent exec = some e)
    (turn : s.turn % 2 = 1 ∨ s.dueIssuer exec = none) : s.move exec = .event e := by
  simp only [move, hc, he]
  rcases turn with ht | hi
  · simp [ht]
  · simp [hi]

theorem move_late {s : State} (hc : s.cur = .none) (he : s.dueEvent exec = none) (hi : s.dueIssuer exec = none) :
    s.move exec = ((s.lateEvents.find? (moves exec s)).map Move.event).getD .time := by
  simp [move, hc, he, hi]

theorem issueOne_of_decoded {s : State} {who : Issuer} {i : Instr} (h : s.decodedAt who = .ok i) :
    issueOne exec s who = exec i { s with cur := who } := by
  have same : ({ s with cur := who } : State).decodedAt who = .ok i := h
  simp only [issueOne, same]

theorem issueOne_of_rejected {s : State} {who : Issuer} {r : Reject} {iss : Iss} (h : s.decodedAt who = .rejected r)
    (hw : ∀ q, who ≠ .seqr q) (hi : ({ s with cur := who } : State).issOf = some iss) :
    issueOne exec s who = .next (({ s with cur := who } : State).takeTrap iss.gid iss.illegal) := by
  have same : ({ s with cur := who } : State).decodedAt who = .rejected r := h
  simp only [issueOne, same, rejectWord, hi]

end State

end Sys2Proof.Machine

open Sys2Proof.Machine

/-- Settles O1: the choice of the next step, case by case, and what an issuer's word decodes to. -/
theorem stepRunsDecoded : Obligations.StepRunsDecoded := by
  intro s who i l r iss
  dsimp only
  refine ⟨fun ⟨ha, turn⟩ hd => ?_, fun ⟨ha, turn⟩ hd hw hi => ?_, fun ha he => ?_, fun ha hc he turn => ?_, fun ha hc he hi => ⟨fun hl => ?_, fun hl => ?_⟩⟩
  · exact after_of_settled ((step_of_issue ha (State.move_issue turn)).trans (by rw [State.issueOne_of_decoded hd]))
  · exact after_of_settled ((step_of_issue ha (State.move_issue turn)).trans (by rw [State.issueOne_of_rejected hd hw hi]))
  · exact after_of_settled (step_of_agenda ha he)
  · exact after_of_settled (step_of_event ha (State.move_event hc he turn))
  · exact after_of_settled (step_of_event ha ((State.move_late hc he hi).trans (by rw [hl]; rfl)))
  · exact step_of_time ha ((State.move_late hc he hi).trans (by rw [hl]; rfl))
end

section
/-! PROOF. Ageing, REGANG time-out and waiting traps: what the operations on gangs leave of a slice. -/

namespace Sys2Proof.Machine

namespace State

/-! ### Slices of a group -/

theorem sliceNos_nodup (s : State) (gid : Nat) : (s.sliceNos gid).Nodup := by
  unfold sliceNos; split
  · simp
  · exact List.nodup_range

theorem sliceNos_lt {s : State} {gid i : Nat} (h : i ∈ s.sliceNos gid) : i < 8 := by
  unfold sliceNos at h; split at h <;> simp at h <;> omega

theorem liveSlices_nodup (s : State) (gid : Nat) : (s.liveSlices gid).Nodup := (s.sliceNos_nodup gid).filter _

theorem liveSlices_lt {s : State} {gid i : Nat} (h : i ∈ s.liveSlices gid) : i < 8 :=
  sliceNos_lt (List.mem_of_mem_filter h)

theorem mem_gangOf {s : State} {gid n i : Nat} :
    i ∈ s.gangOf gid n ↔ i ∈ s.sliceNos gid ∧ (s.slice gid i).st = .ganged ∧ (s.slice gid i).gang = n := by
  simp [gangOf]

/-- What a change of slices keeps of a slice, the list of the slices changed being any. -/
theorem modSlices_proj {α : Type} (p : Slice → α) {f : Slice → Slice} (hf : ∀ x, p (f x) = p x) (s : State) (g : Nat)
    (is : List Nat) (h j : Nat) : p ((s.modSlices g is f).slice h j) = p (s.slice h j) := by
  unfold modSlices
  induction is generalizing s with
  | nil => rfl
  | cons i is ih =>
    rw [List.foldl_cons, ih, modSlice_slice]
    split
    · next e => rw [hf]; simp [slice, e]
    · rfl

/-! ### Gangs -/

/-- The slices of a list that stand where slice `i` does. -/
def beside (s : State) (g : Nat) (is : List Nat) (i : Nat) : List Nat :=
  is.filter fun j => (s.slice g j).pc == (s.slice g i).pc && (s.slice g j).ix == (s.slice g i).ix

/-- One step of `formByPc`: slice `i` is numbered with those of `is` beside it. -/
def joinGang (g : Nat) (is : List Nat) (s : State) (i : Nat) : State :=
  s.modSlice g i fun y => { y with gang := (s.beside g is i).foldl Nat.min 7 }

theorem formByPc_eq (s : State) (g : Nat) (is : List Nat) : s.formByPc g is = is.foldl (joinGang g is) s := rfl

theorem formByPc_rest (s : State) (g : Nat) (is : List Nat) :
    s.formByPc g is = { s with slices := (s.formByPc g is).slices } := by
  suffices ∀ (l m : List Nat) (s : State), l.foldl (joinGang g m) s = { s with slices := (l.foldl (joinGang g m) s).slices } from
    this is is s
  intro l m
  induction l with
  | nil => intro s; rfl
  | cons i l ih => intro s; rw [List.foldl_cons, ih]; rfl

/-- Forming gangs changes no slice but in the number of its gang. -/
theorem foldl_joinGang_proj {α : Type} (p : Slice → α) (hp : ∀ x n, p { x with gang := n } = p x) (g : Nat) (m l : List Nat)
    (s : State) (h j : Nat) : p ((l.foldl (joinGang g m) s).slice h j) = p (s.slice h j) := by
  induction l generalizing s with
  | nil => rfl
  | cons i l ih =>
    rw [List.foldl_cons, ih, joinGang, modSlice_slice]
    split
    · next e => rw [hp]; simp [slice, e]
    · rfl

theorem formByPc_proj {α : Type} (p : Slice → α) (hp : ∀ x n, p { x with gang := n } = p x) (s : State) (g : Nat)
    (is : List Nat) (h j : Nat) : p ((s.formByPc g is).slice h j) = p (s.slice h j) :=
  foldl_joinGang_proj p hp g is is s h j

/-- A slice that is not among those that form gangs does not change. -/
theorem foldl_joinGang_of_ne (g : Nat) (m l : List Nat) (s : State) {h j : Nat} (hm : ∀ i ∈ l, sidOf h j ≠ sidOf g i) :
    (l.foldl (joinGang g m) s).slice h j = s.slice h j := by
  induction l generalizing s with
  | nil => rfl
  | cons i l ih =>
    rw [List.foldl_cons, ih _ fun k hk => hm k (by simp [hk]), joinGang, modSlice_slice, if_neg (hm i (by simp))]

theorem formByPc_slice_of_ne (s : State) (g : Nat) (is : List Nat) {h j : Nat} (hm : ∀ i ∈ is, sidOf h j ≠ sidOf g i) :
    (s.formByPc g is).slice h j = s.slice h j := foldl_joinGang_of_ne g is is s hm

theorem sidOf_inj {g i j : Nat} (h : sidOf g i = sidOf g j) : i = j := by unfold sidOf at h; omega

theorem formByPc_slice_of_not_mem (s : State) (g : Nat) (is : List Nat) {j : Nat} (hm : j ∉ is) :
    (s.formByPc g is).slice g j = s.slice g j :=
  s.formByPc_slice_of_ne g is fun _ hi e => hm (sidOf_inj e ▸ hi)

theorem letGo_rest (s : State) (g : Nat) (is : List Nat) : s.letGo g is = { s with slices := (s.letGo g is).slices } := by
  unfold letGo; rw [formByPc_rest, modSlices_rest]

/-! ### An ageing switch -/

theorem ageSwitch_of_pend {x : Slice} {now : Nat} {e : Entry} {r : List Entry} {p : Pend} (hs : x.stack = e :: r)
    (hp : e.pend = some p) :
    ageSwitch now x = { x with
      stack := { e with age := now, pend := some { pc := x.pc, path := x.path, exec := x.exec } } :: r
      pc := p.pc
      path := less p.path x.exited
      exec := less p.exec x.exited } := by
  simp [ageSwitch, hs, hp]

theorem ageDue_iff_ganged {s : State} {gid i : Nat} (h : s.ageDue gid i = true) :
    (s.slice gid i).st = .ganged ∧ (s.slice gid i).ix = 0 := by
  simp [ageDue] at h
  exact ⟨h.1.1.1, h.1.1.2⟩

/-! ### The entry to a handler

`SameLives s t`: the same slices are live at `t` as at `s`, on the same cores, and contexts do not differ. -/

structure SameLives (s t : State) : Prop where
  st : ∀ g i, (t.slice g i).st = (s.slice g i).st
  core : ∀ k, (t.team k).core = (s.team k).core
  ctxs : t.ctxs = s.ctxs

theorem SameLives.refl (s : State) : SameLives s s := ⟨fun _ _ => rfl, fun _ => rfl, rfl⟩

theorem SameLives.trans {s t u : State} (h : SameLives s t) (k : SameLives t u) : SameLives s u :=
  ⟨fun g i => (k.st g i).trans (h.st g i), fun n => (k.core n).trans (h.core n), k.ctxs.trans h.ctxs⟩

theorem SameLives.liveSlices {s t : State} (h : SameLives s t) (gid : Nat) : t.liveSlices gid = s.liveSlices gid := by
  simp only [State.liveSlices, State.sliceNos, h.st, h.core]

theorem SameLives.of_slices {s t : State} (k : SameLives s t) (l : List (Nat × Slice))
    (h : ∀ g i, (({ t with slices := l } : State).slice g i).st = (t.slice g i).st) : SameLives s { t with slices := l } :=
  k.trans ⟨h, fun _ => rfl, rfl⟩

theorem SameLives.modSlices {s t : State} {g : Nat} {is : List Nat} {f : Slice → Slice} (k : SameLives s t)
    (hf : ∀ x, (f x).st = x.st) : SameLives s (t.modSlices g is f) :=
  modSlices_rest t g is f ▸ k.of_slices _ (modSlices_rest t g is f ▸ modSlices_proj (·.st) hf t g is)

theorem SameLives.formByPc {s t : State} {g : Nat} {is : List Nat} (k : SameLives s t) : SameLives s (t.formByPc g is) :=
  formByPc_rest t g is ▸ k.of_slices _ (formByPc_rest t g is ▸ formByPc_proj (·.st) (fun _ _ => rfl) t g is)

theorem SameLives.modGroup {s t : State} {g : Nat} {f : Group → Group} (k : SameLives s t) :
    SameLives s (t.modGroup g f) := k.trans ⟨fun _ _ => rfl, fun _ => rfl, rfl⟩

theorem SameLives.modCore {s t : State} {c : Nat} {f : Core → Core} (k : SameLives s t) : SameLives s (t.modCore c f) :=
  k.trans ⟨fun _ _ => rfl, fun _ => rfl, rfl⟩

theorem SameLives.dropRuns {s t : State} {c g : Nat} (k : SameLives s t) : SameLives s (t.dropRuns c g) := k.modCore

theorem SameLives.scrWrite {s t : State} {c o : Nat} {b : List Byte} (k : SameLives s t) :
    SameLives s (t.scrWrite c o b) := k.trans ⟨fun _ _ => rfl, fun _ => rfl, rfl⟩

theorem SameLives.modTeam {s t : State} {n : Nat} {f : Team → Team} (k : SameLives s t)
    (hf : ∀ x, (f x).core = x.core) : SameLives s (t.modTeam n f) := by
  refine k.trans ⟨fun _ _ => rfl, fun m => ?_, rfl⟩
  rw [modTeam_team]
  split
  · next e => rw [hf, e]
  · rfl

theorem SameLives.restartNow {s t : State} {gid : Nat} {is : List Nat} (k : SameLives s t) :
    SameLives s (t.restartNow gid is) := by
  unfold State.restartNow
  refine .modTeam (.formByPc (.modSlices (.modGroup k) ?_)) ?_ <;> exact fun _ => rfl

theorem SameLives.foldl {α : Type} {f : State → α → State} (hf : ∀ s a, SameLives s (f s a)) (l : List α) (s : State) :
    SameLives s (l.foldl f s) := by
  induction l generalizing s with
  | nil => exact .refl s
  | cons a l ih => exact (hf s a).trans (ih _)

theorem dropAccReq_slices (s : State) (gid : Nat) : (s.dropAccReq gid).slices = s.slices := by
  unfold dropAccReq; split
  · split <;> rfl
  · rfl

/-- That a blocked ACCALLOC ends changes no more of a group than its operations and hazards. -/
theorem dropAccReq_group {α : Type} (p : Group → α) (hp : ∀ x o h, p { x with ops := o, hazards := h } = p x) (s : State)
    (gid g : Nat) : p ((s.dropAccReq gid).group g) = p (s.group g) := by
  unfold dropAccReq; split
  · split
    · rw [modGroup_group]
      split
      · next e => rw [hp, e]; rfl
      · rfl
    · rfl
  · rfl

/-- At the entry to a handler every live slice stands at the vector. -/
theorem enterHandler_pc (s : State) (gid : Nat) (vec : Addr) {j : Nat} (hj : j ∈ s.liveSlices gid) :
    ((s.enterHandler gid vec).slice gid j).pc = vec := by
  unfold enterHandler
  simp only [slice, dropAccReq_slices]
  change (((((s.modSlices gid _ _).formGang gid _).modGroup gid _).regionEntry gid _).slice gid j).pc = vec
  unfold regionEntry formGang
  rw [modGroup_slice]
  refine (modSlices_proj (·.pc) ?_ _ _ _ _ _).trans ?_
  · exact fun _ => rfl
  rw [modGroup_slice]
  refine (modSlices_proj (·.pc) ?_ _ _ _ _ _).trans ?_
  · exact fun _ => rfl
  rw [modSlices_slice s gid _ _ (s.liveSlices_nodup gid) (fun _ => liveSlices_lt) gid j (liveSlices_lt hj), if_pos ⟨rfl, hj⟩]

/-- The entry to a handler leaves what is neither an operation, a hazard, a region nor a choice before one. -/
theorem enterHandler_group {α : Type} (p : Group → α)
    (hp : ∀ x o h r q, p { x with ops := o, hazards := h, regions := r, pre := q } = p x) (s : State) (gid : Nat) (vec : Addr) :
    p ((s.enterHandler gid vec).group gid) = p (s.group gid) := by
  unfold enterHandler regionEntry formGang
  rw [dropAccReq_group p fun x o h => hp x o h x.regions x.pre]
  simp only [modGroup_group, modSlices_group, if_true]
  exact hp _ _ _ _ _

/-- R341: the frame slot is the group's, the level is that of a handler, nothing waits, and each live slice stands at the
vector. -/
theorem enterFrame_of_vec {s : State} {gid n : Nat} {c : Cause} {v : Addr}
    (hv : v = (s.ctx (s.team (tidOf gid)).ctx).trapvec.extractLsb' 0 56) (h0 : v ≠ 0) :
    let u := s.enterFrame gid n c
    ((u.group gid).frame = some n ∧ (u.group gid).level = .l1 ∧ (u.group gid).trapWait = none)
      ∧ ∀ j ∈ s.liveSlices gid, (u.slice gid j).pc = v := by
  have live := SameLives.foldl (fun s is => (SameLives.refl s).restartNow (gid := gid) (is := is)) (s.group gid).restarts s
  set r := (s.group gid).restarts.foldl (fun s is => s.restartNow gid is) s with hr
  have hc : r.ctx (s.team (tidOf gid)).ctx = s.ctx (s.team (tidOf gid)).ctx := by simp only [ctx, live.ctxs]
  rw [hv, ← hc] at h0
  have e : s.enterFrame gid n c = _ := if_neg h0
  rw [e]
  refine ⟨⟨?_, ?_, ?_⟩, fun j hj => ?_⟩
  · rw [enterHandler_group (·.frame) fun _ _ _ _ _ => rfl, modGroup_group, if_pos rfl]
  · rw [enterHandler_group (·.level) fun _ _ _ _ _ => rfl, modGroup_group, if_pos rfl]
  · rw [enterHandler_group (·.trapWait) fun _ _ _ _ _ => rfl, modGroup_group, if_pos rfl]
  · refine (enterHandler_pc _ gid _ ?_).trans ?_
    · exact (SameLives.liveSlices (.modGroup (.modCore (.dropRuns (.scrWrite live)))) gid).symm ▸ hj
    · rw [hv, ← hc]; rfl

end State

/-- An ageing switch of a due slice: those of its gang whose counters are due change paths, and the gang parts. -/
theorem execAgeingSwitch_of_due {s : State} {gid i : Nat} (hd : s.ageDue gid i = true)
    (hp : s.inPipe (s.team (tidOf gid)).core gid = false) :
    execAgeingSwitch gid i s = .next ((s.modSlices gid ((s.gangOf gid (s.slice gid i).gang).filter (s.ageDue gid))
      (ageSwitch (s.cycles gid))).formByPc gid (s.gangOf gid (s.slice gid i).gang)) := by
  simp [execAgeingSwitch, hd, hp]

end Sys2Proof.Machine

open Sys2Proof.Machine

/-- Settles O49: each event changes slices only, and which of them is the list it goes through; a waiting trap's entry is
`enterFrame`. -/
theorem ageingRegangAndWaitingTraps : Obligations.AgeingRegangAndWaitingTraps := by
  intro s gid i x t
  refine ⟨fun e r p hi hd hp hs he => ?_, fun n hn hl => ?_, fun n hn hl => ?_, fun c n hw hf => ?_⟩
  · obtain ⟨hg, hix⟩ := State.ageDue_iff_ganged hd
    let gang := s.gangOf gid x.gang
    have hi8 := State.sliceNos_lt hi
    have switched (j : Nat) (hj : j < 8) := State.modSlices_slice s gid (gang.filter (s.ageDue gid)) (ageSwitch (s.cycles gid))
      ((s.sliceNos_nodup gid |>.filter _).filter _) (fun k hk => State.sliceNos_lt (State.mem_gangOf.mp (List.mem_of_mem_filter hk)).1)
      gid j hj
    have self := (switched i hi8).trans (if_pos ⟨rfl, List.mem_filter.mpr ⟨State.mem_gangOf.mpr ⟨hi, hg, rfl⟩, hd⟩⟩)
    rw [State.ageSwitch_of_pend hs he] at self
    refine ⟨_, execAgeingSwitch_of_due hd hp, ?_, ?_, ?_, ?_, ?_, ?_, fun j hj hne => ?_⟩
    · rw [State.formByPc_proj (·.pc) fun _ _ => rfl]; exact congrArg Slice.pc self
    · rw [State.formByPc_proj (·.ix) fun _ _ => rfl]; exact (congrArg Slice.ix self).trans hix
    · rw [State.formByPc_proj (·.path) fun _ _ => rfl]; exact congrArg Slice.path self
    · rw [State.formByPc_proj (·.exec) fun _ _ => rfl]; exact congrArg Slice.exec self
    · rw [State.formByPc_proj (·.stack) fun _ _ => rfl]; exact congrArg Slice.stack self
    · rw [State.formByPc_rest, State.modSlices_rest]
    · have out : j ∉ gang := fun h => hne (State.mem_gangOf.mp h).2.2
      rw [State.formByPc_slice_of_not_mem _ _ _ out, switched j (State.sliceNos_lt hj),
        if_neg fun h => out (List.mem_of_mem_filter h.2)]
  · let is := (s.sliceNos gid).filter fun i => (s.slice gid i).st == .regangWait
    have gone (j : Nat) (hj : j < 8) := State.modSlices_slice s gid is
      (fun x => { x with pc := State.fallOf x, ix := 0, st := .ganged, waitObj := none }) ((s.sliceNos_nodup gid).filter _)
      (fun k hk => State.sliceNos_lt (List.mem_of_mem_filter hk)) gid j hj
    refine ⟨s.regangRelease gid, ?_, ?_, fun j hj => ?_⟩
    · exact show execRegangTimeout gid s = _ by simp [execRegangTimeout, hn, hl]
    · rw [State.regangRelease, State.letGo_rest]
    · unfold State.regangRelease State.letGo
      dsimp only
      split
      · next hw =>
        have self := (gone j (State.sliceNos_lt hj)).trans (if_pos ⟨rfl, List.mem_filter.mpr ⟨hj, by simpa using hw⟩⟩)
        refine ⟨?_, ?_, ?_⟩
        · rw [State.formByPc_proj (·.st) fun _ _ => rfl]; exact congrArg Slice.st self
        · rw [State.formByPc_proj (·.pc) fun _ _ => rfl]; exact congrArg Slice.pc self
        · rw [State.formByPc_proj (·.ix) fun _ _ => rfl]; exact congrArg Slice.ix self
      · next hw =>
        have out : j ∉ is := fun h => hw (by simpa using (List.mem_filter.mp h).2)
        rw [State.formByPc_slice_of_not_mem _ _ _ out]
        exact (gone j (State.sliceNos_lt hj)).trans (if_neg fun h => out h.2)
  · exact show execRegangTimeout gid s = _ by simp [execRegangTimeout, hn, hl]
  · refine ⟨s.enterFrame gid n c, ?_, rfl, fun h0 => ?_⟩
    · exact show execTrapEntry gid s = _ by simp [execTrapEntry, hw, show s.freeSlot (s.team (tidOf gid)).core = _ from hf]
    · obtain ⟨⟨hfr, hl, ht⟩, hpc⟩ := State.enterFrame_of_vec (n := n) (c := c) rfl h0
      exact ⟨hfr, hl, ht, hpc⟩
end

section
/-! PROOF. The frame of an issue: what an early or overtaken instruction leaves of its destinations (R51). -/

namespace Sys2Proof.Machine

/-- A lane of the gang's slices. -/
def Iss.HasLane (iss : Iss) (l : Nat) : Prop := l < 32 ∧ l / 4 ∈ iss.slices

/-- Every destination is a register a group has. -/
def Meta.Bounded (m : Meta) : Prop := ∀ r ∈ dstRegs m, (∀ n, r = .v n → n < 64) ∧ ∀ n, r = .s n → n < 32

/-- The slices of a gang are slices of a group. -/
def Iss.Gang (iss : Iss) : Prop := ∀ j ∈ iss.slices, j < 8

theorem Iss.Gang.hasLane {iss : Iss} (h8 : iss.Gang) {i l : Nat} (hi : i ∈ iss.slices) (hl : l < 4) :
    iss.HasLane (4 * i + l) := ⟨by have := h8 i hi; omega, by rwa [show (4 * i + l) / 4 = i by omega]⟩

namespace State

theorem mem_active {s : State} {g : Nat} {is : List Nat} {pm : BitVec 3} {p : Nat × Nat} (h : p ∈ s.active g is pm) :
    p.1 ∈ is ∧ p.2 < 4 := by
  simp only [active, List.mem_flatMap, List.mem_map] at h
  obtain ⟨i, hi, l, hl, rfl⟩ := h
  exact ⟨hi, mem_lanesOf hl⟩

theorem hasLane_of_mem_lanesAt {s : State} {m : Meta} {iss : Iss} (h8 : iss.Gang) {l : Nat} (h : l ∈ s.lanesAt m iss) :
    iss.HasLane l := by
  obtain ⟨p, hp, rfl⟩ := List.mem_map.mp h
  exact h8.hasLane (mem_active hp).1 (mem_active hp).2

theorem hasLane_of_mem_allLanes {iss : Iss} (h8 : iss.Gang) {l : Nat} (h : l ∈ allLanes iss) : iss.HasLane l := by
  simp only [allLanes, List.mem_flatMap, List.mem_map, List.mem_range] at h
  obtain ⟨i, hi, k, hk, rfl⟩ := h
  exact h8.hasLane hi hk

/-- The registers whose earlier results an instruction overtakes are its destinations. -/
theorem reg_of_dstHazards {s : State} {m : Meta} {iss : Iss} {h : Hazard} (hh : h ∈ s.dstHazards m iss) :
    h.reg ∈ dstRegs m := by
  have := (List.mem_filter.mp hh).2
  simp only [List.any_eq_true, touches, Bool.and_eq_true, beq_iff_eq] at this
  obtain ⟨r, hr, e, -⟩ := this
  exact e ▸ hr

end State

namespace Spoiled
variable {m : Meta} {iss : Iss} {s t u : State}

theorem refl (s : State) : Spoiled m iss s s :=
  ⟨rfl, fun _ h => h, fun _ _ _ _ _ _ => rfl, fun _ _ _ _ _ _ => rfl, fun _ _ _ _ _ _ => rfl, fun _ _ => rfl, rfl, rfl⟩

theorem trans (h : Spoiled m iss s t) (k : Spoiled m iss t u) : Spoiled m iss s u where
  rest := k.rest.trans h.rest
  poison x hx := h.poison x (k.poison x hx)
  vregs g l n hl hn hd := (k.vregs g l n hl hn hd).trans (h.vregs g l n hl hn hd)
  sregs g i n hi hn hd := (k.sregs g i n hi hn hd).trans (h.sregs g i n hi hn hd)
  kregs g i n hi hn hd := (k.kregs g i n hi hn hd).trans (h.kregs g i n hi hn hd)
  groups g hg := (k.groups g hg).trans (h.groups g hg)
  group := k.group.trans h.group
  ops := k.ops.trans h.ops

theorem foldl {α : Type} {f : State → α → State} (l : List α) (hf : ∀ t, ∀ a ∈ l, Spoiled m iss t (f t a)) (s : State) :
    Spoiled m iss s (l.foldl f s) := by
  induction l generalizing s with
  | nil => exact refl s
  | cons a l ih => exact (hf s a (by simp)).trans (ih (fun t b hb => hf t b (by simp [hb])) _)

theorem ite {c : Prop} [Decidable c] (h : Spoiled m iss s t) (k : Spoiled m iss s u) :
    Spoiled m iss s (if c then t else u) := by split <;> assumption

/-- A free word is taken. -/
theorem freeWord (s : State) : Spoiled m iss s s.freeWord.2 :=
  ⟨rfl, fun _ h => h, fun _ _ _ _ _ _ => rfl, fun _ _ _ _ _ _ => rfl, fun _ _ _ _ _ _ => rfl, fun _ _ => rfl, rfl, rfl⟩

theorem arrClear (s : State) (a n : Nat) : Spoiled m iss s (s.arrClear a n) :=
  ⟨rfl, fun _ h => List.mem_of_mem_filter h, fun _ _ _ _ _ _ => rfl, fun _ _ _ _ _ _ => rfl, fun _ _ _ _ _ _ => rfl,
    fun _ _ => rfl, rfl, rfl⟩

/-- An operation of the gang's group is told of a later write. -/
theorem lose (s : State) (oid : Nat) (l : List (Reg × Nat × Nat)) : Spoiled m iss s (s.lose iss.gid oid l) where
  rest := rfl
  poison _ h := h
  vregs _ _ _ _ _ _ := rfl
  sregs _ _ _ _ _ _ := rfl
  kregs _ _ _ _ _ _ := rfl
  groups g hg := by rw [State.lose, State.modOp, State.modGroup_group, if_neg hg]
  group := by rw [State.lose, State.modOp, State.modGroup_group, if_pos rfl]
  ops := by
    rw [State.lose, State.modOp, State.modGroup_group, if_pos rfl, List.map_map]
    refine List.map_congr_left fun o _ => ?_
    simp only [Function.comp_apply]
    split <;> rfl

theorem wrV {l n : Nat} (hl : iss.HasLane l) (hn : n < 64) (hd : Reg.v n ∈ dstRegs m) (s : State) (x : Word) :
    Spoiled m iss s (s.wrV iss.gid l n x) where
  rest := rfl
  poison _ h := h
  vregs g k r hk hr h := by
    rw [State.rdV_wrV, if_neg]
    unfold lidOf; intro e
    have hk' : k = l := by have := hl.1; omega
    exact h (by have := hl.1; omega) (hk' ▸ hl.2) ((show r = n by have := hl.1; omega) ▸ hd)
  sregs _ _ _ _ _ _ := rfl
  kregs _ _ _ _ _ _ := rfl
  groups _ _ := rfl
  group := rfl
  ops := rfl

theorem wrS {i n : Nat} (hi : i ∈ iss.slices) (h8 : i < 8) (hn : n < 32) (hd : Reg.s n ∈ dstRegs m) (s : State) (x : Word) :
    Spoiled m iss s (s.wrS iss.gid i n x) where
  rest := rfl
  poison _ h := h
  vregs _ _ _ _ _ _ := rfl
  sregs g j r hj hr h := by
    rw [State.rdS_wrS, if_neg]
    unfold sidOf; intro e
    exact h (by omega) ((show j = i by omega) ▸ hi) ((show r = n by omega) ▸ hd)
  kregs _ _ _ _ _ _ := rfl
  groups _ _ := rfl
  group := rfl
  ops := rfl

theorem wrK {i n : Nat} (hi : i ∈ iss.slices) (h8 : i < 8) (hn : n < 8) (hd : n ≠ 0 → Reg.k n ∈ dstRegs m) (s : State)
    (x : Mask) : Spoiled m iss s (s.wrK iss.gid i n x) := by
  by_cases h0 : n = 0
  · subst h0; exact refl s
  have e : s.wrK iss.gid i n x = { s with kreg := sputD 0 s.kreg (sidOf iss.gid i * 8 + n) x } := if_neg h0
  refine ⟨by rw [e]; rfl, by rw [e]; exact fun _ h => h, fun _ _ _ _ _ _ => State.rdV_wrK .., fun _ _ _ _ _ _ => State.rdS_wrK ..,
    fun g j r hj hr h => ?_, fun _ _ => by rw [e]; rfl, by rw [e]; rfl, by rw [e]; rfl⟩
  by_cases r0 : r = 0
  · subst r0; rfl
  rw [State.rdK_wrK _ _ _ _ _ _ _ _ h0 r0, if_neg]
  unfold sidOf; intro e
  exact h (by omega) ((show j = i by omega) ▸ hi) ((show r = n by omega) ▸ hd h0)

variable (h8 : iss.Gang) (hm : m.Bounded)
include h8 hm

/-- A register of the destination is left free at a place of the gang. -/
theorem freeReg {p : Nat} {r : Reg} (hr : r ∈ dstRegs m) (hv : r.isV = true → iss.HasLane p)
    (hs : r.isV = false → p ∈ iss.slices) (s : State) : Spoiled m iss s (s.freeReg iss.gid p r) := by
  refine (freeWord s).trans ?_
  cases r with
  | v n => exact wrV (hv rfl) ((hm _ hr).1 n rfl) hr _ _
  | s n => exact wrS (hs rfl) (h8 _ (hs rfl)) ((hm _ hr).2 n rfl) hr _ _
  | k n => exact refl _
  | exec => exact refl _

/-- A write of a destination at a place of the gang. -/
theorem wrW {i l : Nat} (hi : i ∈ iss.slices) (hl : l < 4) {d : Opnd × Bool} (hd : d ∈ m.dsts) (s : State) (x : DWord) :
    Spoiled m iss s (s.wrW d.2 iss.gid i l d.1 x) := by
  have mem : ∀ r ∈ regsOf d, r ∈ dstRegs m := fun r hr => List.mem_flatMap.mpr ⟨d, hd, hr⟩
  obtain ⟨o, w⟩ := d
  cases o with
  | v n =>
    have hn : n.toNat < 64 := n.isLt
    have lo : Reg.v n.toNat ∈ dstRegs m := mem _ (by simp [regsOf])
    cases w with
    | false => exact wrV (h8.hasLane hi hl) hn lo _ _
    | true =>
      have up : Reg.v (n.toNat + 1) ∈ dstRegs m := mem _ (by simp [regsOf])
      exact (wrV (h8.hasLane hi hl) hn lo _ _).trans (wrV (h8.hasLane hi hl) ((hm _ up).1 _ rfl) up _ _)
  | s n =>
    have hn : n.toNat < 32 := n.isLt
    have lo : Reg.s n.toNat ∈ dstRegs m := mem _ (by simp [regsOf])
    cases w with
    | false => exact wrS hi (h8 i hi) hn lo _ _
    | true =>
      have up : Reg.s (n.toNat + 1) ∈ dstRegs m := mem _ (by simp [regsOf])
      exact (wrS hi (h8 i hi) hn lo _ _).trans (wrS hi (h8 i hi) ((hm _ up).2 _ rfl) up _ _)
  | k n =>
    cases w with
    | false =>
      refine wrK hi (h8 i hi) n.isLt (fun h0 => mem _ ?_) _ _
      have : n ≠ 0 := by rintro rfl; exact h0 rfl
      simpa [regsOf] using this
    | true => exact refl _
  | _ => cases w <;> exact refl _

theorem spoilOne {places : List (Nat × Nat)} (hp : ∀ p ∈ places, p.1 ∈ iss.slices ∧ p.2 < 4) {d : Opnd × Bool}
    (hd : d ∈ m.dsts) (s : State) : Spoiled m iss s (s.spoilOne iss places d) :=
  foldl _ (fun t p h => ((freeWord t).trans (freeWord _)).trans (wrW h8 hm (hp p h).1 (hp p h).2 hd _ _)) s

/-- R51: the destinations of an instruction that reads too early. -/
theorem spoil (s : State) (allL : Bool) : Spoiled m iss s (s.spoil m iss allL) := by
  refine foldl _ (fun t d hd => spoilOne h8 hm (fun p hp => ?_) hd t) s
  split at hp
  · split at hp
    · simp only [List.mem_flatMap, List.mem_map, List.mem_range] at hp
      obtain ⟨i, hi, l, hl, rfl⟩ := hp
      exact ⟨hi, hl⟩
    · exact State.mem_active hp
  · obtain ⟨i, hi, rfl⟩ := List.mem_map.mp hp
    exact ⟨hi, by simp⟩

/-- R51: earlier results of the destinations, overtaken. -/
theorem overtake (s : State) (allL : Bool) (ready : Nat) {hs : List Hazard} (hr : ∀ h ∈ hs, h.reg ∈ dstRegs m) :
    Spoiled m iss s (s.overtake m iss allL ready hs) := by
  have lane : ∀ p ∈ (if allL then State.allLanes iss else s.lanesAt m iss), iss.HasLane p := fun p hp => by
    split at hp
    · exact State.hasLane_of_mem_allLanes h8 hp
    · exact State.hasLane_of_mem_lanesAt h8 hp
  refine foldl _ (fun t h hh => ?_) s
  dsimp only
  generalize hps : h.places.filter _ = ps
  have place : ∀ p ∈ ps, (h.reg.isV = true → iss.HasLane p) ∧ (h.reg.isV = false → p ∈ iss.slices) := fun p hp => by
    have hc := (List.mem_filter.mp (hps ▸ hp)).2
    exact ⟨fun hv => lane p (by simpa [hv] using hc), fun hv => by simpa [hv] using hc⟩
  cases h.ready with
  | none => exact lose t _ _
  | some n =>
    exact ite (foldl _ (fun t p hp => freeReg h8 hm (hr h hh) (place p hp).1 (place p hp).2 t) t) (refl t)

theorem settleDests (s : State) (early maskEarly : Bool) (ready : Nat) {hs : List Hazard}
    (hr : ∀ h ∈ hs, h.reg ∈ dstRegs m) : Spoiled m iss s (s.settleDests m iss early maskEarly ready hs) := by
  unfold State.settleDests
  split
  · exact (overtake h8 hm s _ _ hr).trans (spoil h8 hm _ _)
  · exact overtake h8 hm s _ _ hr

omit h8 hm in
/-- R364: a register written whole loses its poison. -/
theorem rewritten (s : State) : Spoiled m iss s (s.rewritten m iss) := by
  unfold State.rewritten
  exact ite (refl s) (foldl _ (fun t r _ => foldl _ (fun t j _ => ite (arrClear t _ _) (refl t)) t) s)

end Spoiled

namespace State
variable {m : Meta} {s : State} {iss : Iss} {body : Iss → State → Res}

/-- What follows the effect of an instruction that is complete at issue: the issue noted, and the gang moved on. -/
theorem retired_of_done (hn : iss.slices.Nodup) (h8 : iss.Gang) (hb : m.bound = false) (v : State) (l n : Nat) (b : Bool)
    (c : Ctl) (r : Option Nat) (oid : Nat) :
    Retired iss v ((((v.noteIssue iss l).busyUntil iss.gid c n).addHazards m iss b r oid).moveOn m iss) := by
  simp only [moveOn, hb, Bool.false_eq_true, if_false]
  refine advance_retired _ _ _ hn h8 ?_ ?_ fun k => ?_
  · exact (Kept.noteIssue ..).trans ((Kept.busyUntil ..).trans (Kept.addHazards ..))
  · rw [addHazards_lastC, busyUntil_lastC, noteIssue_lastC]
  · show ((((v.noteIssue iss _).busyUntil iss.gid _ _)).team k) = _
    rw [busyUntil_team, noteIssue_team]

/-- An instruction no lane is active for only moves its gang on. -/
theorem ended_of_idle (hn : iss.slices.Nodup) (h8 : iss.Gang) (v : State) (l : Nat) :
    Ended m iss v ((v.noteIssue iss l).moveOn m iss) := by
  have r : Retired iss v ((v.noteIssue iss l).advance iss) :=
    advance_retired _ _ _ hn h8 (Kept.noteIssue ..) (noteIssue_lastC ..) fun k => noteIssue_team ..
  unfold Ended moveOn
  split
  · exact ⟨_, r, rfl⟩
  · exact r

/-- The registers a run compares with what it writes are its destinations. -/
theorem reg_of_mem_waw {s : State} {p : Hazard → Bool} : ∀ h ∈ (s.dstHazards m iss).filter p, h.reg ∈ dstRegs m :=
  fun _ hh => reg_of_dstHazards (List.mem_of_mem_filter hh)

/-- Whether an instruction reads too early the masks, or the masks or its sources. -/
def maskEarly (s : State) (m : Meta) (iss : Iss) : Bool :=
  !m.exact && (s.maskHazards m iss).any fun h => !readable (s.issueAt m iss) h
def early (s : State) (m : Meta) (iss : Iss) : Bool :=
  s.maskEarly m iss || (!m.exact && (s.srcHazards m iss).any fun h => !readable (s.issueAt m iss) h)

/-- A run with a lane to act on whose body, read early or not, comes to a complete effect `t`. -/
theorem run_of_done {t : State} (hl : (m.vec && s.issueL m iss = 0 && !s.maskEarly m iss) = false)
    (hb : (if s.early m iss then unread m iss (s.issuing m iss) (body iss (s.issuing m iss)) else body iss (s.issuing m iss))
      = .done t) (hn : iss.slices.Nodup) (h8 : iss.Gang) (hm : m.Bounded) (hbound : m.bound = false) :
    ∃ v, Spoiled m iss t v ∧ Retired iss v (s.run m iss body) := by
  unfold State.run
  dsimp only
  rw [if_neg (by simpa [maskEarly] using hl)]
  cases he : s.early m iss <;>
  · simp only [he, Bool.false_eq_true, if_false, if_true, issuing] at hb
    simp only [early, maskEarly] at he
    simp only [he, Bool.false_eq_true, if_false, if_true, hb]
    exact ⟨_, (Spoiled.settleDests h8 hm t _ _ _ reg_of_mem_waw).trans (.rewritten _), retired_of_done hn h8 hbound _ _ _ _ _ _ _⟩

/-- A run no lane is active for. -/
theorem run_of_idle (hl : (m.vec && s.issueL m iss = 0 && !s.maskEarly m iss) = true) :
    s.run m iss body = ((s.issuing m iss).noteIssue iss 0).moveOn m iss := by
  unfold State.run
  dsimp only
  rw [if_pos (by simpa [maskEarly] using hl)]; rfl

end State
end Sys2Proof.Machine

open Sys2Proof.Machine

/-- Settles O8: the outcomes of `State.issue` in its order, and the run of an instruction that is not turned away. -/
theorem issueFrame : Obligations.IssueFrame := by
  intro i m body s iss unread idle hi hiss hn h8
  have issued : exec i s = .next (s.issue m iss body) := by rw [hi, instr, hiss]
  have isIdle : idle ↔ (m.vec && s.issueL m iss = 0 && !s.maskEarly m iss) = true := by
    simp [idle, State.maskEarly, unread, and_assoc]
  refine ⟨fun hl => ?_, fun hl hh => ?_, fun hl hh => ⟨fun hp => ?_, fun hp hid => ?_, fun t hp hid hb hdone hm => ?_⟩⟩
  · simp [issued, State.issue, hl]
  · simp [issued, State.issue, hl, hh]
  · simp [issued, State.issue, hl, hh, hp]
  · refine ⟨_, ?_, State.ended_of_idle hn h8 (s.issuing m iss) 0⟩
    simp [issued, State.issue, hl, hh, hp, State.run_of_idle (isIdle.mp hid)]
  · have acts : (m.vec && s.issueL m iss = 0 && !s.maskEarly m iss) = false := by
      simpa using fun h => hid (isIdle.mpr h)
    have ran : exec i s = .next (s.run m iss body) := by simp [issued, State.issue, hl, hh, hp]
    have isEarly : s.early m iss = (!m.exact && (s.maskHazards m iss ++ s.srcHazards m iss).any unread) := by
      simp [State.early, State.maskEarly, unread, Bool.and_or_distrib_left]
    refine ⟨fun he => ?_, fun he hc ho => ?_⟩
    · obtain ⟨v, hv, hr⟩ := State.run_of_done (body := body) (t := t) acts (by rw [isEarly, he]; exact hdone) hn h8 hm hb
      exact ⟨v, _, ran, hv, hr⟩
    · obtain ⟨v, hv, hr⟩ := State.run_of_done (body := body) (t := s.issuing m iss) acts
        (by rw [isEarly, he, if_pos rfl, hdone]; simp [State.unread, hc, ho]) hn h8 hm hb
      exact ⟨v, _, ran, hv, hr⟩
end

section
/-! PROOF. A transfer of control: what every one adds to its effect, and how its gang parts (R30, R63). -/

namespace Sys2Proof.Machine

namespace State

/-! ### How slices part by where they stand -/

theorem mem_beside {s : State} {g : Nat} {is : List Nat} {i j : Nat} :
    j ∈ s.beside g is i ↔ j ∈ is ∧ (s.slice g j).pc = (s.slice g i).pc ∧ (s.slice g j).ix = (s.slice g i).ix := by
  simp [beside]

theorem beside_congr {s t : State} {g : Nat} (is : List Nat) (i : Nat) (hp : ∀ j, (t.slice g j).pc = (s.slice g j).pc)
    (hx : ∀ j, (t.slice g j).ix = (s.slice g j).ix) : t.beside g is i = s.beside g is i := by
  simp only [beside, hp, hx]

/-- The least of some slice numbers is one of them. -/
theorem foldl_min_mem {l : List Nat} (h8 : ∀ i ∈ l, i < 8) (hne : l ≠ []) : l.foldl Nat.min 7 ∈ l := by
  have key : ∀ (l : List Nat) (a : Nat), l.foldl Nat.min a = a ∨ l.foldl Nat.min a ∈ l := by
    intro l
    induction l with
    | nil => exact fun a => .inl rfl
    | cons b l ih =>
      intro a
      rw [List.foldl_cons]
      rcases ih (Nat.min a b) with h | h
      · rw [h]
        rcases Nat.le_total a b with hab | hab
        · exact .inl (Nat.min_eq_left hab)
        · exact .inr (by rw [show Nat.min a b = b from Nat.min_eq_right hab]; simp)
      · exact .inr (by simp [h])
  cases l with
  | nil => exact absurd rfl hne
  | cons b l =>
    rw [List.foldl_cons, show Nat.min 7 b = b from Nat.min_eq_right (by have := h8 b (by simp); omega)]
    rcases key l b with h | h
    · rw [h]; simp
    · simp [h]

/-- Each slice that forms a gang is numbered with the least of those beside it. -/
theorem formByPc_slice (s : State) (g : Nat) (is : List Nat) (hn : is.Nodup) {i : Nat} (hi : i ∈ is) :
    (s.formByPc g is).slice g i = { s.slice g i with gang := (s.beside g is i).foldl Nat.min 7 } := by
  suffices ∀ (m l : List Nat) (s : State), l.Nodup → i ∈ l → (l.foldl (joinGang g m) s).slice g i
      = { s.slice g i with gang := (s.beside g m i).foldl Nat.min 7 } from this is is s hn hi
  intro m l
  induction l with
  | nil => intro s _ h; simp at h
  | cons a l ih =>
    intro s hn hi
    obtain ⟨hnot, hn⟩ := List.nodup_cons.mp hn
    rw [List.foldl_cons]
    rcases List.mem_cons.mp hi with rfl | hi
    · rw [foldl_joinGang_of_ne g m l _ fun k hk e => hnot (by rwa [sidOf_inj e]), joinGang, modSlice_slice, if_pos rfl]
    · have hne : sidOf g i ≠ sidOf g a := fun e => hnot (sidOf_inj e ▸ hi)
      have same : (joinGang g m s a).beside g m i = s.beside g m i :=
        beside_congr m i (foldl_joinGang_proj (·.pc) (fun _ _ => rfl) g m [a] s g)
          (foldl_joinGang_proj (·.ix) (fun _ _ => rfl) g m [a] s g)
      rw [ih _ hn hi, same, joinGang, modSlice_slice, if_neg hne]

/-- Slices that form gangs are in one exactly if they stand at one place. -/
theorem formByPc_gang_iff (s : State) (g : Nat) (is : List Nat) (hn : is.Nodup) (h8 : ∀ i ∈ is, i < 8) {i j : Nat}
    (hi : i ∈ is) (hj : j ∈ is) :
    ((s.formByPc g is).slice g i).gang = ((s.formByPc g is).slice g j).gang
      ↔ (s.slice g i).pc = (s.slice g j).pc ∧ (s.slice g i).ix = (s.slice g j).ix := by
  rw [formByPc_slice s g is hn hi, formByPc_slice s g is hn hj]
  have least (k : Nat) (hk : k ∈ is) := mem_beside.mp <| foldl_min_mem (fun a ha => h8 a (List.mem_of_mem_filter ha)) <|
    List.ne_nil_of_mem (mem_beside.mpr ⟨hk, rfl, rfl⟩ : k ∈ s.beside g is k)
  constructor
  · intro e
    dsimp only at e
    obtain ⟨-, hp, hx⟩ := least i hi
    obtain ⟨-, hp', hx'⟩ := least j hj
    rw [e] at hp hx
    exact ⟨hp.symm.trans hp', hx.symm.trans hx'⟩
  · rintro ⟨hp, hx⟩
    simp only [beside, hp, hx]

/-! ### Instructions that transfer control, and that trap -/

variable {m : Meta} {s t : State} {iss : Iss} {body : Iss → State → Res}

/-- Where every earlier result is readable an instruction reads nothing early. -/
theorem early_of_ready (h : Ready s m iss) : s.early m iss = false ∧ s.maskEarly m iss = false := by
  have none (l : List Hazard) (hl : ∀ x ∈ l, x ∈ (s.group iss.gid).hazards) :
      (l.any fun x => !readable (s.issueAt m iss) x) = false :=
    List.any_eq_false.mpr fun x hx => by simp [h.results x (hl x hx)]
  simp [early, maskEarly, none _ fun x (hx : x ∈ s.maskHazards m iss) => List.mem_of_mem_filter hx,
    none _ fun x (hx : x ∈ s.srcHazards m iss) => List.mem_of_mem_filter hx]

/-- An instruction that may complete is run. -/
theorem instr_of_ready (h : Ready s m iss) : instr m s body = .next (s.run m iss body) := by
  have hr : s.readsPoison m iss = false := by simp [readsPoison, h.sound]
  simp [instr, h.issuer, State.issue, h.legal, h.free, hr]

/-- The run of an instruction that may complete, and traps. -/
theorem run_of_trap {k : Cause} (h : Ready s m iss) (hb : body iss (s.issuing m iss) = .trap t k) :
    s.run m iss body = (t.noteIssue iss (s.issueL m iss)).takeTrap iss.gid k := by
  obtain ⟨he, hm⟩ := early_of_ready h
  simp only [early, maskEarly] at he hm
  unfold run
  dsimp only
  rw [if_neg (by simpa [hm] using h.acts)]
  simp only [he, Bool.false_eq_true, if_false]
  simp only [issuing] at hb
  rw [hb]

theorem traps_of_ready {i : Instr} {k : Cause} {pre : State → Prop} (h : Ready s m iss) (hi : exec i s = instr m s body)
    (hb : body iss (s.issuing m iss) = .trap t k) (ht : pre t) : Traps i m s iss k pre :=
  ⟨t, ht, by rw [hi, instr_of_ready h, run_of_trap h hb]⟩

/-- What a transfer of control adds to the state `t` its effect leaves, its results due at cycle `n`. -/
def jumped (t : State) (m : Meta) (iss : Iss) (l n old : Nat) : State :=
  let t := ((t.noteIssue iss l).busyUntil iss.gid m.c n).addHazards m iss false (some n) 0
  let own := iss.slices.filter fun i => (t.slice iss.gid i).st == .ganged && (t.slice iss.gid i).gang == old
  (t.formByPc iss.gid own).dropRuns iss.cid iss.gid

/-- The run of an instruction that may complete, and transfers control. -/
theorem run_of_jump (h : Ready s m iss) (hb : body iss (s.issuing m iss) = .jump t) (hbound : m.bound = false) :
    s.run m iss body
      = t.jumped m iss (s.issueL m iss) (s.issueAt m iss + m.quick) (s.slice iss.gid iss.lead).gang := by
  obtain ⟨he, hm⟩ := early_of_ready h
  simp only [early, maskEarly] at he hm
  have ho (p : Hazard → Bool) := t.overtake_readable m iss false _ (s.issueAt m iss + m.quick)
    ((s.dstHazards m iss).filter p) (Nat.le_add_right ..) fun x hx =>
      h.results x (List.mem_of_mem_filter (List.mem_of_mem_filter hx))
  unfold run
  dsimp only
  rw [if_neg (by simpa [hm] using h.acts)]
  simp only [he, Bool.false_eq_true, if_false]
  simp only [issuing] at hb
  rw [hb]
  simp only [settleDests, ho, hbound, Bool.false_eq_true, if_false]
  rfl

theorem all_dropped (o : Option Run) (g : Nat) : ((if o.any (·.gid == g) then none else o).all fun r => r.gid != g) = true := by
  cases o with
  | none => rfl
  | some r => by_cases e : r.gid = g <;> simp [e]

/-- What a transfer of control adds is what `Jumped` says. -/
theorem jumped_jumped (t : State) (m : Meta) (iss : Iss) (l n old : Nat) (hn : iss.slices.Nodup) (h8 : iss.Gang) :
    Jumped iss old t (t.jumped m iss l n old) := by
  unfold jumped
  set v := ((t.noteIssue iss l).busyUntil iss.gid m.c n).addHazards m iss false (some n) 0 with hv
  have kept : Kept iss t v := (Kept.noteIssue ..).trans ((Kept.busyUntil ..).trans (Kept.addHazards ..))
  have hs (g i : Nat) : v.slice g i = t.slice g i := by simp only [slice, kept.slices]
  set own := iss.slices.filter fun i => (v.slice iss.gid i).st == .ganged && (v.slice iss.gid i).gang == old with hown
  have mem_own (i : Nat) : i ∈ own ↔ i ∈ iss.slices ∧ (t.slice iss.gid i).st = .ganged ∧ (t.slice iss.gid i).gang = old := by
    simp [hown, hs]
  have rest := v.formByPc_rest iss.gid own
  have drop := Kept.dropRuns (v.formByPc iss.gid own) iss iss.gid
  have group (g : Nat) : (v.formByPc iss.gid own).group g = v.group g := by rw [rest]; rfl
  have core (c : Nat) : (v.formByPc iss.gid own).core c = v.core c := by rw [rest]; rfl
  refine ⟨?_, fun g i hi hni => ?_, fun i hi => ?_, fun i hi j hj si gi sj gj => ?_, fun g hg => ?_, ?_, ?_, fun k => ?_,
    fun c hc => ?_, ?_, ?_⟩
  · rw [drop.rest, rest]; exact kept.rest
  · refine (v.formByPc_slice_of_ne iss.gid own fun k hk e => hni ?_).trans (hs g i)
    have hk' := ((mem_own k).mp hk).1
    have := h8 k hk'
    unfold sidOf at e
    exact ⟨by omega, (show i = k by omega) ▸ hk'⟩
  · exact (formByPc_proj Slice.ungang (fun _ _ => rfl) v iss.gid own iss.gid i).trans (by rw [hs])
  · have := v.formByPc_gang_iff iss.gid own (hn.filter _) (fun k hk => h8 k ((mem_own k).mp hk).1)
      ((mem_own i).mpr ⟨hi, si, gi⟩) ((mem_own j).mpr ⟨hj, sj, gj⟩)
    rwa [hs, hs] at this
  · rw [drop.groups g hg, group]; exact kept.groups g hg
  · rw [drop.group, group]; exact kept.group
  · show ((v.formByPc iss.gid own).group iss.gid).lastC = _
    rw [group, hv, addHazards_lastC, busyUntil_lastC, noteIssue_lastC]
  · show (v.formByPc iss.gid own).team k = _
    rw [rest]
    show ((((t.noteIssue iss _).busyUntil iss.gid _ _)).team k) = _
    rw [busyUntil_team, noteIssue_team]
  · rw [drop.cores c hc, core]; exact kept.cores c hc
  · rw [drop.core, core]; exact kept.core
  · simp only [dropRuns, modCore_core, if_true]
    exact ⟨all_dropped .., all_dropped ..⟩

theorem jumps_of_ready {i : Instr} (h : Ready s m iss) (hi : exec i s = instr m s body)
    (hb : body iss (s.issuing m iss) = .jump t) (hbound : m.bound = false) :
    ∃ u, exec i s = .next u ∧ Jumped iss (s.slice iss.gid iss.lead).gang t u :=
  ⟨_, by rw [hi, instr_of_ready h, run_of_jump h hb hbound], t.jumped_jumped m iss _ _ _ h.gang.1 h.gang.2.2⟩

end State
end Sys2Proof.Machine
end

section
/-! PROOF. EXIT, REGANG, YIELD and NOP. -/

namespace Sys2Proof.Machine

namespace State
variable {s : State} {gid : Nat}

theorem mem_liveSlices {i : Nat} : i ∈ s.liveSlices gid ↔ i ∈ s.sliceNos gid ∧ (s.slice gid i).st ≠ .done := by
  simp [liveSlices]

theorem groupDone_iff : s.groupDone gid = true ↔ ∀ i ∈ s.sliceNos gid, (s.slice gid i).st = .done := by
  simp [groupDone, liveSlices, List.filter_eq_nil_iff]

theorem modSlices_sliceNos (s : State) (g : Nat) (is : List Nat) (f : Slice → Slice) (h : Nat) :
    (s.modSlices g is f).sliceNos h = s.sliceNos h := by simp only [sliceNos, modSlices_team]

theorem postAsync_slices (s : State) (tid g : Nat) (c : Cause) : (s.postAsync tid g c).slices = s.slices := by
  unfold postAsync
  dsimp only
  split <;> rfl

theorem passAsyncs_slices (s : State) (gid : Nat) : (s.passAsyncs gid).slices = s.slices :=
  foldl_keep _ (·.slices) _ _ fun _ _ _ => postAsync_slices ..

/-- A group that is done gives up its frame slot; its slices stand as they did. -/
theorem afterExit_of_done (h : s.groupDone gid = true) :
    ((s.afterExit gid).group gid).frame = none ∧ (s.afterExit gid).slices = s.slices := by
  simp only [afterExit, h, if_true]
  refine ⟨by rw [modGroup_group, if_pos rfl], ?_⟩
  rw [modGroup_slices]
  split
  · exact passAsyncs_slices ..
  · exact passAsyncs_slices ..

/-- With a live slice that does not wait at REGANG, nobody is let go on. -/
theorem regangCheck_of_busy {j : Nat} (hj : j ∈ s.liveSlices gid) (hw : (s.slice gid j).st ≠ .regangWait) :
    s.regangCheck gid = s := by
  have : ((s.liveSlices gid).all fun i => (s.slice gid i).st == .regangWait) = false :=
    List.all_eq_false.mpr ⟨j, hj, by simpa using hw⟩
  simp [regangCheck, this]

theorem afterExit_of_busy {j : Nat} (hj : j ∈ s.liveSlices gid) (hw : (s.slice gid j).st ≠ .regangWait) :
    s.afterExit gid = s := by
  have : s.groupDone gid = false := Bool.eq_false_iff.mpr fun h =>
    (mem_liveSlices.mp hj).2 (groupDone_iff.mp h j (mem_liveSlices.mp hj).1)
  simp [afterExit, this, regangCheck_of_busy hj hw]

/-- With every live slice at REGANG, all of them are let go on. -/
theorem regangCheck_of_all (hne : s.liveSlices gid ≠ []) (hw : ∀ j ∈ s.liveSlices gid, (s.slice gid j).st = .regangWait) :
    s.regangCheck gid = s.regangRelease gid := by
  have : ((s.liveSlices gid).all fun i => (s.slice gid i).st == .regangWait) = true :=
    List.all_eq_true.mpr fun j hj => by simpa using hw j hj
  simp [regangCheck, this, hne]

/-- Slices let go on stand ganged past where they were; of the rest only their gang and what they waited for differs. -/
theorem letGo_slice {is : List Nat} (hn : is.Nodup) (h8 : ∀ i ∈ is, i < 8) {j : Nat} (hj : j ∈ is) :
    ((s.letGo gid is).slice gid j).ungang
      = { s.slice gid j with pc := fallOf (s.slice gid j), ix := 0, st := .ganged, waitObj := none, gang := 0 } := by
  unfold letGo
  refine (formByPc_proj Slice.ungang (fun _ _ => rfl) _ gid is gid j).trans ?_
  rw [modSlices_slice _ _ _ _ hn h8 gid j (h8 j hj), if_pos ⟨rfl, hj⟩]
  rfl

/-- Slices sent to addresses. -/
theorem sendTo_slice (iss : Iss) (f : Nat → Addr) (hn : iss.slices.Nodup) (h8 : iss.Gang) (s : State) (g j : Nat) (hj : j < 8) :
    (s.sendTo iss f).slice g j = if g = iss.gid ∧ j ∈ iss.slices then Slice.to (f j) (s.slice g j) else s.slice g j := by
  suffices ∀ (l : List Nat) (s : State), l.Nodup → (∀ i ∈ l, i < 8) →
      ((l.map fun i => (i, f i)).foldl (fun t p => t.modSlice iss.gid p.1 fun x => { x with pc := p.2, ix := 0 }) s).slice g j
        = if g = iss.gid ∧ j ∈ l then Slice.to (f j) (s.slice g j) else s.slice g j from this _ s hn h8
  intro l
  induction l with
  | nil => intro s _ _; simp
  | cons i l ih =>
    intro s hn h8
    have hi := h8 i (by simp)
    obtain ⟨hnot, hn⟩ := List.nodup_cons.mp hn
    rw [List.map_cons, List.foldl_cons, ih _ hn fun k hk => h8 k (by simp [hk]), modSlice_slice]
    have e : sidOf g j = sidOf iss.gid i ↔ g = iss.gid ∧ j = i := by unfold sidOf; constructor <;> intro <;> omega
    simp only [e]
    by_cases hg : g = iss.gid
    · by_cases hji : j = i
      · subst hg hji; simp [hnot, Slice.to]
      · simp [hji]
    · simp [hg]

theorem sendTo_rest (iss : Iss) (f : Nat → Addr) (s : State) :
    s.sendTo iss f = { s with slices := (s.sendTo iss f).slices } := by
  unfold sendTo
  induction iss.slices.map fun i => (i, f i) generalizing s with
  | nil => rfl
  | cons p l ih => rw [List.foldl_cons, ih]; rfl

end State

/-! ### EXIT in one slice (R128) -/

/-- A slice whose path has exited, before the JOIN step. -/
def Slice.pathGone (x : Slice) : Slice :=
  { x with exited := x.exited ||| x.path, exec := x.exec &&& ~~~x.path, path := 0
           stack := x.stack.map fun e =>
             { e with restore := e.restore &&& ~~~x.path
                      pend := e.pend.map fun p => { p with path := p.path &&& ~~~x.path, exec := p.exec &&& ~~~x.path } } }

theorem exitSlice_eq (now : Nat) (x : Slice) : exitSlice now x = exitLoop now x.pathGone 40 := rfl

theorem exitSlice_of_empty (now : Nat) {x : Slice} (h : x.stack = []) : exitSlice now x = { x.pathGone with st := .done } := by
  have : x.pathGone.stack = [] := by simp [Slice.pathGone, h]
  rw [exitSlice_eq, exitLoop]
  split
  · rfl
  · next hne => exact absurd this hne

theorem exitSlice_of_join (now : Nat) {x : Slice} (h : x.pathGone.stack ≠ [])
    (hj : (joinStep now x.pathGone).1.exec ≠ 0 ∨ (joinStep now x.pathGone).2 = true) :
    exitSlice now x = (joinStep now x.pathGone).1 := by
  rw [exitSlice_eq, exitLoop]
  split
  · next e => exact absurd e h
  · exact if_pos (by simpa using hj)

/-! ### The effects -/

namespace State

/-- The state in which the slices of an EXIT have exited. -/
def exitedAt (s : State) (iss : Iss) : State :=
  (s.modGroup iss.gid fun g => { g with exits := if g.regs.isEmpty then g.exits else g.exits ++ [s.exiting iss.gid iss.slices] }).modSlices
    iss.gid iss.slices (exitSlice (s.cycles iss.gid))

/-- The state in which the slices of a REGANG wait. -/
def regangedAt (s : State) (iss : Iss) : State :=
  s.modSlices iss.gid iss.slices fun x => { x with st := .regangWait, waitFrom := s.cycles iss.gid }

/-- The state in which the group of a YIELD counts as selected last. -/
def yieldedAt (s : State) (iss : Iss) : State :=
  ((s.modCore iss.cid fun k =>
    if iss.pipe = 0 then { k with rr0 := (s.group iss.gid).slot } else { k with rr1 := (s.group iss.gid).slot }).modGroup
    iss.gid fun g => { g with lastStart := s.clock }).sendTo iss fun _ => iss.fall

variable {s : State} {iss : Iss}

theorem exitedAt_slice (hn : iss.slices.Nodup) (h8 : iss.Gang) (g j : Nat) (hj : j < 8) :
    (s.exitedAt iss).slice g j =
      if g = iss.gid ∧ j ∈ iss.slices then exitSlice (s.cycles iss.gid) (s.slice g j) else s.slice g j :=
  modSlices_slice _ _ _ _ hn h8 g j hj

theorem exitedAt_sliceNos (g : Nat) : (s.exitedAt iss).sliceNos g = s.sliceNos g := by
  rw [exitedAt, modSlices_sliceNos]; rfl

theorem regangedAt_slice (hn : iss.slices.Nodup) (h8 : iss.Gang) (g j : Nat) (hj : j < 8) :
    (s.regangedAt iss).slice g j = if g = iss.gid ∧ j ∈ iss.slices
      then { s.slice g j with st := .regangWait, waitFrom := s.cycles iss.gid } else s.slice g j :=
  modSlices_slice _ _ _ _ hn h8 g j hj

/-- Slices at REGANG live on. -/
theorem regangedAt_liveSlices (hn : iss.slices.Nodup) (h8 : iss.Gang) (hl : ∀ j ∈ iss.slices, j ∈ s.liveSlices iss.gid) (j : Nat) :
    j ∈ (s.regangedAt iss).liveSlices iss.gid ↔ j ∈ s.liveSlices iss.gid := by
  rw [mem_liveSlices, mem_liveSlices, regangedAt, modSlices_sliceNos]
  refine and_congr_right fun hj => ?_
  rw [show (s.modSlices iss.gid iss.slices _).slice iss.gid j = _ from regangedAt_slice hn h8 iss.gid j (sliceNos_lt hj)]
  split
  · next h => exact ⟨fun _ => (mem_liveSlices.mp (hl j h.2)).2, fun _ => by simp⟩
  · exact Iff.rfl

theorem yieldedAt_lastStart : ((s.yieldedAt iss).group iss.gid).lastStart = (s.yieldedAt iss).clock := by
  rw [yieldedAt, sendTo_rest]
  exact congrArg Group.lastStart ((modGroup_group _ iss.gid (fun g => { g with lastStart := s.clock }) iss.gid).trans (if_pos rfl))

theorem yieldedAt_core : (s.yieldedAt iss).core iss.cid =
    if iss.pipe = 0 then { s.core iss.cid with rr0 := (s.group iss.gid).slot }
    else { s.core iss.cid with rr1 := (s.group iss.gid).slot } := by
  rw [yieldedAt, sendTo_rest]
  exact (modCore_core s iss.cid (fun k =>
    if iss.pipe = 0 then { k with rr0 := (s.group iss.gid).slot } else { k with rr1 := (s.group iss.gid).slot }) iss.cid).trans
    (if_pos rfl)

theorem yieldedAt_rr : (if iss.pipe = 0 then ((s.yieldedAt iss).core iss.cid).rr0 else ((s.yieldedAt iss).core iss.cid).rr1)
    = (s.group iss.gid).slot := by
  rw [yieldedAt_core]
  by_cases h : iss.pipe = 0 <;> simp [h]

theorem held_exitedAt : (s.exitedAt iss).held = s.held := by simp [exitedAt]
theorem held_regangedAt : (s.regangedAt iss).held = s.held := by simp [regangedAt]
theorem held_yieldedAt : (s.yieldedAt iss).held = s.held := by simp [yieldedAt]

end State

/-- What EXIT does once it issues: a transaction that is open traps. -/
def exitBody (iss : Iss) (s : State) : Res :=
  if (s.group iss.gid).tx.isSome then .trap (s.closeTx iss.gid) (iss.cause 15 4 0 0)
  else .jump ((s.exitedAt iss).afterExit iss.gid)

theorem exec_exit (c : Ctl) (s : State) : exec (.exit c) s = instr (.flow c [] []) s exitBody := rfl
theorem exec_regang (c : Ctl) (s : State) :
    exec (.regang c) s = instr (.flow c [] []) s fun iss s => .jump ((s.regangedAt iss).regangCheck iss.gid) := rfl
theorem exec_yield (c : Ctl) (s : State) :
    exec (.yield c) s = instr (.flow c [] []) s fun iss s => .jump (s.yieldedAt iss) := rfl

theorem exitBody_of_no_tx {iss : Iss} {s : State} (h : (s.group iss.gid).tx = none) :
    exitBody iss s = .jump ((s.exitedAt iss).afterExit iss.gid) := by simp [exitBody, h]

theorem exitBody_of_tx {iss : Iss} {s : State} (h : (s.group iss.gid).tx ≠ none) :
    exitBody iss s = .trap (s.closeTx iss.gid) (iss.cause 15 4 0 0) := if_pos (Option.isSome_iff_ne_none.mpr h)

end Sys2Proof.Machine

open Sys2Proof.Machine

/-- Settles O23: EXIT by whether a live slice of the group is left that does not wait, REGANG by whether all wait. -/
theorem exitRegangYieldNop : Obligations.ExitRegangYieldNop := by
  constructor
  · intro c s iss m now gone _ h
    obtain ⟨hn, -, h8⟩ := h.gang
    have slices := State.exitedAt_slice (s := s.issuing m iss) hn h8
    refine ⟨fun ht hd he => ?_, fun ht ⟨j, hj, hm, hw⟩ => ?_, fun x hx => exitSlice_of_empty now hx,
      fun x => exitSlice_of_join now, fun ht => State.traps_of_ready h (exec_exit c s) (exitBody_of_tx ht) rfl⟩
    · have done : ((s.issuing m iss).exitedAt iss).groupDone iss.gid = true := State.groupDone_iff.mpr fun j hj => by
        rw [State.exitedAt_sliceNos] at hj
        rw [slices iss.gid j (State.sliceNos_lt hj)]
        split
        · next hi => exact congrArg Slice.st (exitSlice_of_empty _ (he j hi.2))
        · next hi => exact hd j hj fun hm => hi ⟨rfl, hm⟩
      obtain ⟨frame, stand⟩ := State.afterExit_of_done done
      obtain ⟨u, hu, hj⟩ := State.jumps_of_ready h (exec_exit c s) (exitBody_of_no_tx ht) rfl
      have held : (((s.issuing m iss).exitedAt iss).afterExit iss.gid).held = s.held := by
        rw [held_afterExit, State.held_exitedAt]; rfl
      refine ⟨_, u, hu, hj, .of_held held, .of_held held, frame, fun g j hj8 => ?_⟩
      simp only [State.slice, stand]
      refine (slices g j hj8).trans ?_
      split
      · next hi => exact exitSlice_of_empty _ (hi.1 ▸ he j hi.2)
      · rfl
    · have here : ((s.issuing m iss).exitedAt iss).slice iss.gid j = s.slice iss.gid j :=
        (slices iss.gid j (State.liveSlices_lt hj)).trans (if_neg fun hi => hm hi.2)
      have live : j ∈ ((s.issuing m iss).exitedAt iss).liveSlices iss.gid := by
        rw [State.mem_liveSlices, State.exitedAt_sliceNos, here]
        exact State.mem_liveSlices.mp hj
      obtain ⟨u, hu, hj⟩ := State.jumps_of_ready h (exec_exit c s) (exitBody_of_no_tx ht) rfl
      rw [State.afterExit_of_busy live (by rwa [here])] at hj
      refine ⟨_, u, hu, hj, ?_, fun g hg => ?_, ?_, slices⟩
      · rw [State.exitedAt, State.modSlices_rest]; rfl
      · rw [State.exitedAt, State.modSlices_group, State.modGroup_group, if_neg hg]; rfl
      · rw [State.exitedAt, State.modSlices_group, State.modGroup_group, if_pos rfl]; rfl
  · intro c s iss m old
    refine ⟨fun _ h hl ⟨j, hj, hm, hw⟩ => ?_, fun _ h hl hw => ?_, fun _ h => ?_, fun _ h => ?_⟩ <;>
      obtain ⟨hn, hne, h8⟩ := h.gang
    · have slices := State.regangedAt_slice (s := s.issuing m iss) hn h8
      have here : ((s.issuing m iss).regangedAt iss).slice iss.gid j = s.slice iss.gid j :=
        (slices iss.gid j (State.liveSlices_lt hj)).trans (if_neg fun hi => hm hi.2)
      have live := (State.regangedAt_liveSlices (s := s.issuing m iss) hn h8 hl j).mpr hj
      obtain ⟨u, hu, hj⟩ := State.jumps_of_ready h (exec_regang c s) rfl rfl
      rw [State.regangCheck_of_busy live (by rwa [here])] at hj
      refine ⟨_, u, hu, hj, ⟨?_, slices⟩⟩
      rw [State.regangedAt, State.modSlices_rest]
    · have slices := State.regangedAt_slice (s := s.issuing m iss) hn h8
      have live := State.regangedAt_liveSlices (s := s.issuing m iss) hn h8 hl
      have waits (j : Nat) (hj : j ∈ s.liveSlices iss.gid) : (((s.issuing m iss).regangedAt iss).slice iss.gid j).st = .regangWait := by
        rw [slices iss.gid j (State.liveSlices_lt hj)]
        split
        · rfl
        · next hi => exact hw j hj fun hm => hi ⟨rfl, hm⟩
      obtain ⟨i, hi⟩ := List.exists_mem_of_ne_nil _ hne
      have all := State.regangCheck_of_all (List.ne_nil_of_mem ((live i).mpr (hl i hi))) fun j hj => waits j ((live j).mp hj)
      obtain ⟨u, hu, hj⟩ := State.jumps_of_ready h (exec_regang c s) rfl rfl
      have held : (((s.issuing m iss).regangedAt iss).regangCheck iss.gid).held = s.held := by
        rw [held_regangCheck, State.held_regangedAt]; rfl
      refine ⟨_, u, hu, hj, .of_held held, .of_held held, fun j hj => ?_⟩
      rw [all]
      have waiting : j ∈ (((s.issuing m iss).regangedAt iss).sliceNos iss.gid).filter fun i =>
          (((s.issuing m iss).regangedAt iss).slice iss.gid i).st == .regangWait :=
        List.mem_filter.mpr ⟨(State.mem_liveSlices.mp ((live j).mpr hj)).1, beq_iff_eq.mpr (waits j hj)⟩
      have gone := State.letGo_slice (s := (s.issuing m iss).regangedAt iss) (gid := iss.gid) ((State.sliceNos_nodup _ _).filter _)
        (fun k hk => State.sliceNos_lt (List.mem_of_mem_filter hk)) waiting
      have stood {α : Type} (p : Slice → α) (hp : ∀ x st n, p { x with st := st, waitFrom := n } = p x) :
          p (((s.issuing m iss).regangedAt iss).slice iss.gid j) = p (s.slice iss.gid j) :=
        State.modSlices_proj p (fun _ => hp _ _ _) (s.issuing m iss) iss.gid iss.slices iss.gid j
      exact ⟨congrArg Slice.st gone, (congrArg Slice.pc gone).trans (stood State.fallOf fun _ _ _ => rfl), congrArg Slice.ix gone,
        (congrArg Slice.exec gone).trans (stood (·.exec) fun _ _ _ => rfl),
        (congrArg Slice.path gone).trans (stood (·.path) fun _ _ _ => rfl),
        (congrArg Slice.stack gone).trans (stood (·.stack) fun _ _ _ => rfl)⟩
    · obtain ⟨u, hu, hj⟩ := State.jumps_of_ready h (exec_yield c s) rfl rfl
      have held : ((s.issuing m iss).yieldedAt iss).held = s.held := by rw [State.held_yieldedAt]; rfl
      refine ⟨_, u, hu, hj, .of_held held, .of_held held, fun g j hj8 => ?_, ?_, ?_⟩
      · exact State.sendTo_slice iss _ hn h8 _ g j hj8
      · exact State.yieldedAt_lastStart
      · exact State.yieldedAt_rr
    · exact (State.instr_done (t := s.issuing m iss) h rfl rfl rfl).elim fun u hu => ⟨s.issuing m iss, u, hu.1, hu.2, rfl⟩
end

section
/-! PROOF. Bytes and barrier objects read back (R5, R222). -/

namespace Sys2Proof.Machine

theorem mreads_mwrites_same (m : Memory) (a : Nat) (bs : List Byte) : mreads (mwrites m a bs) a bs.length = bs := by
  refine List.ext_getElem (by simp [mreads]) fun i h1 h2 => ?_
  simp only [mreads, List.getElem_map, List.getElem_range]
  rw [mread_mwrites, if_pos (by omega)]
  simp [h2]

theorem leNat_cons (b : Byte) (bs : List Byte) : leNat (b :: bs) = b.toNat + 256 * leNat bs := rfl

/-- Little-endian bytes of a number read back. -/
theorem leNat_leBytes (n v : Nat) : leNat (leBytes n v) = v % 256 ^ n := by
  induction n generalizing v with
  | zero => simp [leBytes, leNat, dwordOfBytes, Nat.mod_one]
  | succ n ih =>
    have tail : leBytes (n + 1) v = BitVec.ofNat 8 v :: leBytes n (v / 256) := by
      simp only [leBytes, List.range_succ_eq_map, List.map_cons, List.map_map]
      congr 1
      · simp
      · refine List.map_congr_left fun i _ => ?_
        simp only [Function.comp_apply, Nat.div_div_eq_div_mul]
        rw [show 8 * (i + 1) = 8 + 8 * i by omega, Nat.pow_add]
    rw [tail, leNat_cons, ih, Nat.pow_succ', Nat.mod_mul]
    simp

@[simp] theorem leBytes_length (n v : Nat) : (leBytes n v).length = n := by simp [leBytes]

/-- Every field of an object fits its place (R222). -/
structure Obj.Fits (o : Obj) : Prop where
  phase : o.phase < 2 ^ 32
  exp : o.exp < 2 ^ 16
  arr : o.arr < 2 ^ 16
  expb : o.expb < 2 ^ 32
  landed : o.landed < 2 ^ 32

theorem objOf_fits (bs : List Byte) : (objOf bs).Fits := by
  constructor <;> simp only [objOf, fld] <;> exact Nat.mod_lt _ (by positivity)

/-- An object that fits reads back. -/
theorem objOf_objBytes {o : Obj} (h : o.Fits) : objOf (objBytes o) = o := by
  obtain ⟨ph, ex, ar, eb, la⟩ := o
  obtain ⟨h1, h2, h3, h4, h5⟩ := h
  simp only at h1 h2 h3 h4 h5
  simp only [objOf, objBytes, leNat_leBytes, fld, Obj.mk.injEq]
  norm_num at h1 h2 h3 h4 h5 ⊢
  omega

theorem Obj.Fits.settled {o : Obj} (h : o.Fits) : (Obj.settled o).Fits := by
  unfold Obj.settled
  split
  · exact ⟨Nat.mod_lt _ (by positivity), h.exp, by simp [Obj.next], by simp [Obj.next], by simp [Obj.next]⟩
  · exact h

end Sys2Proof.Machine
end

section
/-! PROOF. What travels on the fabric: sending, pumping and taking packets leave all but the fabric's own records
(R316, R322, R323, R326). -/

namespace Sys2Proof.Machine

/-- All of a state but what travelling packets change: the packets, their numbers and pressure, and what a header error
stops, contexts and system cores, with its report (R323). -/
def State.offFabric (s : State) : State :=
  { s with packets := [], names := { s.names with pkt := 0 }, pressure := [], seqnos := [], ctxs := [], cores := [], out := [] }

/-- `t` differs from `s` on the fabric alone; of a core no more than whether it is held. -/
structure FabricOnly (s t : State) : Prop where
  rest : t.offFabric = s.offFabric
  cores : ∀ c, { t.core c with held := false } = { s.core c with held := false }

namespace FabricOnly
variable {s t u : State}

theorem refl (s : State) : FabricOnly s s := ⟨rfl, fun _ => rfl⟩

theorem trans (h : FabricOnly s t) (k : FabricOnly t u) : FabricOnly s u :=
  ⟨k.rest.trans h.rest, fun c => (k.cores c).trans (h.cores c)⟩

theorem foldl {α : Type} {f : State → α → State} (hf : ∀ t a, FabricOnly t (f t a)) (l : List α) (s : State) :
    FabricOnly s (l.foldl f s) := by
  induction l generalizing s with
  | nil => exact refl s
  | cons a l ih => exact (hf s a).trans (ih _)

theorem ite {c : Prop} [Decidable c] (h : FabricOnly s t) (k : FabricOnly s u) : FabricOnly s (if c then t else u) := by
  split <;> assumption

theorem packets (s : State) (l : Store Packet) : FabricOnly s { s with packets := l } := ⟨rfl, fun _ => rfl⟩

theorem numbered (s : State) (n : Nat) (l : Store Packet) :
    FabricOnly s { s with names := { s.names with pkt := n }, packets := l } := ⟨rfl, fun _ => rfl⟩

theorem requestKill (s : State) (c : Nat) (k : Kill) : FabricOnly s (s.requestKill c k) := ⟨rfl, fun _ => rfl⟩

theorem emit (s : State) (o : Out) : FabricOnly s (s.emit o) := ⟨rfl, fun _ => rfl⟩

theorem hold (s : State) (c : Nat) : FabricOnly s (s.modCore c fun k => { k with held := true }) := by
  refine ⟨rfl, fun n => ?_⟩
  rw [State.modCore_core]
  split
  · next e => rw [e]
  · rfl

theorem bringDown (s : State) (p : Nat) : FabricOnly s (s.bringDown p) :=
  ((foldl (fun _ _ => requestKill _ _ _) _ s).trans (foldl (fun _ _ => hold _ _) _ _)).trans (emit _ _)

theorem headerError (s : State) (tag : Nat) : FabricOnly s (s.headerError tag) := ite (emit s _) (bringDown s _)

theorem nextSeq (s : State) (src dst : Endpoint) (vc : Nat) : FabricOnly s (s.nextSeq src dst vc).2 := by
  unfold State.nextSeq
  split <;> exact ⟨rfl, fun _ => rfl⟩

theorem pressurize (s : State) (e : Endpoint) : FabricOnly s (s.pressurize e) := by
  cases e with
  | home h => exact ite ⟨rfl, fun _ => rfl⟩ (ite ⟨rfl, fun _ => rfl⟩ (refl s))
  | _ => exact refl s

theorem inject (s : State) (k : Nat) : FabricOnly s (s.inject k) := by
  unfold State.inject
  split
  · exact refl s
  · exact ite ((packets s _).trans (headerError _ _))
      (ite (refl s) (((nextSeq s _ _ _).trans (packets _ _)).trans (pressurize _ _)))

theorem sendNow (s : State) (p : Packet) : FabricOnly s (s.sendNow p) :=
  foldl (fun t _ => (numbered t _ _).trans (inject _ _)) _ s

theorem pumpOne (s : State) (k : Nat) : FabricOnly s (s.pumpOne k) := by
  unfold State.pumpOne
  split
  · exact refl s
  · next q _ =>
    have queued : FabricOnly s (if q.isRead && s.mayQueue k q then s.toQueue k else s) := ite (packets s _) (refl s)
    exact ite (queued.trans ((packets _ _).trans (inject _ _))) queued

theorem pump (s : State) : FabricOnly s s.pump := foldl pumpOne _ s

theorem take (s : State) (k : Nat) (p : Packet) : FabricOnly s (s.take k p) :=
  (((packets s _).trans (packets _ _)).trans (pressurize _ _)).trans (pump _)

theorem produce (s : State) (p : Packet) : FabricOnly s (s.produce p) :=
  (foldl (fun t _ => numbered t _ _) _ s).trans (pump _)

theorem answer (s : State) (p : Packet) (load : Payload) (bytes : List Byte) : FabricOnly s (s.answer p load bytes) :=
  sendNow _ _

/-! ### What is not the fabric's -/

theorem held (h : FabricOnly s t) : t.held = s.held := (congrArg State.held h.rest :)
theorem sameRegs (h : FabricOnly s t) : SameRegs s t := .of_held h.held
theorem sameBytes (h : FabricOnly s t) : SameBytes s t := .of_held h.held
theorem team (h : FabricOnly s t) (k : Nat) : t.team k = s.team k := (congrArg (fun x => State.team x k) h.rest :)
theorem group (h : FabricOnly s t) (k : Nat) : t.group k = s.group k := (congrArg (fun x => State.group x k) h.rest :)
theorem slice (h : FabricOnly s t) (g i : Nat) : t.slice g i = s.slice g i := (congrArg (fun x => State.slice x g i) h.rest :)
theorem launch (h : FabricOnly s t) (k : Nat) : t.launch k = s.launch k := (congrArg (fun x => State.launch x k) h.rest :)
theorem cluster (h : FabricOnly s t) (k : Nat) : t.cluster k = s.cluster k := (congrArg (fun x => State.cluster x k) h.rest :)
theorem park (h : FabricOnly s t) (k : Nat) : t.park k = s.park k := (congrArg (fun x => State.park x k) h.rest :)
theorem part (h : FabricOnly s t) (k : Nat) : t.part k = s.part k := (congrArg (fun x => State.part x k) h.rest :)
theorem dev (h : FabricOnly s t) : t.dev = s.dev := (congrArg State.dev h.rest :)
theorem teams (h : FabricOnly s t) : t.teams = s.teams := (congrArg State.teams h.rest :)
theorem parts (h : FabricOnly s t) : t.parts = s.parts := (congrArg State.parts h.rest :)
theorem clock (h : FabricOnly s t) : t.clock = s.clock := (congrArg State.clock h.rest :)
theorem copies (h : FabricOnly s t) : t.copies = s.copies := (congrArg State.copies h.rest :)
theorem outside (h : FabricOnly s t) : t.outside = s.outside := (congrArg State.outside h.rest :)
theorem scrPoison (h : FabricOnly s t) : t.scrPoison = s.scrPoison := (congrArg State.scrPoison h.rest :)
theorem triggers (h : FabricOnly s t) (c : Nat) : (t.core c).triggers = (s.core c).triggers := (congrArg Core.triggers (h.cores c) :)
theorem frozen (h : FabricOnly s t) (c : Nat) : (t.core c).frozen = (s.core c).frozen := (congrArg Core.frozen (h.cores c) :)

theorem inReach (h : FabricOnly s t) (tag : Nat) (e : Endpoint) : t.inReach tag e = s.inReach tag e := by
  simp only [State.inReach, h.parts]

end FabricOnly

/-! ### A packet that is sent -/

/-- All of a packet but where on its way it is. -/
def Packet.cargo (p : Packet) : Packet :=
  { p with seq := 0, held := false, queued := false, since := 0, esc := false, born := 0 }

namespace State

/-- A packet put on the fabric within reach stays among the packets. -/
theorem inject_sget {s : State} {k : Nat} {p : Packet} (hp : sget s.packets k = some p) (hr : s.inReach p.ptag p.dst = true) :
    ∃ q, sget (s.inject k).packets k = some q ∧ q.cargo = p.cargo := by
  have kept (t : State) (e : Endpoint) : (t.pressurize e).packets = t.packets := by
    cases e with
    | home h => simp only [pressurize]; split <;> [rfl; (split <;> rfl)]
    | _ => rfl
  unfold inject
  rw [hp]
  simp only [hr, Bool.not_true, Bool.false_eq_true, if_false]
  split
  · exact ⟨p, hp, rfl⟩
  · simp only [kept]
    exact ⟨_, (sget_sput ..).trans (if_pos rfl), rfl⟩

/-- The packet itself goes last of those that go before it in its stream (R316). -/
theorem sendNow_sget (s : State) (p : Packet) (hr : s.inReach p.ptag p.dst = true) :
    ∃ n q, sget (s.sendNow p).packets n = some q ∧ q.cargo = p.cargo := by
  unfold sendNow Packet.split
  rw [List.foldl_append]
  set t := List.foldl _ s _ with ht
  have before : FabricOnly s t := .foldl (fun t _ => (FabricOnly.numbered t _ _).trans (.inject _ _)) _ s
  obtain ⟨q, hq, hc⟩ := inject_sget (s := { t with
    names := { t.names with pkt := t.names.pkt + 1 }
    packets := sput t.packets t.names.pkt { p with born := t.clock, held := true, queued := true } }) (k := t.names.pkt)
    (p := { p with born := t.clock, held := true, queued := true }) (by rw [sget_sput, if_pos rfl])
    (by rw [← before.inReach] at hr; exact hr)
  exact ⟨_, q, hq, hc⟩

theorem answered_answer (s : State) (p : Packet) (load : Payload) (bytes : List Byte) (hr : s.inReach p.ptag p.src = true) :
    Answered (s.answer p load bytes) p load bytes := by
  obtain ⟨n, q, hq, hc⟩ : ∃ n q, sget (s.answerOn 1 p load bytes).packets n = some q ∧ Packet.cargo q = _ :=
    s.sendNow_sget _ (by exact hr)
  exact ⟨n, q, hq, (congrArg Packet.src hc :), (congrArg Packet.dst hc :), (congrArg Packet.vc hc :), (congrArg Packet.gid hc :),
    (congrArg Packet.oid hc :), (congrArg Packet.lane hc :), (congrArg Packet.load hc :), (congrArg Packet.bytes hc :)⟩

end State

/-! ### A packet that is delivered -/

/-- What a delivery of a packet that is next of its stream and undamaged comes to: its effect on the state that has taken it
off the fabric. -/
theorem deliver_of_next {s : State} {k typ : Nat} {p : Packet} {wait : Packet → State → Option State} {f : Packet → State → State}
    (hn : s.deliverable k = some p) (hc : p.err = .clean) (hr : s.homeReady p = true) (ht : p.load.typ = typ)
    (hp : ∀ n, p.load ≠ .part n) (hw : wait p s = none) :
    deliver s k typ wait f = .next (f p (s.take k p)).settle := by
  have clean : (s.take k p).damaged p = none := by simp [State.damaged, hc]
  have fixed : (s.take k p).noteFixed p = s.take k p := by simp [State.noteFixed, hc]
  simp only [deliver, hn, ht, hr, clean, fixed, hw]
  simp

theorem deliver_of_arrives {s : State} {k typ : Nat} {p : Packet} {wait : Packet → State → Option State} {f : Packet → State → State}
    (h : Arrives s k p) (ht : p.load.typ = typ) (hp : ∀ n, p.load ≠ .part n) (hw : wait p s = none) :
    deliver s k typ wait f = .next (f p (s.take k p)).settle :=
  deliver_of_next h.next h.clean h.ready ht hp hw

theorem happens_of_arrives {i : Instr} {s : State} {k typ : Nat} {p : Packet} {wait : Packet → State → Option State}
    {f : Packet → State → State} {post : State → Prop} (h : Arrives s k p) (hi : exec i s = deliver s k typ wait f)
    (ht : p.load.typ = typ) (hp : ∀ n, p.load ≠ .part n) (hw : wait p s = none) (hpost : post (f p (s.take k p))) :
    Happens i s post := ⟨_, hi.trans (deliver_of_arrives h ht hp hw), hpost⟩

theorem Arrives.not_lost {s : State} {k : Nat} {p : Packet} (h : Arrives s k p) : (s.take k p).lost p = false := by
  simp [State.lost, (FabricOnly.take s k p).team, h.alive]

end Sys2Proof.Machine
end

section
/-! PROOF. What a core does with packets that reach it: its scratchpad, its objects, and the results it waits for. -/

namespace Sys2Proof.Machine

/-! ### What waits on an object -/

/-- All of a state but what waits on barrier objects: slices, sequencers and launches. -/
def State.offWaits (s : State) : State := { s with slices := [], seqrs := [], launches := [] }

/-- `t` differs from `s` in what waits on barrier objects alone. -/
def WaitsOnly (s t : State) : Prop := t.offWaits = s.offWaits

namespace WaitsOnly
variable {s t u : State}

theorem refl (s : State) : WaitsOnly s s := rfl
theorem trans (h : WaitsOnly s t) (k : WaitsOnly t u) : WaitsOnly s u := Eq.trans k h

theorem foldl {α : Type} {f : State → α → State} (hf : ∀ t a, WaitsOnly t (f t a)) (l : List α) (s : State) :
    WaitsOnly s (l.foldl f s) := by
  induction l generalizing s with
  | nil => exact refl s
  | cons a l ih => exact (hf s a).trans (ih _)

theorem ite {c : Prop} [Decidable c] (h : WaitsOnly s t) (k : WaitsOnly s u) : WaitsOnly s (if c then t else u) := by
  split <;> assumption

theorem modSeqr (s : State) (q : Nat) (f : Seqr → Seqr) : WaitsOnly s (s.modSeqr q f) := rfl

theorem letGo (s : State) (g : Nat) (is : List Nat) : WaitsOnly s (s.letGo g is) := by
  rw [State.letGo_rest]; rfl

theorem wakeWaits (s : State) (c off : Nat) : WaitsOnly s (s.wakeWaits c off) :=
  foldl (fun t g => ite (refl t) (letGo t g _)) _ s

theorem seqGo (s : State) (q : Nat) : WaitsOnly s (s.seqGo q) := rfl

theorem seqCheck (s : State) (q : Nat) : WaitsOnly s (s.seqCheck q) := by
  unfold State.seqCheck
  dsimp only
  split
  · exact refl s
  · exact ite (refl s) (ite (ite (seqGo s q) (ite (modSeqr s q _) (refl s))) (ite (seqGo s q) (refl s)))

theorem wakeSeqrs (s : State) (c : Nat) : WaitsOnly s (s.wakeSeqrs c) := foldl (fun t (e : Nat × Seqr) => seqCheck t e.1) _ s

theorem readyLaunches (s : State) (c : Nat) : WaitsOnly s (s.readyLaunches c) := rfl

theorem held (h : WaitsOnly s t) : t.held = s.held := (congrArg State.held h :)
theorem core (h : WaitsOnly s t) (c : Nat) : t.core c = s.core c := (congrArg (fun x => State.core x c) h :)
theorem parts (h : WaitsOnly s t) : t.parts = s.parts := (congrArg State.parts h :)

theorem inReach (h : WaitsOnly s t) (tag : Nat) (e : Endpoint) : t.inReach tag e = s.inReach tag e := by
  simp only [State.inReach, h.parts]

end WaitsOnly

/-! ### Bytes of one place of a scratchpad -/

/-- `t` holds what `s` does, but the bytes `bs` at a byte of a core's scratchpad space. -/
def Stored (cid off : Nat) (bs : List Byte) (s t : State) : Prop :=
  t.held = { s.held with scratch := mwrites s.scratch (State.scrKey cid off) bs }

namespace Stored
variable {cid off : Nat} {bs : List Byte} {s t : State}

theorem sameRegs (h : Stored cid off bs s t) : SameRegs s t :=
  .of_eq (congrArg Held.vreg h :) (congrArg Held.sreg h :) (congrArg Held.kreg h :) (congrArg Held.mreg h :)

theorem mem (h : Stored cid off bs s t) : t.mem = s.mem := (congrArg Held.mem h :)
theorem tiles (h : Stored cid off bs s t) : t.tiles = s.tiles := (congrArg Held.tiles h :)
theorem scratch (h : Stored cid off bs s t) : t.scratch = mwrites s.scratch (State.scrKey cid off) bs := (congrArg Held.scratch h :)

theorem scrBytes (h : Stored cid off bs s t) : t.scrBytes cid off bs.length = bs := by
  rw [State.scrBytes, h.scratch, mreads_mwrites_same]

theorem outside (h : Stored cid off bs s t) : ScratchOutside cid off bs.length s t := fun k hk => by
  rw [h.scratch, mread_mwrites, if_neg hk]

theorem of_held {r u : State} (h : Stored cid off bs s t) (hs : s.held = r.held) (ht : u.held = t.held) : Stored cid off bs r u := by
  unfold Stored at h ⊢
  rw [ht, h, hs, show s.scratch = r.scratch from (congrArg Held.scratch hs :)]

end Stored

namespace State

theorem scrStore_waits (s : State) (cid off : Nat) (bs : List Byte) :
    WaitsOnly (s.scrWrite cid off bs) (s.scrStore cid off bs) :=
  ((WaitsOnly.foldl (fun t o => .wakeWaits t cid o) _ _).trans (.wakeSeqrs _ _)).trans (.readyLaunches _ _)

theorem stored_scrWrite (s : State) (cid off : Nat) (bs : List Byte) : Stored cid off bs s (s.scrWrite cid off bs) := rfl

theorem stored_scrStore (s : State) (cid off : Nat) (bs : List Byte) : Stored cid off bs s (s.scrStore cid off bs) :=
  (s.stored_scrWrite cid off bs).of_held rfl (s.scrStore_waits cid off bs).held

end State

/-! ### Barrier objects -/

/-- `t` differs from `s` in what an update of a core's object changes: the object is `o`, and nothing stands on it still. -/
structure ObjBecomes (cid off : Nat) (o : Obj) (s t : State) : Prop where
  regs : SameRegs s t
  mem : t.mem = s.mem
  tiles : t.tiles = s.tiles
  outside : ScratchOutside cid off 16 s t
  obj : t.objAt cid off = o
  quiet : Untriggered t cid off

theorem ObjBecomes.refl {cid off : Nat} {s : State} (h : Untriggered s cid off) : ObjBecomes cid off (s.objAt cid off) s s :=
  ⟨⟨fun _ _ _ => rfl, fun _ _ _ => rfl, fun _ _ _ => rfl, fun _ _ => rfl⟩, rfl, rfl, fun _ _ => rfl, rfl, h⟩

theorem SameBytes.trans {s t u : State} (h : SameBytes s t) (k : SameBytes t u) : SameBytes s u :=
  ⟨k.1.trans h.1, k.2.1.trans h.2.1, k.2.2.trans h.2.2⟩

theorem SameRegs.trans {s t u : State} (h : SameRegs s t) (k : SameRegs t u) : SameRegs s u :=
  ⟨fun g l n => (k.1 g l n).trans (h.1 g l n), fun g i n => (k.2.1 g i n).trans (h.2.1 g i n),
    fun g i n => (k.2.2.1 g i n).trans (h.2.2.1 g i n), fun q n => (k.2.2.2 q n).trans (h.2.2.2 q n)⟩

theorem ObjBecomes.trans {cid off : Nat} {o p : Obj} {s t u : State} (h : ObjBecomes cid off o s t)
    (k : ObjBecomes cid off p t u) : ObjBecomes cid off p s u :=
  ⟨h.regs.trans k.regs, k.mem.trans h.mem, k.tiles.trans h.tiles, fun n hn => (k.outside n hn).trans (h.outside n hn), k.obj, k.quiet⟩

namespace State

/-- An object nothing is armed on takes an update, is tested once, and what waits on it is woken (R223). -/
theorem objBecomes_objUpdate {s : State} {cid off : Nat} (h : Untriggered s cid off) (ctx : Nat) (f : Obj → Obj)
    (hf : (f (s.objAt cid off)).Fits) :
    ObjBecomes cid off (Obj.settled (f (s.objAt cid off))) s (s.objUpdate ctx cid off f) := by
  have free : s.isFrozen cid ctx = false := by simp [isFrozen, h.1]
  have armed : ((s.core cid).triggers.filter fun t => t.off == off && t.phase.toNat == (f (s.objAt cid off)).phase) = [] := by
    rw [List.filter_eq_nil_iff]
    intro t ht
    simp [h.2 t ht]
  have fire_nil (t : State) : (t.fire cid []).held = t.held ∧ ((t.fire cid []).core cid).triggers = (t.core cid).triggers
      ∧ ((t.fire cid []).core cid).frozen = (t.core cid).frozen := by
    refine ⟨rfl, ?_, ?_⟩
    · simp [fire]
    · simp [fire]
  unfold objUpdate
  simp only [free, armed, Bool.false_eq_true, if_false, List.filter_nil]
  set t := if (f (s.objAt cid off)).full = true then (s.fire cid []).fire cid [] else s.fire cid [] with ht
  have hheld : t.held = s.held := by
    rw [ht]; split <;> rfl
  have hcore : (t.core cid).triggers = (s.core cid).triggers ∧ (t.core cid).frozen = (s.core cid).frozen := by
    rw [ht]
    split
    · exact ⟨(fire_nil _).2.1.trans (fire_nil _).2.1, (fire_nil _).2.2.trans (fire_nil _).2.2⟩
    · exact (fire_nil _).2
  rw [show (if (f (s.objAt cid off)).full = true then (f (s.objAt cid off)).next else f (s.objAt cid off))
    = Obj.settled (f (s.objAt cid off)) from rfl]
  set w := t.scrWrite cid off (objBytes (Obj.settled (f (s.objAt cid off)))) with hw
  have wakes : WaitsOnly w (((w.wakeWaits cid off).wakeSeqrs cid).readyLaunches cid) :=
    ((WaitsOnly.wakeWaits _ _ _).trans (.wakeSeqrs _ _)).trans (.readyLaunches _ _)
  have stored : Stored cid off (objBytes (Obj.settled (f (s.objAt cid off)))) s (((w.wakeWaits cid off).wakeSeqrs cid).readyLaunches cid) :=
    (t.stored_scrWrite cid off _).of_held hheld wakes.held
  have len : (objBytes (Obj.settled (f (s.objAt cid off)))).length = 16 := by simp [objBytes]
  refine ⟨stored.sameRegs, stored.mem, stored.tiles, len ▸ stored.outside, ?_, ?_⟩
  · rw [objAt, ← len, stored.scrBytes, objOf_objBytes hf.settled]
  · rw [Untriggered, wakes.core, hw, scrWrite_core]
    exact ⟨hcore.2.trans h.1, fun x hx => h.2 x (hcore.1 ▸ hx)⟩

/-- A landing of bytes, unless there is none. -/
theorem objBecomes_land {s : State} {cid off : Nat} (h : Untriggered s cid off) (ctx n : Nat) :
    let o := s.objAt cid off
    ObjBecomes cid off (if n = 0 then o else Obj.settled { o with landed := min (o.landed + n) (2 ^ 32 - 1) }) s
      (if n = 0 then s else s.objLand ctx cid off n) := by
  dsimp only
  split
  · exact .refl h
  · have fits := objOf_fits (s.scrBytes cid off 16)
    refine objBecomes_objUpdate h ctx (fun o => { o with landed := satAdd o.landed n })
      ⟨fits.phase, fits.exp, fits.arr, fits.expb, ?_⟩
    exact Nat.lt_of_le_of_lt (Nat.min_le_right _ _) (by norm_num)

/-- Arrivals, unless there are none. -/
theorem objBecomes_arrive {s : State} {cid off : Nat} (h : Untriggered s cid off) (ctx n : Nat) :
    let o := s.objAt cid off
    ObjBecomes cid off (if n = 0 then o else Obj.settled { o with arr := min (o.arr + n) 65535 }) s
      (if n = 0 then s else s.objArrive ctx cid off n) := by
  dsimp only
  split
  · exact .refl h
  · have fits := objOf_fits (s.scrBytes cid off 16)
    refine objBecomes_objUpdate h ctx (fun o => { o with arr := Nat.min (o.arr + n) 65535 })
      ⟨fits.phase, fits.exp, ?_, fits.expb, fits.landed⟩
    exact Nat.lt_of_le_of_lt (Nat.min_le_right _ _) (by norm_num)

/-! ### Results that arrive -/

/-- A change of an operation that keeps its number. -/
theorem opOf_modOp (s : State) (g n : Nat) (f : Op → Op) (hf : ∀ o, (f o).oid = o.oid) :
    (s.modOp g n f).opOf g n = (s.opOf g n).map f := by
  simp only [opOf, modOp, modGroup_group, if_true]
  induction (s.group g).ops with
  | nil => rfl
  | cons o l ih =>
    by_cases e : o.oid = n
    · simp [e, hf]
    · simp only [List.map_cons, List.find?_cons, beq_eq_false_iff_ne.mpr e, Bool.false_eq_true, if_false]
      exact ih

theorem opOf_oid {s : State} {g n : Nat} {o : Op} (h : s.opOf g n = some o) : o.oid = n := by
  simpa using List.find?_some h

/-- A group whose open results are none of them earlier than operation `n`'s. -/
def NoneBefore (s : State) (g n : Nat) : Prop := ∀ h ∈ (s.group g).hazards, h.ready ≠ none ∨ n ≤ h.oid

/-- A word that no other result overtakes is written (R51). -/
theorem landWord_eq {s : State} {g p : Nat} {o : Op} (hl : o.lost = []) (ho : o.olds = []) (hh : s.NoneBefore g o.oid) (r : Reg)
    (x : Word) : s.landWord g p o r x = s.wrReg g p r x := by
  have open_ : ((s.group g).hazards.filter fun h => h.ready.isNone && h.oid < o.oid && touches h r [p]) = [] := by
    rw [List.filter_eq_nil_iff]
    intro h hm
    rcases hh h hm with hr | hr
    · cases e : h.ready with
      | none => exact absurd e hr
      | some _ => simp
    · simp [Nat.not_lt.mpr hr]
  simp [landWord, lostAt, hl, ho, open_]

theorem wrReg_groups (s : State) (g p : Nat) (r : Reg) (x : Word) : (s.wrReg g p r x).groups = s.groups := by
  cases r <;> rfl

/-- A result that nothing overtakes: its words are written at its place. -/
theorem land_eq {s : State} {g n p : Nat} {o : Op} (h : s.opOf g n = some o) (hl : o.lost = []) (ho : o.olds = [])
    (hh : s.NoneBefore g n) {d : Reg × Bool} (hd : o.dest = some d) (x : DWord) :
    s.land g n p x = (destWords d x).foldl (fun s w => s.wrReg g p w.1 w.2) s := by
  simp only [land, h, hd, Option.map_some, Option.getD_some]
  replace hh : s.NoneBefore g o.oid := opOf_oid h ▸ hh
  clear h
  induction destWords d x generalizing s with
  | nil => rfl
  | cons w l ih =>
    rw [List.foldl_cons, List.foldl_cons, landWord_eq hl ho hh]
    exact ih (by simpa only [NoneBefore, group, wrReg_groups] using hh)

theorem land_opOf {s : State} {g n p : Nat} {o : Op} (h : s.opOf g n = some o) (hl : o.lost = []) (ho : o.olds = [])
    (hh : s.NoneBefore g n) {d : Reg × Bool} (hd : o.dest = some d) (x : DWord) : (s.land g n p x).opOf g n = some o := by
  rw [land_eq h hl ho hh hd]
  have groups : ((destWords d x).foldl (fun s w => s.wrReg g p w.1 w.2) s).groups = s.groups :=
    foldl_keep _ (·.groups) _ _ fun _ _ _ => wrReg_groups ..
  simpa only [opOf, group, groups] using h

/-- The result `x` has landed in its destination at a place of `t`; one that goes to no register leaves those of `r`. -/
def HasLanded (r t : State) (g p : Nat) (d : Reg) (w : Bool) (x : DWord) : Prop :=
  match d, w with
  | .v n, false => t.rdV g p n = x.extractLsb' 0 32
  | .v n, true => t.rdV64 g p n = x
  | .s n, false => t.rdS g p n = x.extractLsb' 0 32
  | .s n, true => t.rdS64 g p n = x
  | _, _ => SameRegs r t

/-- What a result of a destination reads as, in a state that holds what there is once its words are written. -/
theorem destWords_written {r s t : State} (hr : SameRegs r s) (g p : Nat) (d : Reg) (w : Bool) (x : DWord)
    (ht : t.held = ((destWords (d, w) x).foldl (fun s w => s.wrReg g p w.1 w.2) s).held) :
    SameBytes s t ∧ HasLanded r t g p d w x := by
  have whole : x.extractLsb' 32 32 ++ x.extractLsb' 0 32 = x := by
    ext i hi
    simp only [BitVec.getElem_append, BitVec.getElem_extractLsb']
    split
    · simp [BitVec.getLsbD_eq_getElem hi]
    · rw [← BitVec.getLsbD_eq_getElem hi]; congr 1; omega
  have bytes (u : State) (h : t.held = u.held) (hu : SameBytes s u) : SameBytes s t :=
    hu.trans (.of_held h)
  have vreg (u : State) (h : t.held = u.held) (g p n : Nat) : t.rdV g p n = u.rdV g p n := (SameRegs.of_held h).1 g p n
  have sreg (u : State) (h : t.held = u.held) (g p n : Nat) : t.rdS g p n = u.rdS g p n := (SameRegs.of_held h).2.1 g p n
  cases d with
  | v n =>
    refine ⟨by cases w <;> exact bytes _ ht ⟨rfl, rfl, rfl⟩, ?_⟩
    cases w with
    | false => exact (vreg _ ht g p n).trans (by simp [destWords, wrReg, rdV_wrV])
    | true =>
      show t.rdV g p (n + 1) ++ t.rdV g p n = x
      rw [vreg _ ht, vreg _ ht]
      simp [destWords, wrReg, rdV_wrV, whole]
  | s n =>
    refine ⟨by cases w <;> exact bytes _ ht ⟨rfl, rfl, rfl⟩, ?_⟩
    cases w with
    | false => exact (sreg _ ht g p n).trans (by simp [destWords, wrReg, rdS_wrS])
    | true =>
      show t.rdS g p (n + 1) ++ t.rdS g p n = x
      rw [sreg _ ht, sreg _ ht]
      simp [destWords, wrReg, rdS_wrS, whole]
  | k n => exact ⟨.of_held ht, by cases w <;> exact hr.trans (.of_held ht)⟩
  | exec => exact ⟨.of_held ht, by cases w <;> exact hr.trans (.of_held ht)⟩

/-- An answer that arrives leaves its operation one fewer to wait for. -/
theorem answered_wait {s : State} {g n : Nat} {o : Op} (h : s.opOf g n = some o) :
    ((s.answered g n).opOf g n).map Op.wait = some (o.wait - 1) := by
  rw [answered, opOf_modOp, h]
  · rfl
  · exact fun _ => rfl

/-- Data of a load arrive at the place of their lane. -/
theorem dataArrives_load {r s : State} {p : Packet} {o : Op} {d : Reg} {w : Bool} (hr : SameRegs r s)
    (ho : s.opOf p.gid p.oid = some o) (hd : o.dest = some (d, w)) (hl : o.lost = []) (hol : o.olds = [])
    (hh : s.NoneBefore p.gid p.oid) (sx : Bool) (v n : Option Nat) :
    let t := s.dataArrives p (.load sx) v n
    (t.opOf p.gid p.oid).map Op.wait = some (o.wait - 1) ∧ SameBytes s t
      ∧ HasLanded r t p.gid p.lane d w (loadVal p.size sx p.bytes) := by
  dsimp only
  have landed := land_eq (p := p.lane) ho hl hol hh hd (loadVal p.size sx p.bytes)
  have still := land_opOf (p := p.lane) ho hl hol hh hd (loadVal p.size sx p.bytes)
  simp only [dataArrives, ho, Option.isNone_some, Bool.false_eq_true, if_false]
  refine ⟨answered_wait (o := { o with vmax := laterTs o.vmax v, tmax := laterTs o.tmax n }) ?_,
    destWords_written hr p.gid p.lane d w (loadVal p.size sx p.bytes) ?_⟩
  · rw [opOf_modOp, still]
    · rfl
    · exact fun _ => rfl
  · rw [held_answered, held_modOp, landed]

/-- Data for a tile register arrive in their granule. -/
theorem dataArrives_tile {s : State} {p : Packet} {o : Op} (ho : s.opOf p.gid p.oid = some o) (ht : o.tops = []) (bank tile : Nat)
    (v n : Option Nat) :
    let t := s.dataArrives p (.tileIn bank tile) v n
    (t.opOf p.gid p.oid).map Op.wait = some (o.wait - 1)
      ∧ t.held = { s.held with tiles := mwrites s.tiles (tileKey bank tile + 32 * (p.lane % 64)) p.bytes } := by
  dsimp only
  have granule : s.tileGranule p bank tile = (s.tileStore (tileKey bank tile + 32 * (p.lane % 64)) p.bytes).modOp p.gid p.oid fun o =>
      { o with tops := (p.lane % 64, p.lane / 64) :: o.tops.filter fun t => t.1 != p.lane % 64 } := by
    simp only [tileGranule, ho, Option.map_some, Option.getD_some, ht, List.any_nil, Bool.false_eq_true, if_false]
  have stored : (s.tileStore (tileKey bank tile + 32 * (p.lane % 64)) p.bytes).opOf p.gid p.oid = some o := ho
  simp only [dataArrives, ho, Option.isNone_some, Bool.false_eq_true, if_false, granule]
  refine ⟨?_, rfl⟩
  rw [answered, opOf_modOp, opOf_modOp, opOf_modOp, stored]
  · rfl
  all_goals exact fun _ => rfl

end State
end Sys2Proof.Machine

open Sys2Proof.Machine

/-- Settles O55: each delivery is its effect on the state that has taken the packet off the fabric, where registers, bytes,
operations and objects are as they were. -/
theorem coresTakePackets : Obligations.CoresTakePackets := by
  intro s k n p v h hr
  have taken := FabricOnly.take s k p
  have hr' : (s.take k p).inReach p.ptag p.src = true := (taken.inReach ..).trans hr
  have bytes (off len : Nat) : (s.take k p).scrBytes n off len = s.scrBytes n off len := by
    simp only [State.scrBytes, show (s.take k p).scratch = s.scratch from taken.sameBytes.2.1]
  have op : (s.take k p).opOf p.gid p.oid = s.opOf p.gid p.oid := by simp only [State.opOf, taken.group]
  refine ⟨fun sx x hl hd hs hp => ?_, fun x hl hd hsz hs => ?_, fun u hl hd hq => ?_, fun sx ver ts o d w hl hc ho hde hlo hol hh => ?_,
    fun bank tile ver ts o hl hc ho ht => ?_, fun hl hc o ho => ?_, fun x c hl hx => ?_⟩
  · refine happens_of_arrives (typ := 5) h (show exec (.win k) s = execWin k s from rfl) (by rw [hl]; rfl) (by simp [hl]) (by simp [hd, State.coreOf, hs]) ?_
    have hp' : (s.take k p).scrPoisoned n p.pa p.size = false := by rw [State.scrPoisoned, taken.scrPoison]; exact hp
    simp only [h.not_lost, hl, hd, State.coreOf, hp', bytes, Bool.false_eq_true, if_false]
    have sent := taken.trans (.answer (s.take k p) p (.data (.load sx) none none) (s.scrBytes n p.pa p.size))
    exact ⟨sent.sameRegs, sent.sameBytes, State.answered_answer _ _ _ _ hr'⟩
  · refine happens_of_arrives (typ := 5) h (show exec (.win k) s = execWin k s from rfl) (by rw [hl]; rfl) (by simp [hl]) (by simp [hd, State.coreOf, hs]) ?_
    simp only [h.not_lost, hl, hd, State.coreOf, Bool.false_eq_true, if_false]
    have reach : ((s.take k p).scrStore n p.pa p.bytes).inReach p.ptag p.src = true :=
      ((State.scrStore_waits _ n p.pa p.bytes).inReach ..).trans hr'
    have stored : Stored n p.pa p.bytes s (((s.take k p).scrStore n p.pa p.bytes).answer p .ack []) :=
      (State.stored_scrStore _ n p.pa p.bytes).of_held taken.held (FabricOnly.answer _ p .ack []).held
    exact ⟨stored.sameRegs, stored.mem, stored.tiles, hsz ▸ stored.scrBytes, hsz ▸ stored.outside, State.answered_answer _ _ _ _ reach⟩
  · refine happens_of_arrives (typ := 6) h (show exec (.bar k) s = execBar k s from rfl) (by rw [hl]; rfl) (by simp [hl]) rfl ?_
    simp only [hl, hd, State.coreOf, h.not_lost, Bool.and_false, Bool.false_eq_true, if_false]
    have quiet : Untriggered (s.take k p) n u.off := by
      rw [Untriggered, taken.frozen, taken.triggers]; exact hq
    have obj : (s.take k p).objAt n u.off = s.objAt n u.off := by simp only [State.objAt, bytes]
    have landed := State.objBecomes_land quiet p.ctx u.landed
    have both := landed.trans (State.objBecomes_arrive landed.quiet p.ctx u.arrivals)
    rw [landed.obj, obj] at both
    exact ⟨taken.sameRegs.trans both.regs, both.mem.trans taken.sameBytes.1, both.tiles.trans taken.sameBytes.2.2,
      fun a ha => (both.outside a ha).trans (congrArg (mread · a) taken.sameBytes.2.1), both.obj⟩
  · refine happens_of_arrives (typ := 7) h (show exec (.data k) s = execData k s from rfl) (by rw [hl]; rfl) (by simp [hl]) rfl ?_
    have ho' := op.trans ho
    have none_before : (s.take k p).NoneBefore p.gid p.oid := by simpa only [State.NoneBefore, taken.group] using hh
    simp only [hl, hc, Option.isSome_none, Bool.false_eq_true, if_false]
    obtain ⟨wait, same, written⟩ := State.dataArrives_load taken.sameRegs ho' hde hlo hol none_before sx ver ts
    exact ⟨taken.sameBytes.trans same, wait, by cases d <;> cases w <;> exact written⟩
  · refine happens_of_arrives (typ := 7) h (show exec (.data k) s = execData k s from rfl) (by rw [hl]; rfl) (by simp [hl]) rfl ?_
    simp only [hl, hc, Option.isSome_none, Bool.false_eq_true, if_false]
    obtain ⟨wait, held⟩ := State.dataArrives_tile (op.trans ho) ht bank tile ver ts
    refine ⟨taken.sameRegs.trans (.of_eq (congrArg Held.vreg held :) (congrArg Held.sreg held :) (congrArg Held.kreg held :)
      (congrArg Held.mreg held :)), (congrArg Held.mem held :).trans taken.sameBytes.1,
      (congrArg Held.scratch held :).trans taken.sameBytes.2.1, wait, ?_⟩
    rw [show (State.dataArrives _ _ _ _ _).tiles = _ from (congrArg Held.tiles held :)]
    exact mreads_mwrites_same _ _ _
  · refine happens_of_arrives (typ := 8) h (show exec (.ack k) s = execAck k s from rfl) (by rw [hl]; rfl) (by simp [hl]) rfl ?_
    have ho' := op.trans ho
    simp only [hl, hc, ho', Option.isSome_none, Option.isSome_some, Bool.false_eq_true, if_false, if_true]
    exact ⟨taken.sameRegs, taken.sameBytes, State.answered_wait ho'⟩
  · refine happens_of_arrives (typ := 8) h (show exec (.ack k) s = execAck k s from rfl) (by rw [hl]; rfl) (by simp [hl]) rfl ?_
    have held : ((s.take k p).copyAccepted x).held = s.held := (held_copyAccepted ..).trans taken.held
    simp only [hl]
    refine ⟨.of_held held, .of_held held, ?_, ?_⟩ <;>
      simp only [State.copyAccepted, taken.copies, hx, Option.bind_some]
    · cases c.ts <;> exact (sget_sdel ..).trans (if_pos rfl)
    · cases c.ts
      · exact taken.outside
      · exact congrArg (List.erase · _) taken.outside
end

section
/-! PROOF. Addresses: a doubleword and the name of its storage (R179). -/

namespace Sys2Proof.Machine

/-- An address that lies in a direct view (R179). -/
def InView (pa : Nat) : Prop :=
  directBase ≤ pa ∧ pa < directBase + 2048 * 2 ^ 27 ∧ (pa - directBase) % 2 ^ 27 < 90 * 2 ^ 20

theorem inView_iff (pa : Nat) :
    (directBase ≤ pa && pa < directBase + 2048 * 2 ^ 27 && (pa - directBase) % 2 ^ 27 < 90 * 2 ^ 20) = true ↔ InView pa := by
  rw [Bool.and_eq_true, Bool.and_eq_true, decide_eq_true_iff, decide_eq_true_iff, decide_eq_true_iff, and_assoc]
  rfl

theorem canonPa_of_view {pa : Nat} (h : InView pa) :
    canonPa pa = interleave ((pa - directBase) / 2 ^ 27) ((pa - directBase) % 2 ^ 27) := if_pos ((inView_iff pa).mpr h)

theorem canonPa_of_not_view {pa : Nat} (h : ¬InView pa) : canonPa pa = pa := if_neg fun hv => h ((inView_iff pa).mp hv)

/-- An interleaved address lies in no direct view. -/
theorem interleave_not_view {c off : Nat} (hc : c < 2048) (ho : off < 90 * 2 ^ 20) : ¬InView (interleave c off) := by
  rintro ⟨h, -, -⟩
  simp only [interleave, directBase] at h
  norm_num at h ho
  omega

theorem canonPa_not_view (pa : Nat) : ¬InView (canonPa pa) := by
  by_cases h : InView pa
  · rw [canonPa_of_view h]
    obtain ⟨h1, h2, h3⟩ := h
    refine interleave_not_view ?_ h3
    simp only [directBase] at *
    norm_num at *
    omega
  · rwa [canonPa_of_not_view h]

/-- The bytes of an aligned doubleword have consecutive names. -/
theorem canonPa_add {pa i : Nat} (h8 : pa % 8 = 0) (hi : i < 8) : canonPa (pa + i) = canonPa (canonPa pa + i) := by
  by_cases h : InView pa
  · have hv : InView (pa + i) := by
      obtain ⟨h1, h2, h3⟩ := h
      simp only [InView, directBase] at *
      norm_num at *
      omega
    have name : canonPa (pa + i) = canonPa pa + i := by
      rw [canonPa_of_view hv, canonPa_of_view h]
      simp only [InView, interleave, directBase] at *
      norm_num at *
      omega
    rw [← name, canonPa_of_not_view (canonPa_not_view _)]
  · rw [canonPa_of_not_view h]

/-- A name's line is of names. -/
theorem canonPa_line {c j : Nat} (h : ¬InView c) (hj : j < 64) : canonPa (c / 64 * 64 + j) = c / 64 * 64 + j := by
  refine canonPa_of_not_view fun hv => h ?_
  simp only [InView, directBase] at *
  norm_num at *
  omega

theorem canonPa_mod {pa : Nat} (h8 : pa % 8 = 0) : canonPa pa % 8 = 0 := by
  by_cases h : InView pa
  · rw [canonPa_of_view h]
    simp only [InView, interleave, directBase] at *
    norm_num at *
    omega
  · rwa [canonPa_of_not_view h]

theorem State.newest64_canonPa (s : State) {pa : Nat} (h8 : pa % 8 = 0) : s.newest64 (canonPa pa) = s.newest64 pa := by
  unfold State.newest64 State.newests
  congr 2
  refine List.map_congr_left fun i hi => ?_
  rw [State.newest, State.newest, canonPa_add h8 (List.mem_range.mp hi)]

end Sys2Proof.Machine
end

section
/-! PROOF. Fetching: what a fetch leaves alone, and what it finds (R83, R84, R180). -/

namespace Sys2Proof.Machine

/-- All of a core but its caches of translations and of instructions. -/
def Core.uncached (c : Core) : Core := { c with tlb := [], icache := [] }

/-- What a core's instruction cache holds of storage is the newest there. -/
def State.Fresh (s : State) (cid : Nat) : Prop :=
  ∀ e ∈ (s.core cid).icache, e.2.1 < devRegBase → e.2.2 = s.newest64 e.2.1

/-- A core's instruction cache holds some doubleword of an address under a key. -/
def State.Caches (s : State) (cid key a : Nat) : Prop := ∃ e ∈ (s.core cid).icache, e.1 = key ∧ e.2.1 = a

/-- `t` differs from `s` in what a fetch by core `cid` changes alone: caches of translations and of instructions, the poison a
filled line loses, and the free choices made. Its instruction cache covers what it covered, and, where `al` holds, stays
fresh. -/
structure Fetching (cid : Nat) (al : Prop) (s t : State) : Prop where
  rest : { t with cores := [], dies := [], free := 0, arrPoison := [] } = { s with cores := [], dies := [], free := 0, arrPoison := [] }
  cores : ∀ c, (t.core c).uncached = (s.core c).uncached
  covers : ∀ key a, s.Caches cid key a → t.Caches cid key a
  fresh : al → s.Fresh cid → t.Fresh cid

namespace Fetching
variable {cid : Nat} {al : Prop} {s t u : State}

theorem refl (s : State) : Fetching cid al s s := ⟨rfl, fun _ => rfl, fun _ _ h => h, fun _ h => h⟩

theorem trans (h : Fetching cid al s t) (k : Fetching cid al t u) : Fetching cid al s u :=
  ⟨k.rest.trans h.rest, fun c => (k.cores c).trans (h.cores c), fun key a x => k.covers key a (h.covers key a x),
    fun a f => k.fresh a (h.fresh a f)⟩

theorem foldl {α : Type} {f : State → α → State} (hf : ∀ t a, Fetching cid al t (f t a)) (l : List α) (s : State) :
    Fetching cid al s (l.foldl f s) := by
  induction l generalizing s with
  | nil => exact refl s
  | cons a l ih => exact (hf s a).trans (ih _)

theorem mem (h : Fetching cid al s t) : t.mem = s.mem := (congrArg State.mem h.rest :)
theorem newest64 (h : Fetching cid al s t) (pa : Nat) : t.newest64 pa = s.newest64 pa := by
  simp only [State.newest64, State.newests, State.newest, h.mem]

/-- A change that leaves every instruction cache as it was. -/
theorem of_same (hr : { t with cores := [], dies := [], free := 0, arrPoison := [] } = { s with cores := [], dies := [], free := 0, arrPoison := [] })
    (hc : ∀ c, { t.core c with tlb := [] } = { s.core c with tlb := [] }) : Fetching cid al s t := by
  have ic : (t.core cid).icache = (s.core cid).icache := (congrArg Core.icache (hc cid) :)
  have hm : t.mem = s.mem := (congrArg State.mem hr :)
  refine ⟨hr, fun c => (congrArg (fun k : Core => { k with icache := [] }) (hc c) :), fun key a h => ?_, fun _ h => ?_⟩
  · rwa [State.Caches, ic]
  · unfold State.Fresh State.newest64 State.newests State.newest at h ⊢
    rwa [ic, hm]

theorem freeBool (s : State) : Fetching cid al s s.freeBool.2 := of_same rfl fun _ => rfl

theorem pickFree {α : Type} (s : State) (l : List α) : Fetching cid al s (s.pickFree l).2 := by
  induction l generalizing s with
  | nil => exact refl s
  | cons x l ih =>
    unfold State.pickFree
    dsimp only
    split
    · exact freeBool s
    · exact (freeBool s).trans (ih _)

theorem fillTlb (s : State) (c ctx va : Nat) (e : DWord) (bits : Nat) : Fetching cid al s (s.fillTlb c ctx va e bits) := by
  have core (f : Core → Core) (hf : ∀ x, { f x with tlb := [] } = { x with tlb := [] }) : Fetching cid al s (s.modCore c f) := by
    refine of_same rfl fun n => ?_
    rw [State.modCore_core]
    split
    · next e => rw [hf, e]
    · rfl
  let x : TlbEntry := { ctx := ctx, va := BitVec.ofNat 56 (va / 2 ^ bits * 2 ^ bits), bits := bits, entry := e }
  have own : Fetching cid al s (s.modCore c fun k => if k.tlb.contains x then k else { k with tlb := x :: k.tlb }) :=
    core _ fun k => by split <;> rfl
  unfold State.fillTlb
  dsimp only
  split
  · exact own
  · exact own.trans (of_same rfl fun _ => rfl)

theorem lookup (s : State) (c ctx va : Nat) : Fetching cid al s (s.lookup c ctx va).2 := by
  unfold State.lookup
  dsimp only
  split
  · exact pickFree _ _
  · exact (pickFree _ _).trans (fillTlb _ _ _ _ _ _)
  · exact pickFree _ _

theorem translate (s : State) (c tid : Nat) (level : Level) (need : Need) (va : Nat) :
    Fetching cid al s (s.translate c tid level need va).2 := by
  unfold State.translate
  dsimp only
  split <;> exact lookup _ _ _ _

theorem homeWord (s : State) (pa : Nat) : Fetching cid al s (s.homeWord pa).2 := by
  unfold State.homeWord
  split
  · exact of_same rfl fun _ => rfl
  · exact refl s

/-- A doubleword kept in the cache, the newest of its storage. -/
theorem cacheWord (s : State) (key pa : Nat) (w : DWord) (hw : al → canonPa pa < devRegBase → w = s.newest64 (canonPa pa)) :
    Fetching cid al s (s.cacheWord cid key pa w) ∧ (s.cacheWord cid key pa w).Caches cid key (canonPa pa) := by
  have core : (s.cacheWord cid key pa w).core cid = _ := (State.modCore_core ..).trans (if_pos rfl)
  refine ⟨⟨rfl, fun c => ?_, fun k a ⟨e, he, hk, ha⟩ => ?_, fun hal h e he => ?_⟩, ?_⟩
  · rw [State.cacheWord, State.modCore_core]
    split
    · next e => rw [e]; rfl
    · rfl
  · rw [State.Caches, core]
    by_cases same : e.1 = key ∧ e.2.1 = canonPa pa
    · exact ⟨_, List.mem_cons_self, hk ▸ same.1.symm, ha ▸ same.2.symm⟩
    · exact ⟨e, List.mem_cons_of_mem _ (List.mem_filter.mpr ⟨he, by simpa [imp_iff_not_or] using same⟩), hk, ha⟩
  · rw [core] at he
    rcases List.mem_cons.mp he with rfl | he
    · exact hw hal
    · exact h e (List.mem_of_mem_filter he)
  · rw [State.Caches, core]
    exact ⟨_, List.mem_cons_self, rfl, rfl⟩

theorem homeWord_newest {s : State} {pa : Nat} (h : canonPa pa < devRegBase) : (s.homeWord pa).1 = s.newest64 pa := by
  simp [State.homeWord, Nat.not_le.mpr h]

theorem homeWord_cached (s : State) (key : Nat) {pa : Nat} (h8 : al → pa % 8 = 0) :
    Fetching cid al s ((s.homeWord pa).2.cacheWord cid key pa (s.homeWord pa).1)
      ∧ ((s.homeWord pa).2.cacheWord cid key pa (s.homeWord pa).1).Caches cid key (canonPa pa) := by
  have home := homeWord (cid := cid) (al := al) s pa
  obtain ⟨kept, there⟩ := cacheWord (cid := cid) (al := al) (s.homeWord pa).2 key pa (s.homeWord pa).1 fun hal h => by
    rw [home.newest64, State.newest64_canonPa s (h8 hal), homeWord_newest h]
  exact ⟨home.trans kept, there⟩

theorem foldl_caches {α : Type} {f : State → α → State} {key a : Nat} (hf : ∀ t x, Fetching cid al t (f t x)) {l : List α} {x : α}
    (hx : x ∈ l) (here : ∀ t, (f t x).Caches cid key a) (s : State) : (l.foldl f s).Caches cid key a := by
  induction l generalizing s with
  | nil => simp at hx
  | cons y l ih =>
    rw [List.foldl_cons]
    rcases List.mem_cons.mp hx with rfl | hx
    · exact (foldl hf l _).covers key a (here s)
    · exact ih hx _

/-- A line filled: the doubleword asked for is there. -/
theorem fillLine (s : State) (key pa : Nat) :
    Fetching cid al s (s.fillLine cid key pa) ∧ (pa % 8 = 0 → (s.fillLine cid key pa).Caches cid key (canonPa pa)) := by
  have step (t : State) (i : Nat) := homeWord_cached (cid := cid) (al := al) t key (pa := canonPa pa / 64 * 64 + 8 * i) fun _ => by omega
  have cleared : Fetching cid al s (s.arrClear (icacheArr cid (canonPa pa / 64 * 64)) 64) := of_same rfl fun _ => rfl
  unfold State.fillLine
  dsimp only
  generalize s.arrClear _ _ = r at cleared
  refine ⟨cleared.trans (foldl (fun t i => (step t i).1) _ _), fun h8 => ?_⟩
  have hm := canonPa_mod h8
  refine foldl_caches (fun t i => (step t i).1) (List.mem_range.mpr (show canonPa pa % 64 / 8 < 8 by omega)) (fun t => ?_) _
  have there := (step t (canonPa pa % 64 / 8)).2
  have name : canonPa (canonPa pa / 64 * 64 + 8 * (canonPa pa % 64 / 8)) = canonPa pa :=
    (canonPa_line (canonPa_not_view pa) (by omega)).trans (by omega)
  rwa [name] at there

end Fetching

namespace State
variable {s t u : State} {cid key pa : Nat} {al : Prop}

theorem entry_of_cachedWord {o : DWord} (h : s.cachedWord cid key pa = some o) :
    ∃ e ∈ (s.core cid).icache, e.1 = key ∧ e.2.1 = canonPa pa ∧ e.2.2 = o := by
  obtain ⟨e, he, rfl⟩ := Option.map_eq_some_iff.mp h
  have := List.find?_some he
  simp only [Bool.and_eq_true, beq_iff_eq] at this
  exact ⟨e, List.mem_of_find?_eq_some he, this.1, this.2, rfl⟩

theorem cachedWord_of_caches (h : s.Caches cid key (canonPa pa)) : ∃ o, s.cachedWord cid key pa = some o := by
  obtain ⟨e, he, hk, ha⟩ := h
  have : ((s.core cid).icache.find? fun e => e.1 == key && e.2.1 == canonPa pa).isSome :=
    List.find?_isSome.mpr ⟨e, he, by simp [hk, ha]⟩
  obtain ⟨f, hf⟩ := Option.isSome_iff_exists.mp this
  exact ⟨f.2.2, by simp [cachedWord, hf]⟩

/-- A doubleword is the newest of an address that the core's instruction cache covers under a key. -/
def Found (s : State) (cid key : Nat) (w : DWord) : Prop :=
  ∃ a, s.Caches cid key a ∧ (a < devRegBase → w = s.newest64 a)

theorem Found.fetching {w : DWord} (h : s.Found cid key w) (k : Fetching cid al s t) : t.Found cid key w := by
  obtain ⟨a, hc, hw⟩ := h
  exact ⟨a, k.covers key a hc, fun ha => by rw [k.newest64]; exact hw ha⟩

theorem found_of_cachedWord {o : DWord} (hf : s.Fresh cid) (h : s.cachedWord cid key pa = some o) : s.Found cid key o := by
  obtain ⟨e, he, hk, ha, rfl⟩ := entry_of_cachedWord h
  exact ⟨e.2.1, ⟨e, he, hk, rfl⟩, hf e he⟩

/-- What a fetch of a doubleword gets. -/
theorem fetchWord_found {fill : Bool} {w : DWord} (h8 : al → pa % 8 = 0) (h : s.fetchWord cid key pa fill = some (w, t)) :
    Fetching cid al s t ∧ (al → s.Fresh cid → t.Found cid key w) := by
  unfold fetchWord at h
  cases hc : s.cachedWord cid key pa with
  | none =>
    cases fill with
    | false => simp [hc] at h
    | true =>
      simp only [hc, if_true, Option.some.injEq, Prod.mk.injEq] at h
      obtain ⟨rfl, rfl⟩ := h
      obtain ⟨filled, there⟩ := Fetching.fillLine (cid := cid) (al := al) s key pa
      refine ⟨filled, fun hal hf => ?_⟩
      obtain ⟨o, ho⟩ := cachedWord_of_caches (there (h8 hal))
      rw [ho]
      exact found_of_cachedWord (filled.fresh hal hf) ho
  | some o =>
    have home := Fetching.homeWord (cid := cid) (al := al) s pa
    simp only [hc] at h
    split at h
    · next e =>
      simp only [Option.some.injEq, Prod.mk.injEq] at h
      obtain ⟨rfl, rfl⟩ := h
      exact ⟨home, fun _ hf => (found_of_cachedWord hf (e ▸ hc)).fetching home⟩
    · have chosen := home.trans (Fetching.freeBool (s.homeWord pa).2)
      simp only [Option.some.injEq] at h
      split at h
      · simp only [Prod.mk.injEq] at h
        obtain ⟨rfl, rfl⟩ := h
        exact ⟨chosen, fun _ hf => (found_of_cachedWord hf hc).fetching chosen⟩
      · simp only [Prod.mk.injEq] at h
        obtain ⟨rfl, rfl⟩ := h
        have newest (hal : al) (ha : canonPa pa < devRegBase) :
            (s.homeWord pa).1 = (s.homeWord pa).2.freeBool.2.newest64 (canonPa pa) := by
          rw [chosen.newest64, newest64_canonPa s (h8 hal), Fetching.homeWord_newest ha]
        obtain ⟨kept, there⟩ := Fetching.cacheWord (cid := cid) (al := al) (s.homeWord pa).2.freeBool.2 key pa (s.homeWord pa).1 newest
        exact ⟨chosen.trans kept, fun hal _ => ⟨canonPa pa, there, fun ha => by rw [kept.newest64]; exact newest hal ha⟩⟩

/-- An address of a doubleword is translated to one. -/
theorem translate_aligned {tid va pa : Nat} {level : Level} {need : Need} {g : Option Nat} (h8 : va % 8 = 0)
    (h : (s.translate cid tid level need va).1 = .ok pa g) : pa % 8 = 0 := by
  have part (n bits : Nat) : (n * 2 ^ 16 + va % 2 ^ 56 % 2 ^ bits) % 8 = 0 := by
    have hv : va % 2 ^ 56 % 8 = 0 := by omega
    have : va % 2 ^ 56 % 2 ^ bits % 8 = 0 := by
      rcases Nat.lt_or_ge bits 3 with hb | hb
      · obtain ⟨k, hk⟩ := Nat.dvd_of_mod_eq_zero hv
        rw [hk]
        interval_cases bits <;> omega
      · rw [Nat.mod_mod_of_dvd _ (Nat.pow_dvd_pow 2 hb : 2 ^ 3 ∣ 2 ^ bits)]
        exact hv
    omega
  unfold translate at h
  dsimp only at h
  split at h
  · cases h
  · cases h
  · cases h
  · simp only [judge] at h
    split at h
    · cases h
    split at h
    · cases h
    split at h
    · cases h
    split at h
    · split at h
      · cases h; exact part _ _
      · cases h
    · cases h; exact part _ _

end State

/-- What a fetch comes to goes on from `s` by fetching. -/
def Fetched.Follows (cid : Nat) (al : Prop) (s : State) : Fetched → Prop
  | .got _ t => Fetching cid al s t
  | .absent => True
  | .page _ t => Fetching cid al s t
  | .noExec t => Fetching cid al s t
  | .unbacked _ t => Fetching cid al s t
  | .badGroup _ t => Fetching cid al s t
  | .poison _ t => Fetching cid al s t

theorem Fetched.Follows.trans {cid : Nat} {al : Prop} {s t : State} {r : Fetched} (h : Fetching cid al s t) (k : r.Follows cid al t) : r.Follows cid al s := by
  cases r with
  | absent => trivial
  | _ => exact Fetching.trans h k

namespace State
variable {s t u : State} {cid key tid : Nat} {al : Prop} {level : Level} {fill : Bool}

theorem fetchFrom_follows (va n : Nat) (h8 : al → va % 8 = 0) (l : List DWord) :
    (s.fetchFrom cid tid level key fill va n l).Follows cid al s := by
  induction n generalizing s va l with
  | zero => exact .refl s
  | succ n ih =>
    have walked := Fetching.translate (cid := cid) (al := al) s cid tid level ⟨false, false, true⟩ (va % 2 ^ 56)
    unfold fetchFrom
    dsimp only
    split <;> try exact walked
    · trivial
    next pa g e =>
      split
      · trivial
      split
      · exact walked
      split
      next w t hw =>
        have got := (fetchWord_found (al := al) (fun hal => translate_aligned (by have := h8 hal; omega) e) hw).1
        exact .trans (walked.trans got) (ih (va + 8) (fun hal => by have := h8 hal; omega) _)
      · trivial

/-- A fetch gets as many doublewords as it asks for, each found in the cache it leaves. -/
theorem fetchFrom_got {va n : Nat} {l m : List DWord} (h : s.fetchFrom cid tid level key fill va n l = .got m u) :
    m.length = l.length + n ∧ l <+: m
      ∧ (va % 8 = 0 → s.Fresh cid → (∀ d ∈ l, s.Found cid key d) → ∀ d ∈ m, u.Found cid key d) := by
  induction n generalizing s va l with
  | zero => cases h; exact ⟨rfl, List.prefix_rfl, fun _ _ hl => hl⟩
  | succ n ih =>
    have walked := Fetching.translate (cid := cid) (al := va % 8 = 0) s cid tid level ⟨false, false, true⟩ (va % 2 ^ 56)
    unfold fetchFrom at h
    dsimp only at h
    split at h <;> try cases h
    next pa g e =>
      split at h
      · cases h
      split at h
      · cases h
      split at h
      next w t hw =>
        obtain ⟨got, found⟩ := fetchWord_found (al := va % 8 = 0) (fun hal => translate_aligned (by omega) e) hw
        obtain ⟨len, pre, all⟩ := ih h
        refine ⟨by simp at len; omega, (List.prefix_append l [w]).trans pre, fun h8 hf hl => all (by omega) ((walked.trans got).fresh h8 hf) ?_⟩
        intro d hd
        rcases List.mem_append.mp hd with hd | hd
        · exact (hl d hd).fetching (walked.trans got)
        · rw [List.mem_singleton.mp hd]; exact found h8 (walked.fresh h8 hf)
      · cases h

theorem fetchClause_follows (pc : Addr) (h8 : al → pc.toNat % 8 = 0) :
    (s.fetchClause cid tid level key fill pc).Follows cid al s := by
  have first := fetchFrom_follows (s := s) (cid := cid) (tid := tid) (level := level) (key := key) (fill := fill) pc.toNat 1 h8 []
  unfold fetchClause
  split
  next l t e =>
    rw [e] at first
    exact .trans first (fetchFrom_follows _ _ (fun hal => by have := h8 hal; omega) l)
  · exact first

/-- A clause that is fetched is whole (R63, R83). -/
theorem fetchClause_got {pc : Addr} {m : List DWord} (h : s.fetchClause cid tid level key fill pc = .got m u) :
    m.length = hdrCount (m.headD 0) + 1 ∧ (pc.toNat % 8 = 0 → s.Fresh cid → ∀ d ∈ m, u.Found cid key d) := by
  unfold fetchClause at h
  split at h
  next l t e =>
    obtain ⟨len, -, found⟩ := fetchFrom_got e
    obtain ⟨len', pre, found'⟩ := fetchFrom_got h
    have first := fetchFrom_follows (s := s) (cid := cid) (tid := tid) (level := level) (key := key) (fill := fill)
      (al := pc.toNat % 8 = 0) pc.toNat 1 id []
    rw [e] at first
    obtain ⟨w, rfl⟩ := List.length_eq_one_iff.mp len
    obtain ⟨r, rfl⟩ := pre
    exact ⟨by simp at len' ⊢; omega, fun h8 hf => found' (by omega) (first.fresh h8 hf) (found h8 hf (by simp))⟩
  · next hne => exact absurd h (hne _ _)

end State
end Sys2Proof.Machine
end

section
/-! PROOF. Selecting, starting and fetching clauses (R48, R49, R62 to R65, R338). -/

namespace Sys2Proof.Machine

namespace Fetching
variable {cid : Nat} {al : Prop} {s t : State}

theorem held (h : Fetching cid al s t) : t.held = s.held := (congrArg State.held h.rest :)
theorem team (h : Fetching cid al s t) (k : Nat) : t.team k = s.team k := (congrArg (fun x => State.team x k) h.rest :)
theorem group (h : Fetching cid al s t) (g : Nat) : t.group g = s.group g := (congrArg (fun x => State.group x g) h.rest :)
theorem slices (h : Fetching cid al s t) : t.slices = s.slices := (congrArg State.slices h.rest :)
theorem slice (h : Fetching cid al s t) (g i : Nat) : t.slice g i = s.slice g i := by simp only [State.slice, h.slices]
theorem seqr (h : Fetching cid al s t) (q : Nat) : t.seqr q = s.seqr q := (congrArg (fun x => State.seqr x q) h.rest :)
theorem clock (h : Fetching cid al s t) : t.clock = s.clock := (congrArg State.clock h.rest :)

theorem liveSlices (h : Fetching cid al s t) (g : Nat) : t.liveSlices g = s.liveSlices g := by
  simp only [State.liveSlices, State.sliceNos, h.team, h.slice]

theorem standing (h : Fetching cid al s t) (g : Nat) : t.standing g = s.standing g := by
  simp only [State.standing, h.liveSlices, h.slice]

theorem asyncDue (h : Fetching cid al s t) (g : Nat) : t.asyncDue g = s.asyncDue g := by
  simp only [State.asyncDue, h.group]

end Fetching

/-! ### Asynchronous traps -/

theorem foldl_firstAsync (l : List Cause) (b : Cause) :
    ∃ k ∈ b :: l, (l.foldl (fun best c =>
      match best with
      | some b => if asyncRank c < asyncRank b then some c else some b
      | none => some c) (some b)) = some k ∧ ∀ j ∈ b :: l, asyncRank k ≤ asyncRank j := by
  induction l generalizing b with
  | nil => exact ⟨b, by simp, rfl, by simp⟩
  | cons c l ih =>
    rw [List.foldl_cons]
    by_cases h : asyncRank c < asyncRank b
    · obtain ⟨k, hk, e, least⟩ := ih c
      refine ⟨k, by simp at hk ⊢; tauto, by simpa [h] using e, fun j hj => ?_⟩
      have := least c (by simp)
      rcases List.mem_cons.mp hj with rfl | hj
      · omega
      · exact least j hj
    · obtain ⟨k, hk, e, least⟩ := ih b
      refine ⟨k, by simp at hk ⊢; tauto, by simpa [h] using e, fun j hj => ?_⟩
      have := least b (by simp)
      simp only [List.mem_cons] at hj
      rcases hj with rfl | rfl | hj
      · exact this
      · omega
      · exact least j (by simp [hj])

/-- Of pending asynchronous traps one of the first rank is taken (R338). -/
theorem firstAsync_least {l : List Cause} (h : l ≠ []) :
    ∃ k ∈ l, firstAsync l = some k ∧ ∀ j ∈ l, asyncRank k ≤ asyncRank j := by
  cases l with
  | nil => exact absurd rfl h
  | cons b l => exact foldl_firstAsync l b

namespace State

theorem asyncs_of_due {s : State} {g : Nat} (h : s.asyncDue g = true) : (s.group g).asyncs ≠ [] := by
  simp only [asyncDue, Bool.and_eq_true] at h
  simpa using h.1.1.1

/-! ### Selection -/

theorem leastBy_mem {rank : Cand → Nat} {l : List Cand} {c : Cand} (h : leastBy rank l = some c) : c ∈ l := by
  have key : ∀ (l : List Cand) (b : Option Cand), (l.foldl (fun best c =>
      match best with
      | some b => if rank c < rank b then some c else some b
      | none => some c) b) = some c → b = some c ∨ c ∈ l := by
    intro l
    induction l with
    | nil => exact fun b h => .inl h
    | cons x l ih =>
      intro b h
      rw [List.foldl_cons] at h
      rcases ih _ h with h | h
      · cases b with
        | none => cases h; simp
        | some b =>
          dsimp only at h
          split at h <;> cases h <;> simp
      · simp [h]
  exact (key l none h).resolve_left (by simp)

theorem pickPool_subset (s : State) (cid : Nat) (l : List Cand) : (s.pickPool cid l).1 ⊆ l := by
  unfold pickPool
  dsimp only
  split
  · exact List.filter_subset_self _
  · split
    · exact List.filter_subset_self _
    · exact List.Subset.refl _

/-- What a pipe selects is one of the candidates. -/
theorem pick_mem {s : State} {cid pipe : Nat} {c : Cand} (h : s.pick cid pipe = some c) : c ∈ s.cands cid := by
  unfold pick at h
  dsimp only at h
  split at h
  · cases h
  · have := List.mem_of_mem_filter (leastBy_mem h)
    split at this
    · exact pickPool_subset _ _ _ this
    · exact this

/-- A candidate whose clause is sound: its header is all a clause's is, and what it waits for has come (R48, R63, R64). -/
theorem candOf_sound {s : State} {cid g n : Nat} {c : Cand} (h : s.candOf cid g n = some c) (hb : c.bad = false) :
    clauseBad c.head c.words = false ∧ s.headerReady c.gid c.head (c.words.getD (s.slice g n).ix 0) = true := by
  unfold candOf at h
  dsimp only at h
  split at h
  · cases h; cases hb
  · split at h
    · split at h
      · cases h; cases hb
      · next hbad =>
        split at h
        · next hr =>
          cases h
          rw [Bool.or_eq_true, not_or] at hbad
          exact ⟨Bool.eq_false_iff.mpr hbad.1, hr⟩
        · cases h
    · cases h

theorem sound_of_pick {s : State} {cid pipe : Nat} {c : Cand} (h : s.pick cid pipe = some c) (hb : c.bad = false) :
    clauseBad c.head c.words = false ∧ ∃ w, s.headerReady c.gid c.head w = true := by
  have := pick_mem h
  simp only [cands, List.mem_flatMap, List.mem_filterMap] at this
  obtain ⟨g, -, n, -, hc⟩ := this
  exact ⟨(candOf_sound hc hb).1, _, (candOf_sound hc hb).2⟩

/-- The conditions of a header that is ready. -/
theorem headerReady_waits {s : State} {g : Nat} {h w : DWord} (hr : s.headerReady g h w = true) :
    (∀ f < 12, hdrWaits h / 2 ^ f % 2 = 1 → s.flagBusy g f = false)
      ∧ ∀ k, hdrLimit h k ≠ 63 → s.counter g k ≤ hdrLimit h k := by
  simp only [headerReady, Bool.and_eq_true, List.all_eq_true, List.mem_range, Bool.or_eq_true, decide_eq_true_eq,
    Bool.not_eq_true'] at hr
  obtain ⟨⟨flags, counters⟩, -⟩ := hr
  refine ⟨fun f hf hw => (flags f hf).resolve_left (by omega), fun k hk => (counters k ?_).resolve_left hk⟩
  cases k <;> simp

/-! ### A clause that starts -/

theorem regionEntry_core (s : State) (g : Nat) (is : List Nat) (c : Nat) : (s.regionEntry g is).core c = s.core c :=
  modSlices_core ..

theorem regionEntry_team (s : State) (g : Nat) (is : List Nat) (k : Nat) : (s.regionEntry g is).team k = s.team k :=
  modSlices_team ..

theorem regionEntry_lastStart (s : State) (g : Nat) (is : List Nat) (h : Nat) :
    ((s.regionEntry g is).group h).lastStart = (s.group h).lastStart := by
  rw [regionEntry, modGroup_group, modSlices_group]
  split
  · next e => rw [e]
  · rw [modSlices_group]

/-- The state in which a candidate's clause is in its pipe, before the region entry of one with REGION = 1. -/
def inPipeNow (s : State) (cid pipe : Nat) (c : Cand) : State :=
  let r : Run := { gid := c.gid, slices := c.slices, hdr := c.hdr, words := c.words }
  let s' := s.modCore cid fun k =>
    if pipe = 0 then { k with pipe0 := some r, rr0 := (s.group c.gid).slot } else { k with pipe1 := some r, rr1 := (s.group c.gid).slot }
  let s' := (s'.modGroup c.gid fun g => { g with lastStart := s.clock }).modSlices c.gid c.slices fun x => { x with lastStart := s.clock }
  (s'.coverHazards c.gid c.head).modTeam (tidOf c.gid) fun t => { t with clauses := t.clauses + 1 }

theorem startClause_eq (s : State) (cid pipe : Nat) (c : Cand) : s.startClause cid pipe c =
    if dfld c.head 16 1 = 1 && ((s.inPipeNow cid pipe c).slice c.gid c.gang).ix = 0
      then (s.inPipeNow cid pipe c).regionEntry c.gid c.slices else s.inPipeNow cid pipe c := rfl

theorem held_inPipeNow (s : State) (cid pipe : Nat) (c : Cand) : (s.inPipeNow cid pipe c).held = s.held := by
  simp [inPipeNow]

/-- Where a clause that has started stands, and what is noted of it (R49). -/
theorem startClause_pipe (s : State) (cid pipe : Nat) (c : Cand) :
    let u := s.startClause cid pipe c
    u.held = s.held ∧ (if pipe = 0 then (u.core cid).pipe0 else (u.core cid).pipe1) = some ⟨c.gid, c.slices, c.hdr, c.words⟩
      ∧ (u.team (tidOf c.gid)).clauses = (s.team (tidOf c.gid)).clauses + 1 ∧ (u.group c.gid).lastStart = s.clock := by
  have core : (s.inPipeNow cid pipe c).core cid = if pipe = 0
      then { s.core cid with pipe0 := some ⟨c.gid, c.slices, c.hdr, c.words⟩, rr0 := (s.group c.gid).slot }
      else { s.core cid with pipe1 := some ⟨c.gid, c.slices, c.hdr, c.words⟩, rr1 := (s.group c.gid).slot } := by
    rw [inPipeNow, modTeam_core, coverHazards, modGroup_core, modSlices_core, modGroup_core, modCore_core, if_pos rfl]
  have team : ((s.inPipeNow cid pipe c).team (tidOf c.gid)).clauses = (s.team (tidOf c.gid)).clauses + 1 := by
    rw [inPipeNow, modTeam_team, if_pos rfl, coverHazards, modGroup_team, modSlices_team]; rfl
  have start : ((s.inPipeNow cid pipe c).group c.gid).lastStart = s.clock := by
    rw [inPipeNow, modTeam_group, coverHazards, modGroup_group, if_pos rfl, modSlices_group, modGroup_group, if_pos rfl]
  have pipes : (if pipe = 0 then ((s.inPipeNow cid pipe c).core cid).pipe0 else ((s.inPipeNow cid pipe c).core cid).pipe1)
      = some ⟨c.gid, c.slices, c.hdr, c.words⟩ := by
    rw [core]; by_cases h : pipe = 0 <;> simp [h]
  rw [startClause_eq]
  split
  · refine ⟨(held_regionEntry ..).trans (held_inPipeNow ..), ?_, ?_, (regionEntry_lastStart ..).trans start⟩
    · rwa [regionEntry_core]
    · rwa [regionEntry_team]
  · exact ⟨held_inPipeNow .., pipes, team, start⟩

theorem held_serviceFault {s : State} {iss : Iss} (h : iss.sys = false) (va : Nat) (kind : AccKind) (ipc : Addr) :
    (s.serviceFault iss va kind ipc).held = s.held := by simp [serviceFault, h]

/-- A core that stops for a service fault keeps it among its stalls (R344). -/
theorem serviceFault_stall {s : State} {iss : Iss} (h : iss.sys = false) (va : Nat) (kind : AccKind) (ipc : Addr) :
    ∃ y ∈ ((s.serviceFault iss va kind ipc).core iss.cid).stalls, y.gid = iss.gid ∧ y.va = BitVec.ofNat 56 va ∧ y.kind = kind
      ∧ y.ipc = ipc ∧ y.entry = none := by
  simp only [serviceFault, h, Bool.false_eq_true, if_false]
  rw [modCore_core, if_pos rfl]
  exact ⟨_, List.mem_append_right _ (List.mem_singleton_self _), rfl, rfl, rfl, rfl, rfl⟩

end State
end Sys2Proof.Machine

open Sys2Proof.Machine

/-- Settles O48. -/
theorem clausesStartAndAreFetched : Obligations.ClausesStartAndAreFetched := by
  refine ⟨?_, ?_, ?_⟩
  · intro s cid pipe c go hm hb hp v
    have chosen : go = .next (s.select cid pipe c) := show execClauseStart cid pipe s = _ by
      simp [execClauseStart, hm, hb, hp]
    have follows := State.fetchClause_follows (s := s) (cid := cid) (tid := tidOf c.gid) (level := (s.group c.gid).level)
      (key := (s.team (tidOf c.gid)).ctx) (fill := false) (al := False) (s.slice c.gid c.gang).pc False.elim
    have fetching : Fetching cid False s v := by
      unfold v State.clauseAt
      split
      · next l t e => rw [e] at follows; exact follows
      · exact .refl s
    have selected : s.select cid pipe c = if v.asyncDue c.gid then v.takeAsync c.gid
      else if c.bad then (v.standAt c.gid c.slices c.hdr 0).takeTrap c.gid (State.hdrCause 3 0 c.hdr.toNat c.hdr)
      else v.startClause cid pipe c := rfl
    rw [fetching.asyncDue] at selected
    refine ⟨fun ha hbad => ?_, fun ha hbad => ?_, fun ha => ?_⟩
    · obtain ⟨sound, w, ready⟩ := State.sound_of_pick hp hbad
      obtain ⟨flags, counters⟩ := State.headerReady_waits ready
      obtain ⟨held, pipe, team, start⟩ := v.startClause_pipe cid pipe c
      refine ⟨flags, counters, sound, _, by rw [chosen, selected, if_neg (by simp [ha]), if_neg (by simp [hbad])],
        .of_held (held.trans fetching.held), .of_held (held.trans fetching.held), pipe, ?_, start.trans fetching.clock⟩
      rw [team, fetching.team]
    · rw [chosen, selected, if_neg (by simp [ha]), if_pos hbad]
    · obtain ⟨k, hk, first, least⟩ := firstAsync_least (State.asyncs_of_due ha)
      refine ⟨k, hk, least, ?_⟩
      rw [chosen, selected, if_pos ha, State.takeAsync, fetching.group, first, fetching.standing]
  · intro s gid i t x go fetched hi hst hfree h8
    have run : go = .next (s.groupFetch gid i) := show execClauseFetchDone gid i s = _ by
      simp [execClauseFetchDone, Nat.not_le.mpr hi]
    have follows : fetched.Follows t.core True s := State.fetchClause_follows x.pc fun _ => h8
    have guard : (x.st != .ganged || !s.groupFree t.core gid || x.pc.toNat % 8 != 0) = false := by
      simp [hst, hfree, h8]
    have fetch : s.groupFetch gid i = _ := if_neg (by rw [guard]; simp)
    refine ⟨fun l u hf => ?_, fun va u hf hc => ?_, fun u hf => ?_, fun va u hf => ?_⟩ <;>
      (rw [show s.fetchClause _ _ _ _ _ _ = _ from hf] at fetch; rw [hf] at follows; dsimp only at fetch)
    · obtain ⟨len, found⟩ := State.fetchClause_got hf
      have follows : Fetching t.core True s u := follows
      refine ⟨by rw [run, fetch], .of_held follows.held, .of_held follows.held, follows.slices, len, fun he hr d hd => ?_⟩
      have empty : s.Fresh t.core := fun e hm => by rw [he] at hm; cases hm
      obtain ⟨a, ⟨e, hm, hk, ha⟩, newest⟩ := found h8 empty d hd
      have there : a < devRegBase := ha ▸ hr e hm
      have same : e.2.2 = d := by
        rw [newest there, follows.fresh trivial empty e hm (hr e hm), ha]
      refine ⟨a, ?_, (newest there).trans (follows.newest64 a)⟩
      rwa [← hk, ← ha, ← same]
    · have follows : Fetching t.core True s u := follows
      obtain ⟨y, hy, hg, hv, hk, hi, he⟩ := State.serviceFault_stall (s := u)
        (iss := ⟨t.core, 0, gid, s.gangOf gid x.gang, x.pc, x.ix, 0⟩) hc va .fetch x.pc
      have held := (State.held_serviceFault (s := u) (iss := ⟨t.core, 0, gid, s.gangOf gid x.gang, x.pc, x.ix, 0⟩) hc va .fetch x.pc).trans follows.held
      exact ⟨_, y, by rw [run, fetch], .of_held held, .of_held held, hy, hg, hv, hk, hi, he⟩
    · rw [run, fetch]
    · rw [run, fetch]
  · intro s q l u x k hq hst hw hf hs ht hl hk h8 hg hb
    have follows : Fetching (s.team k).core True s u := by
      have := State.fetchClause_follows (s := s) (cid := (s.team k).core) (tid := k) (level := .l0) (key := 4096 + q) (fill := true)
        (al := True) x.pc fun _ => h8
      rw [hg] at this
      exact this
    have idle : s.stopDue q = false := by simp [State.stopDue, show (s.seqr q).stop = none from hs]
    have fetch : s.streamFetch q = u.modSeqr q fun x => { x with words := l.drop 1, ix := 0 } := by
      simp only [State.streamFetch, Option.isNone_eq_false_iff.mpr hq, show (s.team (s.leadTeam q)).st = _ from ht,
        show (s.ctx (s.team (s.leadTeam q)).ctx).killing = _ from hk, idle, show (s.seqr q).st = _ from hst,
        show (s.seqr q).words = _ from hw, show (s.seqr q).fault = _ from hf, show s.leaving (s.leadTeam q) = _ from hl,
        show (s.seqr q).pc.toNat % 8 = _ from h8]
      rw [show s.fetchClause _ _ _ _ _ _ = _ from hg]
      simp only [hb]
      simp
    have held := (held_modSeqr u q fun x => { x with words := l.drop 1, ix := 0 }).trans follows.held
    refine ⟨s.streamFetch q, rfl, ?_⟩
    show (_ ∧ _ ∧ _ ∧ SameRegs s (s.streamFetch q) ∧ SameBytes s (s.streamFetch q))
    rw [fetch, State.modSeqr_seqr, if_pos rfl]
    exact ⟨rfl, rfl, (congrArg Seqr.pc (follows.seqr q) :), .of_held held, .of_held held⟩
end


section
/-! PROOF. Packets that are sent one after the other: each stands under a number of its own, on the fabric (R322, R323). -/

namespace Sys2Proof.Machine

namespace FabricOnly
variable {s t : State}

theorem clusters (h : FabricOnly s t) : t.clusters = s.clusters := (congrArg State.clusters h.rest :)
theorem launches (h : FabricOnly s t) : t.launches = s.launches := (congrArg State.launches h.rest :)
theorem order (h : FabricOnly s t) : t.names.order = s.names.order := (congrArg (fun x : State => x.names.order) h.rest :)

theorem atDead (h : FabricOnly s t) (e : Endpoint) : t.atDead e = s.atDead e := by
  simp only [State.atDead, State.physOf, State.rowTable, h.dev]

end FabricOnly

namespace State

/-- One packet put on the fabric under the next number (R322). -/
def sendOne (s : State) (p : Packet) : State :=
  { s with names := { s.names with pkt := s.names.pkt + 1 }
           packets := sput s.packets s.names.pkt { p with born := s.clock, held := true, queued := true } }.inject s.names.pkt

theorem sendNow_eq (s : State) (p : Packet) : s.sendNow p = p.split.foldl sendOne s := rfl

/-- `t` has the packets that `s` has numbered, and numbers further ones from there. -/
structure Numbers (s t : State) : Prop where
  next : s.names.pkt ≤ t.names.pkt
  kept : ∀ k < s.names.pkt, sget t.packets k = sget s.packets k

theorem Numbers.refl (s : State) : Numbers s s := ⟨Nat.le_refl _, fun _ _ => rfl⟩

theorem Numbers.trans {s t u : State} (h : Numbers s t) (k : Numbers t u) : Numbers s u :=
  ⟨h.next.trans k.next, fun n hn => (k.kept n (Nat.lt_of_lt_of_le hn h.next)).trans (h.kept n hn)⟩

theorem Numbers.foldl {α : Type} {f : State → α → State} (hf : ∀ t a, Numbers t (f t a)) (l : List α) (s : State) :
    Numbers s (l.foldl f s) := by
  induction l generalizing s with
  | nil => exact refl s
  | cons a l ih => exact (hf s a).trans (ih _)

/-- The packets and their next number. -/
def packed (s : State) : Store Packet × Nat := (s.packets, s.names.pkt)

theorem packed_foldl {α : Type} {f : State → α → State} (hf : ∀ t a, (f t a).packed = t.packed) (l : List α) (s : State) :
    (l.foldl f s).packed = s.packed := by
  induction l generalizing s with
  | nil => rfl
  | cons a l ih => exact (ih _).trans (hf s a)

theorem packed_emit (s : State) (o : Out) : (s.emit o).packed = s.packed := rfl

theorem packed_headerError (s : State) (tag : Nat) : (s.headerError tag).packed = s.packed := by
  unfold headerError bringDown
  split
  · rfl
  · simp only [packed_emit]
    rw [packed_foldl (f := fun s n => s.modCore _ _) (fun _ _ => rfl), packed_foldl (f := fun s c => s.requestKill c _) (fun _ _ => rfl)]

theorem packed_pressurize (s : State) (e : Endpoint) : (s.pressurize e).packed = s.packed := by
  cases e with
  | home h => simp only [pressurize]; split <;> [rfl; (split <;> rfl)]
  | _ => rfl

theorem packed_nextSeq (s : State) (src dst : Endpoint) (vc : Nat) : (s.nextSeq src dst vc).2.packed = s.packed := by
  unfold nextSeq
  split <;> rfl

theorem packed_inject_far {s : State} {k : Nat} {p : Packet} (hp : sget s.packets k = some p) (hr : s.inReach p.ptag p.dst = false) :
    (s.inject k).packed = (sdel s.packets k, s.names.pkt) := by
  simp only [inject, hp, hr, Bool.not_false, if_true, packed_headerError]
  rfl

theorem packed_inject_dead {s : State} {k : Nat} {p : Packet} (hp : sget s.packets k = some p) (hr : s.inReach p.ptag p.dst = true)
    (hd : s.atDead p.src = true) : (s.inject k).packed = s.packed := by
  simp [inject, hp, hr, hd]

/-- A packet within reach, its router alive, is on the fabric. -/
theorem packed_inject {s : State} {k : Nat} {p : Packet} (hp : sget s.packets k = some p) (hr : s.inReach p.ptag p.dst = true)
    (hd : s.atDead p.src = false) :
    ∃ q : Packet, (s.inject k).packed = (sput s.packets k q, s.names.pkt) ∧ q.cargo = p.cargo ∧ q.held = false := by
  have e := packed_nextSeq s p.src p.dst p.vc
  simp only [packed, Prod.mk.injEq] at e
  refine ⟨{ p with seq := (s.nextSeq p.src p.dst p.vc).1, held := false, queued := false
                   since := (s.nextSeq p.src p.dst p.vc).2.clock
                   esc := (s.nextSeq p.src p.dst p.vc).2.routeDead p.src p.dst }, ?_, rfl, rfl⟩
  simp only [inject, hp, hr, hd, Bool.not_true, Bool.false_eq_true, if_false, packed_pressurize]
  simp only [packed, e]

/-- Putting packet `k` on the fabric counts none and leaves every other as it is. -/
theorem inject_others (s : State) (k : Nat) :
    (s.inject k).names.pkt = s.names.pkt ∧ ∀ j, j ≠ k → sget (s.inject k).packets j = sget s.packets j := by
  have of {m : Store Packet} (h : (s.inject k).packed = (m, s.names.pkt)) (hm : ∀ j, j ≠ k → sget m j = sget s.packets j) :
      (s.inject k).names.pkt = s.names.pkt ∧ ∀ j, j ≠ k → sget (s.inject k).packets j = sget s.packets j := by
    simp only [packed, Prod.mk.injEq] at h
    exact ⟨h.2, fun j hj => by rw [h.1]; exact hm j hj⟩
  cases hp : sget s.packets k with
  | none => simp [inject, hp]
  | some p =>
    cases hr : s.inReach p.ptag p.dst with
    | false => exact of (packed_inject_far hp hr) fun j hj => by rw [sget_sdel, if_neg hj]
    | true =>
      cases hd : s.atDead p.src with
      | true => exact of (packed_inject_dead hp hr hd) fun _ _ => rfl
      | false =>
        obtain ⟨q, h, -⟩ := packed_inject hp hr hd
        exact of h fun j hj => by rw [sget_sput, if_neg hj]

theorem sendOne_next (s : State) (p : Packet) : (s.sendOne p).names.pkt = s.names.pkt + 1 := (inject_others _ _).1

theorem sendOne_numbers (s : State) (p : Packet) : Numbers s (s.sendOne p) := by
  refine ⟨by rw [sendOne_next]; omega, fun k hk => ?_⟩
  have other : k ≠ s.names.pkt := by omega
  exact ((inject_others _ _).2 k other).trans (by simp [sget_sput, other])

theorem sendOne_sget (s : State) (p : Packet) (hr : s.inReach p.ptag p.dst = true) (hd : s.atDead p.src = false) :
    ∃ q, sget (s.sendOne p).packets s.names.pkt = some q ∧ q.cargo = p.cargo ∧ q.held = false := by
  have put : sget (sput s.packets s.names.pkt { p with born := s.clock, held := true, queued := true }) s.names.pkt = some _ :=
    (sget_sput ..).trans (if_pos rfl)
  obtain ⟨q, h, hc, hh⟩ := packed_inject (s := { s with names := { s.names with pkt := s.names.pkt + 1 }, packets := _ }) put hr hd
  simp only [packed, Prod.mk.injEq] at h
  exact ⟨q, by simp [sendOne, h.1, sget_sput], hc, hh⟩

theorem sendNow_numbers (s : State) (p : Packet) : Numbers s (s.sendNow p) := by
  rw [sendNow_eq]
  exact .foldl sendOne_numbers _ s

/-- A packet that none goes before takes the next number (R316, R322). -/
theorem sentOut_sendNow {s : State} {p : Packet} (hl : p.lead = 0) (hr : s.inReach p.ptag p.dst = true)
    (hd : s.atDead p.src = false) {t : State} (hn : t.names.pkt = s.names.pkt) :
    SentOut t (s.sendNow p) p.dst p.vc p.load := by
  obtain ⟨q, hq, hc, hh⟩ := s.sendOne_sget p hr hd
  refine ⟨q, ?_, (congrArg Packet.dst hc :), (congrArg Packet.vc hc :), (congrArg Packet.load hc :), hh⟩
  rw [hn, sendNow_eq, Packet.split, hl]
  exact hq

/-- A packet within reach is numbered, and on the fabric. -/
theorem sendNow_out (s : State) (p : Packet) (hr : s.inReach p.ptag p.dst = true) (hd : s.atDead p.src = false) :
    ∃ k q, k < (s.sendNow p).names.pkt ∧ sget (s.sendNow p).packets k = some q ∧ q.cargo = p.cargo ∧ q.held = false := by
  rw [sendNow_eq, Packet.split, List.foldl_append]
  set t := List.foldl sendOne s _ with ht
  have before : FabricOnly s t := .foldl (fun t _ => (FabricOnly.numbered t _ _).trans (.inject _ _)) _ s
  rw [← before.inReach] at hr
  rw [← before.atDead] at hd
  obtain ⟨q, hq, hc, hh⟩ := t.sendOne_sget p hr hd
  exact ⟨_, q, by simp [sendOne_next], hq, hc, hh⟩

/-- Every packet of a list sent one after the other is on the fabric at the end. -/
theorem foldl_sendNow_out {α : Type} (f : State → α → Packet) (tag : Nat) (dst src : Endpoint)
    (l : List α) (s : State) (hf : ∀ t, FabricOnly s t → ∀ a, f t a = f s a)
    (ht : ∀ a, (f s a).ptag = tag ∧ (f s a).dst = dst ∧ (f s a).src = src)
    (hr : s.inReach tag dst = true) (hd : s.atDead src = false) {a : α} (ha : a ∈ l) :
    ∃ k q, k < (l.foldl (fun s a => s.sendNow (f s a)) s).names.pkt ∧
      sget (l.foldl (fun s a => s.sendNow (f s a)) s).packets k = some q ∧ q.cargo = (f s a).cargo ∧ q.held = false := by
  induction l generalizing s with
  | nil => cases ha
  | cons b l ih =>
    have step : FabricOnly s (s.sendNow (f s b)) := .sendNow _ _
    have rest : Numbers (s.sendNow (f s b)) (l.foldl (fun s a => s.sendNow (f s a)) (s.sendNow (f s b))) :=
      .foldl (fun t a => t.sendNow_numbers _) l _
    obtain ⟨h1, h2, h3⟩ := ht b
    rcases List.mem_cons.1 ha with rfl | h
    · obtain ⟨k, q, hk, hq, hc⟩ := s.sendNow_out (f s a) (by rw [h1, h2, hr]) (by rw [h3, hd])
      exact ⟨k, q, Nat.lt_of_lt_of_le hk rest.next, (rest.kept k hk).trans hq, hc⟩
    · have same (t : State) (ht : FabricOnly (s.sendNow (f s b)) t) (a : α) : f t a = f (s.sendNow (f s b)) a :=
        (hf t (step.trans ht) a).trans (hf _ step a).symm
      obtain ⟨k, q, hk, hq, hc, hh⟩ := ih (s.sendNow (f s b)) same (fun a => by rw [hf _ step a]; exact ht a)
        (by rw [step.inReach, hr]) (by rw [step.atDead, hd]) h
      exact ⟨k, q, hk, hq, hc.trans (by rw [hf _ step a]), hh⟩

end State
end Sys2Proof.Machine
end


section
/-! PROOF. Queues of a park by rank, and the requests, counts and replies of park schedulers (R44 to R46, R52, R327, R328). -/

namespace Sys2Proof.Machine
namespace State

/-! ### Ranks -/

theorem insertRank_perm (rank : Nat → List Nat) (x : Nat) (l : List Nat) : (insertRank rank x l).Perm (x :: l) := by
  induction l with
  | nil => exact .refl _
  | cons y l ih =>
    simp only [insertRank]
    split
    · exact .refl _
    · exact (ih.cons y).trans (.swap x y l)

theorem byRank_perm (rank : Nat → List Nat) (l : List Nat) : (byRank rank l).Perm l := by
  have run (m : List Nat) : (l.foldl (fun m x => insertRank rank x m) m).Perm (m ++ l) := by
    induction l generalizing m with
    | nil => simp
    | cons x l ih =>
      exact (ih _).trans (((insertRank_perm rank x m).append_right l).trans (List.perm_middle.symm))
  simpa [byRank] using run []

theorem insertRank_rises {rank : Nat → List Nat} {f : Nat → Nat} (below : ∀ x y, lexLt (rank x) (rank y) = true → f x ≤ f y)
    (above : ∀ x y, lexLt (rank x) (rank y) = false → f y ≤ f x) {x : Nat} {l : List Nat} (h : l.Pairwise fun a b => f a ≤ f b) :
    (insertRank rank x l).Pairwise fun a b => f a ≤ f b := by
  induction l with
  | nil => exact List.pairwise_singleton _ _
  | cons y l ih =>
    obtain ⟨hy, hl⟩ := List.pairwise_cons.1 h
    simp only [insertRank]
    split
    · next hxy =>
      refine List.pairwise_cons.2 ⟨fun z hz => ?_, h⟩
      rcases List.mem_cons.1 hz with rfl | hz
      · exact below _ _ hxy
      · exact (below _ _ hxy).trans (hy z hz)
    · next hxy =>
      refine List.pairwise_cons.2 ⟨fun z hz => ?_, ih hl⟩
      rcases List.mem_cons.1 ((insertRank_perm rank x l).mem_iff.1 hz) with rfl | hz
      · exact above _ _ (by simpa using hxy)
      · exact hy z hz

/-- A measure that never falls as the rank rises never falls along the keys by rank. -/
theorem byRank_rises {rank : Nat → List Nat} {f : Nat → Nat} (below : ∀ x y, lexLt (rank x) (rank y) = true → f x ≤ f y)
    (above : ∀ x y, lexLt (rank x) (rank y) = false → f y ≤ f x) (l : List Nat) :
    (byRank rank l).Pairwise fun a b => f a ≤ f b := by
  have run (m : List Nat) (hm : m.Pairwise fun a b => f a ≤ f b) :
      (l.foldl (fun m x => insertRank rank x m) m).Pairwise fun a b => f a ≤ f b := by
    induction l generalizing m with
    | nil => exact hm
    | cons x l ih => exact ih _ (insertRank_rises below above hm)
  exact run [] .nil

/-- By arrival: the earlier first. -/
theorem byArrival_rises (s : State) (l : List Nat) :
    (byRank (fun c => [(s.cluster c).arrived, c]) l).Pairwise fun a b => (s.cluster a).arrived ≤ (s.cluster b).arrived := by
  refine byRank_rises (fun x y h => ?_) (fun x y h => ?_) l
  · simp [lexLt] at h; omega
  · simp [lexLt] at h; omega

/-! ### The park with the highest count -/

/-- The better of a candidate and a park of the view. -/
def higher (best : Option (Nat × Nat)) (p : Nat × Nat) : Option (Nat × Nat) :=
  match best with
  | some (k, n) => if n < p.2 then some p else some (k, n)
  | none => if p.2 = 0 then none else some p

theorem highest_eq (view : Store Nat) : highest view = (view.foldl higher none).map Prod.fst := rfl

/-- Parks with less than `n` leave a candidate with less than `n`. -/
theorem foldl_higher_lt {n : Nat} (l : Store Nat) (best : Option (Nat × Nat)) (hb : ∀ b ∈ best, b.2 < n) (hl : ∀ e ∈ l, e.2 < n) :
    ∀ b ∈ l.foldl higher best, b.2 < n := by
  induction l generalizing best with
  | nil => exact hb
  | cons e l ih =>
    obtain ⟨he, hl⟩ := List.forall_mem_cons.1 hl
    refine ih _ (fun b h => ?_) hl
    cases best with
    | none =>
      simp only [higher] at h
      split at h
      · cases h
      · cases h; exact he
    | some c =>
      simp only [higher] at h
      split at h <;> cases h
      · exact he
      · exact hb _ rfl

/-- Parks with no more leave a candidate as it is. -/
theorem foldl_higher_some {v n : Nat} (l : Store Nat) (hl : ∀ e ∈ l, e.2 ≤ n) : l.foldl higher (some (v, n)) = some (v, n) := by
  induction l with
  | nil => rfl
  | cons e l ih =>
    obtain ⟨he, hl⟩ := List.forall_mem_cons.1 hl
    rw [List.foldl_cons, higher, if_neg (by omega)]
    exact ih hl

/-- The highest count, of the lowest index, is found. -/
theorem highest_of_max {view : Store Nat} {v n : Nat} (hr : Rising view) (hm : (v, n) ∈ view) (h0 : 0 < n)
    (hmax : ∀ e ∈ view, e.2 < n ∨ e.2 = n ∧ v ≤ e.1) : highest view = some v := by
  obtain ⟨pre, post, rfl⟩ := List.append_of_mem hm
  have before : ∀ e ∈ pre, e.2 < n := fun e he => by
    have rise : e.1 < v := (List.pairwise_append.1 hr).2.2 e he (v, n) (by simp)
    rcases hmax e (by simp [he]) with h | ⟨-, h⟩ <;> omega
  have after : ∀ e ∈ post, e.2 ≤ n := fun e he => by
    rcases hmax e (by simp [he]) with h | ⟨h, -⟩ <;> omega
  have low := foldl_higher_lt pre none (by simp) before
  have chosen : higher (pre.foldl higher none) (v, n) = some (v, n) := by
    cases hb : pre.foldl higher none with
    | none => exact if_neg (by simpa using h0.ne')
    | some b => exact if_pos (low b hb)
  rw [highest_eq, List.foldl_append, List.foldl_cons, chosen, foldl_higher_some post after]
  rfl

/-! ### Blocks that leave a park -/

theorem modPark_park_self (s : State) (p k : Nat) (f : Park → Park) : (s.modPark p k f).park p k = f (s.park p k) := by
  simp [modPark, park]

/-- Blocks that leave for another park (R46). -/
def ship (s : State) (a : Nat) (go : List Nat) : State :=
  go.foldl (fun s c => s.modCluster c fun x => { x with park := 128 + a }) s

theorem ship_eq (s : State) (a : Nat) (go : List Nat) : ∃ cl, s.ship a go = { s with clusters := cl } := by
  induction go generalizing s with
  | nil => exact ⟨s.clusters, rfl⟩
  | cons c go ih =>
    obtain ⟨cl, e⟩ := ih (s.modCluster c fun x => { x with park := 128 + a })
    exact ⟨cl, e⟩

theorem ship_cluster (s : State) (a : Nat) (go : List Nat) (c : Nat) :
    (s.ship a go).cluster c = if c ∈ go then { s.cluster c with park := 128 + a } else s.cluster c := by
  induction go generalizing s with
  | nil => simp [ship]
  | cons d go ih =>
    refine (ih (s.modCluster d fun x => { x with park := 128 + a })).trans ?_
    rw [modCluster_cluster]
    by_cases h : c = d <;> by_cases h' : c ∈ go <;> simp [h, h']

theorem ship_descriptor (s : State) (a : Nat) (go : List Nat) (c : Nat) : (s.ship a go).descriptor c = s.descriptor c := by
  obtain ⟨cl, e⟩ := s.ship_eq a go
  have launch (k : Nat) : (s.ship a go).launch k = s.launch k := by rw [e]; rfl
  simp only [descriptor, ship_cluster, launch]
  split <;> rfl

/-! ### The packets of a reply -/

theorem blockPackets_flatten (l : List Nat) : (blockPackets l).flatten = l := by
  have run (n : Nat) : ((List.range n).map fun i => (l.drop (16 * i)).take 16).flatten = l.take (16 * n) := by
    induction n with
    | zero => rfl
    | succ n ih => simp [List.range_succ, ih, Nat.mul_succ, List.take_add]
  rw [blockPackets, run, List.take_of_length_le (by omega)]

theorem blockPackets_length (l : List Nat) : ∀ r ∈ blockPackets l, r.length ≤ 16 := by
  intro r h
  simp only [blockPackets, List.mem_map] at h
  obtain ⟨i, -, rfl⟩ := h
  simp

theorem blockPackets_map (f : Nat → Nat) (l : List Nat) : blockPackets (l.map f) = (blockPackets l).map (List.map f) := by
  simp [blockPackets, List.map_drop, List.map_take]

/-- The record of a launch in a reply, doubleword by doubleword (R328). -/
theorem launchBytes_eq {l : Launch} (h : l.record.length = 32) :
    launchBytes l = bytesOf ((List.range 32).map fun i =>
      if i = 8 then BitVec.ofNat 64 (l.ident % 2 ^ 32)
      else if i = 9 then BitVec.ofNat 64 (if l.policy 0 2 = 1 then l.snapDispatch else 0)
      else if 9 < i ∧ i < 16 then 0 else l.record.getD i 0) := by
  unfold launchBytes
  congr 1
  have front : l.record.take 8 = (List.range 8).map fun i => l.record.getD i 0 :=
    List.ext_getElem (by simp [h]) fun i _ hi => by
      have : i < l.record.length := by simp at hi; omega
      simp [this]
  have back : l.record.drop 16 = (List.range 16).map fun i => l.record.getD (16 + i) 0 :=
    List.ext_getElem (by simp [h]) fun i _ hi => by
      have : 16 + i < l.record.length := by simp at hi; omega
      simp [this]
  rw [front, back]
  rfl

/-- A packet of the partition from one park to another is on the fabric. -/
def Replied (t : State) (a : Nat) (load : Payload) (cx : Nat) (bytes : List Byte) : Prop :=
  ∃ k q, k < t.names.pkt ∧ sget t.packets k = some q ∧ q.dst = .park a ∧ q.vc = 1 ∧ q.held = false ∧ q.load = load
    ∧ q.ctx = cx ∧ q.bytes = bytes

theorem Replied.later {s t : State} {a : Nat} {load : Payload} {cx : Nat} {bytes : List Byte} (h : Replied s a load cx bytes)
    (n : Numbers s t) : Replied t a load cx bytes := by
  obtain ⟨k, q, hk, hq, rest⟩ := h
  exact ⟨k, q, Nat.lt_of_lt_of_le hk n.next, (n.kept k hk).trans hq, rest⟩

/-- A packet that was put on the fabric as `p` is a reply with what `p` carries. -/
theorem Replied.of_cargo {t : State} {p : Packet} {a : Nat} (hd : p.dst = .park a) (hv : p.vc = 1)
    (h : ∃ k q, k < t.names.pkt ∧ sget t.packets k = some q ∧ q.cargo = p.cargo ∧ q.held = false) :
    Replied t a p.load p.ctx p.bytes := by
  obtain ⟨k, q, hk, hq, hc, hh⟩ := h
  exact ⟨k, q, hk, hq, hd ▸ (congrArg Packet.dst hc :), hv ▸ (congrArg Packet.vc hc :), hh,
    (congrArg Packet.load hc :), (congrArg Packet.ctx hc :), (congrArg Packet.bytes hc :)⟩

/-- The packet of a launch in a reply (R328). -/
def launchPacket (part v dst : Nat) (s : State) (k : Nat) : Packet :=
  { parkPacket part v dst 1 .stealLaunch with ctx := (s.launch k).ctx, bytes := launchBytes (s.launch k), size := 256 }

/-- A packet of blocks in a reply (R328). -/
def blockPacket (part v dst : Nat) (_ : State) (l : List Nat) : Packet :=
  { parkPacket part v dst 1 .stealBlocks with bytes := l.flatMap (leBytes 16), size := 16 * l.length }

theorem descriptor_of_fabricOnly {s t : State} (h : FabricOnly s t) : t.descriptor = s.descriptor := by
  funext c
  simp only [descriptor, h.cluster, h.launch]

/-- The packets of a reply: its head, its launches and its blocks (R328). -/
theorem sendReply_out (s : State) (part v dst reqn : Nat) (blocks : List Nat) (hr : s.inReach part (.park dst) = true)
    (hd : s.atDead (.park v) = false) :
    let ls := (blocks.map fun c => (s.cluster c).launch).eraseDups
    let t := s.sendReply part v dst reqn blocks
    FabricOnly s t ∧ Replied t dst (.stealRep reqn blocks.length ls.length) 0xFFF []
      ∧ (∀ k ∈ ls, Replied t dst .stealLaunch (s.launch k).ctx (launchBytes (s.launch k)))
      ∧ ∀ r ∈ blockPackets (blocks.map s.descriptor), Replied t dst .stealBlocks 0xFFF (r.flatMap (leBytes 16)) := by
  intro ls t
  let head := parkPacket part v dst 1 (.stealRep reqn blocks.length ls.length)
  set s1 := s.sendNow head with e1
  set s2 := ls.foldl (fun s k => s.sendNow (launchPacket part v dst s k)) s1 with e2
  have e3 : t = (blockPackets (blocks.map s2.descriptor)).foldl (fun s l => s.sendNow (blockPacket part v dst s l)) s2 := rfl
  have f1 : FabricOnly s s1 := .sendNow _ _
  have f2 : FabricOnly s s2 := f1.trans (.foldl (fun _ _ => .sendNow _ _) ls s1)
  have n2 : Numbers s1 s2 := .foldl (fun t k => t.sendNow_numbers _) ls s1
  have n3 : Numbers s2 t := by rw [e3]; exact .foldl (fun t l => t.sendNow_numbers _) _ s2
  rw [descriptor_of_fabricOnly f2] at e3
  refine ⟨?_, ?_, fun k hk => ?_, fun r h => ?_⟩
  · rw [e3]
    exact f2.trans (.foldl (fun _ _ => .sendNow _ _) _ s2)
  · have sent := s.sendNow_out head hr hd
    exact ((Replied.of_cargo (p := head) rfl rfl sent).later n2).later n3
  · have sent := foldl_sendNow_out (launchPacket part v dst) part (.park dst) (.park v) ls s1
      (fun t h a => by simp only [launchPacket, h.launch]) (fun _ => ⟨rfl, rfl, rfl⟩)
      (by rw [f1.inReach, hr]) (by rw [f1.atDead, hd]) hk
    have got := (Replied.of_cargo (p := launchPacket part v dst s1 k) rfl rfl sent).later n3
    simpa only [launchPacket, parkPacket, Packet.plain, f1.launch] using got
  · have sent := foldl_sendNow_out (blockPacket part v dst) part (.park dst) (.park v) (blockPackets (blocks.map s.descriptor)) s2
      (fun _ _ _ => rfl) (fun _ => ⟨rfl, rfl, rfl⟩) (by rw [f2.inReach, hr]) (by rw [f2.atDead, hd]) h
    rw [← e3] at sent
    exact Replied.of_cargo (p := blockPacket part v dst s2 r) rfl rfl sent

/-! ### Blocks that join a park -/

/-- Blocks join a queue in their order (R46). -/
def join (s : State) (k : Nat) (cs : List Nat) : State :=
  cs.foldl (fun s c =>
    let o := s.names.order + 1
    ({ s with names := { s.names with order := o } }).modCluster c fun x => { x with park := k, arrived := o }) s

theorem join_park (s : State) (k q j : Nat) (cs : List Nat) : (s.join k cs).park q j = s.park q j := by
  induction cs generalizing s with
  | nil => rfl
  | cons c cs ih => exact ih _

theorem held_join (s : State) (k : Nat) (cs : List Nat) : (s.join k cs).held = s.held := by
  induction cs generalizing s with
  | nil => rfl
  | cons c cs ih => exact ih _

theorem join_cluster_of_not_mem {c : Nat} (s : State) (k : Nat) {cs : List Nat} (h : c ∉ cs) : (s.join k cs).cluster c = s.cluster c := by
  induction cs generalizing s with
  | nil => rfl
  | cons d cs ih =>
    simp only [List.mem_cons, not_or] at h
    refine (ih _ h.2).trans ?_
    rw [modCluster_cluster, if_neg h.1]
    rfl

/-- Blocks stand in the queue they joined, after all that had arrived before and in their order. -/
theorem join_cluster (s : State) (k : Nat) {cs : List Nat} (h : cs.Nodup) :
    (∀ c ∈ cs, ((s.join k cs).cluster c).park = k ∧ s.names.order < ((s.join k cs).cluster c).arrived)
      ∧ cs.Pairwise fun c d => ((s.join k cs).cluster c).arrived < ((s.join k cs).cluster d).arrived := by
  induction cs generalizing s with
  | nil => simp
  | cons c cs ih =>
    obtain ⟨hc, hn⟩ := List.nodup_cons.1 h
    set t := ({ s with names := { s.names with order := s.names.order + 1 } } : State).modCluster c
      fun x => { x with park := k, arrived := s.names.order + 1 } with ht
    have e : s.join k (c :: cs) = t.join k cs := rfl
    have first : (t.join k cs).cluster c = { s.cluster c with park := k, arrived := s.names.order + 1 } := by
      rw [join_cluster_of_not_mem t k hc, ht, modCluster_cluster, if_pos rfl]
      rfl
    have order : t.names.order = s.names.order + 1 := rfl
    obtain ⟨all, rising⟩ := ih t hn
    rw [e]
    refine ⟨fun d hd => ?_, List.pairwise_cons.2 ⟨fun d hd => ?_, rising⟩⟩
    · rcases List.mem_cons.1 hd with rfl | hd
      · rw [first]; exact ⟨rfl, by simp⟩
      · obtain ⟨h1, h2⟩ := all d hd
        exact ⟨h1, by omega⟩
    · have := (all d hd).2
      rw [first]
      simp only
      omega

theorem takeBlocks_eq (s : State) (p k : Nat) (ds : List Nat) : s.takeBlocks p k ds = s.join k (ds.filterMap (s.namedBlock p k)) := rfl

theorem namedBlock_of_fabricOnly {s t : State} (h : FabricOnly s t) (p k d : Nat) : t.namedBlock p k d = s.namedBlock p k d := by
  simp only [namedBlock, h.clusters, h.cluster, descriptor_of_fabricOnly h]

/-- Descriptors name the blocks they describe. -/
theorem filterMap_namedBlock {s : State} {p k : Nat} {word : Nat → Nat} {cs : List Nat}
    (h : ∀ c ∈ cs, s.namedBlock p k (word c) = some c) : (cs.map word).filterMap (s.namedBlock p k) = cs := by
  induction cs with
  | nil => rfl
  | cons c cs ih =>
    obtain ⟨hc, hcs⟩ := List.forall_mem_cons.1 h
    simp [hc, ih hcs]

end State
/-- What happens to a packet for a park once it is next of its stream, and the park's scheduler alive. -/
theorem happens_of_park {i : Instr} {s : State} {n typ : Nat} {p : Packet} {f : Packet → State → State} {v : Nat}
    (hn : s.deliverable n = some p) (hc : p.err = .clean) (hv : p.dst = .park v) (hi : exec i s = deliver s n typ noWait f)
    (ht : p.load.typ = typ) (hp : ∀ n, p.load ≠ .part n) {post : State → Prop} (h : post (f p (s.take n p))) : Happens i s post :=
  ⟨_, hi.trans (deliver_of_next hn hc (by simp [State.homeReady, hv]) ht hp rfl), h⟩

theorem sget_of_deliverable {s : State} {n : Nat} {p : Packet} (h : s.deliverable n = some p) : sget s.packets n = some p := by
  unfold State.deliverable at h
  split at h
  · cases h
  · next e =>
    split at h
    · cases h; exact e
    · cases h

theorem atDead_of_deliverable {s : State} {n : Nat} {p : Packet} (h : s.deliverable n = some p) : s.atDead p.dst = false := by
  unfold State.deliverable at h
  split at h
  · cases h
  · split at h
    · next c => cases h; simp at c; tauto
    · cases h

/-! ### The quantum -/

/-- Cycles of a quantum (R52). -/
def State.quantumOf (s : State) (p : Nat) : Nat := if (s.part p).quantum = 0 then 2 ^ 20 else (s.part p).quantum.toNat

/-- Suspended clusters of a park that have waited a quantum, and for which none is vacated yet (R52). -/
def State.overdue (s : State) (p k : Nat) : List Nat :=
  (s.suspendedQ p k).filter fun c =>
    (s.cluster c).suspended + s.quantumOf p ≤ s.clock && !((svals s.clusters).any fun x => x.heir == some c)

theorem quantum_eq (s : State) (p k : Nat) : exec (.parkQuantumExpiry p k) s =
    match (s.overdue p k).findSome? fun h => ((s.youngest (s.cluster h).launch true).find? s.hasSlots).map fun v => (h, v) with
    | some (h, v) => .next (s.beginVacate v (some h))
    | none => .next s := rfl

theorem quantum_vacates {s : State} {p k h v : Nat} {l r : List Nat} (hq : s.suspendedQ p k = h :: l)
    (due : (s.cluster h).suspended + s.quantumOf p ≤ s.clock) (free : ∀ e ∈ s.clusters, e.2.heir ≠ some h)
    (hy : s.youngest (s.cluster h).launch true = v :: r) (slots : s.hasSlots v = true) :
    exec (.parkQuantumExpiry p k) s = .next (s.beginVacate v (some h)) := by
  have unclaimed : ((svals s.clusters).any fun x => x.heir == some h) = false := by
    simpa [svals] using fun a e he => free (a, e) he
  have first : ∃ l', s.overdue p k = h :: l' := ⟨_, by rw [State.overdue, hq, List.filter_cons_of_pos (by simp [due, unclaimed])]⟩
  obtain ⟨l', first⟩ := first
  rw [quantum_eq, first, List.findSome?_cons, hy, List.find?_cons_of_pos slots]
  rfl

theorem quantum_waits {s : State} {p k : Nat} (early : ∀ c ∈ s.suspendedQ p k, s.clock < (s.cluster c).suspended + s.quantumOf p) :
    exec (.parkQuantumExpiry p k) s = .next s := by
  have none_ : s.overdue p k = [] := List.filter_eq_nil_iff.2 fun c hc => by
    have := early c hc
    simp only [Bool.and_eq_true, decide_eq_true_eq]
    omega
  rw [quantum_eq, none_]
  rfl

theorem beginVacate_cluster (s : State) (v : Nat) (h : Option Nat) :
    ((s.beginVacate v h).cluster v).vacating = some s.clock ∧ ((s.beginVacate v h).cluster v).heir = h := by
  simp [State.beginVacate]

/-! ### Requests and counts -/

theorem idle_asks {s : State} {p k v : Nat} (hs : s.dev.st = .service) (idle : s.parkIdle p k = true)
    (quiet : (s.park p k).asking = none) (ready : (s.park p k).retryAt = 0)
    (best : State.highest ((s.park p k).view.filter fun e => s.dev.parksReady.contains e.1) = some v) :
    exec (.parkIdleSteal p k) s = .next ((s.modPark p k fun x => { x with asking := some ((s.park p k).reqn + 1), reqn := (s.park p k).reqn + 1 }).sendNow
      (State.parkPacket p k v 0 (.stealReq k ((s.park p k).reqn + 1)))) := by
  show execParkIdleSteal p k s = _
  simp only [execParkIdleSteal, hs, idle, quiet, ready, best]
  rfl

theorem retry_ends {s : State} {p k : Nat} (h0 : (s.park p k).retryAt ≠ 0) (h : (s.park p k).retryAt ≤ s.clock) :
    exec (.stealRetryTimeout p k) s = .next (s.modPark p k fun x => { x with retryAt := 0 }) := by
  show execStealRetryTimeout p k s = _
  simp [execStealRetryTimeout, h0, h]

theorem count_is_sent {s : State} {p k dst : Nat} (hk : k ∈ s.partParks p) (hd : dst ∈ s.partParks p) (ne : k ≠ dst)
    (changed : (s.reaching p k dst).length ≠ (sgetD (s.park p k).sent dst (0, 0)).1)
    (due : (s.reaching p k dst).length = 0 ∨ (sgetD (s.park p k).sent dst (0, 0)).1 = 0
      ∨ (sgetD (s.park p k).sent dst (0, 0)).2 + 256 ≤ s.clock) :
    exec (.countUpdateSend p k dst) s = .next
      ((s.modPark p k fun x => { x with sent := sput x.sent dst ((s.reaching p k dst).length, s.clock) }).sendNow
        (State.parkPacket p k dst 0 (.countUpd k (min (s.reaching p k dst).length 65535)))) := by
  show execCountUpdateSend p k dst s = _
  refine if_pos ?_
  simp only [bne_iff_ne, Bool.and_eq_true, Bool.or_eq_true, decide_eq_true_eq, List.contains_iff_mem, or_assoc]
  exact ⟨⟨⟨⟨changed, due⟩, ne⟩, hk⟩, hd⟩

/-! ### Packets of park schedulers that arrive -/

theorem reaching_of_fabricOnly {s t : State} (h : FabricOnly s t) (p v a : Nat) : t.reaching p v a = s.reaching p v a := by
  simp only [State.reaching, State.unstartedQ, State.inPark, h.clusters, h.launch, h.cluster]

/-- The blocks that a park gives up: half of those that reach the asker, the latest to arrive (R46). -/
def State.givenUp (s : State) (p v a : Nat) : List Nat :=
  let l := State.byRank (fun c => [(s.cluster c).arrived, c]) (s.reaching p v a)
  l.drop (l.length - l.length / 2)

theorem givenUp_of_fabricOnly {s t : State} (h : FabricOnly s t) (p v a : Nat) : t.givenUp p v a = s.givenUp p v a := by
  simp only [State.givenUp, reaching_of_fabricOnly h, h.cluster]

theorem parkAsked_steal {s : State} {p : Packet} {v a b : Nat} (hv : p.dst = .park v) (hl : p.load = .stealReq a b) :
    s.parkAsked p = (s.ship a (s.givenUp p.ptag v a)).sendReply p.ptag v a b (s.givenUp p.ptag v a) := by
  simp only [State.parkAsked, hl, hv]
  rfl

theorem givenUp_length (s : State) (p v a : Nat) : (s.givenUp p v a).length = (s.reaching p v a).length / 2 := by
  have e := (State.byRank_perm (fun c => [(s.cluster c).arrived, c]) (s.reaching p v a)).length_eq
  simp only [State.givenUp, List.length_drop, e]
  omega

theorem givenUp_reaching (s : State) (p v a : Nat) {c : Nat} (h : c ∈ s.givenUp p v a) : c ∈ s.reaching p v a :=
  (State.byRank_perm _ _).mem_iff.1 (List.mem_of_mem_drop h)

/-- What stays arrived no later than what leaves. -/
theorem givenUp_latest (s : State) (p v a : Nat) {c d : Nat} (hc : c ∈ s.reaching p v a) (stays : c ∉ s.givenUp p v a)
    (hd : d ∈ s.givenUp p v a) : (s.cluster c).arrived ≤ (s.cluster d).arrived := by
  have sorted := State.byArrival_rises s (s.reaching p v a)
  have hc' := (State.byRank_perm (fun c => [(s.cluster c).arrived, c]) (s.reaching p v a)).mem_iff.2 hc
  simp only [State.givenUp] at stays hd
  generalize State.byRank (fun c => [(s.cluster c).arrived, c]) (s.reaching p v a) = l at *
  generalize l.length - l.length / 2 = n at *
  rw [← List.take_append_drop n l] at sorted hc'
  have front : c ∈ l.take n := (List.mem_append.1 hc').resolve_right stays
  exact (List.pairwise_append.1 sorted).2.2 c front d hd

theorem parkAsked_count {s : State} {p : Packet} {v a b : Nat} (hv : p.dst = .park v) (hl : p.load = .countUpd a b) :
    s.parkAsked p = s.modPark p.ptag v fun x => { x with view := sput x.view a b, retryAt := if sgetD x.view a 0 < b then 0 else x.retryAt } := by
  simp only [State.parkAsked, hl, hv]
  rfl

/-- The descriptors that have come with a packet of blocks, after those before (R328). -/
def wordsOf (got : List Nat) (p : Packet) : List Nat :=
  got ++ (List.range (p.bytes.length / 16)).map fun i => leNat ((p.bytes.drop (16 * i)).take 16)

theorem replyArrives_blocks {s : State} {p : Packet} {k a m : Nat} {got : List Nat} (hl : p.load = .stealBlocks)
    (hr : (s.park p.ptag k).reply = some (a, m, got)) : s.replyArrives p.ptag k p =
      if (wordsOf got p).length < a then s.modPark p.ptag k fun x => { x with reply := some (a, m, wordsOf got p) }
      else (s.modPark p.ptag k fun x => { x with asking := none, retryAt := 0, reply := none }).takeBlocks p.ptag k (wordsOf got p) := by
  simp only [State.replyArrives, hl, hr]
  rfl

theorem replyArrives_head {s : State} {p : Packet} {k a b m : Nat} (hl : p.load = .stealRep b a m) : s.replyArrives p.ptag k p =
      if (s.park p.ptag k).asking = some b then
        if a = 0 then s.modPark p.ptag k fun x => { x with asking := none, retryAt := s.clock + 1024, reply := none }
        else s.modPark p.ptag k fun x => { x with reply := some (a, m, []) }
      else s := by
  simp only [State.replyArrives, hl]
  by_cases h : (s.park p.ptag k).asking = some b <;> simp [h]

theorem exec_sreq {s : State} {n a b : Nat} {p : Packet} (hp : sget s.packets n = some p) (hl : p.load = .stealReq a b) :
    exec (.sreq n) s = deliver s n 10 noWait fun p s => s.parkAsked p := by
  show execSreq n s = _
  simp [execSreq, hp, isCount, hl]

theorem exec_countUpdate {s : State} {n a b : Nat} {p : Packet} (hp : sget s.packets n = some p) (hl : p.load = .countUpd a b) :
    exec (.countUpdate n) s = deliver s n 10 noWait fun p s => s.parkAsked p := by
  show execCountUpdate n s = _
  simp [execCountUpdate, hp, isCount, hl]

/-- What a steal request comes to: what leaves, what stays, and the reply (R46, R328). -/
theorem steal_served {s t : State} {v a b ptag : Nat} {go : List Nat} (ht : t = (s.ship a go).sendReply ptag v a b go)
    (hr : s.inReach ptag (.park a) = true) (hd : s.atDead (.park v) = false) :
    let launches := (go.map fun c => (s.cluster c).launch).eraseDups
    State.Replied t a (.stealRep b go.length launches.length) 0xFFF []
      ∧ (∀ k ∈ launches, State.Replied t a .stealLaunch (s.launch k).ctx (launchBytes (s.launch k)))
      ∧ (∀ r ∈ State.blockPackets go, State.Replied t a .stealBlocks 0xFFF ((r.map s.descriptor).flatMap (leBytes 16)))
      ∧ ∀ c, t.cluster c = if c ∈ go then { s.cluster c with park := 128 + a } else s.cluster c := by
  obtain ⟨cl, e⟩ := s.ship_eq a go
  have reach : (s.ship a go).inReach ptag (.park a) = true := by rw [e]; exact hr
  have alive : (s.ship a go).atDead (.park v) = false := by rw [e]; exact hd
  have launch (k : Nat) : (s.ship a go).launch k = s.launch k := by rw [e]; rfl
  have of (c : Nat) : ((s.ship a go).cluster c).launch = (s.cluster c).launch := by
    rw [State.ship_cluster]; split <;> rfl
  have words : (s.ship a go).descriptor = s.descriptor := funext (s.ship_descriptor a go)
  obtain ⟨h0, h1, h2, h3⟩ := (s.ship a go).sendReply_out ptag v a b go reach alive
  simp only [of, launch, words, State.blockPackets_map] at h1 h2 h3
  subst ht
  refine ⟨h1, h2, fun r hr => h3 _ (List.mem_map_of_mem hr), fun c => ?_⟩
  rw [h0.cluster, State.ship_cluster]

theorem quantumClauses (s : State) (p k : Nat) :
    (∀ h l v r, s.suspendedQ p k = h :: l → (s.cluster h).suspended + s.quantumOf p ≤ s.clock → (∀ e ∈ s.clusters, e.2.heir ≠ some h) →
        s.youngest (s.cluster h).launch true = v :: r → s.hasSlots v = true → Occurs (.parkQuantumExpiry p k) s fun t =>
          (t.cluster v).vacating = some s.clock ∧ (t.cluster v).heir = some h ∧ SameRegs s t ∧ SameBytes s t)
      ∧ ((∀ c ∈ s.suspendedQ p k, s.clock < (s.cluster c).suspended + s.quantumOf p) → exec (.parkQuantumExpiry p k) s = .next s) := by
  refine ⟨fun h l v r hq due free hy slots => ?_, quantum_waits⟩
  obtain ⟨h1, h2⟩ := beginVacate_cluster s v (some h)
  exact ⟨_, quantum_vacates hq due free hy slots, h1, h2, .of_held rfl, .of_held rfl⟩

theorem stealIsAsked {s : State} {p k v n : Nat} (hs : s.dev.st = .service) (idle : s.parkIdle p k = true)
    (quiet : (s.park p k).asking = none) (ready : (s.park p k).retryAt = 0)
    (hr : Rising ((s.park p k).view.filter fun e => s.dev.parksReady.contains e.1))
    (hm : (v, n) ∈ (s.park p k).view.filter fun e => s.dev.parksReady.contains e.1) (h0 : 0 < n)
    (best : ∀ e ∈ (s.park p k).view.filter fun e => s.dev.parksReady.contains e.1, e.2 < n ∨ e.2 = n ∧ v ≤ e.1)
    (reach : s.inReach p (.park v) = true) (alive : s.atDead (.park k) = false) :
    Occurs (.parkIdleSteal p k) s fun t => (t.park p k).asking = some ((s.park p k).reqn + 1)
      ∧ SentOut s t (.park v) 0 (.stealReq k ((s.park p k).reqn + 1)) ∧ SameRegs s t ∧ SameBytes s t := by
  have sent : FabricOnly _ _ := .sendNow (s.modPark p k fun x => { x with asking := some ((s.park p k).reqn + 1), reqn := (s.park p k).reqn + 1 })
    (State.parkPacket p k v 0 (.stealReq k ((s.park p k).reqn + 1)))
  refine ⟨_, idle_asks hs idle quiet ready (State.highest_of_max hr hm h0 best), ?_,
    State.sentOut_sendNow (by simp [Packet.lead, Packet.content, State.parkPacket, Packet.plain]) reach alive rfl, .trans (.of_held rfl) sent.sameRegs, .trans (.of_held rfl) sent.sameBytes⟩
  rw [sent.park, State.modPark_park_self]

theorem countIsPublished {s : State} {p k dst : Nat} (hk : k ∈ s.partParks p) (hd : dst ∈ s.partParks p)
    (reach : s.inReach p (.park dst) = true) (alive : s.atDead (.park k) = false) (ne : k ≠ dst)
    (changed : (s.reaching p k dst).length ≠ (sgetD (s.park p k).sent dst (0, 0)).1)
    (due : (s.reaching p k dst).length = 0 ∨ (sgetD (s.park p k).sent dst (0, 0)).1 = 0
      ∨ (sgetD (s.park p k).sent dst (0, 0)).2 + 256 ≤ s.clock) :
    Occurs (.countUpdateSend p k dst) s fun t => sget (t.park p k).sent dst = some ((s.reaching p k dst).length, s.clock)
      ∧ SentOut s t (.park dst) 0 (.countUpd k (min (s.reaching p k dst).length 65535)) ∧ SameRegs s t ∧ SameBytes s t := by
  have sent : FabricOnly _ _ := .sendNow (s.modPark p k fun x => { x with sent := sput x.sent dst ((s.reaching p k dst).length, s.clock) })
    (State.parkPacket p k dst 0 (.countUpd k (min (s.reaching p k dst).length 65535)))
  refine ⟨_, count_is_sent hk hd ne changed due, ?_,
    State.sentOut_sendNow (by simp [Packet.lead, Packet.content, State.parkPacket, Packet.plain]) reach alive rfl, .trans (.of_held rfl) sent.sameRegs, .trans (.of_held rfl) sent.sameBytes⟩
  rw [sent.park, State.modPark_park_self, sget_sput, if_pos rfl]

/-- The head of a reply: only what its park waits for changes (R46). -/
theorem replyHead_effect {s u : State} (h : FabricOnly s u) (ptag v a b m : Nat) :
    let me := s.park ptag v
    let t := if me.asking = some b then
        if a = 0 then u.modPark ptag v fun x => { x with asking := none, retryAt := s.clock + 1024, reply := none }
        else u.modPark ptag v fun x => { x with reply := some (a, m, []) }
      else u
    SameRegs s t ∧ SameBytes s t ∧ t.clusters = s.clusters ∧ t.park ptag v =
      if me.asking = some b then
        (if a = 0 then { me with asking := none, retryAt := s.clock + 1024, reply := none } else { me with reply := some (a, m, []) })
      else me := by
  intro me t
  by_cases mine : me.asking = some b
  · by_cases empty : a = 0
    · simp only [t, if_pos mine, if_pos empty, State.modPark_park_self, h.park]
      exact ⟨.trans h.sameRegs (.of_held rfl), .trans h.sameBytes (.of_held rfl), h.clusters, rfl⟩
    · simp only [t, if_pos mine, if_neg empty, State.modPark_park_self, h.park]
      exact ⟨.trans h.sameRegs (.of_held rfl), .trans h.sameBytes (.of_held rfl), h.clusters, rfl⟩
  · simp only [t, if_neg mine]
    exact ⟨h.sameRegs, h.sameBytes, h.clusters, congrFun (h.park ptag) v⟩

/-- Blocks of a reply: they are kept until the last has come, and then join the queue (R46, R328). -/
theorem blocks_effect {s u : State} (h : FabricOnly s u) {ptag v a m : Nat} {cs words : List Nat} :
    let t := if words.length < a then u.modPark ptag v fun x => { x with reply := some (a, m, words) }
      else (u.modPark ptag v fun x => { x with asking := none, retryAt := 0, reply := none }).takeBlocks ptag v words
    SameRegs s t ∧ SameBytes s t ∧ (words.length < a → t.clusters = s.clusters ∧ (t.park ptag v).reply = some (a, m, words))
      ∧ (a ≤ words.length → (t.park ptag v).asking = none ∧ (t.park ptag v).retryAt = 0
        ∧ (cs.Nodup → cs.map s.descriptor = words → (∀ c ∈ cs, s.namedBlock ptag v (s.descriptor c) = some c) →
          (∀ c ∈ cs, (t.cluster c).park = v ∧ s.names.order < (t.cluster c).arrived)
            ∧ cs.Pairwise fun c d => (t.cluster c).arrived < (t.cluster d).arrived)) := by
  intro t
  by_cases part : words.length < a
  · simp only [t, if_pos part, State.modPark_park_self]
    exact ⟨.trans h.sameRegs (.of_held rfl), .trans h.sameBytes (.of_held rfl), fun _ => ⟨h.clusters, trivial⟩, fun all => by omega⟩
  · set w := u.modPark ptag v fun x => { x with asking := none, retryAt := 0, reply := none } with hw
    have et : t = w.join v (words.filterMap (s.namedBlock ptag v)) := by
      have named : w.namedBlock ptag v = s.namedBlock ptag v := funext fun d => State.namedBlock_of_fabricOnly h ptag v d
      rw [show t = w.takeBlocks ptag v words from if_neg part, State.takeBlocks_eq, named]
    have held : t.held = u.held := by rw [et, State.held_join]; rfl
    have mine : t.park ptag v = { s.park ptag v with asking := none, retryAt := 0, reply := none } := by
      rw [et, State.join_park, hw, State.modPark_park_self, h.park]
    refine ⟨.trans h.sameRegs (.of_held held), .trans h.sameBytes (.of_held held), fun l => absurd l part, fun _ => ?_⟩
    rw [mine]
    refine ⟨rfl, rfl, fun nd hwords hnamed => ?_⟩
    rw [et, ← hwords, State.filterMap_namedBlock hnamed, ← h.order]
    exact w.join_cluster v nd

/-- A reply stands among the packets. -/
theorem State.Replied.packet {t : State} {a : Nat} {load : Payload} {cx : Nat} {bytes : List Byte} (h : t.Replied a load cx bytes) :
    ∃ q ∈ svals t.packets, q.dst = .park a ∧ q.vc = 1 ∧ q.held = false ∧ q.load = load ∧ q.ctx = cx ∧ q.bytes = bytes := by
  obtain ⟨k, q, -, hq, rest⟩ := h
  exact ⟨q, List.mem_map_of_mem (mem_of_sget hq), rest⟩

end Sys2Proof.Machine

open Sys2Proof.Machine

/-- Settles O47: the quantum and the idle scheduler by what their events pick; of a steal, the blocks given up are the last
by arrival, their packets are numbered one after the other, and those that come join the queue in their order. -/
theorem quantumAndSteals : Obligations.QuantumAndSteals := by
  unfold Obligations.QuantumAndSteals
  refine ⟨fun s p k => ⟨(quantumClauses s p k).1, (quantumClauses s p k).2, ?_, ?_, ?_⟩, fun s n v a b m got cs p hn hc hv => ⟨?_, ?_, ?_, ?_⟩⟩
  · exact fun v n hs idle quiet ready hr hm h0 best reach alive => stealIsAsked hs idle quiet ready hr hm h0 best reach alive
  · intro h1 h2
    exact ⟨_, retry_ends h1 h2, State.modPark_park_self .., rfl⟩
  · exact fun dst hk hd reach alive ne changed due => countIsPublished hk hd reach alive ne changed due
  · intro hl reach
    have taken : FabricOnly s (s.take n p) := .take s n p
    refine happens_of_park hn hc hv (exec_sreq (sget_of_deliverable hn) hl) (by rw [hl]; rfl) (by simp [hl])
      ⟨s.givenUp p.ptag v a, State.blockPackets (s.givenUp p.ptag v a), ?_⟩
    obtain ⟨h1, h2, h3, h4⟩ := steal_served (t := (s.take n p).parkAsked p) (v := v) (parkAsked_steal hv hl)
      (by rw [taken.inReach]; exact reach) (by rw [taken.atDead, ← hv]; exact atDead_of_deliverable hn)
    simp only [givenUp_of_fabricOnly taken, taken.cluster, taken.launch, State.descriptor_of_fabricOnly taken] at h1 h2 h3 h4
    refine ⟨State.blockPackets_flatten _, h1.packet, fun k hk len => ?_, fun r hr => ⟨State.blockPackets_length _ r hr, (h3 r hr).packet⟩,
      givenUp_length s _ _ _, fun c hc => ⟨givenUp_reaching s _ _ _ hc, by rw [h4, if_pos hc]⟩,
      fun c hc stays => ⟨by rw [h4, if_neg stays], fun d hd => givenUp_latest s _ _ _ hc stays hd⟩⟩
    rw [← State.launchBytes_eq len]
    exact (h2 k hk).packet
  · intro hl
    have taken : FabricOnly s (s.take n p) := .take s n p
    refine happens_of_park hn hc hv (exec_countUpdate (sget_of_deliverable hn) hl) (by rw [hl]; rfl) (by simp [hl]) ?_
    rw [parkAsked_count hv hl]
    refine ⟨?_, ?_, .trans taken.sameRegs (.of_held rfl), .trans taken.sameBytes (.of_held rfl)⟩
    · rw [State.modPark_park_self, sget_sput, if_pos rfl]
    · rw [State.modPark_park_self, taken.park]
  · intro hl
    have taken : FabricOnly s (s.take n p) := .take s n p
    refine happens_of_park hn hc hv (show exec (.srep n) s = execSrep n s from rfl) (by rw [hl]; rfl) (by simp [hl]) ?_
    simp only [hv, parkEnd, replyArrives_head hl, taken.park, taken.clock]
    exact replyHead_effect taken _ _ _ _ _
  · intro hl hr
    have taken : FabricOnly s (s.take n p) := .take s n p
    refine happens_of_park hn hc hv (show exec (.srep n) s = execSrep n s from rfl) (by rw [hl]; rfl) (by simp [hl]) ?_
    simp only [hv, parkEnd]
    rw [replyArrives_blocks hl (by rw [taken.park]; exact hr)]
    exact blocks_effect taken
end


section
/-! PROOF. What outlives a team's leaving its core and what the device writes meanwhile: the states and saved records of teams,
launches, clusters, the heads of the rings, and what is told to the functions (R26, R351 to R355). -/

namespace Sys2Proof.Machine

/-- A report that goes to a function of a partition. -/
def Out.toVf : Out → Bool | .irq (_ + 1) _ => true | _ => false

@[simp] theorem toVf_report (r : String) : (Out.report r).toVf = false := (rfl)
@[simp] theorem toVf_irq_zero (v : Nat) : (Out.irq 0 v).toVf = false := (rfl)
@[simp] theorem toVf_readiness (r) : (Out.readiness r).toVf = false := (rfl)

/-- Of a state: every team's state and saved record, the tiles of the team `w` watched, launches with their contexts, clusters,
the clock, the heads of the partitions' rings, the partitions of contexts, and the reports to functions. -/
structure Lot where
  team : Nat → TeamSt × Option Saved
  tiles : Option (Store Nat)
  launch : Nat → Nat × LaunchSt
  clusters : Store Cluster
  clock : Nat
  head : Nat → Nat
  part : Nat → Nat
  told : List Out

/-- The lot of the fields it is made from. -/
def lotOf (w : Option Nat) (teams : Store Team) (launches : Store Launch) (clusters : Store Cluster) (clock : Nat) (parts : Store Part)
    (ctxs : Store Context) (out : List Out) : Lot where
  team := fun k => ((sgetD teams k Team.absent).st, (sgetD teams k Team.absent).saved)
  tiles := w.map fun k => (sgetD teams k Team.absent).acc
  launch := fun k => ((sgetD launches k Launch.absent).ctx, (sgetD launches k Launch.absent).st)
  clusters := clusters
  clock := clock
  head := fun p => (sgetD parts p Part.none).head
  part := fun c => (sgetD ctxs c Context.none).part
  told := out.filter Out.toVf

def State.lot (w : Option Nat) (s : State) : Lot := lotOf w s.teams s.launches s.clusters s.clock s.parts s.ctxs s.out

section
variable {w : Option Nat}

@[simp] theorem lot_mk
    {vreg sreg kreg slices groups teams cores dies seqrs mreg wins scratch tiles tileLists acc side mem lineTs byteTs orangery
    poison scrPoison arrPoison settling packets pressure seqnos rels outside copies lacking cmds mcmds launches clusters parks
    parts ctxs rslots dev out clock sundial names cur agenda turn free} :
      State.lot w ⟨vreg, sreg, kreg, slices, groups, teams, cores, dies, seqrs, mreg, wins, scratch, tiles, tileLists, acc,
      side, mem, lineTs, byteTs, orangery, poison, scrPoison, arrPoison, settling, packets, pressure, seqnos, rels, outside,
      copies, lacking, cmds, mcmds, launches, clusters, parks, parts, ctxs, rslots, dev, out, clock, sundial, names, cur,
      agenda, turn, free⟩
      = lotOf w teams launches clusters clock parts ctxs out :=
  (rfl)

@[simp] theorem lot_eta (s : State) : lotOf w s.teams s.launches s.clusters s.clock s.parts s.ctxs s.out = s.lot w := (rfl)

@[simp] theorem lot_ite (c : Prop) [Decidable c] (a b : State) :
    (if c then a else b).lot w = if c then a.lot w else b.lot w := apply_ite (State.lot w) c a b

@[simp] theorem lot_ite_snd {α : Type} (c : Prop) [Decidable c] (a b : α × State) :
    (if c then a else b).2.lot w = if c then a.2.lot w else b.2.lot w := apply_ite (fun p : α × State => p.2.lot w) c a b

@[simp] theorem lot_foldl {β : Type} (f : State → β → State) (l : List β) (step : ∀ t q, (f t q).lot w = t.lot w) (s : State) :
    (l.foldl f s).lot w = s.lot w := by
  induction l generalizing s with
  | nil => rfl
  | cons q l ih => exact (ih _).trans (step s q)

@[simp] theorem lot_modTeam (s : State) (k : Nat) (f : Team → Team) (st : ∀ x, (f x).st = x.st) (saved : ∀ x, (f x).saved = x.saved)
    (acc : w = some k → ∀ x, (f x).acc = x.acc) : (s.modTeam k f).lot w = s.lot w := by
  simp only [State.lot, lotOf, State.modTeam, Lot.mk.injEq, and_true]
  refine ⟨funext fun j => ?_, ?_⟩
  · rw [sgetD_sput]
    split
    · next h => rw [h, st, saved]; rfl
    · rfl
  · cases w with
    | none => rfl
    | some j =>
      rw [Option.map_some, Option.map_some, sgetD_sput]
      split
      · next h => rw [h, acc (congrArg some h)]; rfl
      · rfl

@[simp] theorem lot_modCtx (s : State) (c : Nat) (f : Context → Context) (part : ∀ x, (f x).part = x.part) :
    (s.modCtx c f).lot w = s.lot w := by
  simp only [State.lot, lotOf, State.modCtx, Lot.mk.injEq, and_true, true_and]
  funext j
  rw [sgetD_sput]
  split
  · next h => rw [h, part]; rfl
  · rfl

@[simp] theorem lot_modPart (s : State) (p : Nat) (f : Part → Part) (head : ∀ x, (f x).head = x.head) :
    (s.modPart p f).lot w = s.lot w := by
  simp only [State.lot, lotOf, State.modPart, Lot.mk.injEq, and_true, true_and]
  funext j
  rw [sgetD_sput]
  split
  · next h => rw [h, head]; rfl
  · rfl

@[simp] theorem lot_modLaunch (s : State) (k : Nat) (f : Launch → Launch) (ctx : ∀ x, (f x).ctx = x.ctx) (st : ∀ x, (f x).st = x.st) :
    (s.modLaunch k f).lot w = s.lot w := by
  simp only [State.lot, lotOf, State.modLaunch, Lot.mk.injEq, and_true, true_and]
  funext j
  rw [sgetD_sput]
  split
  · next h => rw [h, ctx, st]; rfl
  · rfl

@[simp] theorem lot_emit (s : State) (o : Out) (h : o.toVf = false) : (s.emit o).lot w = s.lot w := by
  simp [State.emit, State.lot, lotOf, h]

@[simp] theorem lot_readyLaunches (s : State) (cid : Nat) : (s.readyLaunches cid).lot w = s.lot w := by
  have same (k : Nat) : ((s.readyLaunches cid).launch k).ctx = (s.launch k).ctx ∧ ((s.readyLaunches cid).launch k).st = (s.launch k).st := by
    let f (_ : Nat) (l : Launch) : Launch :=
      if l.st == .queued && !l.ready && dfld (l.dw 0x28) 30 1 = 1 && cidOf (dfld (l.dw 0x28) 0 6) (dfld (l.dw 0x28) 6 5) = cid
          && satisfied (s.objAt cid (dfld (l.dw 0x28) 11 19)).phase (dfld (l.dw 0x28) 32 32) then { l with ready := true } else l
    have e : (s.readyLaunches cid).launches = s.launches.map fun e => (e.1, f e.1 e.2) :=
      List.map_congr_left fun e _ => by dsimp only [f]; split <;> rfl
    have kept (l : Launch) : (f k l).ctx = l.ctx ∧ (f k l).st = l.st := by dsimp only [f]; split <;> exact ⟨rfl, rfl⟩
    simp only [State.launch, sgetD, e, sget_mapVals]
    cases sget s.launches k with
    | none => exact ⟨rfl, rfl⟩
    | some l => exact kept l
  have launch : ((s.readyLaunches cid).lot w).launch = (s.lot w).launch := funext fun k => Prod.ext (same k).1 (same k).2
  exact congrArg (fun l => { s.lot w with launch := l }) launch

@[simp] theorem lot_modSlice (s : State) (gid i : Nat) (f : Slice → Slice) : (s.modSlice gid i f).lot w = s.lot w := (rfl)

@[simp] theorem lot_modGroup (s : State) (gid : Nat) (f : Group → Group) : (s.modGroup gid f).lot w = s.lot w := (rfl)

@[simp] theorem lot_modCore (s : State) (cid : Nat) (f : Core → Core) : (s.modCore cid f).lot w = s.lot w := (rfl)

@[simp] theorem lot_modSeqr (s : State) (q : Nat) (f : Seqr → Seqr) : (s.modSeqr q f).lot w = s.lot w := (rfl)

@[simp] theorem lot_modSlices (s : State) (gid : Nat) (is : List Nat) (f : Slice → Slice) :
    (s.modSlices gid is f).lot w = s.lot w := by
  simp [State.modSlices]

@[simp] theorem lot_modDev (s : State) (f : Dev → Dev) : (s.modDev f).lot w = s.lot w := (rfl)

@[simp] theorem lot_freeWord (s : State) : s.freeWord.2.lot w = s.lot w := (rfl)

@[simp] theorem lot_stopCycles (s : State) (gid : Nat) : (s.stopCycles gid).lot w = s.lot w := (rfl)

@[simp] theorem lot_formByPc (s : State) (gid : Nat) (is : List Nat) : (s.formByPc gid is).lot w = s.lot w := by
  simp [State.formByPc]

@[simp] theorem lot_regionEntry (s : State) (gid : Nat) (is : List Nat) : (s.regionEntry gid is).lot w = s.lot w := by
  simp [State.regionEntry]

@[simp] theorem lot_takeTs (s : State) : s.takeTs.2.lot w = s.lot w := (rfl)

@[simp] theorem lot_retireLine (s : State) (ts line : Nat) (pin : Option Nat) : (s.retireLine ts line pin).lot w = s.lot w := by
  simp [State.retireLine]

@[simp] theorem lot_acquire (s : State) (tid : Nat) (scope : Scope) : (s.acquire tid scope).lot w = s.lot w := by
  simp only [State.acquire]
  split <;> simp

@[simp] theorem lot_nextSeq (s : State) (src dst : Endpoint) (vc : Nat) : (s.nextSeq src dst vc).2.lot w = s.lot w := by
  simp only [State.nextSeq]
  split <;> simp

@[simp] theorem lot_pressurize (s : State) (e : Endpoint) : (s.pressurize e).lot w = s.lot w := by
  simp only [State.pressurize]
  split <;> simp

@[simp] theorem lot_requestKill (s : State) (c : Nat) (k : Kill) : (s.requestKill c k).lot w = s.lot w :=
  lot_modCtx s c _ fun x => by split <;> rfl

@[simp] theorem lot_bringDown (s : State) (p : Nat) : (s.bringDown p).lot w = s.lot w := by simp [State.bringDown]

@[simp] theorem lot_headerError (s : State) (tag : Nat) : (s.headerError tag).lot w = s.lot w := by simp [State.headerError]

@[simp] theorem lot_inject (s : State) (k : Nat) : (s.inject k).lot w = s.lot w := by
  simp only [State.inject]
  split <;> simp

@[simp] theorem lot_sendNow (s : State) (p : Packet) : (s.sendNow p).lot w = s.lot w := by simp [State.sendNow]

@[simp] theorem lot_noteOutside (s : State) (ts : Nat) (l : Store Byte) : (s.noteOutside ts l).lot w = s.lot w := by
  simp [State.noteOutside]

@[simp] theorem lot_consumeCtx (s : State) (c pa : Nat) : (s.consumeCtx c pa).lot w = s.lot w := by
  simp [State.consumeCtx]

@[simp] theorem lot_restartNow (s : State) (gid : Nat) (is : List Nat) : (s.restartNow gid is).lot w = s.lot w := by
  simp [State.restartNow]

@[simp] theorem lot_tryRestarts (s : State) (gid : Nat) : (s.tryRestarts gid).lot w = s.lot w := by simp [State.tryRestarts]

@[simp] theorem lot_dropAccReq (s : State) (gid : Nat) : (s.dropAccReq gid).lot w = s.lot w := by
  simp only [State.dropAccReq]
  split <;> simp

@[simp] theorem lot_toQueue (s : State) (k : Nat) : (s.toQueue k).lot w = s.lot w := (rfl)

@[simp] theorem lot_leaveQueue (s : State) (k : Nat) (q : Packet) : (s.leaveQueue k q).lot w = s.lot w := by
  simp [State.leaveQueue]

@[simp] theorem lot_pumpOne (s : State) (k : Nat) : (s.pumpOne k).lot w = s.lot w := by
  simp only [State.pumpOne]
  split <;> simp

@[simp] theorem lot_pump (s : State) : (s.pump).lot w = s.lot w := by simp [State.pump]

@[simp] theorem lot_produce (s : State) (p : Packet) : (s.produce p).lot w = s.lot w := by simp [State.produce]

@[simp] theorem lot_fenceNow (s : State) (gid : Nat) : (s.fenceNow gid).lot w = s.lot w := (rfl)

@[simp] theorem lot_modOp (s : State) (gid oid : Nat) (f : Op → Op) : (s.modOp gid oid f).lot w = s.lot w := (rfl)

@[simp] theorem lot_tellReady (old s : State) : (State.tellReady old s).lot w = s.lot w := by simp [State.tellReady]

@[simp] theorem lot_sendAccess (s : State) (gid oid : Nat) (act : Act) (a : Access) :
    (s.sendAccess gid oid act a).lot w = s.lot w := by
  simp [State.sendAccess]

@[simp] theorem lot_openRelease (s : State) (tid : Nat) (gid : Option Nat) (scope : Scope) (purpose : RelFor) :
    (s.openRelease tid gid scope purpose).2.lot w = s.lot w :=
  (rfl)

@[simp] theorem lot_dropPins (s : State) (lid : Nat) : (s.dropPins lid).lot w = s.lot w :=
  lot_modLaunch s lid (fun l => { l with nonReplay := true, pins := [] }) (fun _ => rfl) fun _ => rfl

@[simp] theorem lot_forgetRel (s : State) (k : Nat) : (s.forgetRel k).lot w = s.lot w := by
  simp only [State.forgetRel]
  split <;> simp

@[simp] theorem lot_runStages (s : State) (gid oid n : Nat) : (s.runStages gid oid n).lot w = s.lot w := by
  induction n generalizing s with
  | zero => rfl
  | succ n ih =>
    simp only [State.runStages]
    split
    · rfl
    · split <;> simp [ih]

@[simp] theorem lot_finishOp (s : State) (gid oid : Nat) : (s.finishOp gid oid).lot w = s.lot w := by
  simp only [State.finishOp]
  split <;> simp

@[simp] theorem lot_settleGroup (s : State) (gid : Nat) : (s.settleGroup gid).lot w = s.lot w := by simp [State.settleGroup]

@[simp] theorem lot_clearTile (s : State) (cid p : Nat) : (s.clearTile cid p).lot w = s.lot w := (rfl)

@[simp] theorem lot_purgeTeam (s : State) (tid : Nat) : (s.purgeTeam tid).lot w = s.lot w := (rfl)

@[simp] theorem lot_endReplay (s : State) (c : Cmd) : (s.endReplay c).lot w = s.lot w := by simp [State.endReplay]

@[simp] theorem lot_queueCmd (s : State) (c : Cmd) : (s.queueCmd c).2.lot w = s.lot w := (rfl)

@[simp] theorem lot_postAsync (s : State) (tid gid : Nat) (c : Cause) : (s.postAsync tid gid c).lot w = s.lot w := by
  simp only [State.postAsync]
  split <;> simp

@[simp] theorem lot_planeFault (s : State) (tid gid reason : Nat) (addr : Addr) (aux : List DWord) :
    (s.planeFault tid gid reason addr aux).lot w = s.lot w := by
  simp [State.planeFault]

@[simp] theorem lot_capture (s : State) (tid : Nat) (acq : Bool) (scope : Scope) : (s.capture tid acq scope).lot w = s.lot w := by
  simp [State.capture]

@[simp] theorem lot_modTslot (s : State) (cid slot : Nat) (f : TSlot → TSlot) : (s.modTslot cid slot f).lot w = s.lot w := (rfl)

theorem lot_acceptScroll {s t : State} {tid gid : Nat} {addr : Addr} {resume : Bool} {o : Word} {spill : Option DWord} {c : Cmd}
    (e : s.acceptScroll tid gid addr resume o spill = .ok (c, t)) : t.lot w = s.lot w := by
  simp only [State.acceptScroll] at e
  repeat' split at e
  all_goals cases e
  all_goals exact lot_capture ..

theorem lot_acceptCopy {s t : State} {tid gid : Nat} {addr : Addr} {kind : CmdKind} {a b : Word} {c : Cmd}
    (e : s.acceptCopy tid gid addr kind a b = .ok (c, t)) : t.lot w = s.lot w := by
  unfold State.acceptCopy at e
  dsimp only at e
  split at e
  · cases e
  · cases e
  · split at e
    · cases e
    · cases e
      exact lot_capture ..

@[simp] theorem lot_acceptDtload (s : State) (tid gid : Nat) (addr : Addr) (acq : Bool) (scope : Scope) (slot : Bool) (a : DWord) :
    (s.acceptDtload tid gid addr acq scope slot a).2.lot w = s.lot w := by
  simp [State.acceptDtload]

@[simp] theorem lot_fireWord (s : State) (tid gid : Nat) (addr : Addr) (word : DWord) (vals : List DWord) :
    (s.fireWord tid gid addr word vals).lot w = s.lot w := by
  unfold State.fireWord
  dsimp only
  split
  next c t got =>
    have accepted : t.lot w = s.lot w := by
      split at got
      · exact lot_acceptScroll got
      · exact lot_acceptScroll got
      · exact lot_acceptCopy got
      · exact lot_acceptCopy got
      · exact lot_acceptCopy got
      · cases got
        simp
      · cases got
    simp [accepted]
  · simp

@[simp] theorem lot_seqAdvance (s : State) (q : Nat) : (s.seqAdvance q).lot w = s.lot w := (rfl)

@[simp] theorem lot_seqGo (s : State) (q : Nat) : (s.seqGo q).lot w = s.lot w := (rfl)

@[simp] theorem lot_seqCheck (s : State) (q : Nat) : (s.seqCheck q).lot w = s.lot w := by
  simp only [State.seqCheck]
  split <;> simp

@[simp] theorem lot_wakeSeqrs (s : State) (cid : Nat) : (s.wakeSeqrs cid).lot w = s.lot w := by simp [State.wakeSeqrs]

@[simp] theorem lot_letGo (s : State) (gid : Nat) (is : List Nat) : (s.letGo gid is).lot w = s.lot w := by simp [State.letGo]

@[simp] theorem lot_wakeWaits (s : State) (cid off : Nat) : (s.wakeWaits cid off).lot w = s.lot w := by simp [State.wakeWaits]

@[simp] theorem lot_fire (s : State) (cid : Nat) (l : List Trigger) : (s.fire cid l).lot w = s.lot w := by simp [State.fire]

@[simp] theorem lot_putEntry (s : State) (gid : Nat) (e : RegEntry) : (s.putEntry gid e).lot w = s.lot w := (rfl)

@[simp] theorem lot_enterFrom (old s : State) (st : ModState) : (State.enterFrom old s st).lot w = s.lot w := by
  simp [State.enterFrom]

@[simp] theorem lot_enter (s : State) (st : ModState) : (s.enter st).lot w = s.lot w := by simp [State.enter]

@[simp] theorem lot_wrSlices64 (s : State) (gid : Nat) (is : List Nat) (n : Nat) (x : DWord) :
    (s.wrSlices64 gid is n x).lot w = s.lot w := by
  refine lot_foldl _ _ (fun t i => ?_) s
  unfold State.wrS64
  rfl

@[simp] theorem lot_scrWrite (s : State) (cid off : Nat) (bs : List Byte) : (s.scrWrite cid off bs).lot w = s.lot w := (rfl)

@[simp] theorem lot_storeBank (s : State) (tid : Nat) : (s.storeBank tid).lot w = s.lot w := by simp [State.storeBank]

@[simp] theorem lot_eraseTeam (s : State) (tid : Nat) : (s.eraseTeam tid).lot w = s.lot w := (rfl)

@[simp] theorem lot_objUpdate (s : State) (ctx cid off : Nat) (f : Obj → Obj) : (s.objUpdate ctx cid off f).lot w = s.lot w := by
  unfold State.objUpdate
  dsimp only
  split <;> simp

@[simp] theorem lot_dropLanes (s : State) (cid gid off : Nat) (lanes : BitVec 32) : (s.dropLanes cid gid off lanes).lot w = s.lot w := by
  simp [State.dropLanes]

@[simp] theorem lot_dropPlaneRegs (s : State) (gid : Nat) : (s.dropPlaneRegs gid).lot w = s.lot w := by simp [State.dropPlaneRegs]

@[simp] theorem lot_commitAt (s : State) (ts : Nat) (pin : Option Nat) (l : Store Byte) : (s.commitAt ts pin l).lot w = s.lot w :=
  lot_foldl _ _ (fun t line => lot_retireLine t ts line pin) s

@[simp] theorem lot_deviceCommit (s : State) (tag part : Nat) (l : Store Byte) : (s.deviceCommit tag part l).2.lot w = s.lot w := by
  simp [State.deviceCommit]

@[simp] theorem lot_deviceWriteVa (s : State) (ctx tag va : Nat) (bs : List Byte) :
    (s.deviceWriteVa ctx tag va bs).2.lot w = s.lot w := by
  unfold State.deviceWriteVa
  split <;> simp

@[simp] theorem lot_writeRecord (s : State) (c : Nat) (k : Kill) : (s.writeRecord c k).lot w = s.lot w := by
  simp [State.writeRecord]

@[simp] theorem lot_slotImage (s : State) (tid : Nat) (v : Saved) : (s.slotImage tid v).2.lot w = s.lot w := (rfl)

@[simp] theorem lot_dropStalls (s : State) (c : Nat) : (s.dropStalls c).lot w = s.lot w := by simp [State.dropStalls]

@[simp] theorem lot_stopSystem (s : State) (c : Nat) : (s.stopSystem c).lot w = s.lot w := by simp [State.stopSystem]

/-- Tiles granted to a team that is not watched. -/
theorem lot_grantTiles (s : State) (tid n : Nat) (h : w ≠ some tid) : (s.grantTiles tid n).2.lot w = s.lot w := by
  simp [State.grantTiles, h]

@[simp] theorem lot_endAcc (s : State) (tid : Nat) (r : AccReq) (x : DWord) : (s.endAcc tid r x).lot w = s.lot w := by
  simp [State.endAcc]

/-- A team that is watched and waits for no tiles gets none. -/
theorem lot_accGrant (s : State) (cid : Nat) (h : ∀ k, w = some k → (s.team k).accReq = none) : (s.accGrant cid).lot w = s.lot w := by
  unfold State.accGrant
  split
  · next t r found =>
    obtain ⟨k, -, hk⟩ := List.exists_of_findSome?_eq_some found
    have other : w ≠ some t := fun e => by
      cases req : (s.team k).accReq with
      | none => simp [req] at hk
      | some a =>
        rw [req] at hk
        obtain ⟨rfl, -⟩ := Prod.mk.inj (Option.some.inj hk)
        rw [h k e] at req
        cases req
    split
    · simp [lot_grantTiles _ _ _ other]
    · rfl
  · rfl

/-- A team leaves its core: its tiles are given up, and a blocked request of the core looks again. -/
theorem leaveCore_eq (s : State) (tid : Nat) : ∃ u : State, (∀ w, u.lot w = s.lot w) ∧
    s.leaveCore tid = (u.modTeam tid fun t => { t with acc := [], accReq := none }).accGrant (s.team tid).core :=
  ⟨_, fun w => by simp, rfl⟩

/-- A team that leaves its core keeps its state and its record. -/
@[simp] theorem lot_leaveCore (s : State) (tid : Nat) : (s.leaveCore tid).lot none = s.lot none := by
  obtain ⟨u, hu, e⟩ := leaveCore_eq s tid
  rw [e, lot_accGrant _ _ (by simp)]
  simp [hu]

/-- A team that leaves its core has no tiles left. -/
theorem leaveCore_acc (s : State) (tid : Nat) : ((s.leaveCore tid).team tid).acc = [] := by
  obtain ⟨u, -, e⟩ := leaveCore_eq s tid
  have kept := lot_accGrant (w := some tid) (u.modTeam tid fun t => { t with acc := [], accReq := none }) (s.team tid).core (by simp)
  rw [← e] at kept
  have tiles : some ((s.leaveCore tid).team tid).acc = some ((u.modTeam tid fun t => { t with acc := [], accReq := none }).team tid).acc :=
    congrArg Lot.tiles kept
  simpa using tiles


end
end Sys2Proof.Machine
end


section
/-! PROOF. A cluster that is vacated: its teams are saved one after the other, and it is queued once their slots are written
(R267, R313, R353). -/

namespace Sys2Proof.Machine

/-! ### The lot of one team -/

/-- The lot in which team `k` is in another state, with another record. -/
def Lot.put (l : Lot) (k : Nat) (x : TeamSt × Option Saved) : Lot := { l with team := fun j => if j = k then x else l.team j }

theorem lot_modTeam_put (s : State) (k : Nat) (f : Team → Team) :
    (s.modTeam k f).lot none = (s.lot none).put k ((f (s.team k)).st, (f (s.team k)).saved) := by
  simp only [State.lot, lotOf, State.modTeam, Lot.put, Lot.mk.injEq, and_true, Option.map_none]
  funext j
  rw [sgetD_sput]
  split <;> rfl

theorem lot_team (w : Option Nat) (s : State) (k : Nat) : (s.lot w).team k = ((s.team k).st, (s.team k).saved) := rfl
theorem lot_clusters (w : Option Nat) (s : State) : (s.lot w).clusters = s.clusters := rfl
theorem lot_clock (w : Option Nat) (s : State) : (s.lot w).clock = s.clock := rfl

theorem Lot.put_put (l : Lot) (k : Nat) (x y : TeamSt × Option Saved) : (l.put k x).put k y = l.put k y := by
  simp only [Lot.put, Lot.mk.injEq, and_true]
  funext j
  split <;> rfl

/-- States of one lot have the same live teams of a cluster. -/
theorem liveTeams_of_lot {s t : State} (hc : t.clusters = s.clusters) (h : ∀ k, (t.team k).st = (s.team k).st ∨
    ((t.team k).st = .suspended ∧ s.teamGone k = false)) (cl : Nat) : t.liveTeams cl = s.liveTeams cl := by
  have gone (k : Nat) : t.teamGone k = s.teamGone k := by
    rcases h k with e | ⟨e, g⟩
    · simp [State.teamGone, e]
    · rw [g, State.teamGone, e]; rfl
  simp only [State.liveTeams, State.cluster, hc, gone]

/-! ### Saving teams -/

/-- The last that saving a team does is to keep its record; before, it is suspended. -/
theorem saveTeam_eq (s : State) (tid slot : Nat) : ∃ (u : State) (v : Saved) (x : Option Saved), v.slot = slot
    ∧ u.lot none = (s.lot none).put tid (.suspended, x)
    ∧ s.saveTeam tid slot = u.modTeam tid fun t => { t with saved := some v } := by
  simp only [State.saveTeam]
  refine ⟨_, _, ((((s.teamGroups tid).foldl (fun s g => s.dropAccReq g) s).leaveCore tid).team tid).saved, ?_, ?_, rfl⟩
  · rfl
  · simp [lot_modTeam_put]

/-- A team that is saved is suspended, with its slot; of other teams nothing the lot tells changes. -/
theorem lot_saveTeam (s : State) (tid slot : Nat) :
    ∃ v : Saved, v.slot = slot ∧ (s.saveTeam tid slot).lot none = (s.lot none).put tid (.suspended, some v) := by
  obtain ⟨u, v, x, hv, hu, e⟩ := saveTeam_eq s tid slot
  have st : (u.team tid).st = .suspended := by
    have := congrArg (fun l => (l.team tid).1) hu
    simpa [lot_team, Lot.put] using this
  refine ⟨v, hv, ?_⟩
  rw [e, lot_modTeam_put, hu, Lot.put_put]
  simp [st]

/-- Teams are suspended, each with its slot; nothing else that the lot tells of teams, nor a cluster, changes. -/
def Suspends (l : List (Nat × Nat)) (s t : State) : Prop :=
  t.clusters = s.clusters ∧ t.clock = s.clock
    ∧ (∀ p ∈ l, (t.team p.1).st = .suspended ∧ ∃ v, (t.team p.1).saved = some v ∧ v.slot = p.2)
    ∧ ∀ k, k ∉ l.map Prod.fst → (t.team k).st = (s.team k).st ∧ (t.team k).saved = (s.team k).saved

/-- Teams saved one after the other: each is suspended with its slot, and nothing else that the lot tells changes. -/
theorem foldl_saveTeam (l : List (Nat × Nat)) (s : State) (nd : (l.map Prod.fst).Nodup) :
    Suspends l s (l.foldl (fun s p => s.saveTeam p.1 p.2) s) := by
  induction l generalizing s with
  | nil => exact ⟨rfl, rfl, by simp, fun _ _ => ⟨rfl, rfl⟩⟩
  | cons p l ih =>
    rw [List.foldl_cons]
    obtain ⟨hp, hl⟩ := List.nodup_cons.1 nd
    obtain ⟨v, hv, e⟩ := lot_saveTeam s p.1 p.2
    have team (k : Nat) : ((s.saveTeam p.1 p.2).team k).st = (if k = p.1 then .suspended else (s.team k).st)
        ∧ ((s.saveTeam p.1 p.2).team k).saved = if k = p.1 then some v else (s.team k).saved := by
      have := congrArg (fun l => l.team k) e
      simp only [lot_team, Lot.put] at this
      split at this <;> simp_all
    have clusters : (s.saveTeam p.1 p.2).clusters = s.clusters := by rw [← lot_clusters none, e]; rfl
    have clock : (s.saveTeam p.1 p.2).clock = s.clock := by rw [← lot_clock none, e]; rfl
    generalize s.saveTeam p.1 p.2 = u at *
    obtain ⟨h1, h2, h3, h4⟩ := ih u hl
    refine ⟨h1.trans clusters, h2.trans clock, fun q hq => ?_, fun k hk => ?_⟩
    · rcases List.mem_cons.1 hq with rfl | hq
      · obtain ⟨h5, h6⟩ := h4 q.1 hp
        obtain ⟨h7, h8⟩ := team q.1
        rw [if_pos rfl] at h7 h8
        exact ⟨h5.trans h7, v, h6.trans h8, hv⟩
      · exact h3 q hq
    · simp only [List.map_cons, List.mem_cons, not_or] at hk
      obtain ⟨h5, h6⟩ := h4 k hk.2
      obtain ⟨h7, h8⟩ := team k
      rw [if_neg hk.1] at h7 h8
      exact ⟨h5.trans h7, h6.trans h8⟩

/-- The live teams of a cluster are suspended, each with one of its slots. -/
theorem saveCluster_effect {s : State} {cl : Nat} (nd : (s.liveTeams cl).Nodup) (len : (s.liveTeams cl).length ≤ (s.cluster cl).slots.length) :
    (s.saveCluster cl).clusters = s.clusters ∧ (s.saveCluster cl).clock = s.clock
      ∧ (s.saveCluster cl).liveTeams cl = s.liveTeams cl
      ∧ ∀ k ∈ s.liveTeams cl, ((s.saveCluster cl).team k).st = .suspended
        ∧ ∃ v, ((s.saveCluster cl).team k).saved = some v ∧ v.slot ∈ (s.cluster cl).slots := by
  have firsts : ((s.liveTeams cl).zip (s.cluster cl).slots).map Prod.fst = s.liveTeams cl := List.map_fst_zip len
  obtain ⟨h1, h2, h3, h4⟩ := foldl_saveTeam ((s.liveTeams cl).zip (s.cluster cl).slots) s (by rw [firsts]; exact nd)
  have saved (k : Nat) (hk : k ∈ s.liveTeams cl) : ((s.saveCluster cl).team k).st = .suspended
      ∧ ∃ v, ((s.saveCluster cl).team k).saved = some v ∧ v.slot ∈ (s.cluster cl).slots := by
    rw [← firsts] at hk
    obtain ⟨p, hp, rfl⟩ := List.mem_map.1 hk
    obtain ⟨h5, v, h6, h7⟩ := h3 p hp
    exact ⟨h5, v, h6, h7 ▸ (List.of_mem_zip hp).2⟩
  refine ⟨h1, h2, liveTeams_of_lot h1 (fun k => ?_) cl, saved⟩
  by_cases hk : k ∈ s.liveTeams cl
  · exact .inr ⟨(saved k hk).1, by simpa using (List.mem_filter.1 hk).2⟩
  · exact .inl (h4 k (by rw [firsts]; exact hk)).1

/-! ### A cluster that is freed -/

/-- The cluster is queued as suspended now (R353 step 4). -/
def Queued (s t : State) (cl : Nat) : Prop :=
  (t.cluster cl).st = .suspended ∧ (t.cluster cl).vacating = none ∧ (t.cluster cl).suspended = s.clock

theorem freeCluster_written {s : State} {cl : Nat} (hv : (s.cluster cl).vacating.isSome = true) (hh : (s.cluster cl).heir = none)
    (hw : ∀ k ∈ s.liveTeams cl, s.slotWritten k = true) : s.freeCluster cl =
      s.modCluster cl fun c => { c with st := .suspended, vacating := none, suspended := s.clock, heir := none } := by
  have all : (s.liveTeams cl).all s.slotWritten = true := List.all_eq_true.2 hw
  simp only [State.freeCluster, hv, all, hh]
  rfl

theorem freeCluster_unwritten {s : State} {cl k : Nat} (hk : k ∈ s.liveTeams cl) (hw : s.slotWritten k = false) :
    s.freeCluster cl = s := by
  have some_ : (s.liveTeams cl).all s.slotWritten = false := List.all_eq_false.2 ⟨k, hk, by simp [hw]⟩
  simp [State.freeCluster, some_]

theorem queued_freeCluster {s : State} {cl : Nat} (hv : (s.cluster cl).vacating.isSome = true) (hh : (s.cluster cl).heir = none)
    (hw : ∀ k ∈ s.liveTeams cl, s.slotWritten k = true) : Queued s (s.freeCluster cl) cl := by
  rw [freeCluster_written hv hh hw]
  simp [Queued]

/-! ### Collectives that outlast the wait -/

/-- A command of a cluster's teams with its contribution not sent ends with TIMEOUT (R267). -/
def dropped (ts : List Nat) (k : Cmd) : Cmd :=
  if ts.contains k.tid && k.kind == .copyx && k.status.isNone && !k.sent then { k with status := some 1, err := k.err.or (some ⟨0⟩) }
  else k

/-- The commands of some teams with their contributions not sent have ended. -/
def State.timedOut (s : State) (ts : List Nat) : State := { s with cmds := s.cmds.map fun e => (e.1, dropped ts e.2) }

theorem dropUnsent_of_no_drains {s : State} {cl : Nat} (h : s.mcmds = []) :
    s.dropUnsent cl = s.timedOut (s.cluster cl).teams := by
  have none_ : s.dropDrains cl = s := by simp [State.dropDrains, h]
  simp only [State.dropUnsent, none_, State.timedOut]
  congr 1
  refine List.map_congr_left fun e _ => ?_
  unfold dropped
  split <;> rfl

@[simp] theorem lot_dropUnsent (s : State) (cl : Nat) (w : Option Nat) : (s.dropUnsent cl).lot w = s.lot w := by
  simp [State.dropUnsent, State.dropDrains]

theorem packets_dropUnsent (s : State) (cl : Nat) : (s.dropUnsent cl).packets = s.packets := by
  have packed : (s.dropDrains cl).packed = s.packed := by
    unfold State.dropDrains
    refine State.packed_foldl (fun t e => ?_) _ s
    rfl
  exact congrArg Prod.fst packed

theorem dropped_kind (ts : List Nat) (k : Cmd) : (dropped ts k).kind = k.kind ∧ (dropped ts k).tid = k.tid := by
  unfold dropped
  split <;> exact ⟨rfl, rfl⟩

/-- Whether teams can be saved does not turn on the commands that end with TIMEOUT. -/
theorem teamQuiet_dropped (s : State) (cl : Nat) (ts : List Nat) (k : Nat) :
    (s.timedOut ts).teamQuiet cl k = s.teamQuiet cl k := by
  set t := s.timedOut ts
  have keeps (c : Cmd) : t.keepsCmd cl (dropped ts c) = s.keepsCmd cl c := by
    show ((dropped ts c).kind == .scroll || _ && s.waitedOut cl) = _
    rw [(dropped_kind ts c).1]
    rfl
  have named (n : Nat) : (sget t.cmds n).any (t.keepsCmd cl) = (sget s.cmds n).any (s.keepsCmd cl) := by
    rw [show sget t.cmds n = (sget s.cmds n).map (dropped ts) from sget_mapVals s.cmds (fun _ => dropped ts) n]
    cases sget s.cmds n with
    | none => rfl
    | some c => exact keeps c
  have groups : t.groupQuiet cl = s.groupQuiet cl := by
    funext g
    simp only [State.groupQuiet, named]
    rfl
  have cmds : (t.cmds.all fun e => e.2.tid != k || (t.keepsCmd cl e.2 && !t.outstanding e.1))
      = s.cmds.all fun e => e.2.tid != k || (s.keepsCmd cl e.2 && !s.outstanding e.1) := by
    rw [show t.cmds = s.cmds.map fun e => (e.1, dropped ts e.2) from rfl, List.all_map]
    congr 1
    funext e
    show ((dropped ts e.2).tid != k || (t.keepsCmd cl (dropped ts e.2) && !t.outstanding e.1)) = _
    rw [keeps, (dropped_kind ts e.2).2]
    rfl
  simp only [State.teamQuiet, groups, cmds]
  rfl

/-- What the vacation of a cluster finds once it waits for its collectives no longer (R267). -/
def waited (s : State) (cl : Nat) : State := if s.waitedOut cl then s.dropUnsent cl else s

theorem lot_waited (s : State) (cl : Nat) (w : Option Nat) : (waited s cl).lot w = s.lot w := by
  unfold waited
  split <;> simp

theorem packets_waited (s : State) (cl : Nat) : (waited s cl).packets = s.packets := by
  unfold waited
  split
  · exact packets_dropUnsent s cl
  · rfl

theorem waited_of_no_drains {s : State} {cl : Nat} (h : s.mcmds = [] ∨ s.waitedOut cl = false) :
    waited s cl = s ∨ waited s cl = s.timedOut (s.cluster cl).teams := by
  unfold waited
  rcases h with h | h
  · rw [dropUnsent_of_no_drains h]
    split
    · exact .inr rfl
    · exact .inl rfl
  · exact .inl (if_neg (by simp [h]))

theorem clusterVacate_eq (cl : Nat) (s : State) : exec (.clusterVacate cl) s =
    let s := waited s cl
    if (s.cluster cl).vacating.isSome && (s.liveTeams cl).all (s.teamQuiet cl) && s.slotsReady cl then
      match (s.liveTeams cl).find? s.heldPoison with
      | some t => .next (s.consume t 0).settle
      | none => .next ((s.saveCluster cl).freeCluster cl).settle
    else .next (s.freeCluster cl).settle := rfl

theorem heldPoison_of_clean {s : State} (h1 : s.scrPoison = []) (h2 : s.arrPoison = []) (k : Nat) : s.heldPoison k = false := by
  simp only [State.heldPoison, State.scrPoisoned, State.tilePoisoned, State.arrPoisoned, h1, h2]
  cases s.bankIn k <;> simp

/-- A cluster whose teams are quiet is saved. -/
theorem vacate_saves {s : State} {cl : Nat} (hv : (s.cluster cl).vacating ≠ none) (clean : s.scrPoison = []) (clean' : s.arrPoison = [])
    (slots : s.slotsReady cl = true) (quiet : ∀ k ∈ s.liveTeams cl, s.teamQuiet cl k = true) (drains : s.mcmds = [] ∨ s.waitedOut cl = false) :
    ∃ u : State, u.clusters = s.clusters ∧ u.clock = s.clock ∧ u.teams = s.teams ∧
      exec (.clusterVacate cl) s = .next ((u.saveCluster cl).freeCluster cl).settle := by
  have go (u : State) (hu : waited s cl = u) (hv : (u.cluster cl).vacating ≠ none) (clean : u.scrPoison = []) (clean' : u.arrPoison = [])
      (slots : u.slotsReady cl = true) (quiet : ∀ k ∈ u.liveTeams cl, u.teamQuiet cl k = true) :
      exec (.clusterVacate cl) s = .next ((u.saveCluster cl).freeCluster cl).settle := by
    have whole : (u.liveTeams cl).find? u.heldPoison = none :=
      List.find?_eq_none.2 fun k _ => by simp [heldPoison_of_clean clean clean']
    simp only [clusterVacate_eq, hu, slots, Option.isSome_iff_ne_none.2 hv, List.all_eq_true.2 quiet, whole]
    rfl
  rcases waited_of_no_drains drains with h | h
  · exact ⟨s, rfl, rfl, rfl, go s h hv clean clean' slots quiet⟩
  · exact ⟨s.timedOut (s.cluster cl).teams, rfl, rfl, rfl, go _ h hv clean clean' slots fun k hk => (teamQuiet_dropped s cl _ k).trans (quiet k hk)⟩

theorem slotWritten_congr {s t : State} {k : Nat} (hs : (t.team k).saved = (s.team k).saved) (hp : t.packets = s.packets) :
    t.slotWritten k = s.slotWritten k := by
  simp only [State.slotWritten, hs, hp]

/-- A cluster with a team saved already is not saved again. -/
theorem vacate_frees {s : State} {cl k : Nat} (hk : k ∈ s.liveTeams cl) (asleep : (s.team k).st = .suspended) :
    exec (.clusterVacate cl) s = .next ((waited s cl).freeCluster cl).settle := by
  have st (j : Nat) : ((waited s cl).team j).st = (s.team j).st := congrArg (fun l => (l.team j).1) (lot_waited s cl none)
  have live : (waited s cl).liveTeams cl = s.liveTeams cl :=
    liveTeams_of_lot (congrArg Lot.clusters (lot_waited s cl none)) (fun j => .inl (st j)) cl
  have loud : ((waited s cl).liveTeams cl).all ((waited s cl).teamQuiet cl) = false :=
    List.all_eq_false.2 ⟨k, live ▸ hk, by simp [State.teamQuiet, st, asleep]⟩
  simp [clusterVacate_eq, loud]

theorem vacationClauses (s : State) (cl : Nat) :
    let c := s.cluster cl
    (c.vacating ≠ none → c.heir = none → s.scrPoison = [] → s.arrPoison = [] → s.slotsReady cl = true →
        (∀ k ∈ s.liveTeams cl, s.teamQuiet cl k = true) → (s.liveTeams cl).Nodup → s.mcmds = [] ∨ s.waitedOut cl = false →
        (s.liveTeams cl).length ≤ c.slots.length → Happens (.clusterVacate cl) s fun t =>
          (∀ k ∈ s.liveTeams cl, (t.team k).st = .suspended ∧ ∃ v, (t.team k).saved = some v ∧ v.slot ∈ c.slots)
            ∧ ((∀ k ∈ s.liveTeams cl, t.slotWritten k = true) → Queued s t cl)
            ∧ ((∃ k ∈ s.liveTeams cl, t.slotWritten k = false) → (t.cluster cl).st = c.st ∧ (t.cluster cl).vacating = c.vacating))
      ∧ (c.vacating ≠ none → c.heir = none → (∃ k ∈ s.liveTeams cl, (s.team k).st = .suspended) →
        (∀ k ∈ s.liveTeams cl, s.slotWritten k = true) → Happens (.clusterVacate cl) s fun t => Queued s t cl) := by
  refine ⟨fun hv hh clean clean' slots quiet nd drains len => ?_, fun hv hh ⟨k, hk, asleep⟩ written => ?_⟩
  · obtain ⟨u, uc, uk, ut, e⟩ := vacate_saves hv clean clean' slots quiet drains
    have cluster : u.cluster cl = s.cluster cl := by simp only [State.cluster, uc]
    have live : u.liveTeams cl = s.liveTeams cl := liveTeams_of_lot uc (fun k => .inl (by simp only [State.team, ut])) cl
    rw [← live] at nd len
    rw [← cluster] at len hv hh
    obtain ⟨h1, h2, h3, h4⟩ := saveCluster_effect nd len
    refine ⟨_, e, ?_⟩
    rw [← cluster]
    generalize u.saveCluster cl = v at *
    have vc : v.cluster cl = u.cluster cl := by simp only [State.cluster, h1]
    rw [← vc] at hv hh
    by_cases written : ∀ k ∈ v.liveTeams cl, v.slotWritten k = true
    · have q := queued_freeCluster (Option.isSome_iff_ne_none.2 hv) hh written
      rw [freeCluster_written (Option.isSome_iff_ne_none.2 hv) hh written] at q ⊢
      have qs : Queued s _ cl := ⟨q.1, q.2.1, q.2.2.trans (h2.trans uk)⟩
      refine ⟨fun k hk => vc ▸ h4 k (live ▸ hk), fun _ => qs, fun ⟨k, hk, bad⟩ => ?_⟩
      rw [← live, ← h3] at hk
      exact absurd ((written k hk).symm.trans bad) (by simp)
    · push Not at written
      obtain ⟨k, hk, bad⟩ := written
      rw [freeCluster_unwritten hk (by simpa using bad)]
      rw [h3, live] at hk
      exact ⟨fun k hk => vc ▸ h4 k (live ▸ hk), fun all => absurd (all k hk) bad, fun _ => ⟨by rw [vc], by rw [vc]⟩⟩
  · have same := lot_waited s cl none
    have clusters : (waited s cl).clusters = s.clusters := congrArg Lot.clusters same
    have cluster : (waited s cl).cluster cl = s.cluster cl := by simp only [State.cluster, clusters]
    have live : (waited s cl).liveTeams cl = s.liveTeams cl :=
      liveTeams_of_lot clusters (fun j => .inl (congrArg (fun l => (l.team j).1) same)) cl
    have q := queued_freeCluster (s := waited s cl) (cl := cl) (by rw [cluster]; exact Option.isSome_iff_ne_none.2 hv) (by rw [cluster]; exact hh)
      fun j hj => (slotWritten_congr (congrArg (fun l => (l.team j).2) same) (packets_waited s cl)).trans (written j (live ▸ hj))
    exact ⟨_, vacate_frees hk asleep, q.1, q.2.1, q.2.2.trans (congrArg Lot.clock same)⟩

theorem collectiveTimeout {s : State} {cl n : Nat} {k : Cmd} (h : s.waitedOut cl = true) (hk : sget s.cmds n = some k)
    (ht : k.tid ∈ (s.cluster cl).teams) (copyx : k.kind = .copyx) (open_ : k.status = none) (unsent : k.sent = false) (drains : s.mcmds = []) :
    Occurs (.vacationCollectiveTimeout cl) s fun t =>
      (∃ j, sget t.cmds n = some j ∧ j.status = some 1 ∧ j.err = k.err.or (some ⟨0⟩)) ∧ { t with cmds := [] } = { s with cmds := [] } := by
  have run : exec (.vacationCollectiveTimeout cl) s = .next (waited s cl) := rfl
  rw [waited, if_pos h, dropUnsent_of_no_drains drains] at run
  refine ⟨_, run, ⟨dropped (s.cluster cl).teams k, ?_, ?_⟩, rfl⟩
  · exact (sget_mapVals s.cmds (fun _ => dropped (s.cluster cl).teams) n).trans (by rw [hk]; rfl)
  · simp [dropped, ht, copyx, open_, unsent]

end Sys2Proof.Machine
end


section
/-! PROOF. The end of a context: its record and notice, its teams and launches, and what is left once all is free (R346,
R351, R352). -/

namespace Sys2Proof.Machine

/-! ### Teams and groups -/

/-- The teams and groups of a state. -/
def State.crew (s : State) : Store Team × Store Group := (s.teams, s.groups)

theorem crew_foldl {β : Type} {f : State → β → State} (l : List β) (step : ∀ t q, (f t q).crew = t.crew) (s : State) :
    (l.foldl f s).crew = s.crew := by
  induction l generalizing s with
  | nil => rfl
  | cons q l ih => exact (ih _).trans (step s q)

theorem FabricOnly.crew {s t : State} (h : FabricOnly s t) : t.crew = s.crew := (congrArg State.crew h.rest :)

theorem crew_modPart (s : State) (p : Nat) (f : Part → Part) : (s.modPart p f).crew = s.crew := rfl
theorem crew_emit (s : State) (o : Out) : (s.emit o).crew = s.crew := rfl

theorem crew_commitAt (s : State) (ts : Nat) (pin : Option Nat) (l : Store Byte) : (s.commitAt ts pin l).crew = s.crew :=
  crew_foldl (f := fun s line => s.retireLine ts line pin) _ (fun t line => by unfold State.retireLine; split <;> rfl) s

theorem crew_noteOutside (s : State) (ts : Nat) (l : Store Byte) : (s.noteOutside ts l).crew = s.crew := by
  simp only [State.noteOutside]
  split <;> split <;> rfl

theorem crew_deviceCommit (s : State) (tag part : Nat) (l : Store Byte) : (s.deviceCommit tag part l).2.crew = s.crew := by
  simp only [State.deviceCommit]
  split
  · exact (crew_commitAt _ _ _ _).trans (crew_noteOutside _ _ _)
  · refine (crew_foldl _ (fun t _ => (FabricOnly.sendNow t _).crew) _).trans ?_
    rfl

theorem crew_deviceWriteVa (s : State) (ctx tag va : Nat) (bs : List Byte) : (s.deviceWriteVa ctx tag va bs).2.crew = s.crew := by
  simp only [State.deviceWriteVa]
  split
  · exact crew_deviceCommit _ _ _ _
  · split <;> rfl

theorem crew_writeRecord (s : State) (c : Nat) (k : Kill) : (s.writeRecord c k).crew = s.crew := by
  simp only [State.writeRecord]
  split
  · rfl
  · exact crew_deviceWriteVa _ _ _ _ _

theorem crew_killNotice (s : State) (c : Nat) (k : Kill) : (s.killNotice c k).crew = s.crew := by
  simp only [State.killNotice, State.ringAppend, State.ringWrite, crew_emit, crew_modPart, crew_deviceWriteVa]

theorem crew_dropStalls (s : State) (c : Nat) : (s.dropStalls c).crew = s.crew := by
  unfold State.dropStalls
  refine crew_foldl _ (fun t q => ?_) s
  rfl

theorem ctxTeams_of_crew {s t : State} (h : t.crew = s.crew) (c : Nat) : t.ctxTeams c = s.ctxTeams c := by
  simp only [State.ctxTeams, show t.teams = s.teams from congrArg Prod.fst h]

/-! ### The lot of a killed context -/

theorem lot_dropRequests (s : State) (c : Nat) (w : Option Nat) : (s.dropRequests c).lot w = s.lot w := by
  let f (_ : Nat) (p : Part) : Part :=
    { p with ring := p.ring.map fun r => if r.2.ctx = c then (r.1, { r.2 with answered := true }) else r }
  have head : ((s.dropRequests c).lot w).head = (s.lot w).head := by
    funext p
    show (sgetD (s.parts.map fun e => (e.1, f e.1 e.2)) p Part.none).head = (sgetD s.parts p Part.none).head
    simp only [sgetD, sget_mapVals]
    cases sget s.parts p <;> rfl
  exact congrArg (fun h => { s.lot w with head := h }) head

theorem lot_modPart_put (s : State) (p : Nat) (f : Part → Part) : (s.modPart p f).lot none =
    { s.lot none with head := fun j => if j = p then (f (s.part p)).head else (s.part j).head } := by
  simp only [State.lot, lotOf, State.modPart, Lot.mk.injEq, and_true, true_and, Option.map_none]
  funext j
  rw [sgetD_sput]
  split <;> rfl

theorem lot_emit_told (s : State) (p v : Nat) : (s.emit (.irq (p + 1) v)).lot none =
    { s.lot none with told := .irq (p + 1) v :: (s.lot none).told } := rfl

/-- The notice takes the next place of the ring and is told to the function of the partition (R346). -/
theorem lot_killNotice (s : State) (c : Nat) (k : Kill) : (s.killNotice c k).lot none =
    { s.lot none with
      head := fun p => if p = (s.ctx c).part then (s.part (s.ctx c).part).head + 1 else (s.part p).head
      told := .irq ((s.ctx c).part + 1) 3 :: (s.lot none).told } := by
  have write (v : State) (p : Nat) (bs : List Byte) : (v.ringWrite p bs).lot none =
      { v.lot none with head := fun j => if j = p then (v.part p).head + 1 else (v.part j).head } := by
    have kept := lot_deviceWriteVa (w := none) v (v.supCtx p) (v.supCtx p) (((v.part p).ringBase.extractLsb' 0 56).toNat + 32 * ((v.part p).head % 64)) bs
    have heads (j : Nat) : ((v.deviceWriteVa (v.supCtx p) (v.supCtx p) (((v.part p).ringBase.extractLsb' 0 56).toNat + 32 * ((v.part p).head % 64)) bs).2.part j).head
        = (v.part j).head := congrArg (fun l => l.head j) kept
    rw [State.ringWrite, lot_modPart_put, kept]
    simp only [heads]
  have noted (v : State) (p : Nat) (bs : List Byte) (e : RingEntry) (n : Nat) :
      (((v.ringWrite p bs).modPart p fun x => { x with ring := sput x.ring n e }).emit (.report "supervisor: service ring")).lot none
        = (v.ringWrite p bs).lot none := by simp
  simp only [State.killNotice, State.ringAppend, lot_emit_told, noted, write]

/-! ### Teams that are killed -/

theorem lot_killTeam (s : State) (k : Nat) : ∃ x, (s.killTeam k).lot none = (s.lot none).put k (.killed, x) := by
  have body : ((((s.leaveCore k).purgeTeam k).eraseTeam k).modTeam k fun t =>
      { t with st := .killed, pending := [], overlay := [], seqr := none }).lot none
        = (s.lot none).put k (.killed, ((((s.leaveCore k).purgeTeam k).eraseTeam k).team k).saved) := by
    rw [lot_modTeam_put]
    simp
  refine ⟨((((s.leaveCore k).purgeTeam k).eraseTeam k).team k).saved, ?_⟩
  unfold State.killTeam
  dsimp only
  split
  · exact body
  · exact body

/-- Teams killed one after the other: each is killed, and nothing else that the lot tells changes. -/
theorem foldl_killTeam (l : List Nat) (s : State) : ∃ f, (l.foldl (fun s k => s.killTeam k) s).lot none = { s.lot none with team := f }
    ∧ ∀ k, k ∈ l ∨ (s.team k).st = .killed → (f k).1 = .killed := by
  induction l generalizing s with
  | nil => exact ⟨_, rfl, fun k h => h.resolve_left (by simp)⟩
  | cons j l ih =>
    obtain ⟨x, e⟩ := lot_killTeam s j
    rw [List.foldl_cons]
    have st (k : Nat) (h : k = j ∨ (s.team k).st = .killed) : ((s.killTeam j).team k).st = .killed := by
      have := congrArg (fun l => (l.team k).1) e
      simp only [lot_team, Lot.put] at this
      rw [this]
      split
      · rfl
      · exact h.resolve_left ‹_›
    generalize s.killTeam j = u at *
    obtain ⟨f, hf, killed⟩ := ih u
    refine ⟨f, by rw [hf, e]; rfl, fun k h => killed k ?_⟩
    rcases h with h | h
    · rcases List.mem_cons.1 h with rfl | h
      · exact .inr (st _ (.inl rfl))
      · exact .inl h
    · exact .inr (st k (.inr h))

/-! ### The end of a context -/

/-- What a kill has done once the context's teams are gone, before its queues are purged. -/
def struck (s : State) (c : Nat) (k : Kill) : State :=
  let u := (((s.dropRequests c).writeRecord c k).killNotice c k).dropStalls c
  ((u.ctxTeams c).foldl (fun s t => s.killTeam t) u).stopSystem c

/-- What a kill that strikes makes of the lot: the notice, and teams that are killed (R346, R351). -/
theorem lot_struck (s : State) (c : Nat) (k : Kill) : ∃ f, (struck s c k).lot none = { s.lot none with
      head := fun j => if j = (s.ctx c).part then (s.part (s.ctx c).part).head + 1 else (s.part j).head
      told := .irq ((s.ctx c).part + 1) 3 :: (s.lot none).told
      team := f } ∧ ∀ j ∈ s.ctxTeams c, (f j).1 = .killed := by
  unfold struck
  dsimp only
  have la : ((s.dropRequests c).writeRecord c k).lot none = s.lot none := (lot_writeRecord _ _ _).trans (lot_dropRequests _ _ _)
  have pa : (((s.dropRequests c).writeRecord c k).ctx c).part = (s.ctx c).part := congrArg (fun l => l.part c) la
  have ha (j : Nat) : (((s.dropRequests c).writeRecord c k).part j).head = (s.part j).head := congrArg (fun l => l.head j) la
  have ca : ((s.dropRequests c).writeRecord c k).crew = s.crew := crew_writeRecord _ _ _
  generalize (s.dropRequests c).writeRecord c k = a at *
  have lu := (lot_dropStalls (w := none) (a.killNotice c k) c).trans (lot_killNotice a c k)
  have cu := ctxTeams_of_crew (((crew_dropStalls (a.killNotice c k) c).trans (crew_killNotice a c k)).trans ca) c
  generalize (a.killNotice c k).dropStalls c = u at *
  obtain ⟨f, hf, killed⟩ := foldl_killTeam (u.ctxTeams c) u
  refine ⟨f, ?_, fun j hj => killed j (.inl (cu ▸ hj))⟩
  rw [lot_stopSystem, hf, lu, la]
  simp only [pa, ha]

/-- Of a context whose kill has struck: its notice is appended and told, and its teams are killed; launches stand (R346, R351). -/
theorem struck_effect (s : State) (c : Nat) (k : Kill) :
    let p := (s.ctx c).part
    let t := struck s c k
    (∀ l, (t.launch l).ctx = (s.launch l).ctx ∧ (t.launch l).st = (s.launch l).st)
      ∧ (t.part p).head = (s.part p).head + 1 ∧ .irq (p + 1) 3 ∈ t.out ∧ ∀ j ∈ s.ctxTeams c, (t.team j).st = .killed := by
  intro p t
  obtain ⟨f, lt, killed⟩ := lot_struck s c k
  change t.lot none = _ at lt
  generalize t = u at lt
  refine ⟨fun l => ?_, ?_, ?_, fun j hj => ?_⟩
  · have := congrArg (fun x => x.launch l) lt
    exact ⟨congrArg Prod.fst this, congrArg Prod.snd this⟩
  · have head : (u.part p).head = if p = p then (s.part p).head + 1 else (s.part p).head := congrArg (fun x => x.head p) lt
    rw [head, if_pos rfl]
  · have told : u.out.filter Out.toVf = .irq (p + 1) 3 :: (s.lot none).told := congrArg Lot.told lt
    exact (List.mem_filter.1 (told ▸ List.mem_cons_self)).1
  · have st : (u.team j).st = (f j).1 := congrArg (fun x => (x.team j).1) lt
    exact st.trans (killed j hj)

/-- Purged queues hold nothing of a context that is queued or runs (R47, R352). -/
theorem purgeQueues_launches (s : State) (c : Nat) :
    ∀ e ∈ (s.purgeQueues c).launches, e.2.ctx = c → e.2.st ≠ .queued ∧ e.2.st ≠ .running := by
  intro e he hc
  simp only [State.purgeQueues, List.mem_map, List.mem_filter] at he
  obtain ⟨l, ⟨hl, -⟩, rfl⟩ := he
  by_cases mine : (skeysWhere s.launches fun l => l.ctx == c && l.st != .complete).contains l.1 = true
  · rw [if_pos mine]
    exact ⟨by simp, by simp⟩
  · rw [if_neg mine] at hc ⊢
    have ended : l.2.st = .complete := by
      by_contra open_
      exact mine (List.contains_iff_mem.2 (List.mem_map.2 ⟨l, List.mem_filter.2 ⟨hl, by simp [hc, open_]⟩, rfl⟩))
    rw [ended]
    exact ⟨by simp, by simp⟩

/-- Purged queues hold no cluster of a launch of the context that was not complete. -/
theorem purgeQueues_clusters (s : State) (c : Nat) : ∀ e ∈ (s.purgeQueues c).clusters,
    (s.launch e.2.launch).ctx = c → (s.launch e.2.launch).st = .complete := by
  intro e he hc
  simp only [State.purgeQueues, List.mem_filter] at he
  by_contra open_
  refine absurd he.2 ?_
  cases hl : sget s.launches e.2.launch with
  | none => exact absurd (by simp [State.launch, sgetD, hl, Launch.absent]) open_
  | some l =>
    have is_ : s.launch e.2.launch = l := by simp [State.launch, sgetD, hl]
    rw [is_] at hc open_
    have mine : e.2.launch ∈ skeysWhere s.launches fun l => l.ctx == c && l.st != .complete :=
      List.mem_map.2 ⟨_, List.mem_filter.2 ⟨mem_of_sget hl, by simp [hc, open_]⟩, rfl⟩
    simp [mine]

theorem contextKill_eq {s : State} {c : Nat} {k : Kill} (hk : (s.ctx c).killing = some k) (live : (s.ctx c).killed = false)
    (free : (s.dropRequests c).ringFree (s.ctx c).part = true) :
    exec (.contextKill c) s = .next ((((struck s c k).purgeQueues c).dropContributions c).modCtx c fun x => { x with killed := true, slots := [] }).settle := by
  show execContextKill c s = _
  have part : ((s.dropRequests c).ctx c).part = (s.ctx c).part := rfl
  simp only [execContextKill, hk, live, part, free]
  rfl

theorem killClause {s : State} {c : Nat} {k : Kill} (hk : (s.ctx c).killing = some k) (live : (s.ctx c).killed = false)
    (free : (s.dropRequests c).ringFree (s.ctx c).part = true) : Happens (.contextKill c) s fun t =>
      (t.ctx c).killed = true ∧ (t.part (s.ctx c).part).head = (s.part (s.ctx c).part).head + 1 ∧ Out.irq ((s.ctx c).part + 1) 3 ∈ t.out
        ∧ (∀ j ∈ s.ctxTeams c, (t.team j).st = .killed) ∧ (∀ e ∈ t.launches, e.2.ctx = c → e.2.st ≠ .queued ∧ e.2.st ≠ .running)
        ∧ ∀ e ∈ t.clusters, (s.launch e.2.launch).ctx = c → (s.launch e.2.launch).st = .complete := by
  obtain ⟨launch, head, told, killed⟩ := struck_effect s c k
  have run := contextKill_eq hk live free
  generalize struck s c k = u at *
  refine ⟨_, run, by simp, head, told, killed, purgeQueues_launches u c, fun e he hc => ?_⟩
  have ended := purgeQueues_clusters u c e he
  rw [(launch _).1, (launch _).2] at ended
  exact ended hc

/-- Launches of a context whose kill is complete (R243). -/
def released (s : State) (c : Nat) : State :=
  { s with launches := s.launches.map fun (e : Nat × Launch) =>
      if e.2.ctx == c && e.2.st == LaunchSt.killed then (e.1, { e.2 with st := .complete }) else e }

theorem killComplete_eq {s : State} {c : Nat} (hk : (s.ctx c).killing.isSome = true) (dead : (s.ctx c).killed = true)
    (empty : s.ctxTeams c = []) (done : s.recordDone c = true) : exec (.killComplete c) s = .next
      (if ((released s c).part (s.ctx c).part).live || !(s.parts.any fun p => p.1 == (s.ctx c).part)
        then (released s c).modCtx c fun x => { x with killing := none }
        else { released s c with ctxs := sdel s.ctxs c }).settle := by
  show execKillComplete c s = _
  simp only [execKillComplete, hk, dead, empty, done]
  rfl

theorem completeClause {s : State} {c : Nat} {k : Kill} (hk : (s.ctx c).killing = some k) (dead : (s.ctx c).killed = true)
    (empty : s.ctxTeams c = []) (done : s.recordDone c = true) : Happens (.killComplete c) s fun t => (t.ctx c).killing = none
      ∧ ((s.part (s.ctx c).part).live = true → (t.ctx c).killed = true) ∧ (∀ e ∈ t.launches, e.2.ctx = c → e.2.st ≠ .killed)
      ∧ SameRegs s t ∧ SameBytes s t := by
  refine ⟨_, killComplete_eq (by simp [hk]) dead empty done, ?_⟩
  have ended : ∀ e ∈ (released s c).launches, e.2.ctx = c → e.2.st ≠ .killed := by
    intro e he hc
    obtain ⟨l, -, rfl⟩ := List.mem_map.1 he
    by_cases mine : (l.2.ctx == c && l.2.st == LaunchSt.killed) = true
    · rw [if_pos mine]
      exact fun h => nomatch h
    · rw [if_neg mine] at hc ⊢
      simpa [hc] using mine
  split
  · exact ⟨by simp, fun _ => by rw [State.modCtx_ctx, if_pos rfl]; exact dead, ended, .of_held rfl, .of_held rfl⟩
  · next gone =>
    refine ⟨by simp [State.ctx, sgetD, sget_sdel, Context.none], fun live => ?_, ended, .of_held rfl, .of_held rfl⟩
    exact absurd (Bool.or_eq_true_iff.2 (.inl live)) gone

end Sys2Proof.Machine

open Sys2Proof.Machine

/-- Settles O51: a cluster is saved team after team, what the lot tells of the others standing; a kill strikes, and what is
left of its queues is nothing that is queued or runs. -/
theorem vacationsAndKills : Obligations.VacationsAndKills := by
  unfold Obligations.VacationsAndKills
  refine ⟨fun s cl => ⟨(vacationClauses s cl).1, (vacationClauses s cl).2, fun n k h hk ht copyx open_ unsent drains =>
    collectiveTimeout h hk ht copyx open_ unsent drains⟩, fun s c k hk => ⟨fun live free => killClause hk live free,
    fun dead empty done => completeClause hk dead empty done⟩⟩
end


section
/-! PROOF. Dispatch and placement: blocks that are handed out, teams that are started, cores that are cleared (R27, R42, R44,
R45, R58, R61, R85, R184). -/

namespace Sys2Proof.Machine

/-! ### Dispatch (R42) -/

theorem modLaunch_launches (s : State) (k : Nat) (f : Launch → Launch) :
    { s.modLaunch k f with launches := [] } = { s with launches := [] }
      ∧ (∀ j, j ≠ k → (s.modLaunch k f).launch j = s.launch j) ∧ (s.modLaunch k f).launch k = f (s.launch k) :=
  ⟨rfl, fun j h => by simp [h], by simp⟩

theorem dispatch_begins {s : State} {p k : Nat} (hs : s.dev.st = .service) (hk : s.nextLaunch p = some k) (h : (s.launch k).st ≠ .dispatching) :
    exec (.launchDispatch p) s = .next (s.modLaunch k fun l =>
      if s.regionFree k = true then { l with st := .dispatching, snapDispatch := s.hDev } else { l with st := .reserving }) := by
  show execLaunchDispatch p s = _
  simp only [execLaunchDispatch, hs, hk]
  by_cases free : s.regionFree k = true <;> cases e : (s.launch k).st with
  | dispatching => exact absurd e h
  | _ => simp [free]

theorem dispatch_hands {s : State} {p k park : Nat} (hs : s.dev.st = .service) (hk : s.nextLaunch p = some k)
    (h : (s.launch k).st = .dispatching) (hp : s.nextPark (s.launch k) = some park) (ready : s.dev.parksReady.contains park = true) :
    exec (.launchDispatch p) s = .next (s.handBlock k park) := by
  show execLaunchDispatch p s = _
  simp only [execLaunchDispatch, hs, hk, h, hp, ready]
  simp

/-- A block's coordinates count the blocks of its grid, x fastest (R42). -/
theorem block_counts (n : Nat) {gx gy : Nat} (hx : 0 < gx) (hy : 0 < gy) :
    n % gx < gx ∧ n / gx % gy < gy ∧ (n / (gx * gy) * gy + n / gx % gy) * gx + n % gx = n := by
  refine ⟨Nat.mod_lt _ hx, Nat.mod_lt _ hy, ?_⟩
  rw [← Nat.div_div_eq_div_mul, Nat.div_add_mod', Nat.div_add_mod']

/-- What handing a block out leaves (R42). -/
theorem handBlock_effect (s : State) (k park : Nat) (hx : 0 < dfld ((s.launch k).dw 0x10) 0 16) (hy : 0 < dfld ((s.launch k).dw 0x10) 16 16) :
    let l := s.launch k
    let gx := dfld (l.dw 0x10) 0 16
    let gy := dfld (l.dw 0x10) 16 16
    let t := s.handBlock k park
    let c := t.cluster s.names.cluster
    c.launch = k ∧ c.st = .unstarted ∧ c.part = l.part ∧ c.park = park ∧ c.cx < gx ∧ c.cy < gy
      ∧ (c.cz * gy + c.cy) * gx + c.cx = l.handed ∧ (t.launch k).handed = l.handed + 1
      ∧ (t.launch k).st = (if l.handed + 1 = l.blocks then .running else .dispatching)
      ∧ (t.part l.part).lastPark = some park ∧ SameRegs s t ∧ SameBytes s t := by
  intro l gx gy t c
  obtain ⟨h1, h2, h3⟩ := block_counts l.handed hx hy
  have hc : c = { Cluster.absent with
      launch := k, cx := l.handed % gx, cy := l.handed / gx % gy, cz := l.handed / (gx * gy), st := .unstarted, part := l.part, park := park
      arrived := s.names.order + 1 } := by
    show State.cluster _ _ = _
    simp only [t, State.handBlock, State.modLaunch_cluster, State.modPart_cluster]
    simp [State.cluster, l, gx, gy]
  have hl : t.launch k = { l with handed := l.handed + 1, st := if l.handed + 1 = l.blocks then .running else .dispatching } := by
    simp only [t, State.handBlock, State.modLaunch_launch, if_pos]
    rfl
  have hp : (t.part l.part).lastPark = some park := by
    simp [t, State.handBlock, l]
  rw [hc, hl]
  exact ⟨rfl, rfl, rfl, rfl, h1, h2, h3, rfl, rfl, hp, .of_held rfl, .of_held rfl⟩

/-! ### Teams that start (R27) -/

/-- What a fold keeps, once an element of its list has brought it about, holds after it. -/
theorem foldl_reaches {α β : Type} {f : α → β → α} {P : α → Prop} {b : β} {l : List β} (hb : b ∈ l)
    (hit : ∀ t, P (f t b)) (keep : ∀ t c, P t → P (f t c)) (s : α) : P (l.foldl f s) := by
  have kept (l : List β) (s : α) (h : P s) : P (l.foldl f s) := by
    induction l generalizing s with
    | nil => exact h
    | cons c l ih => exact ih _ (keep s c h)
  induction l generalizing s with
  | nil => cases hb
  | cons c l ih =>
    rcases List.mem_cons.1 hb with rfl | h
    · exact kept l _ (hit s)
    · exact ih h _

/-- From `s` to `t` no more than teams of cluster `cl` have started, with their slices at `e`. -/
structure Peopled (cl : Nat) (e : Addr) (s t : State) : Prop where
  next : s.names.team ≤ t.names.team
  teams : ∀ k < s.names.team, t.team k = s.team k
  slices : ∀ g i, t.slice g i = s.slice g i ∨ t.slice g i = Slice.start e
  launches : t.launches = s.launches
  rels : t.rels = s.rels
  sundial : t.sundial = s.sundial
  cluster : ∃ l, t.cluster cl = { s.cluster cl with teams := (s.cluster cl).teams ++ l }

namespace Peopled
variable {cl : Nat} {e : Addr} {s t u : State}

theorem refl (s : State) : Peopled cl e s s :=
  ⟨Nat.le_refl _, fun _ _ => rfl, fun _ _ => .inl rfl, rfl, rfl, rfl, [], by simp⟩

theorem of_teams (hn : t.names.team = s.names.team) (ht : t.teams = s.teams) (hs : t.slices = s.slices) (hl : t.launches = s.launches)
    (hr : t.rels = s.rels) (hd : t.sundial = s.sundial) (hc : t.clusters = s.clusters) : Peopled cl e s t :=
  ⟨hn.ge, fun k _ => by simp only [State.team, ht], fun g i => .inl (by simp only [State.slice, hs]), hl, hr, hd,
    [], by simp [State.cluster, hc]⟩

theorem trans (h : Peopled cl e s t) (k : Peopled cl e t u) : Peopled cl e s u where
  next := h.next.trans k.next
  teams n hn := (k.teams n (Nat.lt_of_lt_of_le hn h.next)).trans (h.teams n hn)
  slices g i := by
    rcases k.slices g i with e | e
    · rw [e]; exact h.slices g i
    · exact .inr e
  launches := k.launches.trans h.launches
  rels := k.rels.trans h.rels
  sundial := k.sundial.trans h.sundial
  cluster := by
    obtain ⟨l, hl⟩ := h.cluster
    obtain ⟨m, hm⟩ := k.cluster
    exact ⟨l ++ m, by rw [hm, hl]; simp⟩

theorem launch (h : Peopled cl e s t) (k : Nat) : t.launch k = s.launch k := by simp only [State.launch, h.launches]

theorem mine (h : Peopled cl e s t) : (t.cluster cl).launch = (s.cluster cl).launch := by
  obtain ⟨l, hl⟩ := h.cluster
  rw [hl]

theorem startSnap (h : Peopled cl e s t) (l : Launch) : t.startSnap l = s.startSnap l := by
  simp only [State.startSnap, State.hDev, h.rels, h.sundial]

end Peopled

/-- The start of a team's groups changes groups and slices alone. -/
theorem startGroups_eq (s : State) (k : Nat) (e : Addr) : ∃ gr sl, s.startGroups k e = { s with groups := gr, slices := sl } := by
  have inner (g : Nat) (l : List Nat) (s : State) :
      ∃ sl, l.foldl (fun s i => s.modSlice g i fun _ => Slice.start e) s = { s with slices := sl } := by
    induction l generalizing s with
    | nil => exact ⟨s.slices, rfl⟩
    | cons i l ih =>
      obtain ⟨sl, h⟩ := ih (s.modSlice g i fun _ => Slice.start e)
      exact ⟨sl, h⟩
  have outer (f : Nat → State → State) (hf : ∀ g s, ∃ gr sl, f g s = { s with groups := gr, slices := sl }) (l : List Nat) (s : State) :
      ∃ gr sl, l.foldl (fun s g => f g s) s = { s with groups := gr, slices := sl } := by
    induction l generalizing s with
    | nil => exact ⟨s.groups, s.slices, rfl⟩
    | cons g l ih =>
      obtain ⟨gr, sl, h⟩ := hf g s
      obtain ⟨gr', sl', h'⟩ := ih (f g s)
      exact ⟨gr', sl', by rw [List.foldl_cons, h', h]⟩
  refine outer (fun g s => (List.range 8).foldl (fun s i => s.modSlice (gidOf k g) i fun _ => Slice.start e) _) (fun g s => ?_) _ s
  obtain ⟨sl, h⟩ := inner (gidOf k g) (List.range 8) _
  rw [h]
  unfold State.beginCycles
  split <;> exact ⟨_, _, rfl⟩

theorem beginCycles_slice (s : State) (c g h i : Nat) : (s.beginCycles c g).slice h i = s.slice h i := by
  unfold State.beginCycles
  split <;> rfl

theorem modSlice_start_slice (s : State) (g i h j : Nat) (e : Addr) :
    (s.modSlice g i fun _ => Slice.start e).slice h j = s.slice h j ∨ (s.modSlice g i fun _ => Slice.start e).slice h j = Slice.start e := by
  rw [State.modSlice_slice]
  split
  · exact .inr rfl
  · exact .inl rfl

theorem startGroups_slices (s : State) (k : Nat) (e : Addr) (g i : Nat) :
    (s.startGroups k e).slice g i = s.slice g i ∨ (s.startGroups k e).slice g i = Slice.start e := by
  have inner (n : Nat) (l : List Nat) (s : State) :
      (l.foldl (fun s i => s.modSlice n i fun _ => Slice.start e) s).slice g i = s.slice g i
        ∨ (l.foldl (fun s i => s.modSlice n i fun _ => Slice.start e) s).slice g i = Slice.start e := by
    induction l generalizing s with
    | nil => exact .inl rfl
    | cons j l ih =>
      rcases ih (s.modSlice n j fun _ => Slice.start e) with h | h
      · rw [List.foldl_cons, h]; exact modSlice_start_slice s n j g i e
      · exact .inr h
  have outer (f : Nat → State → State) (hf : ∀ n s, (f n s).slice g i = s.slice g i ∨ (f n s).slice g i = Slice.start e) (l : List Nat)
      (s : State) : (l.foldl (fun s n => f n s) s).slice g i = s.slice g i ∨ (l.foldl (fun s n => f n s) s).slice g i = Slice.start e := by
    induction l generalizing s with
    | nil => exact .inl rfl
    | cons n l ih =>
      rcases ih (f n s) with h | h
      · rw [List.foldl_cons, h]; exact hf n s
      · exact .inr h
  refine outer (fun g s => (List.range 8).foldl (fun s i => s.modSlice (gidOf k g) i fun _ => Slice.start e) _) (fun n s => ?_) _ s
  rcases inner (gidOf k n) (List.range 8) _ with h | h
  · exact .inl (h.trans (beginCycles_slice _ _ _ _ _))
  · exact .inr h

/-- Every slice of every group of the team stands at the entry. -/
theorem startGroups_own (s : State) (k : Nat) (e : Addr) {g i : Nat} (hg : g < (s.team k).groups) (hi : i < 8) :
    (s.startGroups k e).slice (gidOf k g) i = Slice.start e := by
  have keep (t : State) (n j : Nat) (h : t.slice (gidOf k g) i = Slice.start e) :
      (t.modSlice n j fun _ => Slice.start e).slice (gidOf k g) i = Slice.start e := by
    rw [State.modSlice_slice]
    split
    · rfl
    · exact h
  have hit (t : State) : ((List.range 8).foldl (fun s i => s.modSlice (gidOf k g) i fun _ => Slice.start e) t).slice (gidOf k g) i
      = Slice.start e :=
    foldl_reaches (P := fun t => State.slice t (gidOf k g) i = Slice.start e) (List.mem_range.2 hi)
      (fun t => by rw [State.modSlice_slice, if_pos rfl]) (fun t j h => keep t _ j h) t
  have kept (n : Nat) (t : State) (h : t.slice (gidOf k g) i = Slice.start e) :
      ((List.range 8).foldl (fun s i => s.modSlice (gidOf k n) i fun _ => Slice.start e) t).slice (gidOf k g) i = Slice.start e := by
    generalize List.range 8 = l
    induction l generalizing t with
    | nil => exact h
    | cons j l ih => exact ih _ (keep t _ j h)
  refine foldl_reaches (P := fun t => State.slice t (gidOf k g) i = Slice.start e) (List.mem_range.2 hg) (fun t => hit _)
    (fun t n h => kept n _ ?_) s
  exact (beginCycles_slice _ _ _ _ _).trans h

/-- A team of a launch as it stands at its start (R27, R184). -/
structure Stands (cl : Nat) (e : Addr) (l : Launch) (snap cid : Nat) (d : Nat × Nat) (w k : Nat) (t : State) : Prop where
  named : k < t.names.team
  mem : k ∈ (t.cluster cl).teams
  st : (t.team k).st = .running
  core : (t.team k).core = cid
  tx : (t.team k).tx = d.1
  ty : (t.team k).ty = d.2
  twin : (t.team k).twin = w
  ctx : (t.team k).ctx = l.ctx
  groups : (t.team k).groups = l.groups
  snap : (t.team k).snap = snap
  slices : ∀ g < l.groups, ∀ i < 8, t.slice (gidOf k g) i = Slice.start e

theorem Stands.later {cl : Nat} {e : Addr} {l : Launch} {snap cid w k : Nat} {d : Nat × Nat} {s t : State}
    (h : Stands cl e l snap cid d w k s) (p : Peopled cl e s t) : Stands cl e l snap cid d w k t := by
  have same := p.teams k h.named
  obtain ⟨m, hm⟩ := p.cluster
  exact {
    named := Nat.lt_of_lt_of_le h.named p.next
    mem := by rw [hm]; exact List.mem_append_left _ h.mem
    st := by rw [same]; exact h.st
    core := by rw [same]; exact h.core
    tx := by rw [same]; exact h.tx
    ty := by rw [same]; exact h.ty
    twin := by rw [same]; exact h.twin
    ctx := by rw [same]; exact h.ctx
    groups := by rw [same]; exact h.groups
    snap := by rw [same]; exact h.snap
    slices := fun g hg i hi => (p.slices _ _).elim (fun q => q.trans (h.slices g hg i hi)) id }

/-- A team entered under the next number, before its groups start. -/
def enrolled (s : State) (m : Team) : State :=
  { s with names := { s.names with team := s.names.team + 1 }, teams := sput s.teams s.names.team m }

/-- A team entered and started: what every start does, whatever of the twin bank was loaded before. -/
theorem enrolled_effect (s : State) (cl cid w : Nat) (d : Nat × Nat) (l : Launch) (e : Addr) (m : Team) (fresh : Bool) (n c : Nat)
    (st : m.st = .running) (core : m.core = cid) (tx : m.tx = d.1) (ty : m.ty = d.2) (twin : m.twin = w) (ctx : m.ctx = l.ctx)
    (groups : m.groups = l.groups) (hn : n = s.names.team) :
    let t := (((enrolled s m).startGroups n e).occupy cid c fresh).modCluster cl fun c => { c with teams := c.teams ++ [n] }
    Peopled cl e s t ∧ Stands cl e l m.snap cid d w n t := by
  subst hn
  intro t
  have team : (enrolled s m).team s.names.team = m := by simp [enrolled, State.team]
  have others (k : Nat) (h : k < s.names.team) : (enrolled s m).team k = s.team k := by
    have : k ≠ s.names.team := by omega
    simp [enrolled, State.team, this]
  have either := startGroups_slices (enrolled s m) s.names.team e
  have own := fun {g i : Nat} (hg : g < l.groups) (hi : i < 8) =>
    startGroups_own (enrolled s m) s.names.team e (g := g) (i := i) (by rw [team, groups]; exact hg) hi
  obtain ⟨gr, sl, h⟩ := startGroups_eq (enrolled s m) s.names.team e
  have ht : t = ((({ enrolled s m with groups := gr, slices := sl } : State)).occupy cid c fresh).modCluster cl
      fun c => { c with teams := c.teams ++ [s.names.team] } := by rw [← h]
  rw [h] at either own
  have tt (k : Nat) : t.team k = (enrolled s m).team k := by rw [ht]; rfl
  have cluster : t.cluster cl = { s.cluster cl with teams := (s.cluster cl).teams ++ [s.names.team] } := by
    rw [ht, State.modCluster_cluster, if_pos rfl]
    rfl
  have next : t.names.team = s.names.team + 1 := by rw [ht]; rfl
  have slice (g i : Nat) : t.slice g i = ({ enrolled s m with groups := gr, slices := sl } : State).slice g i := by rw [ht]; rfl
  constructor
  · exact {
      next := by omega
      teams := fun k hk => (tt k).trans (others k hk)
      slices := fun g i => by rw [slice]; exact either g i
      launches := by rw [ht]; rfl
      rels := by rw [ht]; rfl
      sundial := by rw [ht]; rfl
      cluster := ⟨_, cluster⟩ }
  · have mine := (tt s.names.team).trans team
    exact {
      named := by omega
      mem := by rw [cluster]; exact List.mem_append_right _ (List.mem_singleton.2 rfl)
      st := by rw [mine, st]
      core := by rw [mine, core]
      tx := by rw [mine, tx]
      ty := by rw [mine, ty]
      twin := by rw [mine, twin]
      ctx := by rw [mine, ctx]
      groups := by rw [mine, groups]
      snap := by rw [mine]
      slices := fun g hg i hi => (slice _ _).trans (own hg hi) }

/-- The team record of a start (R27, R36, R184). -/
def newTeam (s : State) (cl cid x y w base : Nat) (pair seqr : Option Nat) : Team :=
  let c := s.cluster cl
  let l := s.launch c.launch
  { Team.absent with
    st := .running, core := cid, launch := c.launch, cluster := cl, ctx := l.ctx, part := l.part, tx := x, ty := y
    twin := w, pair := pair, groups := l.groups, scrBase := base + w * l.scr, scrSize := l.scr
    bank := if w = 1 then s.freeBank cid else cid, snap := s.startSnap l, born := c.first, seqr := seqr }

/-- The second twin's bank loaded (R301). -/
def banked (s : State) (cl cid w base : Nat) : State :=
  let l := s.launch (s.cluster cl).launch
  if w = 1 then s.loadBank cid (base + 2 * l.scr) (if w = 1 then s.freeBank cid else cid) else s

theorem startTeam_eq (s : State) (cl cid x y w base : Nat) (pair seqr : Option Nat) : s.startTeam cl cid x y w base pair seqr =
    let l := s.launch (s.cluster cl).launch
    (((enrolled (banked s cl cid w base) (newTeam s cl cid x y w base pair seqr)).startGroups s.names.team ((l.dw 0).extractLsb' 0 56)).occupy
      cid l.ctx true).modCluster cl fun c => { c with teams := c.teams ++ [s.names.team] } := by
  by_cases second : w = 1
  · simp only [State.startTeam, banked, newTeam, enrolled, if_pos second]
    rfl
  · simp only [State.startTeam, banked, newTeam, enrolled, if_neg second]

/-- The team that starts, and nothing else but what a start changes (R27). -/
theorem startTeam_effect (s : State) (cl cid x y w base : Nat) (pair seqr : Option Nat) :
    let l := s.launch (s.cluster cl).launch
    let e := (l.dw 0).extractLsb' 0 56
    let t := s.startTeam cl cid x y w base pair seqr
    Peopled cl e s t ∧ Stands cl e l (s.startSnap l) cid (x, y) w s.names.team t := by
  intro l e t
  have loaded : Peopled cl e s (banked s cl cid w base) := by
    unfold banked
    dsimp only
    split
    · rw [State.loadBank]
      generalize mwrites _ _ _ = m
      exact .of_teams rfl rfl rfl rfl rfl rfl rfl
    · exact .refl s
  have names : s.names.team = (banked s cl cid w base).names.team := by unfold banked; dsimp only; split <;> rfl
  obtain ⟨h1, h2⟩ := enrolled_effect (banked s cl cid w base) cl cid w (x, y) l e (newTeam s cl cid x y w base pair seqr) true
    s.names.team l.ctx rfl rfl rfl rfl rfl rfl rfl names
  rw [show t = _ from startTeam_eq s cl cid x y w base pair seqr]
  exact ⟨loaded.trans h1, h2⟩

/-- A position whose team, or twins, have started (R44, R300). -/
def Filled (cl : Nat) (l : Launch) (snap cid : Nat) (d : Nat × Nat) (t : State) : Prop :=
  ∀ w < l.twins, ∃ k, Stands cl ((l.dw 0).extractLsb' 0 56) l snap cid d w k t

theorem startAt_effect (s : State) (cl cid : Nat) (d : Nat × Nat) :
    let l := s.launch (s.cluster cl).launch
    let t := s.startAt cl cid d.1 d.2
    Peopled cl ((l.dw 0).extractLsb' 0 56) s t ∧ Filled cl l (s.startSnap l) cid d t := by
  intro l t
  have begun (u : State) (hu : Peopled cl ((l.dw 0).extractLsb' 0 56) s u) (w base : Nat) (pair seqr : Option Nat) :
      Peopled cl ((l.dw 0).extractLsb' 0 56) u (u.startTeam cl cid d.1 d.2 w base pair seqr)
        ∧ Stands cl ((l.dw 0).extractLsb' 0 56) l (s.startSnap l) cid d w u.names.team (u.startTeam cl cid d.1 d.2 w base pair seqr) := by
    have same : u.launch (u.cluster cl).launch = l := by rw [hu.mine, hu.launch]
    have := startTeam_effect u cl cid d.1 d.2 w base pair seqr
    simpa only [same, hu.startSnap] using this
  have go (u : State) (hu : Peopled cl ((l.dw 0).extractLsb' 0 56) s u) (base k : Nat) (seqr : Option Nat)
      (ht : t = if l.twin then (u.startTeam cl cid d.1 d.2 0 base (some (k + 1)) seqr).startTeam cl cid d.1 d.2 1 base (some k) seqr
        else u.startTeam cl cid d.1 d.2 0 base none seqr) :
      Peopled cl ((l.dw 0).extractLsb' 0 56) s t ∧ Filled cl l (s.startSnap l) cid d t := by
    rw [ht]
    by_cases two : l.twin = true
    · rw [if_pos two]
      obtain ⟨h1, h2⟩ := begun u hu 0 base (some (k + 1)) seqr
      obtain ⟨h3, h4⟩ := begun _ (hu.trans h1) 1 base (some k) seqr
      refine ⟨(hu.trans h1).trans h3, fun w hw => ?_⟩
      have : w = 0 ∨ w = 1 := by simp only [Launch.twins, if_pos two] at hw; omega
      rcases this with rfl | rfl
      · exact ⟨_, h2.later h3⟩
      · exact ⟨_, h4⟩
    · rw [if_neg two]
      obtain ⟨h1, h2⟩ := begun u hu 0 base none seqr
      refine ⟨hu.trans h1, fun w hw => ?_⟩
      have : w = 0 := by simp only [Launch.twins, if_neg two] at hw; omega
      subst this
      exact ⟨_, h2⟩
  by_cases m : l.mseq = true
  · refine go { s with names := { s.names with seqr := s.names.seqr + 1 }, seqrs := sput s.seqrs s.names.seqr (Seqr.idleFor s.names.team) }
      (.of_teams rfl rfl rfl rfl rfl rfl rfl)
      ((s.freeBase cid l.scrNeed).getD 0) s.names.team (some s.names.seqr) ?_
    simp only [t, State.startAt, l] at m ⊢
    simp only [m, if_true]
  · refine go s (.refl s) ((s.freeBase cid l.scrNeed).getD 0) s.names.team none ?_
    simp only [t, State.startAt, l] at m ⊢
    simp only [if_neg m]

/-- Positions filled one after the other. -/
theorem foldl_startAt (cl x y : Nat) (ds : List (Nat × Nat)) (s : State) :
    let l := s.launch (s.cluster cl).launch
    let t := ds.foldl (fun s d => s.startAt cl (cidOf (x + d.1) (y + d.2)) d.1 d.2) s
    Peopled cl ((l.dw 0).extractLsb' 0 56) s t ∧ ∀ d ∈ ds, Filled cl l (s.startSnap l) (cidOf (x + d.1) (y + d.2)) d t := by
  induction ds generalizing s with
  | nil => exact ⟨.refl s, by simp⟩
  | cons d ds ih =>
    intro l t
    obtain ⟨h1, h2⟩ := startAt_effect s cl (cidOf (x + d.1) (y + d.2)) d
    have ht : t = ds.foldl (fun s d => s.startAt cl (cidOf (x + d.1) (y + d.2)) d.1 d.2) (s.startAt cl (cidOf (x + d.1) (y + d.2)) d.1 d.2) := rfl
    generalize s.startAt cl (cidOf (x + d.1) (y + d.2)) d.1 d.2 = u at *
    have same : u.launch (u.cluster cl).launch = l := by rw [h1.mine, h1.launch]
    obtain ⟨h3, h4⟩ := ih u
    simp only [same, h1.startSnap, ← ht] at h3 h4
    refine ⟨h1.trans h3, fun e he => ?_⟩
    rcases List.mem_cons.1 he with rfl | he
    · exact fun w hw => (h2 w hw).imp fun k hk => hk.later h3
    · exact h4 e he

theorem Stands.of_cluster {cl : Nat} {e : Addr} {l : Launch} {snap cid w k : Nat} {d : Nat × Nat} {s : State}
    (h : Stands cl e l snap cid d w k s) (f : Cluster → Cluster) (hf : ∀ c, (f c).teams = c.teams) :
    Stands cl e l snap cid d w k (s.modCluster cl f) :=
  { h with mem := by rw [State.modCluster_cluster, if_pos rfl, hf]; exact h.mem }

/-- A cluster that starts fills all its positions (R44, R45). -/
theorem placeAt_unstarted {s : State} {cl : Nat} (x y : Nat) (h : (s.cluster cl).st = .unstarted) :
    let l := s.launch (s.cluster cl).launch
    let t := s.placeAt cl x y
    (t.cluster cl).st = .placed ∧ (t.cluster cl).x0 = x ∧ (t.cluster cl).y0 = y
      ∧ ∀ d ∈ State.spots l, Filled cl l (s.startSnap l) (cidOf (x + d.1) (y + d.2)) d t := by
  intro l t
  let u := s.modCluster cl fun c => { c with x0 := x, y0 := y, placed := s.clock, first := s.clock, slots := [] }
  have cu : u.cluster cl = { s.cluster cl with x0 := x, y0 := y, placed := s.clock, first := s.clock, slots := [] } := by simp [u]
  have ht : t = ((State.spots l).foldl (fun s d => s.startAt cl (cidOf (x + d.1) (y + d.2)) d.1 d.2) u).modCluster cl fun c => { c with st := .placed } := by
    have fresh : ((s.cluster cl).st == ClusterSt.suspended) = false := by rw [h]; rfl
    simp only [t, State.placeAt, fresh]
    rfl
  have launch : u.launch (u.cluster cl).launch = l := by rw [cu]; rfl
  obtain ⟨h1, h2⟩ := foldl_startAt cl x y (State.spots l) u
  simp only [launch] at h1 h2
  obtain ⟨m, hm⟩ := h1.cluster
  rw [ht]
  refine ⟨by simp, by simp [hm, cu], by simp [hm, cu], fun d hd w hw => ?_⟩
  exact (h2 d hd w hw).imp fun k hk => hk.of_cluster _ fun _ => rfl

/-! ### Placement -/

theorem place_eq {s : State} {p park cl x y : Nat} (hp : s.nextPlace p park = some (cl, x, y)) (hs : s.dev.st = .service)
    (ready : s.dev.parksReady.contains park = true)
    (fresh : ∀ d ∈ State.spots (s.launch (s.cluster cl).launch),
      s.needsReload (cidOf (x + d.1) (y + d.2)) (s.launch (s.cluster cl).launch).ctx = false) :
    exec (.clusterPlace p park) s = .next (s.placeAt cl x y).settle := by
  show execClusterPlace p park s = _
  have stale : ((State.spots (s.launch (s.cluster cl).launch)).any fun d =>
      s.needsReload (cidOf (x + d.1) (y + d.2)) (s.launch (s.cluster cl).launch).ctx) = false :=
    List.any_eq_false.2 fun d hd => by simp [fresh d hd]
  simp only [execClusterPlace, hp, stale, ready, hs]
  rfl

theorem placeAt_placed (s : State) (cl x y : Nat) : ((s.placeAt cl x y).cluster cl).st = .placed := by
  simp [State.placeAt]

end Sys2Proof.Machine
end


section
/-! PROOF. Cores that are cleared for another context, and reloads (R27, R58 to R61). -/

namespace Sys2Proof.Machine

/-! ### A core that is cleared (R61) -/

theorem clearCore_scratch (s : State) (cid c k : Nat) : mread (s.clearCore cid c).scratch k =
    if k / 2 ^ 19 = cid ∧ ∀ r ∈ s.regionsOn cid fun _ _ => true, ¬(r.1 ≤ k - State.scrKey cid 0 ∧ k - State.scrKey cid 0 < r.1 + r.2)
      then 0 else mread s.scratch k := by
  let keep := s.regionsOn cid fun _ _ => true
  let p (a : Nat) : Bool := !(a / 2 ^ 19 == cid && !(keep.any fun r => r.1 ≤ a % 2 ^ 19 && a % 2 ^ 19 < r.1 + r.2))
  have filtered : sget (s.clearCore cid c).scratch k = if p k then sget s.scratch k else none := sget_filter p s.scratch k
  have kept : p k = true ↔ ¬(k / 2 ^ 19 = cid ∧ ∀ r ∈ keep, ¬(r.1 ≤ k - State.scrKey cid 0 ∧ k - State.scrKey cid 0 < r.1 + r.2)) := by
    by_cases here : k / 2 ^ 19 = cid
    · have off : k - State.scrKey cid 0 = k % 2 ^ 19 := by simp only [State.scrKey]; omega
      have here' : k / 524288 = cid := here
      simp [p, off, here']
    · have away : ¬k / 524288 = cid := here
      simp [p, away]
  simp only [mread, sgetD, filtered]
  by_cases h : p k = true
  · rw [if_pos h, if_neg (kept.1 h)]
  · rw [if_neg h, if_pos (not_not.1 fun n => h (kept.2 n))]
    rfl

theorem clearCore_core (s : State) (cid c : Nat) : (s.clearCore cid c).core cid =
    { s.core cid with
      tslot0 := { (s.core cid).tslot0 with loaded := (s.core cid).tslot0.gen, table := none }
      tslot1 := { (s.core cid).tslot1 with loaded := (s.core cid).tslot1.gen, table := none }
      icache := [], tlb := (s.core cid).tlb.filter (fun t => t.ctx == c), lastCtx := some c, clearing := none } := by
  simp only [State.clearCore, State.dropTables, State.modCore_core, if_pos]
  rfl

theorem clearCore_regs (s : State) (cid c : Nat) : SameRegs s (s.clearCore cid c) := .of_eq rfl rfl rfl rfl

/-- A core is cleared for the cluster its park places next. -/
theorem coreReload_clears {s : State} {p park cl x y : Nat} {d : Nat × Nat} (hp : s.nextPlace p park = some (cl, x, y))
    (hd : d ∈ State.spots (s.launch (s.cluster cl).launch))
    (need : s.needsReload (cidOf (x + d.1) (y + d.2)) (s.launch (s.cluster cl).launch).ctx = true)
    (empty : s.queuesEmpty (cidOf (x + d.1) (y + d.2)) = true) :
    ∃ n, exec (.parkCoreReload p park (cidOf (x + d.1) (y + d.2))) s = .next
      (((s.clearCore (cidOf (x + d.1) (y + d.2)) (s.launch (s.cluster cl).launch).ctx).chargeFree (s.launch (s.cluster cl).launch).ctx).modCtx
        (s.launch (s.cluster cl).launch).ctx fun c => { c with used := c.used + BitVec.ofNat 64 n }) := by
  have here : ((State.spots (s.launch (s.cluster cl).launch)).any fun e =>
      decide (cidOf (x + e.1) (y + e.2) = cidOf (x + d.1) (y + d.2))) = true := List.any_eq_true.2 ⟨d, hd, by simp⟩
  rw [show exec (.parkCoreReload p park _) s = execParkCoreReload p park _ s from rfl]
  simp only [execParkCoreReload, hp, here, need, empty]
  exact ⟨_, rfl⟩

theorem chargeFree_core (s : State) (c k : Nat) : (s.chargeFree c).core k = s.core k := rfl

/-! ### Reloads (R58) -/

theorem reloadRelease_eq {s : State} {cid : Nat} {r : Nat × Nat} (h : (s.core cid).reload = some r) :
    exec (.coreReloadRelease cid) s = .next (((s.dropTables cid).modCore cid fun k => { k with reload := none, lastCtx := some r.1, icache := [] }).modCtx
      r.1 fun x => { x with used := x.used + BitVec.ofNat 64 (s.clock - r.2) }) := by
  show execCoreReloadRelease cid s = _
  simp only [execCoreReloadRelease, h]

theorem reloadReleased {s : State} {cid : Nat} {r : Nat × Nat} (h : (s.core cid).reload = some r) :
    Occurs (.coreReloadRelease cid) s fun t => let d := t.core cid
      d.reload = none ∧ d.lastCtx = some r.1 ∧ d.icache = [] ∧ d.tslot0.table = none ∧ d.tslot1.table = none
        ∧ (t.ctx r.1).used = (s.ctx r.1).used + BitVec.ofNat 64 (s.clock - r.2) ∧ SameRegs s t ∧ SameBytes s t := by
  have core : ((((s.dropTables cid).modCore cid fun k => { k with reload := none, lastCtx := some r.1, icache := [] }).modCtx
      r.1 fun x => { x with used := x.used + BitVec.ofNat 64 (s.clock - r.2) })).core cid =
      { s.core cid with
        tslot0 := { (s.core cid).tslot0 with loaded := (s.core cid).tslot0.gen, table := none }
        tslot1 := { (s.core cid).tslot1 with loaded := (s.core cid).tslot1.gen, table := none }
        reload := none, lastCtx := some r.1, icache := [] } := by
    simp only [State.dropTables, State.modCtx_core, State.modCore_core, if_pos]
  refine ⟨_, reloadRelease_eq h, congrArg Core.reload core, congrArg Core.lastCtx core, congrArg Core.icache core,
    congrArg (fun k => k.tslot0.table) core, congrArg (fun k => k.tslot1.table) core, ?_, .of_held rfl, .of_held rfl⟩
  rw [State.modCtx_ctx, if_pos rfl]
  rfl

/-! ### What a system core writes of an incoming context (R58, R320) -/

theorem sput_sput {α : Type} (m : Store α) (k : Nat) (x y : α) : sput (sput m k x) k y = sput m k y := by
  induction m with
  | nil => simp [sput]
  | cons e m ih =>
    obtain ⟨a, v⟩ := e
    by_cases h : k < a
    · simp [sput, h]
    · by_cases e : k = a
      · simp [sput, e]
      · simp [sput, h, e, ih]

/-- An answer that a core with a live router sends is on the fabric at once. -/
theorem answer_packets {s : State} {p : Packet} (alive : s.atDead p.dst = false) (reach : s.inReach p.ptag p.src = true) :
    ∃ q : Packet, (s.answer p .ack []).packets = sput s.packets s.names.pkt q ∧ q.held = false := by
  obtain ⟨r, hr, hs, ht, he⟩ : ∃ r : Packet, r.lead = 0 ∧ r.src = p.dst ∧ (r.ptag = p.ptag ∧ r.dst = p.src) ∧ s.answer p .ack [] = s.sendNow r :=
    ⟨{ p with src := p.dst, dst := p.src, vc := 1, load := .ack, bytes := [], ts := 0, overtaken := 0, esc := false, flips := [] },
      by simp [Packet.lead, Packet.content], rfl, ⟨rfl, rfl⟩, rfl⟩
  have put : sget (sput s.packets s.names.pkt { r with born := s.clock, held := true, queued := true }) s.names.pkt = some _ :=
    (sget_sput ..).trans (if_pos rfl)
  obtain ⟨q, hq, -, hh⟩ := State.packed_inject (s := { s with names := { s.names with pkt := s.names.pkt + 1 }, packets := _ }) put
    (by rw [ht.1, ht.2]; exact reach) (by rw [hs]; exact alive)
  refine ⟨q, ?_, hh⟩
  rw [he, State.sendNow_eq, Packet.split, hr]
  exact (congrArg Prod.fst hq).trans (sput_sput _ _ _ _)

/-- After an answer at a core with a live router nothing more waits there. -/
theorem queuesEmpty_answer {s : State} {p : Packet} {cid : Nat} (alive : s.atDead p.dst = false)
    (reach : s.inReach p.ptag p.src = true) (h : s.queuesEmpty cid = true) : (s.answer p .ack []).queuesEmpty cid = true := by
  have fabric : FabricOnly s (s.answer p .ack []) := .answer s p _ _
  obtain ⟨q, hq, hh⟩ := answer_packets alive reach
  simp only [State.queuesEmpty, Bool.and_eq_true] at h ⊢
  obtain ⟨⟨on, left⟩, none_⟩ := h
  refine ⟨⟨?_, ?_⟩, List.all_eq_true.2 fun r hr => ?_⟩
  · simpa only [State.teamsOn, fabric.teams] using on
  · simpa only [State.emptying, fabric.clusters, fabric.team] using left
  · rw [hq] at hr
    obtain ⟨e, he, rfl⟩ := List.mem_map.1 hr
    rcases mem_sput _ _ _ _ he with rfl | he
    · simp [hh]
    · exact List.all_eq_true.1 none_ e.2 (List.mem_map_of_mem he)

/-- What the first write of a context's state does to the core, which is cleared for it (R58, R61). -/
def taken (s : State) (cid ctx : Nat) : State :=
  (if (s.core cid).reload.isNone then s.clearCore cid ctx else s).modCore cid fun k => { k with reload := k.reload.or (some (ctx, s.clock)) }

/-- What such a write comes to at the core, whose answer has left. -/
def ctrlWrite (cid ctx off : Nat) (p : Packet) (s : State) : State :=
  let s := s.answer p .ack []
  let k := s.core cid
  if isSys cid || k.fenced || !s.queuesEmpty cid || k.reload.any fun r => r.1 != ctx then s
  else if off + p.bytes.length ≤ Config.scratchBytes then ((taken s cid ctx).scrWrite cid off p.bytes).readyLaunches cid else taken s cid ctx

theorem exec_ctrl {s : State} {cid ctx off n : Nat} {data : List Byte} (h : s.ctrlPacket cid ctx off data = some n) :
    exec (.ctrl cid ctx off data) s = deliver s n 15 noWait fun p s => ctrlWrite cid ctx off p s := by
  show execCtrl cid ctx off data s = _
  simp only [execCtrl, h]
  rfl

theorem ctrlWrite_of_free {s : State} {cid ctx off : Nat} {p : Packet} (sys : isSys cid = false)
    (there : ((s.answer p .ack []).core cid).fenced = false) (empty : (s.answer p .ack []).queuesEmpty cid = true)
    (same : ∀ r, ((s.answer p .ack []).core cid).reload = some r → r.1 = ctx) (room : off + p.bytes.length ≤ Config.scratchBytes) :
    ctrlWrite cid ctx off p s = ((taken (s.answer p .ack []) cid ctx).scrWrite cid off p.bytes).readyLaunches cid := by
  have other : (((s.answer p .ack []).core cid).reload.any fun r => r.1 != ctx) = false := by
    cases e : ((s.answer p .ack []).core cid).reload with
    | none => rfl
    | some r => simp [same r e]
  simp only [ctrlWrite, sys, there, empty, other, if_pos room]
  rfl

theorem taken_reload (s : State) (cid ctx : Nat) : ((taken s cid ctx).core cid).reload = some ((s.core cid).reload.getD (ctx, s.clock)) := by
  unfold taken
  rw [State.modCore_core, if_pos rfl]
  cases h : (s.core cid).reload with
  | none => simp [clearCore_core, h]
  | some r => simp [h]

theorem taken_regs (s : State) (cid ctx : Nat) : SameRegs s (taken s cid ctx) ∧ (taken s cid ctx).mem = s.mem := by
  unfold taken
  split <;> exact ⟨.of_eq rfl rfl rfl rfl, rfl⟩

theorem taken_scratch (s : State) (cid ctx k : Nat) : mread (taken s cid ctx).scratch k =
    if (s.core cid).reload = none ∧ k / 2 ^ 19 = cid
        ∧ ∀ r ∈ s.regionsOn cid fun _ _ => true, ¬(r.1 ≤ k - State.scrKey cid 0 ∧ k - State.scrKey cid 0 < r.1 + r.2)
      then 0 else mread s.scratch k := by
  show mread (if (s.core cid).reload.isNone then s.clearCore cid ctx else s).scratch k = _
  cases h : (s.core cid).reload with
  | none =>
    simp only [Option.isNone_none, if_true, true_and]
    exact clearCore_scratch s cid ctx k
  | some r => simp

theorem regionsOn_of_fabricOnly {s t : State} (h : FabricOnly s t) (cid : Nat) (p : Nat → Launch → Bool) :
    t.regionsOn cid p = s.regionsOn cid p := by
  simp only [State.regionsOn, h.launches]

theorem ctrlArrives {s : State} {cid ctx off n : Nat} {p : Packet} (h : Arrives s n p) (hl : p.load = .ctrl ctx off)
    (hn : s.ctrlPacket cid ctx off p.bytes = some n) (sys : isSys cid = false) (there : (s.core cid).fenced = false)
    (empty : (s.take n p).queuesEmpty cid = true) (same : ∀ r, (s.core cid).reload = some r → r.1 = ctx)
    (reach : s.inReach p.ptag p.src = true) (room : off + p.bytes.length ≤ Config.scratchBytes) :
    Happens (.ctrl cid ctx off p.bytes) s fun t =>
      t.scrBytes cid off p.bytes.length = p.bytes ∧ SameRegs s t ∧ t.mem = s.mem
        ∧ (t.core cid).reload = some ((s.core cid).reload.getD (ctx, s.clock))
        ∧ ∀ k, ¬(State.scrKey cid off ≤ k ∧ k < State.scrKey cid off + p.bytes.length) → mread t.scratch k =
          if (s.core cid).reload = none ∧ k / 2 ^ 19 = cid
              ∧ ∀ r ∈ s.regionsOn cid fun _ _ => true, ¬(r.1 ≤ k - State.scrKey cid 0 ∧ k - State.scrKey cid 0 < r.1 + r.2)
            then 0 else mread s.scratch k := by
  have gone : FabricOnly s (s.take n p) := .take s n p
  have fabric : FabricOnly s ((s.take n p).answer p .ack []) := gone.trans (.answer _ p _ _)
  have fenced : (((s.take n p).answer p .ack []).core cid).fenced = (s.core cid).fenced := (congrArg Core.fenced (fabric.cores cid) :)
  have reload : (((s.take n p).answer p .ack []).core cid).reload = (s.core cid).reload := (congrArg Core.reload (fabric.cores cid) :)
  have quiet := queuesEmpty_answer (s := s.take n p) (p := p) (cid := cid) (by rw [gone.atDead]; exact atDead_of_deliverable h.next)
    (by rw [gone.inReach]; exact reach) empty
  refine happens_of_arrives h (exec_ctrl hn) (by rw [hl]; rfl) (by simp [hl]) rfl ?_
  rw [ctrlWrite_of_free sys (fenced.trans there) quiet (by rw [reload]; exact same) room]
  have scratch := taken_scratch ((s.take n p).answer p .ack []) cid ctx
  have kept := taken_reload ((s.take n p).answer p .ack []) cid ctx
  obtain ⟨regs, mem⟩ := taken_regs ((s.take n p).answer p .ack []) cid ctx
  simp only [reload, regionsOn_of_fabricOnly fabric, fabric.clock, fabric.sameBytes.2.1] at scratch kept
  generalize taken ((s.take n p).answer p .ack []) cid ctx = u at *
  refine ⟨mreads_mwrites_same _ _ _, .trans fabric.sameRegs (.trans regs (.of_eq rfl rfl rfl rfl)), mem.trans fabric.sameBytes.1, kept, fun k out => ?_⟩
  show mread (mwrites u.scratch (State.scrKey cid off) p.bytes) k = _
  rw [mread_mwrites, if_neg out, scratch]

theorem coreCleared {s : State} {p park cl x y : Nat} {d : Nat × Nat} (hp : s.nextPlace p park = some (cl, x, y))
    (hd : d ∈ State.spots (s.launch (s.cluster cl).launch))
    (need : s.needsReload (cidOf (x + d.1) (y + d.2)) (s.launch (s.cluster cl).launch).ctx = true)
    (empty : s.queuesEmpty (cidOf (x + d.1) (y + d.2)) = true) :
    let cid := cidOf (x + d.1) (y + d.2)
    let l := s.launch (s.cluster cl).launch
    Occurs (.parkCoreReload p park cid) s fun t => let c := t.core cid
      c.lastCtx = some l.ctx ∧ c.icache = [] ∧ c.tslot0.table = none ∧ c.tslot1.table = none ∧ (∀ e ∈ c.tlb, e.ctx = l.ctx)
        ∧ SameRegs s t ∧ t.mem = s.mem
        ∧ ∀ k, mread t.scratch k =
          if k / 2 ^ 19 = cid ∧ ∀ r ∈ s.regionsOn cid fun _ _ => true, ¬(r.1 ≤ k - State.scrKey cid 0 ∧ k - State.scrKey cid 0 < r.1 + r.2)
            then 0 else mread s.scratch k := by
  intro cid l
  obtain ⟨n, run⟩ := coreReload_clears hp hd need empty
  have core := clearCore_core s cid l.ctx
  have tlb : ((s.clearCore cid l.ctx).core cid).tlb = (s.core cid).tlb.filter fun t => t.ctx == l.ctx := congrArg Core.tlb core
  refine ⟨_, run, congrArg Core.lastCtx core, congrArg Core.icache core, congrArg (fun k => k.tslot0.table) core,
    congrArg (fun k => k.tslot1.table) core, fun e he => ?_, .trans (clearCore_regs s cid l.ctx) (.of_held rfl), rfl,
    clearCore_scratch s cid l.ctx⟩
  change e ∈ ((s.clearCore cid l.ctx).core cid).tlb at he
  rw [tlb] at he
  simpa using (List.mem_filter.1 he).2

end Sys2Proof.Machine
end

section
/-! PROOF. The end of a team: its last release, and what it gives up (R26, R43, R56, R190). -/

namespace Sys2Proof.Machine

theorem WaitsOnly.twinGone (s : State) (q n : Nat) : WaitsOnly s (s.twinGone q n) := by
  unfold State.twinGone
  dsimp only
  refine .ite (.refl s) (.ite ((modSeqr s q _).trans (seqGo _ q)) (.ite ?_ (.refl s)))
  exact (modSeqr s q _).trans (seqCheck _ q)

theorem crew_settleWords (s : State) (p : Nat) : (s.settleWords p).crew = s.crew := by
  unfold State.settleWords
  exact crew_foldl (f := fun s v => s.emit (.irq (p + 1) v)) _ (fun _ _ => rfl) _

theorem crew_writeWord (s : State) (p pa : Nat) (bs : List Byte) (head : Bool) (vectors : List Nat) :
    (s.writeWord p pa bs head vectors).crew = s.crew := by
  simp only [State.writeWord, crew_settleWords, crew_modPart, crew_deviceCommit]

theorem crew_gridDone (s : State) (k : Nat) : (s.gridDone k).crew = s.crew := by
  have ended : ((s.dropPins k).modLaunch k fun l => { l with st := .complete }).crew = s.crew := rfl
  simp only [State.gridDone]
  generalize (s.dropPins k).modLaunch k _ = u at *
  split
  · rw [crew_writeWord]
    split
    · exact (FabricOnly.sendNow u _).crew.trans ended
    · exact ended
  · split
    · exact (FabricOnly.sendNow u _).crew.trans ended
    · exact ended

theorem crew_clusterEnd (s : State) (cl : Nat) : (s.clusterEnd cl).crew = s.crew := by
  unfold State.clusterEnd
  dsimp only
  split
  · split
    · exact crew_gridDone _ _
    · rfl
  · rfl

/-- A team that has ended: done, with nothing pending, no tiles and no groups (R26, R242). -/
theorem teamEnd_effect (s : State) (k : Nat) : ((s.teamEnd k).team k).st = .done ∧ ((s.teamEnd k).team k).pending = []
    ∧ ((s.teamEnd k).team k).acc = [] ∧ ∀ e ∈ (s.teamEnd k).groups, tidOf e.1 ≠ k := by
  have acc : ((((s.leaveCore k).purgeTeam k).eraseTeam k).team k).acc = [] := leaveCore_acc s k
  have groups : ∀ e ∈ (((s.leaveCore k).purgeTeam k).eraseTeam k).groups, tidOf e.1 ≠ k := fun e he => by
    simpa [keyOfTeam, tidOf] using (List.mem_filter.1 he).2
  generalize hu : ((s.leaveCore k).purgeTeam k).eraseTeam k = u at *
  set v := u.modTeam k fun t => { t with st := .done, pending := [], overlay := [] } with hv
  have crew : (s.teamEnd k).crew = v.crew := by
    simp only [State.teamEnd, crew_clusterEnd, hu]
    split
    · split <;> rfl
    · rfl
  have teams : (s.teamEnd k).teams = v.teams := congrArg Prod.fst crew
  have same : (s.teamEnd k).groups = v.groups := congrArg Prod.snd crew
  have team : (s.teamEnd k).team k = { u.team k with st := .done, pending := [], overlay := [] } := by
    rw [State.team, teams]
    exact (State.modTeam_team ..).trans (if_pos rfl)
  rw [team, same]
  exact ⟨rfl, rfl, acc, groups⟩

/-! ### The steps of a team's end -/

/-- The team has opened its last release. -/
def lastRelease (s : State) (k : Nat) : State :=
  (s.openRelease k none .device (.teamDone k)).2.modTeam k fun t => { t with st := .finishing }

/-- The team releases, and finishes; a twin that stays behind is followed (R190, R306). -/
def finishing (s : State) (k : Nat) : State :=
  let u := lastRelease s k
  match (s.team k).seqr with
  | some q => if (s.team k).pair.any u.teamLive then u.twinGone q (s.team k).twin else u
  | none => u

theorem teamDone_begins {s : State} {k : Nat} (sys : isSys (s.team k).core = false) (live : (s.ctx (s.team k).ctx).killing = none)
    (done : ∀ g ∈ s.teamGroups k, s.groupDone g = true) (st : (s.team k).st = .running) (stays : (s.cluster (s.team k).cluster).vacating = none)
    (idle : s.teamIdle k = true) : exec (.teamDone k) s = .next (finishing s k).settle := by
  show execTeamDone k s = _
  have all : (s.teamGroups k).all s.groupDone = true := List.all_eq_true.2 done
  simp only [execTeamDone, sys, live, all, st, stays, idle]
  rfl

theorem finishing_effect (s : State) (k : Nat) :
    ((finishing s k).team k).st = .finishing ∧ SameRegs s (finishing s k) ∧ SameBytes s (finishing s k)
      ∧ ∃ r, sget (finishing s k).rels s.names.rel = some r ∧ r.tid = k ∧ r.scope = .device ∧ r.st = .waiting ∧ r.purpose = .teamDone k := by
  have waits : WaitsOnly (lastRelease s k) (finishing s k) := by
    unfold finishing
    dsimp only
    split
    · exact .ite (.twinGone _ _ _) (.refl _)
    · exact .refl _
  have team : (finishing s k).team k = (lastRelease s k).team k := (congrArg (fun x => State.team x k) waits :)
  have rels : (finishing s k).rels = (lastRelease s k).rels := (congrArg State.rels waits :)
  refine ⟨by rw [team, lastRelease]; simp, .of_held (waits.held.trans rfl), .of_held (waits.held.trans rfl), ?_⟩
  rw [rels]
  exact ⟨_, (sget_sput ..).trans (if_pos rfl), rfl, rfl, rfl, rfl⟩

theorem teamDone_ends {s : State} {k n : Nat} {r : Release} (sys : isSys (s.team k).core = false) (live : (s.ctx (s.team k).ctx).killing = none)
    (done : ∀ g ∈ s.teamGroups k, s.groupDone g = true) (st : (s.team k).st = .finishing)
    (found : (s.rels.find? fun e => e.2.purpose == .teamDone k) = some (n, r)) (complete : s.relDone n = true)
    (installed : s.allInstalled k = true) : exec (.teamDone k) s = .next ((s.forgetRel n).teamEnd k).settle := by
  show execTeamDone k s = _
  have all : (s.teamGroups k).all s.groupDone = true := List.all_eq_true.2 done
  simp only [execTeamDone, sys, live, all, st, found, complete, installed]
  rfl

end Sys2Proof.Machine

open Sys2Proof.Machine

/-- Settles O46: dispatch and placement by what each start makes of a team and its slices, reloads by the core that is
cleared, a team's end by what leaves with it. -/
theorem dispatchPlacementAndTeamEnd : Obligations.DispatchPlacementAndTeamEnd := by
  unfold Obligations.DispatchPlacementAndTeamEnd
  refine ⟨⟨fun s p k hs hk => ⟨fun h => ?_, fun park h hp ready hx hy => ?_⟩, fun s p park cl x y hp =>
    ⟨fun hs ready fresh => ⟨fun h => ?_, fun h => ?_⟩, fun d hd need empty => coreCleared hp hd need empty⟩,
    fun s cid ctx off n p => ⟨fun h hl hd hn sys there empty same reach room => ctrlArrives h hl hn sys there empty same reach room,
      fun r h => reloadReleased h⟩⟩,
    fun s k sys live done => ⟨fun st stays idle => ?_, fun n r st found complete installed => ?_⟩⟩
  · exact ⟨_, dispatch_begins hs hk h, modLaunch_launches s k _⟩
  · exact ⟨_, dispatch_hands hs hk h hp ready, handBlock_effect s k park hx hy⟩
  · exact ⟨_, place_eq hp hs ready fresh, placeAt_placed s cl x y⟩
  · obtain ⟨h1, h2, h3, h4⟩ := placeAt_unstarted x y h
    refine ⟨_, place_eq hp hs ready fresh, h1, h2, h3, fun d hd w hw => ?_⟩
    obtain ⟨k, z⟩ := h4 d hd w hw
    refine ⟨k, z.mem, z.st, z.core, z.tx, z.ty, z.twin, z.ctx, z.groups, z.snap, fun g hg i hi => ?_⟩
    rw [z.slices g hg i hi]
    exact ⟨rfl, rfl, rfl, rfl, rfl, rfl⟩
  · exact ⟨_, teamDone_begins sys live done st stays idle, finishing_effect s k⟩
  · exact ⟨_, teamDone_ends sys live done st found complete installed, teamEnd_effect _ k⟩
end

section
/-! PROOF. LAUNCH, VACATE, CTXKILL and HALTCORE: the frame of the instructions that end a region (R345, R357), and what
an operation that watches a vacation or a kill leaves alone. -/

namespace Sys2Proof.Machine

namespace State
variable {m : Meta} {s t : State} {iss : Iss} {body : Iss → State → Res}

/-- The run of an instruction that is complete at issue, its next one a region entry or not. -/
theorem ended_of_done (h : Ready s m iss) (hb : body iss (s.issuing m iss) = .done t) (hp : t.arrPoison = s.arrPoison) :
    Ended m iss t (s.run m iss body) := by
  obtain ⟨he, hm⟩ := early_of_ready h
  simp only [early, maskEarly] at he hm
  have ho (p : Hazard → Bool) := t.overtake_readable m iss false _ (m.readyAt (s.issueAt m iss) (s.issueL m iss))
    ((s.dstHazards m iss).filter p) (le_readyAt ..) fun x hx =>
      h.results x (List.mem_of_mem_filter (List.mem_of_mem_filter hx))
  unfold run
  dsimp only
  rw [if_neg (by simpa [hm] using h.acts)]
  simp only [he, Bool.false_eq_true, if_false]
  simp only [issuing] at hb
  simp only [hb, hm, settleDests, ho, Bool.false_eq_true, if_false, rewritten_clean t m iss (hp.trans h.sound)]
  generalize hu : (((t.noteIssue iss (s.issueL m iss)).busyUntil iss.gid m.c (m.readyAt (s.issueAt m iss) (s.issueL m iss))).addHazards
    m iss false (some (m.readyAt (s.issueAt m iss) (s.issueL m iss))) 0) = u
  have hr : Retired iss t (u.advance iss) := by
    subst hu
    refine advance_retired _ _ _ h.gang.1 h.gang.2.2 ?_ ?_ fun k => ?_
    · exact (Kept.noteIssue ..).trans ((Kept.busyUntil ..).trans (Kept.addHazards ..))
    · rw [addHazards_lastC, busyUntil_lastC, noteIssue_lastC]
    · show ((((t.noteIssue iss _).busyUntil iss.gid _ _)).team k) = _
      rw [busyUntil_team, noteIssue_team]
  unfold Ended moveOn
  split
  · exact ⟨_, hr, rfl⟩
  · exact hr

theorem finishes_of_ready {i : Instr} {post : State → Prop} (h : Ready s m iss) (hi : exec i s = instr m s body)
    (hb : body iss (s.issuing m iss) = .done t) (hp : t.arrPoison = s.arrPoison) (ht : post t) : Finishes i m s iss post :=
  ⟨t, _, by rw [hi, instr_of_ready h], ended_of_done h hb hp, ht⟩

/-- The run of an instruction whose core holds it at issue, with what it has begun. -/
theorem run_of_holding (h : Ready s m iss) (hb : body iss (s.issuing m iss) = .holding t) : s.run m iss body = t := by
  obtain ⟨he, hm⟩ := early_of_ready h
  simp only [early, maskEarly] at he hm
  unfold run
  dsimp only
  rw [if_neg (by simpa [hm] using h.acts)]
  simp only [he, Bool.false_eq_true, if_false]
  simp only [issuing] at hb
  rw [hb]

/-- The earlier results that an instruction overtakes, none of a k register. -/
def overtaken (s : State) (m : Meta) (iss : Iss) : List Hazard :=
  (s.dstHazards m iss).filter fun h => match h.reg with | .k _ => false | _ => true

/-- The run of an instruction that ends when an operation does. -/
theorem run_of_op {o : Op} (h : Ready s m iss) (hb : body iss (s.issuing m iss) = .op t o) (hf : m.opFlag = true) :
    s.run m iss body
      = ((t.addOp m iss (s.issueL m iss) false (s.overtaken m iss) o).settleGroup iss.gid).moveOn m iss := by
  obtain ⟨he, hm⟩ := early_of_ready h
  simp only [early, maskEarly] at he hm
  unfold run
  dsimp only
  rw [if_neg (by simpa [hm] using h.acts)]
  simp only [he, Bool.false_eq_true, if_false]
  simp only [issuing] at hb
  simp only [hb, hm, hf, if_true]
  rfl

/-! ### A result written in every slice -/

/-- A result is one destination written from a value that is the same in every slice (R357). -/
theorem result_eq (hm : m.vec = false) (s : State) (iss : Iss) (wide : Bool) (d : Opnd) (x : DWord) :
    s.result iss wide d x = s.perTarget iss m.vec m.c.pm wide d fun _ _ => x := by
  simp only [result, perTarget, targets, hm, Bool.false_eq_true, if_false, List.map_map, List.foldl_map]
  rfl

section
variable {wide : Bool} {d : Opnd}

theorem rdW_result (hg : iss.slices.Nodup ∧ iss.slices ≠ [] ∧ ∀ i ∈ iss.slices, i < 8) (hd : d.dstW wide = true)
    (hv : d.isV = false) (s : State) (x : DWord) : ∀ i ∈ iss.slices, (s.result iss wide d x).rdW wide iss.gid i 0 d = fit wide x := by
  obtain ⟨hn, -, h8⟩ := hg
  intro i hi
  let m : Meta := .reg ⟨0, 0, 0⟩ false 0 [] []
  rw [result_eq (m := m) rfl]
  exact perTarget_value s m iss wide d (fun _ _ => x) hn h8 hd hv.symm (i, 0) (List.mem_map.mpr ⟨i, hi, rfl⟩)

theorem regsOnly_result (hm : m.vec = false) (h8 : ∀ i ∈ iss.slices, i < 8) (hd : d.dstW wide = true) (hv : d.isV = false)
    (hr : (d, wide) ∈ m.dsts) (s : State) (x : DWord) : RegsOnly m iss s (s.result iss wide d x) := by
  rw [result_eq hm]
  exact perTarget_regsOnly s m iss wide d (fun _ _ => x) h8 hd (fun e => by simp [hv] at e) fun r h =>
    List.mem_flatMap.mpr ⟨_, hr, h⟩

/-- A result changes registers alone. -/
theorem regless_result (s : State) (iss : Iss) (wide : Bool) (d : Opnd) (x : DWord) :
    (s.result iss wide d x).regless = s.regless :=
  foldl_keep _ regless _ _ fun _ _ _ => wrW_regless ..

end

/-! ### Operations that only watch -/

end State

/-- The stage only waits for the end of a vacation or of a kill. -/
def Stage.watches : Stage → Bool
  | .awaitVacate _ | .awaitKill _ => true
  | _ => false

namespace State
variable {m : Meta} {s t : State} {iss : Iss} {gid : Nat}

/-- A group whose operations only watch, and which nothing restarts. -/
def OnlyWatches (s : State) (gid : Nat) : Prop :=
  (∀ o ∈ (s.group gid).ops, ∀ x ∈ o.stages, x.watches = true) ∧ (s.group gid).restarts = []

/-- The clusters and contexts of a state. -/
def lots (s : State) : Store Cluster × Store Context := (s.clusters, s.ctxs)

theorem OnlyWatches.modOp (h : s.OnlyWatches gid) (oid : Nat) {f : Op → Op}
    (hf : ∀ o, ∀ x ∈ (f o).stages, x ∈ o.stages) : (s.modOp gid oid f).OnlyWatches gid := by
  simp only [OnlyWatches, State.modOp, modGroup_group, if_pos]
  refine ⟨fun o ho x hx => ?_, h.2⟩
  obtain ⟨p, hp, rfl⟩ := List.mem_map.mp ho
  split at hx
  · exact h.1 p hp x (hf p x hx)
  · exact h.1 p hp x hx

theorem OnlyWatches.runStages (h : s.OnlyWatches gid) (oid n : Nat) :
    (s.runStages gid oid n).OnlyWatches gid ∧ (s.runStages gid oid n).lots = s.lots := by
  induction n generalizing s with
  | zero => exact ⟨h, rfl⟩
  | succ n ih =>
    have pop := ih (h.modOp oid (f := fun o => { o with stages := o.stages.drop 1 }) fun o x hx => List.mem_of_mem_drop hx)
    cases ho : s.opOf gid oid with
    | none => simpa only [State.runStages, ho, and_true] using h
    | some o =>
      cases hs : o.stages with
      | nil => simpa only [State.runStages, ho, hs, and_true] using h
      | cons x rest =>
        have hx : x.watches = true := h.1 o (List.mem_of_find?_eq_some ho) x (by simp [hs])
        cases x with
        | awaitVacate l =>
          simp only [State.runStages, ho, hs]
          split
          · exact ⟨h, rfl⟩
          · exact pop
        | awaitKill c =>
          simp only [State.runStages, ho, hs]
          split
          · exact pop
          · exact ⟨h, rfl⟩
        | _ => cases hx

theorem OnlyWatches.finishOp (h : s.OnlyWatches gid) (oid : Nat) :
    (s.finishOp gid oid).OnlyWatches gid ∧ (s.finishOp gid oid).lots = s.lots := by
  unfold State.finishOp
  split
  · split
    · have done := h.modOp oid (f := fun o => { o with done := true }) fun o x hx => hx
      simp only [OnlyWatches, modGroup_group, if_pos] at done ⊢
      exact ⟨done, rfl⟩
    · exact ⟨h, rfl⟩
  · exact ⟨h, rfl⟩

/-- Settling operations that only watch changes no cluster and no context. -/
theorem OnlyWatches.lots_settleGroup (h : s.OnlyWatches gid) : (s.settleGroup gid).lots = s.lots := by
  have fold (l : List Nat) : ∀ t : State, t.OnlyWatches gid →
      (l.foldl (fun s oid => (s.runStages gid oid 16).finishOp gid oid) t).OnlyWatches gid
        ∧ (l.foldl (fun s oid => (s.runStages gid oid 16).finishOp gid oid) t).lots = t.lots := by
    induction l with
    | nil => exact fun t ht => ⟨ht, rfl⟩
    | cons oid l ih =>
      intro t ht
      obtain ⟨h1, e1⟩ := ht.runStages oid 16
      obtain ⟨h2, e2⟩ := h1.finishOp oid
      obtain ⟨h3, e3⟩ := ih _ h2
      exact ⟨h3, e3.trans (e2.trans e1)⟩
  obtain ⟨ht, e⟩ := fold ((s.group gid).ops.map Op.oid) s h
  unfold State.settleGroup
  generalize ((s.group gid).ops.map Op.oid).foldl (fun s oid => (s.runStages gid oid 16).finishOp gid oid) s = t at ht e
  simp only [State.tryRestarts, ht.2, List.foldl_nil]
  split
  · exact e
  · exact e

theorem lots_of_quiet (h : t.quiet = s.quiet) : t.lots = s.lots := by
  show (t.quiet.clusters, t.quiet.ctxs) = _
  rw [h]; rfl

@[simp] theorem lots_moveOn (s : State) (m : Meta) (iss : Iss) : (s.moveOn m iss).lots = s.lots := by
  have slices (t : State) (g : Nat) (is : List Nat) (f : Slice → Slice) : (t.modSlices g is f).lots = t.lots :=
    lots_of_quiet (modSlices_quiet ..)
  have next : (s.advance iss).lots = s.lots := by
    unfold advance
    split
    · exact slices ..
    · exact (lots_of_quiet (Kept.dropRuns _ iss iss.gid).rest).trans (slices ..)
  unfold moveOn
  split
  · exact (slices ..).trans next
  · exact next

@[simp] theorem lots_addOp (s : State) (m : Meta) (iss : Iss) (l : Nat) (b : Bool) (waw : List Hazard) (o : Op) :
    (s.addOp m iss l b waw o).lots = s.lots := (rfl)

/-- An operation that only watches is entered where there was none and nothing restarts. -/
theorem onlyWatches_addOp {o : Op} (l : Nat) (b : Bool) (waw : List Hazard) (hi : Idle t iss) (ho : ∀ x ∈ o.stages, x.watches = true) :
    (t.addOp m iss l b waw o).OnlyWatches iss.gid := by
  obtain ⟨h1, h2⟩ := hi
  have e (n : Nat) : State.group { t with names := { t.names with op := n } } iss.gid = t.group iss.gid := rfl
  simp only [addOp, OnlyWatches, addHazards, noteIssue, modTeam_group, modGroup_group, modCore_group, if_pos, e, h1, h2]
  simpa using ho

/-- An instruction that ends with an operation that only watches leaves the registers, bytes, clusters and contexts as
its effect `t` does. -/
theorem run_of_watch {body : Iss → State → Res} {o : Op} (h : Ready s m iss) (hb : body iss (s.issuing m iss) = .op t o)
    (hf : m.opFlag = true) (hi : Idle t iss) (ho : ∀ x ∈ o.stages, x.watches = true) :
    (s.run m iss body).held = t.held ∧ (s.run m iss body).lots = t.lots := by
  rw [run_of_op h hb hf]
  generalize hu : t.addOp m iss (s.issueL m iss) false (s.overtaken m iss) o = u
  have eh : u.held = t.held := by rw [← hu]; simp
  have el : u.lots = t.lots := by rw [← hu]; simp
  have hw : u.OnlyWatches iss.gid := by rw [← hu]; exact onlyWatches_addOp _ _ _ hi ho
  exact ⟨by simpa using eh, by rw [lots_moveOn, hw.lots_settleGroup, el]⟩

end State
end Sys2Proof.Machine
end

section
/-! PROOF. What LAUNCH's read of its record leaves alone, and the vacations and kills that VACATE and CTXKILL ask for. -/

namespace Sys2Proof.Machine

namespace State
variable {s t : State} {iss : Iss}

/-- The poisoned register sectors and the groups of a state. -/
def bench (s : State) : List Nat × Store Group := (s.arrPoison, s.groups)

theorem bench_result (iss : Iss) (wide : Bool) (d : Opnd) (x : DWord) : (s.result iss wide d x).bench = s.bench := by
  show ((s.result iss wide d x).regless.arrPoison, (s.result iss wide d x).regless.groups) = _
  rw [regless_result]; rfl

theorem bench_pickFree {α : Type} (l : List α) : (s.pickFree l).2.bench = s.bench := by
  induction l generalizing s with
  | nil => rfl
  | cons x l ih =>
    simp only [pickFree]
    split
    · rfl
    · exact ih

theorem bench_fillTlb (cid ctx va : Nat) (e : DWord) (bits : Nat) : (s.fillTlb cid ctx va e bits).bench = s.bench := by
  simp only [fillTlb]; split <;> rfl

theorem bench_translate (cid tid : Nat) (level : Level) (need : Need) (va : Nat) :
    (s.translate cid tid level need va).2.bench = s.bench := by
  simp only [translate, lookup]
  (repeat' split) <;> simp only [bench_fillTlb, bench_pickFree]

theorem bench_recordLine (tid pa : Nat) : (s.recordLine tid pa).2.bench = s.bench := by
  unfold recordLine
  split
  · exact List.foldlRecOn (motive := fun r : List Byte × State => r.2.bench = s.bench) _ _ rfl fun r hr _ _ => hr
  · rfl

end State

/-- Of the state that the read of a record leaves, `P` holds. -/
def RecRead.Leaves (P : State → Prop) : RecRead → Prop
  | .wait => True
  | .got _ t | .page _ t | .unreadable t | .badGroup _ t | .poisoned _ t => P t

namespace State
variable {s t : State} {iss : Iss}

theorem bench_readRecord (va n : Nat) (bs : List Byte) :
    (s.readRecord iss va n bs).Leaves fun t => t.bench = s.bench := by
  induction n generalizing s va bs with
  | zero => rfl
  | succ n ih =>
    have same := s.bench_translate iss.cid iss.tid (s.group iss.gid).level .read1 va
    simp only [readRecord]
    (repeat' split) <;> try exact same
    · trivial
    · trivial
    · have next := ih (s := ((s.translate iss.cid iss.tid (s.group iss.gid).level .read1 va).2.recordLine iss.tid ‹Nat›).2) (va + 64)
      rw [bench_recordLine, same] at next
      exact next _

/-- Where no group has an operation outstanding, settling changes nothing. -/
theorem settle_of_quiescent (h : Quiescent s) : s.settle = s := by
  have none : skeysWhere s.groups (fun g => !g.ops.isEmpty) = [] := by
    simpa [skeysWhere, Quiescent] using h
  unfold settle
  rw [none]; rfl

theorem quiescent_of_bench (h : t.bench = s.bench) (hs : Quiescent s) : Quiescent t := by
  have e : t.groups = s.groups := congrArg Prod.snd h
  rw [Quiescent, e]; exact hs

theorem quiescent_modGroup (g : Nat) {f : Group → Group} (hf : (f (s.group g)).ops = (s.group g).ops) (hs : Quiescent s) :
    Quiescent (s.modGroup g f) := by
  intro e he
  rcases mem_sput _ _ _ _ he with rfl | he
  · show (f (s.group g)).ops = []
    rw [hf, group, sgetD]
    cases hg : sget s.groups g with
    | none => rfl
    | some x => exact hs _ (mem_of_sget hg)
  · exact hs e he

theorem bench_forgetRel (n : Nat) : (s.forgetRel n).bench = s.bench := by
  unfold forgetRel; (repeat' split) <;> rfl

/-! ### Vacations and kills asked for -/

/-- A cluster whose vacation began at a cycle; another that is begun then changes nothing of it. -/
theorem vacating_beginVacate (s : State) (c q : Nat) (heir : Option Nat) :
    ((s.beginVacate c heir).cluster q).vacating = if q = c then some s.clock else (s.cluster q).vacating := by
  simp only [beginVacate, modCluster_cluster]
  split <;> rfl

/-- VACATE chooses clusters whose vacation begins now, and changes nothing else of the machine but their contexts' save
slots (R353). -/
theorem selectVacate_begins (l : List Nat) : ∀ (s : State) (n : Nat),
    (∀ q ∈ (s.selectVacate n l).1, ((s.selectVacate n l).2.2.cluster q).vacating = some s.clock)
      ∧ (∀ q, (s.cluster q).vacating = some s.clock → ((s.selectVacate n l).2.2.cluster q).vacating = some s.clock)
      ∧ ∃ cs xs, (s.selectVacate n l).2.2 = { s with clusters := cs, ctxs := xs } := by
  induction l with
  | nil => exact fun s n => ⟨by simp [selectVacate], fun _ h => h, s.clusters, s.ctxs, rfl⟩
  | cons c l ih =>
    intro s n
    simp only [selectVacate]
    split
    · obtain ⟨h1, h2, cs, xs, h3⟩ := ih (s.beginVacate c none) (n - (s.launch (s.cluster c).launch).cw * (s.launch (s.cluster c).launch).ch)
      refine ⟨fun q hq => ?_, fun q hq => h2 q ?_, cs, xs, h3⟩
      · rcases List.mem_cons.mp hq with rfl | hq
        · exact h2 _ (by rw [vacating_beginVacate, if_pos rfl]; rfl)
        · exact h1 q hq
      · rw [vacating_beginVacate]; split
        · rfl
        · exact hq
    · exact ih s n

end State
end Sys2Proof.Machine
end

section
/-! PROOF. LAUNCH, VACATE, CTXKILL and HALTCORE as they stand at issue. -/

namespace Sys2Proof.Machine

variable {c : Ctl} {halt wide : Bool} {d a b : Opnd} {s t : State} {iss : Iss} {m : Meta}

/-- A scalar destination is no vector register, and is one of its width. -/
theorem dst_of_isS (h : d.isS = true) : d.dstW false = true ∧ d.isV = false := by
  cases d <;> simp_all [Opnd.isS, Opnd.isV, Opnd.dstW, Opnd.dst32]

theorem dst_of_isEvenS (h : d.isEvenS = true) : d.dstW true = true ∧ d.isV = false := by
  cases d <;> simp_all [Opnd.isEvenS, Opnd.isV, Opnd.dstW, Opnd.dst64]

theorem State.atLevel_one {g : Nat} : s.atLevel g 1 = true ↔ (s.group g).level ≠ .l0 := by
  cases h : (s.group g).level <;> simp [State.atLevel, h, Level.num]

theorem State.atLevel_two {g : Nat} : s.atLevel g 2 = true ↔ (s.group g).level = .l2 := by
  cases h : (s.group g).level <;> simp [State.atLevel, h, Level.num]

/-- An instruction whose whole effect is a result written in every slice. -/
theorem finishes_of_result {i : Instr} {body : Iss → State → Res} {d : Opnd} {x : DWord} {u : State} {post : State → Prop}
    (h : Ready s m iss) (hi : exec i s = instr m s body) (hb : body iss (s.issuing m iss) = .done (u.result iss wide d x))
    (hu : u.arrPoison = s.arrPoison) (ht : post (u.result iss wide d x)) : Finishes i m s iss post :=
  State.finishes_of_ready h hi hb ((congrArg State.arrPoison (State.regless_result u iss wide d x)).trans hu) ht

/-- What a result of 32 bits gives, where it is the whole effect. -/
theorem gives_of_result {v : Nat} {x : DWord} (hx : x = BitVec.ofNat 64 v)
    (hg : iss.slices.Nodup ∧ iss.slices ≠ [] ∧ ∀ i ∈ iss.slices, i < 8)
    (hd : d.isS = true) (hm : m.vec = false) (hr : (d, false) ∈ m.dsts) :
    RegsOnly m iss (s.issuing m iss) ((s.issuing m iss).result iss false d x)
      ∧ ∀ i ∈ iss.slices, ((s.issuing m iss).result iss false d x).rdW false iss.gid i 0 d = fit false (BitVec.ofNat 64 v) := by
  obtain ⟨hd, hv⟩ := dst_of_isS hd
  exact ⟨State.regsOnly_result hm hg.2.2 hd hv hr _ _, hx ▸ State.rdW_result hg hd hv _ _⟩

/-! ### HALTCORE -/

/-- HALTCORE's effect at issue (R358). -/
def haltcoreBody (halt : Bool) (d a : Opnd) (iss : Iss) (s : State) : Res :=
  if !s.atLevel iss.gid 2 then .trap s iss.priv
  else
    let x := (s.rd32 iss.gid iss.lead 0 a).toNat
    let cid := cidOf (fld x 0 6) (fld x 6 5)
    if (s.teamsOn cid).isEmpty && !s.emptying cid then
      .done ((s.modCore cid fun k => { k with parked := halt }).result iss false d 1)
    else .done (s.result iss false d 0)

theorem exec_haltcore (c : Ctl) (halt : Bool) (d a : Opnd) (s : State) :
    exec (.haltcore c halt d a) s = instr (.system c [(d, false)] [(a, false)]) s (haltcoreBody halt d a) := rfl

theorem haltcore_core (x : Nat) : cidOf (fld x 0 6) (fld x 6 5) = cidOf (x % 64) (x / 64 % 32) := by
  simp [fld]

/-! ### VACATE -/

/-- VACATE's effect at issue (R353, R358). -/
def vacateBody (m : Meta) (d a b : Opnd) (iss : Iss) (s : State) : Res :=
  if !s.atLevel iss.gid 1 then .trap s iss.priv
  else
    match s.gridOf (s.cregPart iss) (s.rd32 iss.gid iss.lead 0 a).toNat with
    | none => .done (s.result iss false d 0)
    | some k =>
      let (cs, area, s) := s.selectVacate (s.rd32 iss.gid iss.lead 0 b).toNat (s.youngest k false)
      .op (s.result iss false d (BitVec.ofNat 64 area)) (Op.of iss m [.awaitVacate cs])

theorem exec_vacate (c : Ctl) (d a b : Opnd) (s : State) :
    exec (.vacate c d a b) s
      = instr (.systemOp c [(d, false)] [(a, false), (b, false)]) s (vacateBody (.systemOp c [(d, false)] [(a, false), (b, false)]) d a b) :=
  rfl

/-- CTXKILL's effect at issue (R352, R358). -/
def ctxkillBody (m : Meta) (d a : Opnd) (iss : Iss) (s : State) : Res :=
  if !s.atLevel iss.gid 1 then .trap s iss.priv
  else
    let cx := (s.rd32 iss.gid iss.lead 0 a).toNat % 4096
    if s.ctxLive (s.cregPart iss) cx then
      let k : Kill := { kind := 3, launch := 0, reason := 0, gslot := 0, cid := iss.cid, body := [] }
      .op ((s.requestKill cx k).result iss false d 1) (Op.of iss m [.awaitKill cx])
    else .done (s.result iss false d 0)

theorem exec_ctxkill (c : Ctl) (d a : Opnd) (s : State) :
    exec (.ctxkill c d a) s
      = instr (.systemOp c [(d, false)] [(a, false)]) s (ctxkillBody (.systemOp c [(d, false)] [(a, false)]) d a) :=
  rfl

/-- A result leaves the clusters, the contexts, the bytes and what an operation that only watches needs. -/
theorem result_kept (s : State) (iss : Iss) (wide : Bool) (d : Opnd) (x : DWord) :
    (s.result iss wide d x).lots = s.lots ∧ SameBytes s (s.result iss wide d x) ∧ (s.result iss wide d x).groups = s.groups := by
  have e := State.regless_result s iss wide d x
  have clusters := congrArg State.clusters e
  have ctxs := congrArg State.ctxs e
  have mem := congrArg State.mem e
  have scratch := congrArg State.scratch e
  have tiles := congrArg State.tiles e
  have groups := congrArg State.groups e
  exact ⟨Prod.ext clusters ctxs, ⟨mem, scratch, tiles⟩, groups⟩

theorem idle_of_groups (h : t.groups = s.groups) (hi : Idle s iss) : Idle t iss := by
  simpa only [Idle, State.group, h] using hi

/-- Scalar registers read alike where what is held is alike. -/
theorem rdW_of_held (h : t.held = s.held) (hd : d.isS = true) (g i l : Nat) : t.rdW false g i l d = s.rdW false g i l d := by
  obtain ⟨-, hs, -⟩ := SameRegs.of_held h
  cases d <;> simp_all [State.rdW, State.rd32, Opnd.isS]

/-- VACATE or CTXKILL where it begins: its result is written, the clusters and contexts are those of `v`, and no byte is
other than it was. -/
theorem watch_of_ready {i : Instr} {body : Iss → State → Res} {v : State} {x : DWord} {o : Op} (h : Ready s m iss)
    (hi : exec i s = instr m s body) (hb : body iss (s.issuing m iss) = .op (v.result iss false d x) o) (hf : m.opFlag = true)
    (ho : ∀ x ∈ o.stages, x.watches = true) (hid : Idle s iss) (hg : v.groups = s.groups) (hv : SameBytes s v)
    (hd : d.isS = true) :
    ∃ u, exec i s = .next u ∧ SameBytes s u ∧ u.lots = v.lots
      ∧ ∀ i ∈ iss.slices, u.rdW false iss.gid i 0 d = fit false x := by
  obtain ⟨lots, bytes, groups⟩ := result_kept v iss false d x
  obtain ⟨eh, el⟩ := State.run_of_watch h hb hf (idle_of_groups (groups.trans hg) hid) ho
  obtain ⟨hw, hdv⟩ := dst_of_isS hd
  obtain ⟨b1, b2, b3⟩ := SameBytes.of_held eh
  obtain ⟨r1, r2, r3⟩ := bytes
  obtain ⟨v1, v2, v3⟩ := hv
  exact ⟨_, by rw [hi, State.instr_of_ready h], ⟨b1.trans (r1.trans v1), b2.trans (r2.trans v2), b3.trans (r3.trans v3)⟩,
    el.trans lots, fun j hj => (rdW_of_held eh hd ..).trans (State.rdW_result h.gang hw hdv _ _ j hj)⟩

/-! ### LAUNCH -/

/-- LAUNCH's effect once its release is visible (R40, R358). -/
def launchRest (d a : Opnd) (iss : Iss) (ts : Nat) (s : State) : Res :=
  let va := (s.rd64 iss.gid iss.lead 0 a).toNat % 2 ^ 56
  let give (s : State) (o n : Nat) : Res := .done (s.result iss true d (launchResult o n)).settle
  if !(tsLe ts s.hDev) then .hold
  else if va % 64 != 0 then give s 2 0
  else
    match s.readRecord iss va 4 [] with
    | .page p t => if iss.sys then give t 3 0 else .service t p .launchRecord
    | .wait => .hold
    | .unreadable t => give t 3 0
    | .badGroup p t => .trap t (State.memCause iss 11 2 p)
    | .poisoned pa t => .gone (t.consume iss.tid pa)
    | .got r t =>
      let (o, ident, _, u) := t.submit (t.launchCtx iss) r (tsMax (t.team iss.tid).snap ts)
      give u o ident

theorem exec_launch (c : Ctl) (d a : Opnd) (s : State) :
    exec (.launch c d a) s = instr (.system c [(d, true)] [(a, true)]) s fun iss s =>
      releaseFirst .device iss s (launchRest d a iss) := by
  rw [show exec (.launch c d a) s = execLaunch c d a s from rfl]
  unfold execLaunch
  refine congrArg _ (funext fun iss => funext fun s => congrArg _ (funext fun ts => funext fun s => ?_))
  rfl

end Sys2Proof.Machine
end

section
/-! PROOF. The obligation about LAUNCH, VACATE, CTXKILL and HALTCORE. -/

namespace Sys2Proof.Machine

section Launch
variable {c : Ctl} {d a : Opnd} {s t : State} {iss : Iss} {m : Meta} {rest : Nat → State → Res}

/-- The state in which an instruction is held at issue, its release opened under a number (R188). -/
def State.opening (s : State) (iss : Iss) (scope : Scope) : State :=
  ((s.fenceNow iss.gid).openRelease iss.tid (some iss.gid) scope (.op iss.gid 0)).2.modGroup iss.gid fun g =>
    { g with pre := (iss.lead, s.names.rel) :: g.pre }

theorem releaseFirst_opens (hi : Idle s iss) (hp : ∀ p ∈ (s.group iss.gid).pre, p.1 ≠ iss.lead) :
    releaseFirst .device iss s rest = .holding (s.opening iss .device) := by
  have none : (s.group iss.gid).pre.find? (fun p => p.1 == iss.lead) = none := by
    rw [List.find?_eq_none]; exact fun p h => by simpa using hp p h
  have all : s.allPerformed iss.gid = true := by simp [State.allPerformed, hi.1]
  simp only [releaseFirst, none, all]
  rfl

theorem opening_pre (scope : Scope) : (iss.lead, s.names.rel) ∈ ((s.opening iss scope).group iss.gid).pre := by
  rw [State.opening, State.modGroup_group, if_pos rfl]
  exact List.mem_cons_self ..

theorem opening_release (scope : Scope) : ∃ r, sget (s.opening iss scope).rels s.names.rel = some r ∧ r.tid = iss.tid
    ∧ r.scope = s.scopeOf iss.tid scope ∧ r.st = .waiting :=
  ⟨_, (sget_sput ..).trans (if_pos rfl), rfl, rfl, rfl⟩

/-- The state in which LAUNCH takes effect: its release `n` is forgotten (R188). -/
def State.released (s : State) (iss : Iss) (n : Nat) : State :=
  (s.forgetRel n).modGroup iss.gid fun g => { g with pre := g.pre.filter fun q => q != (iss.lead, n) }

theorem releaseFirst_done {n : Nat} (hp : ((s.group iss.gid).pre.find? fun p => p.1 == iss.lead) = some (iss.lead, n))
    (hn : s.relDone n = true) (scope : Scope) :
    releaseFirst scope iss s rest = rest (s.relTs n) (s.released iss n) := by
  simp only [releaseFirst, hp, hn, if_true]; rfl

theorem arrPoison_released (n : Nat) : (s.released iss n).arrPoison = s.arrPoison :=
  congrArg Prod.fst (State.bench_forgetRel (s := s) n)

theorem quiescent_released (h : Quiescent s) (n : Nat) : Quiescent (s.released iss n) :=
  State.quiescent_modGroup iss.gid rfl (State.quiescent_of_bench (State.bench_forgetRel n) h)

/-- An instruction that is LAUNCH, where it comes to a pair of outcome and LAUNCH.ID: the pair is its whole effect beyond
that of `u` (R358). -/
theorem launch_finishes {i : Instr} {n o k : Nat} {u : State} {post : State → Prop} (h : Ready s m iss)
    (he : exec i s = instr m s fun iss s => releaseFirst .device iss s (launchRest d a iss)) (hq : Quiescent s)
    (hp : ((s.group iss.gid).pre.find? fun p => p.1 == iss.lead) = some (iss.lead, n)) (hn : s.relDone n = true)
    (hb : launchRest d a iss (s.relTs n) ((s.issuing m iss).released iss n) = .done (u.result iss true d (launchResult o k)).settle)
    (hu : u.bench = ((s.issuing m iss).released iss n).bench) (ht : post (u.result iss true d (launchResult o k))) :
    Finishes i m s iss post := by
  have calm : (u.result iss true d (launchResult o k)).bench = ((s.issuing m iss).released iss n).bench :=
    (State.bench_result ..).trans hu
  have still := State.settle_of_quiescent (State.quiescent_of_bench calm (quiescent_released (s := s.issuing m iss) hq n))
  refine State.finishes_of_ready (t := u.result iss true d (launchResult o k)) h he ?_ ?_ ht
  · show releaseFirst .device iss (s.issuing m iss) (launchRest d a iss) = _
    rw [releaseFirst_done (s := s.issuing m iss) hp hn]
    exact hb.trans (congrArg _ still)
  · exact (congrArg Prod.fst calm).trans (arrPoison_released (iss := iss) n)

/-- What LAUNCH comes to at a record it does not read: misaligned, or unreadable. -/
theorem launchRest_of_misaligned {ts : Nat} (hts : tsLe ts s.hDev = true)
    (hv : (s.rd64 iss.gid iss.lead 0 a).toNat % 2 ^ 56 % 64 ≠ 0) :
    launchRest d a iss ts s = .done (s.result iss true d (launchResult 2 0)).settle := by
  simp only [launchRest, hts, Bool.not_true, Bool.false_eq_true, if_false, bne_iff_ne, hv, if_true, ne_eq, not_false_eq_true]

theorem launchRest_of_unreadable {ts p : Nat} (hts : tsLe ts s.hDev = true)
    (hv : (s.rd64 iss.gid iss.lead 0 a).toNat % 2 ^ 56 % 64 = 0)
    (hr : s.readRecord iss ((s.rd64 iss.gid iss.lead 0 a).toNat % 2 ^ 56) 4 [] = .unreadable t
      ∨ iss.sys = true ∧ s.readRecord iss ((s.rd64 iss.gid iss.lead 0 a).toNat % 2 ^ 56) 4 [] = .page p t) :
    launchRest d a iss ts s = .done (t.result iss true d (launchResult 3 0)).settle := by
  obtain hr | ⟨hsys, hr⟩ := hr
  · simp only [launchRest, hts, Bool.not_true, Bool.false_eq_true, if_false, bne_iff_ne, hv, ne_eq, not_true_eq_false, hr]
  · simp only [launchRest, hts, Bool.not_true, Bool.false_eq_true, if_false, bne_iff_ne, hv, ne_eq, not_true_eq_false, hr, hsys,
      if_true]

/-- What LAUNCH comes to at a record it has read: what the submission gives (R40). -/
theorem launchRest_of_got {ts : Nat} {l : List DWord} (hts : tsLe ts s.hDev = true)
    (hv : (s.rd64 iss.gid iss.lead 0 a).toNat % 2 ^ 56 % 64 = 0)
    (hr : s.readRecord iss ((s.rd64 iss.gid iss.lead 0 a).toNat % 2 ^ 56) 4 [] = .got l t) :
    let r := t.submit (t.launchCtx iss) l (tsMax (t.team iss.tid).snap ts)
    launchRest d a iss ts s = .done (r.2.2.2.result iss true d (launchResult r.1 r.2.1)).settle := by
  simp only [launchRest, hts, Bool.not_true, Bool.false_eq_true, if_false, bne_iff_ne, hv, ne_eq, not_true_eq_false, hr]

/-- The state in which launch `k` of context `x` has been queued under the next number (R40). -/
def State.queued (s : State) (x : Nat) (k : Launch) : State :=
  (State.modCtx { s with names := { s.names with launch := s.names.launch + 1, order := s.names.order + 1 }
                         launches := sput s.launches s.names.launch k } x fun c => { c with killed := false }).modPart (s.partOfCtx x)
    fun p => { p with nextLaunch := p.nextLaunch + 1 }

theorem sget_queued (s : State) (x : Nat) (k : Launch) : sget (s.queued x k).launches s.names.launch = some k :=
  (sget_sput ..).trans (if_pos rfl)

/-- A record submitted to a queue with room is its newest launch (R40). -/
theorem submit_room (x snap : Nat) (l : List DWord)
    (hb : recordBad (s.part (s.partOfCtx x)) { Launch.absent with record := l, part := s.partOfCtx x, ctx := x } = false)
    (hq : s.queueLen (s.partOfCtx x) (Launch.prio { Launch.absent with record := l, part := s.partOfCtx x, ctx := x }) < 64) :
    ∃ k, s.submit x l snap = (0, (s.part (s.partOfCtx x)).nextLaunch % 2 ^ 32, s.names.launch, s.queued x k)
      ∧ (k.record = l ∧ k.part = s.partOfCtx x ∧ k.ctx = x ∧ k.st = .queued
        ∧ k.ident = (s.part (s.partOfCtx x)).nextLaunch % 2 ^ 32) ∧ k.snapIssuer = snap ∧ k.notify = none := by
  refine ⟨?_, ?_, ?_⟩
  rotate_left
  · simp only [State.submit]
    rw [if_neg (by simpa using hb), if_neg (Nat.not_le.mpr hq)]
    rfl
  · exact ⟨⟨rfl, rfl, rfl, rfl, rfl⟩, rfl, rfl⟩

/-- A record submitted to a full queue, or one that is bad, changes nothing (R40). -/
theorem submit_full (x snap : Nat) (l : List DWord)
    (hb : recordBad (s.part (s.partOfCtx x)) { Launch.absent with record := l, part := s.partOfCtx x, ctx := x } = false)
    (hq : 64 ≤ s.queueLen (s.partOfCtx x) (Launch.prio { Launch.absent with record := l, part := s.partOfCtx x, ctx := x })) :
    s.submit x l snap = (1, 0, 0, s) := by
  simp only [State.submit]
  rw [if_neg (by simpa using hb), if_pos hq]

theorem submit_bad (x snap : Nat) (l : List DWord)
    (hb : recordBad (s.part (s.partOfCtx x)) { Launch.absent with record := l, part := s.partOfCtx x, ctx := x } = true) :
    s.submit x l snap = (2, 0, 0, s) := by
  simp only [State.submit]
  rw [if_pos hb]

end Launch

section
variable {halt : Bool} {m : Meta} {d a b : Opnd} {s : State} {iss : Iss}

/-- Scalar registers and immediates read alike at the issue cycle. -/
theorem rd32_issuing {o : Opnd} (h : o.isSI = true) (g i l : Nat) : (s.issuing m iss).rd32 g i l o = s.rd32 g i l o := by
  cases o with
  | sp x => simp [Opnd.isSI, Opnd.isS, Opnd.isInt] at h
  | _ => rfl

theorem rd64_released {o : Opnd} (h : o.isEvenS = true) (n g i l : Nat) :
    ((s.issuing m iss).released iss n).rd64 g i l o = s.rd64 g i l o := by
  cases o with
  | s r =>
    obtain ⟨-, hs, -⟩ := SameRegs.of_held (held_forgetRel (s.issuing m iss) n)
    exact congrArg₂ (· ++ ·) (hs ..) (hs ..)
  | _ => simp [Opnd.isEvenS] at h

theorem isSI_of_isS {o : Opnd} (h : o.isS = true) : o.isSI = true := by simp [Opnd.isSI, h]

theorem vacateBody_of_grid {k n : Nat} {cs : List Nat} {t : State} (hl : s.atLevel iss.gid 1 = true)
    (hg : s.gridOf (s.cregPart iss) (s.rd32 iss.gid iss.lead 0 a).toNat = some k)
    (hsel : s.selectVacate (s.rd32 iss.gid iss.lead 0 b).toNat (s.youngest k false) = (cs, n, t)) :
    vacateBody m d a b iss s = .op (t.result iss false d (BitVec.ofNat 64 n)) (Op.of iss m [.awaitVacate cs]) := by
  simp only [vacateBody, hl, Bool.not_true, Bool.false_eq_true, if_false, hg, hsel]

theorem vacateBody_of_none (hl : s.atLevel iss.gid 1 = true)
    (hg : s.gridOf (s.cregPart iss) (s.rd32 iss.gid iss.lead 0 a).toNat = none) :
    vacateBody m d a b iss s = .done (s.result iss false d 0) := by
  simp only [vacateBody, hl, Bool.not_true, Bool.false_eq_true, if_false, hg]

theorem vacateBody_of_low (hl : s.atLevel iss.gid 1 = false) : vacateBody m d a b iss s = .trap s iss.priv := by
  simp only [vacateBody, hl, Bool.not_false, if_true]

theorem ctxkillBody_of_low (hl : s.atLevel iss.gid 1 = false) : ctxkillBody m d a iss s = .trap s iss.priv := by
  simp only [ctxkillBody, hl, Bool.not_false, if_true]

theorem ctxkillBody_of_live (hl : s.atLevel iss.gid 1 = true)
    (h : s.ctxLive (s.cregPart iss) ((s.rd32 iss.gid iss.lead 0 a).toNat % 4096) = true) :
    ctxkillBody m d a iss s
      = .op ((s.requestKill ((s.rd32 iss.gid iss.lead 0 a).toNat % 4096)
          { kind := 3, launch := 0, reason := 0, gslot := 0, cid := iss.cid, body := [] }).result iss false d 1)
        (Op.of iss m [.awaitKill ((s.rd32 iss.gid iss.lead 0 a).toNat % 4096)]) := by
  simp only [ctxkillBody, hl, Bool.not_true, Bool.false_eq_true, if_false, h, if_true]

theorem ctxkillBody_of_dead (hl : s.atLevel iss.gid 1 = true)
    (h : s.ctxLive (s.cregPart iss) ((s.rd32 iss.gid iss.lead 0 a).toNat % 4096) = false) :
    ctxkillBody m d a iss s = .done (s.result iss false d 0) := by
  simp only [ctxkillBody, hl, Bool.not_true, Bool.false_eq_true, if_false, h]

theorem haltcoreBody_of_low (hl : s.atLevel iss.gid 2 = false) : haltcoreBody halt d a iss s = .trap s iss.priv := by
  simp only [haltcoreBody, hl, Bool.not_false, if_true]

/-- The core that HALTCORE's operand names (R358). -/
def haltCid (s : State) (iss : Iss) (a : Opnd) : Nat :=
  cidOf ((s.rd32 iss.gid iss.lead 0 a).toNat % 64) ((s.rd32 iss.gid iss.lead 0 a).toNat / 64 % 32)

theorem haltcoreBody_of_busy (hl : s.atLevel iss.gid 2 = true)
    (h : s.teamsOn (haltCid s iss a) ≠ [] ∨ s.emptying (haltCid s iss a) = true) :
    haltcoreBody halt d a iss s = .done (s.result iss false d 0) := by
  simp only [haltcoreBody, hl, Bool.not_true, Bool.false_eq_true, if_false, haltcore_core]
  rw [if_neg]
  rcases h with h | h <;> simp_all [haltCid]

theorem haltcoreBody_of_free (hl : s.atLevel iss.gid 2 = true) (h1 : s.teamsOn (haltCid s iss a) = [])
    (h2 : s.emptying (haltCid s iss a) = false) :
    haltcoreBody halt d a iss s
      = .done ((s.modCore (haltCid s iss a) fun k => { k with parked := halt }).result iss false d 1) := by
  simp only [haltcoreBody, hl, Bool.not_true, Bool.false_eq_true, if_false, haltcore_core]
  rw [if_pos]
  · rfl
  · simp_all [haltCid]

theorem low_of_l0 (hl : (s.group iss.gid).level = .l0) : s.atLevel iss.gid 1 = false :=
  Bool.eq_false_iff.mpr (mt State.atLevel_one.mp (not_not_intro hl))

/-- A kill asked for of a context that is not killed, nor being killed, is that kill (R352). -/
theorem killing_requestKill (q : Nat) (k : Kill) (h1 : (s.ctx q).killed = false) (h2 : (s.ctx q).killing = none) :
    ((s.requestKill q k).ctx q).killing = some k := by
  simp [State.requestKill, h1, h2]

end

section
variable {d a b : Opnd} {s : State} {iss : Iss}

/-- The destination of HALTCORE and its like is the one the frame knows. -/
theorem finishes_gives {i : Instr} {m : Meta} {body : Iss → State → Res} {x : DWord} {v : Nat} (h : Ready s m iss)
    (hi : exec i s = instr m s body) (hb : body iss (s.issuing m iss) = .done ((s.issuing m iss).result iss false d x))
    (hx : x = BitVec.ofNat 64 v) (hd : d.isS = true) (hm : m.vec = false) (hr : (d, false) ∈ m.dsts) :
    Finishes i m s iss fun t => RegsOnly m iss (s.issuing m iss) t
      ∧ ∀ i ∈ iss.slices, t.rdW false iss.gid i 0 d = fit false (BitVec.ofNat 64 v) :=
  finishes_of_result h hi hb rfl (gives_of_result hx h.gang hd hm hr)

/-- VACATE of a running grid begins the vacations it chooses, and gives the cores they hold. -/
theorem vacate_begins {i : Instr} {m : Meta} {k n : Nat} {cs : List Nat} {t : State} (h : Ready s m iss)
    (he : exec i s = instr m s (vacateBody m d a b)) (hf : m.opFlag = true) (hi : Idle s iss) (hd : d.isS = true)
    (ha : a.isSI = true) (hb : b.isSI = true) (hl : (s.group iss.gid).level ≠ .l0)
    (hg : s.gridOf (s.team iss.tid).part (s.rd32 iss.gid iss.lead 0 a).toNat = some k)
    (hsel : (s.issuing m iss).selectVacate (s.rd32 iss.gid iss.lead 0 b).toNat ((s.issuing m iss).youngest k false) = (cs, n, t)) :
    ∃ u, exec i s = .next u ∧ SameBytes s u
      ∧ (∀ i ∈ iss.slices, u.rdW false iss.gid i 0 d = fit false (BitVec.ofNat 64 n))
      ∧ ∀ q ∈ cs, (u.cluster q).vacating = some (s.issueAt m iss) := by
  obtain ⟨begun, -, cl, xs, ht⟩ := State.selectVacate_begins ((s.issuing m iss).youngest k false) (s.issuing m iss)
    (s.rd32 iss.gid iss.lead 0 b).toNat
  rw [hsel] at begun ht
  replace ht : t = _ := ht
  rw [← rd32_issuing (m := m) (iss := iss) hb] at hsel
  rw [← rd32_issuing (m := m) (iss := iss) ha] at hg
  have body := vacateBody_of_grid (m := m) (d := d) (State.atLevel_one.mpr hl : (s.issuing m iss).atLevel iss.gid 1 = true) hg hsel
  obtain ⟨u, hu, bytes, lots, res⟩ := watch_of_ready h he body hf (by simp [Op.of, Stage.watches]) hi
    (by rw [ht]; rfl) (by rw [ht]; exact ⟨rfl, rfl, rfl⟩) hd
  refine ⟨u, hu, bytes, res, fun q hq => ?_⟩
  have e : u.clusters = t.clusters := congrArg Prod.fst lots
  rw [State.cluster, e]
  exact begun q hq

/-- CTXKILL of a live context that nothing kills yet has it killed, and gives 1. -/
theorem ctxkill_asks {i : Instr} {m : Meta} (h : Ready s m iss) (he : exec i s = instr m s (ctxkillBody m d a))
    (hf : m.opFlag = true) (hi : Idle s iss) (hd : d.isS = true) (ha : a.isSI = true) (hl : (s.group iss.gid).level ≠ .l0)
    {q : Nat} (hq : q = (s.rd32 iss.gid iss.lead 0 a).toNat % 4096) (hlive : s.ctxLive (s.team iss.tid).part q = true)
    (h1 : (s.ctx q).killed = false) (h2 : (s.ctx q).killing = none) :
    ∃ u k, exec i s = .next u ∧ SameBytes s u ∧ (u.ctx q).killing = some k ∧ k.kind = 3
      ∧ ∀ i ∈ iss.slices, u.rdW false iss.gid i 0 d = 1 := by
  have body := ctxkillBody_of_live (m := m) (d := d) (a := a) (State.atLevel_one.mpr hl : (s.issuing m iss).atLevel iss.gid 1 = true)
    (by rw [rd32_issuing ha, ← hq]; exact hlive)
  rw [rd32_issuing ha, ← hq] at body
  obtain ⟨u, hu, bytes, lots, res⟩ := watch_of_ready h he body hf (by simp [Op.of, Stage.watches]) hi rfl ⟨rfl, rfl, rfl⟩ hd
  refine ⟨u, { kind := 3, launch := 0, reason := 0, gslot := 0, cid := iss.cid, body := [] }, hu, bytes, ?_, rfl, res⟩
  have e : u.ctxs = _ := congrArg Prod.snd lots
  rw [State.ctx, e]
  exact killing_requestKill (s := s.issuing m iss) q _ h1 h2

/-- HALTCORE of a core with no team parks it or frees it, and gives 1. -/
theorem haltcore_parks {i : Instr} {m : Meta} {halt : Bool} (h : Ready s m iss) (he : exec i s = instr m s (haltcoreBody halt d a))
    (hd : d.isS = true) (ha : a.isSI = true) (hl : (s.group iss.gid).level = .l2) (h1 : s.teamsOn (haltCid s iss a) = [])
    (h2 : s.emptying (haltCid s iss a) = false) :
    Finishes i m s iss fun t => (t.core (haltCid s iss a)).parked = halt ∧ (∀ i ∈ iss.slices, t.rdW false iss.gid i 0 d = 1)
      ∧ SameBytes s t ∧ ∀ k, k ≠ haltCid s iss a → t.core k = s.core k := by
  have cid : haltCid (s.issuing m iss) iss a = haltCid s iss a := by simp only [haltCid, rd32_issuing ha]
  have body := haltcoreBody_of_free (s := s.issuing m iss) (halt := halt) (d := d) (State.atLevel_two.mpr hl) (cid ▸ h1) (cid ▸ h2)
  rw [cid] at body
  obtain ⟨hw, hdv⟩ := dst_of_isS hd
  generalize haltCid s iss a = q at *
  generalize hv : (s.issuing m iss).modCore q (fun k => { k with parked := halt }) = v at *
  have cores (k : Nat) : (v.result iss false d 1).core k = v.core k := by
    have e := congrArg State.cores (State.regless_result v iss false d 1)
    exact congrArg (fun l => sgetD l k _) e
  refine finishes_of_result h he body (by rw [← hv]; rfl) ⟨?_, State.rdW_result h.gang hw hdv _ _, ?_, fun k hk => ?_⟩
  · rw [cores, ← hv, State.modCore_core, if_pos rfl]
  · obtain ⟨-, ⟨b1, b2, b3⟩, -⟩ := result_kept v iss false d 1
    subst hv
    exact ⟨b1, b2, b3⟩
  · rw [cores, ← hv, State.modCore_core, if_neg hk]; rfl

/-- What LAUNCH gives reads back in every slice of its gang. -/
theorem rdW_launchResult (hg : iss.slices.Nodup ∧ iss.slices ≠ [] ∧ ∀ i ∈ iss.slices, i < 8) (hd : d.isEvenS = true) (u : State)
    (o n : Nat) : ∀ i ∈ iss.slices, (u.result iss true d (launchResult o n)).rdW true iss.gid i 0 d = BitVec.ofNat 64 (n * 2 ^ 32 + o) := by
  obtain ⟨hw, hdv⟩ := dst_of_isEvenS hd
  exact State.rdW_result hg hw hdv u (launchResult o n)

end

/-! ### LAUNCH once its release is visible -/

/-- LAUNCH at issue with its release `n` complete and visible, and nothing outstanding anywhere (R358). -/
structure Launching (i : Instr) (m : Meta) (d a : Opnd) (s : State) (iss : Iss) (n : Nat) : Prop where
  ready : Ready s m iss
  runs : exec i s = instr m s fun iss s => releaseFirst .device iss s (launchRest d a iss)
  quiet : Quiescent s
  pre : ((s.group iss.gid).pre.find? fun p => p.1 == iss.lead) = some (iss.lead, n)
  done : s.relDone n = true
  visible : tsLe (s.relTs n) ((s.issuing m iss).released iss n).hDev = true
  dst : d.isEvenS = true
  src : a.isEvenS = true

/-- An outcome and a LAUNCH.ID in the destination of every slice. -/
def Gave (iss : Iss) (d : Opnd) (o n : Nat) (t : State) : Prop :=
  ∀ i ∈ iss.slices, t.rdW true iss.gid i 0 d = BitVec.ofNat 64 (n * 2 ^ 32 + o)

namespace Launching
variable {i : Instr} {m : Meta} {d a : Opnd} {s w : State} {iss : Iss} {n : Nat} {l : List DWord}

/-- The address of the record. -/
theorem addr (h : Launching i m d a s iss n) :
    (((s.issuing m iss).released iss n).rd64 iss.gid iss.lead 0 a).toNat = (s.rd64 iss.gid iss.lead 0 a).toNat := by
  rw [rd64_released h.src]

theorem gave (h : Launching i m d a s iss n) (u : State) (o k : Nat) : Gave iss d o k (u.result iss true d (launchResult o k)) :=
  rdW_launchResult h.ready.gang h.dst u o k

theorem misaligned (h : Launching i m d a s iss n) (hva : (s.rd64 iss.gid iss.lead 0 a).toNat % 2 ^ 56 % 64 ≠ 0) :
    Finishes i m s iss (Gave iss d 2 0) :=
  launch_finishes (u := (s.issuing m iss).released iss n) h.ready h.runs h.quiet h.pre h.done
    (launchRest_of_misaligned h.visible (by rwa [h.addr])) rfl (h.gave _ 2 0)

theorem unreadable (h : Launching i m d a s iss n) (hva : (s.rd64 iss.gid iss.lead 0 a).toNat % 2 ^ 56 % 64 = 0) {p : Nat}
    (hr : ((s.issuing m iss).released iss n).readRecord iss ((s.rd64 iss.gid iss.lead 0 a).toNat % 2 ^ 56) 4 [] = .unreadable w
      ∨ iss.sys = true
        ∧ ((s.issuing m iss).released iss n).readRecord iss ((s.rd64 iss.gid iss.lead 0 a).toNat % 2 ^ 56) 4 [] = .page p w) :
    Finishes i m s iss (Gave iss d 3 0) := by
  have read := State.bench_readRecord (s := (s.issuing m iss).released iss n) (iss := iss)
    ((s.rd64 iss.gid iss.lead 0 a).toNat % 2 ^ 56) 4 []
  have same : w.bench = ((s.issuing m iss).released iss n).bench := by
    rcases hr with hr | ⟨-, hr⟩ <;> (rw [hr] at read; exact read)
  rw [← h.addr] at hva hr
  exact launch_finishes h.ready h.runs h.quiet h.pre h.done (launchRest_of_unreadable h.visible hva hr) same (h.gave w 3 0)

/-- A record that has been read is submitted: what the submission answers is given. -/
theorem submits (h : Launching i m d a s iss n) (hva : (s.rd64 iss.gid iss.lead 0 a).toNat % 2 ^ 56 % 64 = 0)
    (hr : ((s.issuing m iss).released iss n).readRecord iss ((s.rd64 iss.gid iss.lead 0 a).toNat % 2 ^ 56) 4 [] = .got l w)
    {o ident k : Nat} {u : State} (hs : w.submit (w.launchCtx iss) l (tsMax (w.team iss.tid).snap (s.relTs n)) = (o, ident, k, u))
    (hu : u.bench = w.bench) {post : State → Prop} (hp : post (u.result iss true d (launchResult o ident))) :
    Finishes i m s iss post := by
  have read := State.bench_readRecord (s := (s.issuing m iss).released iss n) (iss := iss)
    ((s.rd64 iss.gid iss.lead 0 a).toNat % 2 ^ 56) 4 []
  rw [hr] at read
  rw [← h.addr] at hva hr
  have body := launchRest_of_got (d := d) h.visible hva hr
  rw [hs] at body
  exact launch_finishes h.ready h.runs h.quiet h.pre h.done body (hu.trans read) hp

theorem queues (h : Launching i m d a s iss n) (hva : (s.rd64 iss.gid iss.lead 0 a).toNat % 2 ^ 56 % 64 = 0)
    (hr : ((s.issuing m iss).released iss n).readRecord iss ((s.rd64 iss.gid iss.lead 0 a).toNat % 2 ^ 56) 4 [] = .got l w)
    {x pn : Nat} (hx : x = w.launchCtx iss) (hpn : pn = w.partOfCtx x)
    (hb : recordBad (w.part pn) { Launch.absent with record := l, part := pn, ctx := x } = false)
    (hq : w.queueLen pn (Launch.prio { Launch.absent with record := l, part := pn, ctx := x }) < 64) :
    Finishes i m s iss fun t => Gave iss d 0 ((w.part pn).nextLaunch % 2 ^ 32) t
      ∧ ∃ k, sget t.launches w.names.launch = some k ∧ k.record = l ∧ k.part = pn ∧ k.ctx = x ∧ k.st = .queued
        ∧ k.ident = (w.part pn).nextLaunch % 2 ^ 32 := by
  subst hx hpn
  obtain ⟨k, e, fields, -⟩ := submit_room (s := w) (w.launchCtx iss) (tsMax (w.team iss.tid).snap (s.relTs n)) l hb hq
  refine h.submits hva hr e rfl ⟨h.gave _ _ _, k, ?_, fields⟩
  have kept := congrArg State.launches (State.regless_result (w.queued (w.launchCtx iss) k) iss true d
    (launchResult 0 ((w.part (w.partOfCtx (w.launchCtx iss))).nextLaunch % 2 ^ 32)))
  exact (congrArg (sget · w.names.launch) kept).trans (sget_queued w (w.launchCtx iss) k)

end Launching

/-- LAUNCH with no release of its own yet opens one, and is held. -/
theorem launch_held {i : Instr} {m : Meta} {d a : Opnd} {s : State} {iss : Iss} (h : Ready s m iss)
    (he : exec i s = instr m s fun iss s => releaseFirst .device iss s (launchRest d a iss)) (hi : Idle s iss)
    (hp : ∀ p ∈ (s.group iss.gid).pre, p.1 ≠ iss.lead) :
    ∃ u, exec i s = .next u ∧ SameRegs s u ∧ SameBytes s u ∧ u.slices = s.slices ∧ u.launches = s.launches
      ∧ ∃ k r, (iss.lead, k) ∈ (u.group iss.gid).pre ∧ sget u.rels k = some r ∧ r.tid = iss.tid
        ∧ r.scope = s.scopeOf iss.tid .device ∧ r.st = .waiting := by
  have hb := releaseFirst_opens (s := s.issuing m iss) (rest := launchRest d a iss) hi hp
  obtain ⟨r, hr⟩ := opening_release (s := s.issuing m iss) (iss := iss) .device
  refine ⟨(s.issuing m iss).opening iss .device, ?_, .of_held rfl, .of_held rfl, rfl, rfl, (s.issuing m iss).names.rel, r,
    opening_pre .device, hr⟩
  rw [he, State.instr_of_ready h, State.run_of_holding h hb]

/-! ### Operands of a well-formed word -/

theorem wf_launch {c : Ctl} {d a : Opnd} (h : (Instr.launch c d a).wf = true) : d.isEvenS = true ∧ a.isEvenS = true := by
  have h : (c.plain && d.isEvenS && a.isEvenS) = true := h
  simp only [Bool.and_eq_true] at h
  exact ⟨h.1.2, h.2⟩

theorem wf_vacate {c : Ctl} {d a b : Opnd} (h : (Instr.vacate c d a b).wf = true) :
    d.isS = true ∧ a.isSI = true ∧ b.isSI = true := by
  have h : (c.plain && d.isS && a.isS && b.isSI) = true := h
  simp only [Bool.and_eq_true] at h
  obtain ⟨⟨⟨-, hd⟩, ha⟩, hb⟩ := h
  exact ⟨hd, isSI_of_isS ha, hb⟩

theorem wf_ctxkill {c : Ctl} {d a : Opnd} (h : (Instr.ctxkill c d a).wf = true) : d.isS = true ∧ a.isSI = true := by
  have h : (c.plain && d.isS && a.isS) = true := h
  simp only [Bool.and_eq_true] at h
  exact ⟨h.1.2, isSI_of_isS h.2⟩

theorem wf_haltcore {c : Ctl} {halt : Bool} {d a : Opnd} (h : (Instr.haltcore c halt d a).wf = true) :
    d.isS = true ∧ a.isSI = true := by
  have h : (c.plain && d.isS && a.isS) = true := h
  simp only [Bool.and_eq_true] at h
  exact ⟨h.1.2, isSI_of_isS h.2⟩

end Sys2Proof.Machine

open Sys2Proof.Machine

/-- Settles O44: each instruction's effect at issue, run as one that ends a region. -/
theorem launchVacateKillHalt : Obligations.LaunchVacateKillHalt := by
  intro c halt d a b s iss ml mv mk mh x va level gives priv
  have scalar {w : Bool} : (d, w) ∈ [(d, w)] := List.mem_singleton.mpr rfl
  refine ⟨fun hw h hi hp => ?_, fun n hw h hq hp hn => ?_, fun hw h hi => ?_, fun hw h hi => ?_, fun hw h => ?_⟩
  · exact launch_held h (exec_launch c d a s) hi hp
  · obtain ⟨hd, ha⟩ := wf_launch hw
    intro v hts pair
    have L : Launching (.launch c d a) ml d a s iss n := ⟨h, exec_launch c d a s, hq, hp, hn, hts, hd, ha⟩
    refine ⟨L.misaligned, fun w hva hr => ?_, fun l w hva hr => ?_⟩
    · rcases hr with hr | ⟨hsys, p, hr⟩
      · exact L.unreadable (p := 0) hva (.inl hr)
      · exact L.unreadable hva (.inr ⟨hsys, hr⟩)
    · exact ⟨fun bad => L.submits hva hr (submit_bad _ _ _ bad) rfl (L.gave w 2 0),
        fun good full => L.submits hva hr (submit_full _ _ _ good full) rfl (L.gave w 1 0), L.queues hva hr rfl rfl⟩
  · obtain ⟨hd, ha, hb⟩ := wf_vacate hw
    have ha' := rd32_issuing (m := mv) (s := s) (iss := iss) ha iss.gid iss.lead 0
    refine ⟨fun hl => ?_, fun hl hg => ?_, fun k cs n t hl hg hsel => ?_⟩
    · exact State.traps_of_ready h (exec_vacate c d a b s) (vacateBody_of_low (s := s.issuing mv iss) (low_of_l0 hl)) rfl
    · exact finishes_gives h (exec_vacate c d a b s) (vacateBody_of_none (s := s.issuing mv iss) (State.atLevel_one.mpr hl) (ha' ▸ hg))
        rfl hd rfl scalar
    · exact vacate_begins h (exec_vacate c d a b s) rfl hi hd ha hb hl hg hsel
  · obtain ⟨hd, ha⟩ := wf_ctxkill hw
    have ha' := rd32_issuing (m := mk) (s := s) (iss := iss) ha iss.gid iss.lead 0
    refine ⟨fun hl => ?_, fun hl hlive => ?_, fun hl hlive h1 h2 => ?_⟩
    · exact State.traps_of_ready h (exec_ctxkill c d a s) (ctxkillBody_of_low (s := s.issuing mk iss) (low_of_l0 hl)) rfl
    · exact finishes_gives h (exec_ctxkill c d a s)
        (ctxkillBody_of_dead (s := s.issuing mk iss) (State.atLevel_one.mpr hl) (ha' ▸ hlive)) rfl hd rfl scalar
    · exact ctxkill_asks h (exec_ctxkill c d a s) rfl hi hd ha hl rfl hlive h1 h2
  · obtain ⟨hd, ha⟩ := wf_haltcore hw
    have cid : haltCid (s.issuing mh iss) iss a = haltCid s iss a := by simp only [haltCid, rd32_issuing ha]
    refine ⟨fun hl => ?_, fun hl busy => ?_, fun hl h1 h2 => ?_⟩
    · exact State.traps_of_ready h (exec_haltcore c halt d a s)
        (haltcoreBody_of_low (s := s.issuing mh iss) (Bool.eq_false_iff.mpr (mt State.atLevel_two.mp hl))) rfl
    · exact finishes_gives h (exec_haltcore c halt d a s)
        (haltcoreBody_of_busy (s := s.issuing mh iss) (State.atLevel_two.mpr hl) (cid ▸ busy)) rfl hd rfl scalar
    · exact haltcore_parks h (exec_haltcore c halt d a s) hd ha hl h1 h2
end

section
/-! PROOF. The host port: bytes gathered and committed, and what a commit leaves alone. -/

namespace Sys2Proof.Machine

/-! ### Bytes gathered by their addresses -/

/-- Cells in one store; of two at an address the later stands. -/
def gather (l : List (Nat × Byte)) : Store Byte := l.foldl (fun m p => sput m p.1 p.2) []

theorem gather_concat (l : List (Nat × Byte)) (p : Nat × Byte) : gather (l ++ [p]) = sput (gather l) p.1 p.2 := by
  simp [gather, List.foldl_append]

theorem mem_of_mem_gather {l : List (Nat × Byte)} {p : Nat × Byte} (h : p ∈ gather l) : p ∈ l := by
  induction l using List.reverseRecOn with
  | nil => exact h
  | append_singleton l q ih =>
    rw [gather_concat] at h
    rcases mem_sput _ _ _ _ h with rfl | h
    · simp
    · exact List.mem_append_left _ (ih h)

theorem mem_gather {l : List (Nat × Byte)} {p : Nat × Byte} (hn : (l.map Prod.fst).Nodup) (h : p ∈ l) : p ∈ gather l := by
  refine mem_of_sget (k := p.1) (x := p.2) ?_
  induction l using List.reverseRecOn with
  | nil => cases h
  | append_singleton l q ih =>
    rw [List.map_append, List.nodup_append] at hn
    obtain ⟨hl, -, apart⟩ := hn
    rw [gather_concat, sget_sput]
    rcases List.mem_append.mp h with h | h
    · rw [if_neg (apart _ (List.mem_map.mpr ⟨p, h, rfl⟩) _ (by simp)), ih hl h]
    · rw [List.mem_singleton.mp h, if_pos rfl]

/-- Bytes written one after another, none of them at an address. -/
theorem mread_of_none_written {l : Store Byte} {k : Nat} (h : ∀ p ∈ l, canonPa p.1 ≠ k) (m : Memory) :
    mread (l.foldl (fun m p => mwrite m (canonPa p.1) p.2) m) k = mread m k := by
  induction l generalizing m with
  | nil => rfl
  | cons q l ih =>
    rw [List.foldl_cons, ih fun p hp => h p (List.mem_cons_of_mem _ hp), mread_mwrite,
      if_neg fun e => h q (List.mem_cons_self ..) e.symm]

/-- Bytes written one after another, all of those at an address the same. -/
theorem mread_of_written {l : Store Byte} {k : Nat} {x : Byte} (h : ∃ p ∈ l, canonPa p.1 = k)
    (same : ∀ p ∈ l, canonPa p.1 = k → p.2 = x) (m : Memory) :
    mread (l.foldl (fun m p => mwrite m (canonPa p.1) p.2) m) k = x := by
  induction l generalizing m with
  | nil => obtain ⟨p, hp, -⟩ := h; cases hp
  | cons q l ih =>
    rw [List.foldl_cons]
    have same' : ∀ p ∈ l, canonPa p.1 = k → p.2 = x := fun p hp => same p (List.mem_cons_of_mem _ hp)
    by_cases later : ∃ p ∈ l, canonPa p.1 = k
    · exact ih later same' _
    · have hq : canonPa q.1 = k := by
        obtain ⟨p, hp, e⟩ := h
        rcases List.mem_cons.mp hp with rfl | hp
        · exact e
        · exact absurd ⟨p, hp, e⟩ later
      rw [mread_of_none_written fun p hp e => later ⟨p, hp, e⟩, mread_mwrite, if_pos hq.symm, same q (List.mem_cons_self ..) hq]

namespace State

/-! ### Commits -/

theorem commitAt_mem (s : State) (ts : Nat) (pin : Option Nat) (l : Store Byte) :
    (s.commitAt ts pin l).mem = l.foldl (fun m (p : Nat × Byte) => mwrite m (canonPa p.1) p.2) s.mem := by
  have kept (ls : List Nat) : (ls.foldl (fun s line => s.retireLine ts line pin) s).mem = s.mem := by
    refine foldl_keep _ mem _ _ fun t line _ => ?_
    unfold retireLine; split <;> rfl
  simp only [commitAt, kept]

/-- All of a state but what a commit writes: memory, its versions and stamps, and poison. -/
def uncommitted (s : State) : State := { s with mem := [], orangery := [], lineTs := [], byteTs := [], poison := [] }

theorem uncommitted_commitAt (s : State) (ts : Nat) (pin : Option Nat) (l : Store Byte) :
    (s.commitAt ts pin l).uncommitted = s.uncommitted := by
  have kept (ls : List Nat) : (ls.foldl (fun s line => s.retireLine ts line pin) s).uncommitted = s.uncommitted := by
    refine foldl_keep _ uncommitted _ _ fun t line _ => ?_
    unfold retireLine; split <;> rfl
  exact (kept (linesOf l) :)

/-- A commit leaves behind it, outside the module, work and host copies that end (R187, R379). -/
theorem noteOutside_eq (s : State) (ts : Nat) (l : Store Byte) :
    ∃ o h, s.noteOutside ts l = { s with outside := o, dev := { s.dev with hostCached := h } } := by
  simp only [noteOutside]
  (repeat' split) <;> exact ⟨_, _, rfl⟩

/-- `t` is `s` after a commit of cells that needs no packet. -/
structure Committed (l : Store Byte) (s t : State) : Prop where
  mem : t.mem = l.foldl (fun m (p : Nat × Byte) => mwrite m (canonPa p.1) p.2) s.mem
  scratch : t.scratch = s.scratch
  tiles : t.tiles = s.tiles
  regs : SameRegs s t
  sundial : t.sundial = s.sundial
  parts : t.parts = s.parts
  ctxs : t.ctxs = s.ctxs
  launches : t.launches = s.launches

theorem commit_now (s : State) (ts : Nat) (l : Store Byte) : Committed l s ((s.noteOutside ts l).commitAt ts none l) := by
  obtain ⟨o, h, e⟩ := s.noteOutside_eq ts l
  have mem := commitAt_mem (s.noteOutside ts l) ts none l
  have rest := uncommitted_commitAt (s.noteOutside ts l) ts none l
  generalize (s.noteOutside ts l).commitAt ts none l = t at mem rest
  rw [e] at mem rest
  have scratch := congrArg State.scratch rest
  have tiles := congrArg State.tiles rest
  have sundial := congrArg State.sundial rest
  have parts := congrArg State.parts rest
  have ctxs := congrArg State.ctxs rest
  have launches := congrArg State.launches rest
  have vreg := congrArg State.vreg rest
  have sreg := congrArg State.sreg rest
  have kreg := congrArg State.kreg rest
  have mreg := congrArg State.mreg rest
  exact ⟨mem, scratch, tiles, .of_eq vreg sreg kreg mreg, sundial, parts, ctxs, launches⟩

/-! ### Status words of entries -/

theorem foldl_emit (l : List Out) (s : State) : l.foldl emit s = { s with out := l.reverse ++ s.out } := by
  induction l generalizing s with
  | nil => rfl
  | cons x l ih => rw [List.foldl_cons, ih]; simp [emit]

/-- The status words of a partition's entries that are visible at SYSTEM scope (R378). -/
def dueWords (s : State) (p : Nat) : List (Nat × Bool × List Nat) := (s.part p).sqWords.filter fun w => tsLe w.1 s.hSys

/-- What `settleWords` comes to: the partition's record, and the vectors raised. -/
theorem settleWords_eq (s : State) (p : Nat) :
    s.settleWords p =
      { s.modPart p fun x => { x with
          sqWords := x.sqWords.filter (fun w => !tsLe w.1 s.hSys)
          sqHead := (x.sqHead + ((s.dueWords p).filter fun w => w.2.1).length) % 2 ^ 32 } with
        out := (((s.dueWords p).flatMap fun w => w.2.2).map fun v => Out.irq (p + 1) v).reverse ++ s.out } := by
  have e : ∀ (l : List Nat) (t : State), l.foldl (fun s v => s.emit (.irq (p + 1) v)) t
      = (l.map fun v => Out.irq (p + 1) v).foldl emit t := fun l t => by rw [List.foldl_map]
  simp only [settleWords, e, foldl_emit]
  rfl

theorem settleWords_part (s : State) (p : Nat) : (s.settleWords p).part p =
    { s.part p with
      sqWords := (s.part p).sqWords.filter (fun w => !tsLe w.1 s.hSys)
      sqHead := ((s.part p).sqHead + ((s.dueWords p).filter fun w => w.2.1).length) % 2 ^ 32 } := by
  rw [settleWords_eq]
  simp only [part, modPart, sgetD_sput, if_pos]

theorem settleWords_out (s : State) (p : Nat) : (s.settleWords p).out =
    (((s.dueWords p).flatMap fun w => w.2.2).map fun v => Out.irq (p + 1) v).reverse ++ s.out := by
  rw [settleWords_eq]

end State
end Sys2Proof.Machine
end

section
/-! PROOF. The host port: status words of submission entries (R378). -/

namespace Sys2Proof.Machine
namespace State
variable {s : State} {p pa : Nat} {bs : List Byte} {vs : List Nat}

/-- The status word of the entry at an address may be committed at once (R183, R187, R198, R369). -/
def WordFree (s : State) (pa : Nat) : Prop :=
  ∀ i < 8, canonPa (pa + 0x10 + i) = pa + 0x10 + i ∧ s.homesReady [pa + 0x10 + i] = true ∧ s.lineBusy (pa + 0x10 + i) = false
    ∧ s.orangeryFull (homeOf (pa + 0x10 + i)) = false

theorem mem_cellsAt {a : Nat} {q : Nat × Byte} : q ∈ cellsAt a bs ↔ ∃ i < bs.length, q = (a + i, bs.getD i 0) := by
  simp only [cellsAt, List.mem_map, List.mem_range]
  exact ⟨fun ⟨i, hi, e⟩ => ⟨i, hi, e.symm⟩, fun ⟨i, hi, e⟩ => ⟨i, hi, e.symm⟩⟩

theorem cellsAt_nodup (a : Nat) : ((cellsAt a bs).map Prod.fst).Nodup := by
  rw [cellsAt, List.map_map]
  exact List.nodup_range.map fun i j (h : a + i = a + j) => Nat.add_left_cancel h

/-- Cells at canonical addresses, gathered. -/
theorem gather_canon {l : List (Nat × Byte)} (h : ∀ q ∈ l, canonPa q.1 = q.1) :
    l.foldl (fun m q => sput m (canonPa q.1) q.2) [] = gather l := by
  have e : l.map (fun q => (canonPa q.1, q.2)) = l.map id := List.map_congr_left fun q hq => by rw [h q hq]; rfl
  rw [List.map_id] at e
  conv_rhs => rw [← e]
  rw [gather, List.foldl_map]

/-- A status word that may be committed at once is, with a new timestamp. -/
theorem deviceCommit_word (hf : s.WordFree pa) (hb : bs.length = 8) (tag : Nat) :
    s.deviceCommit tag p (cellsAt (pa + 0x10) bs) =
      ((s.sundial + 1) % 2 ^ 48,
        (s.takeTs.2.noteOutside ((s.sundial + 1) % 2 ^ 48) (gather (cellsAt (pa + 0x10) bs))).commitAt ((s.sundial + 1) % 2 ^ 48) none
          (gather (cellsAt (pa + 0x10) bs))) := by
  have at_ (q : Nat × Byte) (hq : q ∈ cellsAt (pa + 0x10) bs) : ∃ i < 8, q.1 = pa + 0x10 + i := by
    obtain ⟨i, hi, rfl⟩ := mem_cellsAt.mp hq
    exact ⟨i, hb ▸ hi, rfl⟩
  have canon : ∀ q ∈ cellsAt (pa + 0x10) bs, canonPa q.1 = q.1 := fun q hq => by
    obtain ⟨i, hi, e⟩ := at_ q hq
    rw [e]; exact (hf i hi).1
  have keys (a : Nat) (ha : a ∈ skeys (gather (cellsAt (pa + 0x10) bs))) : ∃ i < 8, a = pa + 0x10 + i := by
    obtain ⟨q, hq, rfl⟩ := List.mem_map.mp ha
    exact at_ q (mem_of_mem_gather hq)
  have ready : s.takeTs.2.homesReady (skeys (gather (cellsAt (pa + 0x10) bs))) = true := List.all_eq_true.mpr fun a ha => by
    obtain ⟨i, hi, rfl⟩ := keys a ha
    obtain ⟨-, home, -⟩ := hf i hi
    rw [homesReady, List.all_cons, List.all_nil, Bool.and_true] at home
    exact home
  have room : ((skeys (gather (cellsAt (pa + 0x10) bs))).all fun a => !s.takeTs.2.lineBusy a && !s.takeTs.2.orangeryFull (homeOf a)) = true :=
    List.all_eq_true.mpr fun a ha => by
      obtain ⟨i, hi, rfl⟩ := keys a ha
      obtain ⟨-, -, busy, full⟩ := hf i hi
      simp only [show s.takeTs.2.lineBusy _ = false from busy, show s.takeTs.2.orangeryFull _ = false from full]; rfl
  unfold deviceCommit
  rw [show s.takeTs = ((s.sundial + 1) % 2 ^ 48, s.takeTs.2) from rfl]
  dsimp only
  rw [gather_canon canon, if_pos (by rw [ready, room]; rfl)]

/-- A written status word reads back, with what it leaves alone (R378). -/
theorem writeWord_word (hf : s.WordFree pa) (hb : bs.length = 8) (hw : ∀ w ∈ (s.part p).sqWords, w.2.1 = false) :
    let t := s.writeWord p pa bs true vs
    let now := (s.sundial + 1) % 2 ^ 48
    t.newests (pa + 0x10) 8 = bs ∧ t.ctxs = s.ctxs ∧ t.launches = s.launches ∧
      if tsLe now t.hSys then (t.part p).sqHead = ((s.part p).sqHead + 1) % 2 ^ 32 ∧ ∀ x ∈ vs, .irq (p + 1) x ∈ t.out
      else (t.part p).sqHead = (s.part p).sqHead % 2 ^ 32 ∧ (now, true, vs) ∈ (t.part p).sqWords := by
  intro t now
  have hcom := s.takeTs.2.commit_now now (gather (cellsAt (pa + 0x10) bs))
  generalize hc : (s.takeTs.2.noteOutside now (gather (cellsAt (pa + 0x10) bs))).commitAt now none (gather (cellsAt (pa + 0x10) bs)) = c at hcom
  have ht : t = (c.modPart p fun x => { x with sqWords := x.sqWords ++ [(now, true, vs)] }).settleWords p := by
    simp only [t, writeWord, deviceCommit_word hf hb]
    rw [← hc]
  have bytes (i : Nat) (hi : i < 8) : c.newest (pa + 0x10 + i) = bs.getD i 0 := by
    obtain ⟨canon, -⟩ := hf i hi
    rw [newest, hcom.mem, canon]
    refine mread_of_written ⟨(pa + 0x10 + i, bs.getD i 0), mem_gather (cellsAt_nodup _) (mem_cellsAt.mpr ⟨i, hb ▸ hi, rfl⟩), canon⟩
      (fun q hq e => ?_) _
    obtain ⟨j, hj, rfl⟩ := mem_cellsAt.mp (mem_of_mem_gather hq)
    obtain ⟨canon', -⟩ := hf j (hb ▸ hj)
    have : j = i := by have := canon'.symm.trans e; omega
    rw [this]
  have hp : (c.modPart p fun x => { x with sqWords := x.sqWords ++ [(now, true, vs)] }).part p
      = { s.part p with sqWords := (s.part p).sqWords ++ [(now, true, vs)] } := by
    rw [modPart_part, if_pos rfl, part, hcom.parts]; rfl
  generalize hu : (c.modPart p fun x => { x with sqWords := x.sqWords ++ [(now, true, vs)] }) = u at ht hp
  have none : (s.part p).sqWords.filter (fun w => tsLe w.1 u.hSys && w.2.1) = [] :=
    List.filter_eq_nil_iff.mpr fun w hm => by simp [hw w hm]
  have heads : ((u.dueWords p).filter fun w => w.2.1) = if tsLe now u.hSys then [(now, true, vs)] else [] := by
    rw [dueWords, hp, List.filter_filter, List.filter_append, List.filter_congr fun w _ => Bool.and_comm .., none]
    by_cases d : tsLe now u.hSys <;> simp [d]
  have part_t := settleWords_part u p
  have hsys : t.hSys = u.hSys := by rw [ht, settleWords_eq]; rfl
  have out : t.out = _ := ht ▸ settleWords_out u p
  rw [← ht] at part_t
  have same : t.mem = c.mem ∧ t.ctxs = c.ctxs ∧ t.launches = c.launches := by
    rw [ht, settleWords_eq, ← hu]; exact ⟨rfl, rfl, rfl⟩
  obtain ⟨m, x, l⟩ := same
  refine ⟨?_, x.trans hcom.ctxs, l.trans hcom.launches, ?_⟩
  · rw [newests]
    refine List.ext_getElem (by simp [hb]) fun i h1 h2 => ?_
    have hi : i < 8 := by simpa using h1
    have e : t.newest (pa + 0x10 + i) = c.newest (pa + 0x10 + i) := by rw [newest, m]; rfl
    rw [List.getElem_map, List.getElem_range, e, bytes i hi, List.getD_eq_getElem _ _ (hb ▸ hi)]
  · rw [hsys, part_t, heads, hp]
    split
    · next d =>
      refine ⟨rfl, fun v hv => ?_⟩
      rw [out]
      refine List.mem_append_left _ (List.mem_reverse.mpr (List.mem_map.mpr ⟨v, List.mem_flatMap.mpr ⟨(now, true, vs), ?_, hv⟩, rfl⟩))
      exact List.mem_filter.mpr ⟨by rw [hp]; simp, d⟩
    · next d => exact ⟨rfl, List.mem_filter.mpr ⟨by simp, by simpa using d⟩⟩

end State
end Sys2Proof.Machine
end

section
/-! PROOF. The host port: the next entry of a submission ring (R378). -/

namespace Sys2Proof.Machine
namespace State
variable {s v w : State} {p pa ident o : Nat} {raise : List Nat}

/-- The status word of the entry at `pa`, the next of partition `p` at `v`, has been written with an outcome and a LAUNCH.ID:
SQ.HEAD has moved and vectors are raised if it is visible at SYSTEM scope, and else both wait for it (R378 step 3). -/
def Taken (v : State) (p pa : Nat) (raise : List Nat) (o ident : Nat) (t : State) : Prop :=
  t.newests (pa + 0x10) 8 = leBytes 8 (ident * 2 ^ 32 + 2 ^ 8 + o) ∧
    if tsLe ((v.sundial + 1) % 2 ^ 48) t.hSys = true then
      (t.part p).sqHead = ((v.part p).sqHead + 1) % 2 ^ 32 ∧ ∀ x ∈ raise, .irq (p + 1) x ∈ t.out
    else (t.part p).sqHead % 2 ^ 32 = (v.part p).sqHead % 2 ^ 32 ∧ ((v.sundial + 1) % 2 ^ 48, true, raise) ∈ (t.part p).sqWords

/-- `w` is `v` in all that the writing of a status word of partition `p` depends on. -/
structure Beside (p : Nat) (v w : State) : Prop where
  sundial : w.sundial = v.sundial
  dev : w.dev = v.dev
  packets : w.packets = v.packets
  teams : w.teams = v.teams
  orangery : w.orangery = v.orangery
  head : (w.part p).sqHead = (v.part p).sqHead
  words : (w.part p).sqWords = (v.part p).sqWords

theorem Beside.trans {u : State} (h : Beside p v w) (k : Beside p w u) : Beside p v u :=
  ⟨k.sundial.trans h.sundial, k.dev.trans h.dev, k.packets.trans h.packets, k.teams.trans h.teams, k.orangery.trans h.orangery,
    k.head.trans h.head, k.words.trans h.words⟩

theorem Beside.refl (v : State) : Beside p v v := ⟨rfl, rfl, rfl, rfl, rfl, rfl, rfl⟩

/-- A partition's record changed, but neither its SQ.HEAD nor its status words. -/
theorem beside_modPart (v : State) (p k : Nat) {f : Part → Part} (h1 : (f (v.part k)).sqHead = (v.part k).sqHead)
    (h2 : (f (v.part k)).sqWords = (v.part k).sqWords) : Beside p v (v.modPart k f) := by
  refine ⟨rfl, rfl, rfl, rfl, rfl, ?_, ?_⟩ <;> rw [modPart_part] <;> split
  · next e => subst e; exact h1
  · rfl
  · next e => subst e; exact h2
  · rfl

theorem Beside.wordFree (h : Beside p v w) (hf : v.WordFree pa) : w.WordFree pa := fun i hi => by
  obtain ⟨canon, home, busy, full⟩ := hf i hi
  refine ⟨canon, ?_, ?_, ?_⟩
  · rw [homesReady, h.dev]; exact home
  · rw [lineBusy, h.packets]; exact busy
  · rw [orangeryFull, pendingLines, oldLines, h.teams, h.orangery]; exact full

theorem finishEntry_taken (h : Beside p v w) (hf : v.WordFree pa) (hw : ∀ x ∈ (v.part p).sqWords, x.2.1 = false)
    (hid : ident < 2 ^ 32) (irq : Bool) :
    Taken v p pa (if irq then [0] else []) o ident (w.finishEntry p pa irq ident o)
      ∧ (w.finishEntry p pa irq ident o).ctxs = w.ctxs ∧ (w.finishEntry p pa irq ident o).launches = w.launches := by
  have hb : Beside p v (w.modPart p fun x => { x with sqRefused := false }) := h.trans (beside_modPart w p p rfl rfl)
  obtain ⟨bytes, ctxs, launches, rest⟩ := writeWord_word (vs := if irq then [0] else []) (bs := entryWord ident false o)
    (hb.wordFree hf) (by simp [entryWord]) fun x hx => hw x (hb.words ▸ hx)
  have word : entryWord ident false o = leBytes 8 (ident * 2 ^ 32 + 2 ^ 8 + o) := by
    simp only [entryWord, Nat.mod_eq_of_lt hid, Bool.false_eq_true, if_false, Nat.add_zero]
  have e : w.finishEntry p pa irq ident o = (w.modPart p fun x => { x with sqRefused := false }).writeWord p pa (entryWord ident false o)
    true (if irq then [0] else []) := rfl
  rw [hb.sundial, hb.head] at rest
  rw [← e] at bytes ctxs launches rest
  rw [word] at bytes
  generalize w.finishEntry p pa irq ident o = t at bytes ctxs launches rest ⊢
  refine ⟨⟨bytes, ?_⟩, ctxs, launches⟩
  split at rest
  · next d => rw [if_pos d]; exact rest
  · next d => rw [if_neg d]; exact ⟨by rw [rest.1, Nat.mod_mod], rest.2⟩

/-- A context that consumes an error, neither killed nor being killed, is then being killed with KIND 4 (R364). -/
theorem consumeCtx_killing {c a : Nat} (h1 : (v.ctx c).killed = false) (h2 : (v.ctx c).killing = none) :
    ∃ k, ((v.consumeCtx c a).ctx c).killing = some k ∧ k.kind = 4 :=
  ⟨_, killing_requestKill c _ h1 h2, rfl⟩

theorem beside_consumeCtx (v : State) (c a : Nat) : Beside p v (v.consumeCtx c a) := ⟨rfl, rfl, rfl, rfl, rfl, rfl, rfl⟩

/-- A poisoned byte that an entry's submission uses: the entry is taken with outcome 3, and the context consumes the error
(R364). -/
theorem poisoned_taken (hf : v.WordFree pa) (hw : ∀ x ∈ (v.part p).sqWords, x.2.1 = false) (c a : Nat) (irq : Bool) :
    let t := (v.consumeCtx c a).finishEntry p pa irq 0 3
    Taken v p pa (if irq then [0] else []) 3 0 t
      ∧ ((v.ctx c).killed = false → (v.ctx c).killing = none → ∃ k, (t.ctx c).killing = some k ∧ k.kind = 4)
      ∧ t.launches = v.launches := by
  obtain ⟨taken, ctxs, launches⟩ := finishEntry_taken (o := 3) (ident := 0) (beside_consumeCtx v c a) hf hw (by decide) irq
  refine ⟨taken, fun h1 h2 => ?_, launches⟩
  rw [ctx, ctxs]
  exact consumeCtx_killing h1 h2

/-! ### Taking an entry -/

/-- The launch unit has an entry of a partition to take: none before it is unreleased, and its home is ready. -/
def HasNext (v : State) (p : Nat) : Prop :=
  (v.part p).live = true ∧ (v.part p).sqEn = true ∧ (v.part p).sqHead % 2 ^ 32 ≠ (v.part p).sqTail % 2 ^ 32
    ∧ (v.part p).sqFault = none ∧ v.dev.st = .service ∧ (∀ w ∈ (v.part p).sqWords, w.2.1 = false)
    ∧ v.homesReady [v.sqEntry p] = true

/-- The doublewords of the next entry, as the doorbell's acquire shows them. -/
def entry (v : State) (p : Nat) : List DWord := dwords 8 (v.snapBytes (v.part p).sqSnap (v.sqEntry p) 64)

/-- CTX and the record's address in an entry, and whether it asks for vector 0 (R378). -/
def entryCtx (e : List DWord) : Nat := dfld (e.getD 1 0) 0 12
def entryVa (e : List DWord) : Nat := dfld (e.getD 0 0) 0 56
def entryIrq (e : List DWord) : Bool := decide (dfld (e.getD 1 0) 16 1 = 1)

/-- What the launch unit leaves of `v` where it takes an entry. -/
def takeNext (v : State) (p : Nat) : State :=
  if v.poisoned (v.sqEntry p) 64 then
    (v.consumeCtx (entryCtx (v.entry p)) (v.sqEntry p)).finishEntry p (v.sqEntry p) (entryIrq (v.entry p)) 0 3
  else if entryBad (v.entry p) then v.finishEntry p (v.sqEntry p) (entryIrq (v.entry p)) 0 5
  else if outOfRange (v.part p).ctxRange (entryCtx (v.entry p)) then v.finishEntry p (v.sqEntry p) (entryIrq (v.entry p)) 0 4
  else (v.submitEntry p (v.sqEntry p) (v.entry p)).settle

theorem exec_submissionEntryTake (h : HasNext (s.settleWords p) p) :
    exec (.submissionEntryTake p) s = .next ((s.settleWords p).takeNext p) := by
  obtain ⟨live, en, more, fault, service, words, home⟩ := h
  rw [show exec (.submissionEntryTake p) s = execSubmissionEntryTake p s from rfl]
  simp only [execSubmissionEntryTake]
  generalize s.settleWords p = v at *
  have open_ : (v.part p).sqWords.any (fun w => w.2.1) = false := by
    rw [List.any_eq_false]; exact fun w hw => by simp [words w hw]
  have turn : ¬((!(v.part p).live || !(v.part p).sqEn || decide ((v.part p).sqHead % 2 ^ 32 = (v.part p).sqTail % 2 ^ 32)
      || (v.part p).sqFault.isSome || v.dev.st != .service || (v.part p).sqWords.any (fun w => w.2.1)
      || !v.homesReady [v.sqEntry p]) = true) := by
    rw [live, en, decide_eq_false more, fault, service, open_, home]; decide
  rw [if_neg turn]
  rw [takeNext, apply_ite Host.Outcome.next, apply_ite Host.Outcome.next, apply_ite Host.Outcome.next]
  rfl

theorem exec_submissionEntryTake_none
    (h : ((s.settleWords p).part p).live = false ∨ ((s.settleWords p).part p).sqEn = false
      ∨ ((s.settleWords p).part p).sqHead % 2 ^ 32 = ((s.settleWords p).part p).sqTail % 2 ^ 32
      ∨ ((s.settleWords p).part p).sqFault ≠ none ∨ ∃ w ∈ ((s.settleWords p).part p).sqWords, w.2.1 = true) :
    exec (.submissionEntryTake p) s = .next (s.settleWords p) := by
  rw [show exec (.submissionEntryTake p) s = execSubmissionEntryTake p s from rfl]
  simp only [execSubmissionEntryTake]
  generalize s.settleWords p = v at h
  rw [if_pos]
  have fault : (v.part p).sqFault ≠ none ↔ (v.part p).sqFault.isSome = true := by rw [Option.isSome_iff_ne_none]
  rw [fault, ← List.any_eq_true] at h
  simp only [Bool.or_eq_true, Bool.not_eq_true', decide_eq_true_eq]
  tauto

/-! ### Submitting an entry -/

section
variable {e : List DWord}

theorem submitEntry_of_misaligned (h : entryVa e % 64 ≠ 0) :
    v.submitEntry p pa e = v.finishEntry p pa (entryIrq e) 0 2 := by
  unfold entryVa at h
  simp only [submitEntry, bne_iff_ne]
  rw [if_pos h]; rfl

theorem submitEntry_of_refused (h : entryVa e % 64 = 0) (hr : (v.part p).sqRefused = true) :
    v.submitEntry p pa e = v.finishEntry p pa (entryIrq e) 0 3 := by
  unfold entryVa at h
  simp only [submitEntry, bne_iff_ne]
  rw [if_neg (not_not_intro h), if_pos hr]; rfl

/-- What the submission of an entry comes to at what the read of its record gives. -/
def submitRead (v : State) (p pa : Nat) (e : List DWord) : RingRead → State
  | .page a => v.modPart p fun p => { p with sqFault := some (BitVec.ofNat 56 a, none) }
  | .wait => v
  | .poisoned a => (v.consumeCtx (entryCtx e) a).finishEntry p pa (entryIrq e) 0 3
  | .unreadable => v.finishEntry p pa (entryIrq e) 0 3
  | .got bs =>
    let r := v.submit (entryCtx e) (dwords 32 bs) (v.part p).sqSnap
    let s := if r.1 = 0 && dfld (e.getD 1 0) 17 1 = 1 then r.2.2.2.modLaunch r.2.2.1 fun l => { l with notify := some pa } else r.2.2.2
    s.finishEntry p pa (entryIrq e) r.2.1 r.1

theorem submitEntry_of_read (h : entryVa e % 64 = 0) (hr : (v.part p).sqRefused = false) :
    v.submitEntry p pa e = v.submitRead p pa e (v.readIn p (entryCtx e) (v.part p).sqSnap (entryVa e) 4 []) := by
  unfold entryVa at h
  simp only [submitEntry, bne_iff_ne]
  rw [if_neg (not_not_intro h), if_neg (by simp [hr])]
  show _ = v.submitRead p pa e (v.readIn p (dfld (e.getD 1 0) 0 12) (v.part p).sqSnap (dfld (e.getD 0 0) 0 56) 4 [])
  cases v.readIn p (dfld (e.getD 1 0) 0 12) (v.part p).sqSnap (dfld (e.getD 0 0) 0 56) 4 [] <;> rfl

end

end State
end Sys2Proof.Machine
end

section
/-! PROOF. The host port: what the submission of an entry comes to (R40, R364, R378). -/

namespace Sys2Proof.Machine
namespace State
variable {s v : State} {p pa : Nat} {e : List DWord}

/-- A launch queued in a context of any partition leaves what the writing of a status word depends on. -/
theorem beside_queued (v : State) (x : Nat) (k : Launch) : Beside p v (v.queued x k) := by
  unfold queued
  refine Beside.trans ?_ (beside_modPart _ p (v.partOfCtx x) rfl rfl)
  exact ⟨rfl, rfl, rfl, rfl, rfl, rfl, rfl⟩

theorem beside_modLaunch (v : State) (k : Nat) (f : Launch → Launch) : Beside p v (v.modLaunch k f) :=
  ⟨rfl, rfl, rfl, rfl, rfl, rfl, rfl⟩

/-- Where the next entry of a partition is read, no error met, and names a context in range. -/
structure Readable (v : State) (p : Nat) : Prop where
  next : HasNext v p
  sound : v.poisoned (v.sqEntry p) 64 = false
  formed : entryBad (v.entry p) = false
  inRange : outOfRange (v.part p).ctxRange (entryCtx (v.entry p)) = false

/-- The entry is submitted, and every group's operations settled. -/
theorem happens_of_readable {post : State → Prop} (h : Readable (s.settleWords p) p)
    (hp : post ((s.settleWords p).submitEntry p ((s.settleWords p).sqEntry p) ((s.settleWords p).entry p))) :
    Happens (.submissionEntryTake p) s post := by
  refine ⟨_, ?_, hp⟩
  rw [exec_submissionEntryTake h.next, takeNext, h.sound, h.formed, h.inRange]
  rfl

/-- An entry whose record is read and finds room in its queue: the launch is queued, with the notice it asks for. -/
theorem queued_taken {bs : List Byte} (hf : v.WordFree pa) (hw : ∀ x ∈ (v.part p).sqWords, x.2.1 = false)
    (hb : recordBad (v.part (v.partOfCtx (entryCtx e)))
      { Launch.absent with record := dwords 32 bs, part := v.partOfCtx (entryCtx e), ctx := entryCtx e } = false)
    (hq : v.queueLen (v.partOfCtx (entryCtx e))
      (Launch.prio { Launch.absent with record := dwords 32 bs, part := v.partOfCtx (entryCtx e), ctx := entryCtx e }) < 64) :
    let t := v.submitRead p pa e (.got bs)
    let ident := (v.part (v.partOfCtx (entryCtx e))).nextLaunch % 2 ^ 32
    Taken v p pa (if entryIrq e then [0] else []) 0 ident t
      ∧ ∃ k, sget t.launches v.names.launch = some k ∧ k.record = dwords 32 bs ∧ k.part = v.partOfCtx (entryCtx e)
        ∧ k.ctx = entryCtx e ∧ k.st = .queued ∧ k.ident = ident ∧ k.snapIssuer = (v.part p).sqSnap
        ∧ k.notify = if dfld (e.getD 1 0) 17 1 = 1 then some pa else none := by
  obtain ⟨k, room, ⟨record, part, ctx, st, id⟩, snap, notify⟩ := submit_room (s := v) (entryCtx e) (v.part p).sqSnap (dwords 32 bs) hb hq
  have lt : (v.part (v.partOfCtx (entryCtx e))).nextLaunch % 2 ^ 32 < 2 ^ 32 := Nat.mod_lt _ (by decide)
  intro t ident
  by_cases told : dfld (e.getD 1 0) 17 1 = 1
  · obtain ⟨taken, -, launches⟩ := finishEntry_taken (o := 0) (pa := pa)
      ((beside_queued v (entryCtx e) k).trans (beside_modLaunch _ v.names.launch fun l => { l with notify := some pa })) hf hw lt (entryIrq e)
    have ht : t = ((v.queued (entryCtx e) k).modLaunch v.names.launch fun l => { l with notify := some pa }).finishEntry p pa (entryIrq e)
        ident 0 := by
      simp only [t, submitRead, room, told, decide_true, Bool.and_true, if_true]; rfl
    rw [ht]
    refine ⟨taken, { k with notify := some pa }, ?_, record, part, ctx, st, id, snap, by rw [if_pos told]⟩
    rw [launches, modLaunch, sget_sput, if_pos rfl, launch, sgetD, sget_queued]; rfl
  · obtain ⟨taken, -, launches⟩ := finishEntry_taken (o := 0) (pa := pa) (beside_queued v (entryCtx e) k) hf hw lt (entryIrq e)
    have ht : t = (v.queued (entryCtx e) k).finishEntry p pa (entryIrq e) ident 0 := by
      simp only [t, submitRead, room, told, decide_false, Bool.and_false, Bool.false_eq_true, if_false]; rfl
    rw [ht]
    refine ⟨taken, k, ?_, record, part, ctx, st, id, snap, by rw [if_neg told]; exact notify⟩
    rw [launches, sget_queued]

/-- The other outcomes of a record that has been read: bad, or no room for it. -/
theorem submitRead_of_bad {bs : List Byte}
    (hb : recordBad (v.part (v.partOfCtx (entryCtx e)))
      { Launch.absent with record := dwords 32 bs, part := v.partOfCtx (entryCtx e), ctx := entryCtx e } = true) :
    v.submitRead p pa e (.got bs) = v.finishEntry p pa (entryIrq e) 0 2 := by
  simp only [submitRead, submit_bad _ _ _ hb]; rfl

theorem submitRead_of_full {bs : List Byte}
    (hb : recordBad (v.part (v.partOfCtx (entryCtx e)))
      { Launch.absent with record := dwords 32 bs, part := v.partOfCtx (entryCtx e), ctx := entryCtx e } = false)
    (hq : 64 ≤ v.queueLen (v.partOfCtx (entryCtx e))
      (Launch.prio { Launch.absent with record := dwords 32 bs, part := v.partOfCtx (entryCtx e), ctx := entryCtx e })) :
    v.submitRead p pa e (.got bs) = v.finishEntry p pa (entryIrq e) 0 1 := by
  simp only [submitRead, submit_full _ _ _ hb hq]; rfl

end State
end Sys2Proof.Machine
end

section
/-! PROOF. The host port: windows, configuration space and the mailbox (R376, R377, R379). -/

namespace Sys2Proof.Machine

/-! ### Pages of bytes -/

/-- The byte that a write puts at a place of a page, if it enables one there. -/
def put (off : Nat) (bytes : List (Option Byte)) (k : Nat) : Option Byte := if off ≤ k then bytes.getD (k - off) none else none

theorem sgetD_putBytes (m : Store Byte) (off : Nat) (bytes : List (Option Byte)) (k : Nat) :
    sgetD (State.putBytes m off bytes) k 0 = (put off bytes k).getD (sgetD m k 0) := by
  have fold (n : Nat) : sgetD ((List.range n).foldl (fun m i =>
        match bytes.getD i none with | some b => sputD 0 m (off + i) b | none => m) m) k 0
      = (if k < off + n then put off bytes k else none).getD (sgetD m k 0) := by
    induction n with
    | zero =>
      have h : ¬(k < off + 0 ∧ off ≤ k) := by omega
      by_cases hk : k < off + 0
      · rw [if_pos hk, put, if_neg fun h' => h ⟨hk, h'⟩]; rfl
      · rw [if_neg hk]; rfl
    | succ n ih =>
      rw [List.range_succ, List.foldl_append, List.foldl_cons, List.foldl_nil]
      by_cases hk : k = off + n
      · subst hk
        have here : put off bytes (off + n) = bytes.getD n none := by
          rw [put, if_pos (by omega), show off + n - off = n by omega]
        rw [if_pos (by omega), here]
        cases bytes.getD n none with
        | none => exact ih.trans (by rw [if_neg (by omega)])
        | some b => simp
      · have next : (k < off + (n + 1)) ↔ (k < off + n) := by omega
        simp only [next]
        rw [← ih]
        cases bytes.getD n none with
        | none => rfl
        | some b => simp [hk]
  refine (fold bytes.length).trans ?_
  split
  · rfl
  · next h =>
    rw [put, if_pos (by omega), List.getD_eq_default _ _ (by omega)]

/-- Bytes that are all enabled. -/
theorem put_some (off : Nat) (bytes : List Byte) (k : Nat) :
    put off (bytes.map some) k = if off ≤ k ∧ k < off + bytes.length then some (bytes.getD (k - off) 0) else none := by
  by_cases h : off ≤ k
  · by_cases h' : k < off + bytes.length
    · have hk : k - off < bytes.length := by omega
      rw [put, if_pos h, if_pos ⟨h, h'⟩, List.getD_eq_getElem _ _ (by simpa using hk), List.getElem_map, List.getD_eq_getElem _ _ hk]
    · rw [put, if_pos h, if_neg fun x => h' x.2, List.getD_eq_default _ _ (by simp; omega)]
  · rw [put, if_neg h, if_neg fun x => h x.1]

namespace State
variable {s : State} {fn off : Nat} {bytes : List (Option Byte)}

/-! ### Configuration space -/

/-- A byte of configuration space after a host write to a function's: the class code stands (R376). -/
theorem confWrite_config (hc : s.hasConf fn = true) (f k : Nat) (hk : k < 4096) (hk' : ¬(0x09 ≤ k ∧ k ≤ 0x0B)) :
    sgetD (s.confWrite fn off bytes).dev.config (f * 4096 + k) 0
      = (if f = fn ∧ off ≤ k then bytes.getD (k - off) none else none).getD (sgetD s.dev.config (f * 4096 + k) 0) := by
  simp only [confWrite, hc, Bool.not_true, Bool.false_eq_true, if_false, modDev]
  rw [sgetD_putBytes]
  congr 1
  rw [put]
  by_cases h : fn * 4096 + off ≤ f * 4096 + k
  · rw [if_pos h]
    by_cases hj : f * 4096 + k - (fn * 4096 + off) < bytes.length
    · rw [List.getD_eq_getElem _ _ (by simpa using hj), List.getElem_map, List.getElem_range]
      by_cases hf : f = fn
      · subst hf
        have e : off + (f * 4096 + k - (f * 4096 + off)) = k := by omega
        rw [e, if_neg (by simp; omega), if_pos ⟨rfl, by omega⟩, show f * 4096 + k - (f * 4096 + off) = k - off by omega]
      · rw [if_pos (by simp; omega), if_neg fun x => hf x.1]
    · rw [List.getD_eq_default _ _ (by simpa using hj)]
      split
      · next x =>
        obtain ⟨rfl, hx⟩ := x
        rw [List.getD_eq_default _ _ (by omega)]
      · rfl
  · rw [if_neg h, if_neg]
    rintro ⟨rfl, hx⟩
    omega

theorem confWrite_rest (hc : s.hasConf fn = true) :
    { s.confWrite fn off bytes with dev := s.dev } = s ∧ { (s.confWrite fn off bytes).dev with config := s.dev.config } = s.dev := by
  simp only [confWrite, hc, Bool.not_true, Bool.false_eq_true, if_false]
  exact ⟨rfl, rfl⟩

/-- A byte of configuration space as the host reads it. -/
theorem confByte_of_lt {k : Nat} (hk : k < 4096) :
    s.confByte fn k = if k = 0x0B then 0x12 else if k = 0x0A ∨ k = 0x09 then 0 else sgetD s.dev.config (fn * 4096 + k) 0 := by
  simp only [confByte, if_neg (Nat.not_le.mpr hk), Bool.or_eq_true, decide_eq_true_eq]

/-! ### Writes and reads through a window -/

/-- The cells of a host write: the bytes it enables at the addresses it names. -/
def hostCells (pas : List Nat) (bytes : List (Option Byte)) : List (Nat × Byte) :=
  (pas.zip bytes).filterMap fun x => x.2.map fun b => (x.1, b)

theorem mem_hostCells {pas : List Nat} {q : Nat × Byte} :
    q ∈ hostCells pas bytes ↔ ∃ i : Nat, pas[i]? = some q.1 ∧ bytes[i]? = some (some q.2) := by
  simp only [hostCells, List.mem_filterMap, Option.map_eq_some_iff]
  constructor
  · rintro ⟨⟨p, o⟩, hm, b, rfl, rfl⟩
    obtain ⟨i, hi⟩ := List.mem_iff_getElem?.mp hm
    rw [List.getElem?_zip_eq_some] at hi
    exact ⟨i, hi⟩
  · rintro ⟨i, h1, h2⟩
    exact ⟨(q.1, some q.2), List.mem_iff_getElem?.mpr ⟨i, List.getElem?_zip_eq_some.mpr ⟨h1, h2⟩⟩, q.2, rfl, rfl⟩

theorem hostCells_fold (l : List (Nat × Option Byte)) (m : Store Byte) :
    l.foldl (fun m (x : Nat × Option Byte) => match x.2 with | some b => sput m x.1 b | none => m) m
      = (l.filterMap fun x => x.2.map fun b => (x.1, b)).foldl (fun m p => sput m p.1 p.2) m := by
  induction l generalizing m with
  | nil => rfl
  | cons x l ih =>
    obtain ⟨p, o⟩ := x
    cases o with
    | none => exact ih m
    | some b => exact ih (sput m p b)

/-- The cells of a host write have each an address of their own. -/
theorem hostCells_nodup {pas : List Nat} (hn : pas.Nodup) : ((hostCells pas bytes).map Prod.fst).Nodup := by
  induction pas generalizing bytes with
  | nil => simp [hostCells]
  | cons p pas ih =>
    obtain ⟨hp, hn⟩ := List.nodup_cons.mp hn
    cases bytes with
    | nil => simp [hostCells]
    | cons o bytes =>
      cases o with
      | none => exact ih hn
      | some b =>
        refine List.nodup_cons.mpr ⟨fun h => hp ?_, ih hn⟩
        obtain ⟨q, hq, rfl⟩ := List.mem_map.mp h
        obtain ⟨i, hi, -⟩ := mem_hostCells.mp hq
        exact List.mem_of_getElem? hi

end State
end Sys2Proof.Machine
end

section
/-! PROOF. The host port: accesses of the host, doorbells, messages and resets (R377 to R380). -/

namespace Sys2Proof.Machine
namespace State
variable {s : State} {fn a n : Nat} {bytes : List (Option Byte)} {pas : List Nat}

/-- The bytes of a host write, committed with a timestamp taken then (R377, R379). -/
def hostWritten (s : State) (pas : List Nat) (bytes : List (Option Byte)) : State :=
  (s.takeTs.2.noteOutside ((s.sundial + 1) % 2 ^ 48) (gather (hostCells pas bytes))).commitAt ((s.sundial + 1) % 2 ^ 48) none
    (gather (hostCells pas bytes))

theorem exec_hostWrite_dead (h : s.hostLive = false) : exec (.hostWrite fn a bytes) s = .next s := by
  show execHostWrite fn a bytes s = _
  simp only [execHostWrite, h, Bool.not_false, if_true]

theorem exec_hostRead_dead (h : s.hostLive = false) : exec (.hostRead fn a n) s = .next s := by
  show execHostRead fn a n s = _
  simp only [execHostRead, h, Bool.not_false, if_true]

theorem not_conf (ha : a < bar0Base) : ¬confBase ≤ a := by unfold confBase; unfold bar0Base at ha; omega

theorem exec_hostWrite (h : s.hostLive = true) (ha : a < bar0Base) (hp : s.hostPas fn a bytes.length = some pas)
    (home : s.homesReady pas = true) (free : ∀ p ∈ pas, s.lineBusy p = false) (space : s.spaceFor pas = none) :
    exec (.hostWrite fn a bytes) s = .next (s.hostWritten pas bytes) := by
  have idle : pas.any s.lineBusy = false := List.any_eq_false.mpr fun p hp => by simp [free p hp]
  show execHostWrite fn a bytes s = _
  unfold execHostWrite
  rw [h, if_neg (by decide), if_neg (not_conf ha), if_neg (Nat.not_le.mpr ha), hp]
  dsimp only
  rw [idle, home, if_neg (by decide), space]
  exact congrArg (fun l => Host.Outcome.next ((s.takeTs.2.noteOutside ((s.sundial + 1) % 2 ^ 48) l).commitAt
    ((s.sundial + 1) % 2 ^ 48) none l)) (hostCells_fold (pas.zip bytes) [])

theorem exec_hostWrite_refused (h : s.hostLive = true) (ha : a < bar0Base) (hp : s.hostPas fn a bytes.length = none) :
    exec (.hostWrite fn a bytes) s = .next (s.refuse fn a) := by
  show execHostWrite fn a bytes s = _
  unfold execHostWrite
  rw [h, if_neg (by decide), if_neg (not_conf ha), if_neg (Nat.not_le.mpr ha), hp]

theorem exec_hostRead_refused (h : s.hostLive = true) (ha : a < bar0Base) (hp : s.hostPas fn a n = none) :
    exec (.hostRead fn a n) s = .next ((s.emit (.hostData (List.replicate n 0xFF))).refuse fn a) := by
  show execHostRead fn a n s = _
  unfold execHostRead
  rw [h, if_neg (by decide), if_neg (not_conf ha), if_neg (Nat.not_le.mpr ha), hp]

/-- What a host read leaves: its data told, and through CXL.mem the lines the host may keep (R379). -/
def hostTold (s : State) (fn : Nat) (pas : List Nat) : State :=
  if fn = cxlMem then (s.emit (.hostData (pas.map s.newest))).modDev fun d =>
    { d with hostCached := ((pas.map fun a => canonPa a / 64).eraseDups ++ d.hostCached).eraseDups }
  else s.emit (.hostData (pas.map s.newest))

theorem exec_hostRead (h : s.hostLive = true) (ha : a < bar0Base) (hp : s.hostPas fn a n = some pas) (home : s.homesReady pas = true) :
    exec (.hostRead fn a n) s = .next (s.hostTold fn pas) := by
  show execHostRead fn a n s = _
  unfold execHostRead
  rw [h, if_neg (by decide), if_neg (not_conf ha), if_neg (Nat.not_le.mpr ha), hp]
  dsimp only
  rw [home, if_neg (by decide)]
  rfl

theorem hostTold_cached (hf : fn = cxlMem) {p : Nat} (hp : p ∈ pas) : canonPa p / 64 ∈ (s.hostTold fn pas).dev.hostCached := by
  rw [hostTold, if_pos hf]
  show _ ∈ List.eraseDups _
  rw [List.mem_eraseDups]
  exact List.mem_append_left _ (List.mem_eraseDups.mpr (List.mem_map.mpr ⟨p, hp, rfl⟩))

theorem hostTold_out : (s.hostTold fn pas).out = .hostData (pas.map s.newest) :: s.out := by
  unfold hostTold; split <;> rfl

theorem hostTold_held : (s.hostTold fn pas).held = s.held := by
  unfold hostTold; split <;> rfl

theorem hostWritten_committed (s : State) (pas : List Nat) (bytes : List (Option Byte)) :
    Committed (gather (hostCells pas bytes)) s.takeTs.2 (s.hostWritten pas bytes) := commit_now ..

/-- A byte that a host write names reads as it wrote it, or as before where it is not enabled. -/
theorem hostWritten_newest (hn : pas.Nodup) (hc : ∀ p ∈ pas, canonPa p = p) {i p : Nat} (hi : i < bytes.length)
    (hp : pas[i]? = some p) : (s.hostWritten pas bytes).newest p = (bytes.getD i none).getD (s.newest p) := by
  have own (q : Nat × Byte) (hq : q ∈ gather (hostCells pas bytes)) (e : canonPa q.1 = p) : bytes[i]? = some (some q.2) := by
    obtain ⟨j, h1, h2⟩ := mem_hostCells.mp (mem_of_mem_gather hq)
    rw [hc _ (List.mem_of_getElem? h1)] at e
    obtain ⟨hlen, -⟩ := List.getElem?_eq_some_iff.mp hp
    have ij : i = j := (List.getElem?_inj hlen hn).mp (hp.trans (e ▸ h1.symm))
    exact ij ▸ h2
  have here : bytes[i]? = some (bytes.getD i none) := by
    rw [List.getD_eq_getElem _ _ hi, List.getElem?_eq_getElem hi]
  rw [newest, (hostWritten_committed s pas bytes).mem, hc p (List.mem_of_getElem? hp)]
  cases hb : bytes.getD i none with
  | none =>
    rw [mread_of_none_written fun q hq e => ?_]
    · rw [newest, hc p (List.mem_of_getElem? hp)]; rfl
    · have := here.symm.trans (own q hq e)
      rw [hb] at this
      cases this
  | some b =>
    refine mread_of_written ⟨(p, b), mem_gather (hostCells_nodup hn) (mem_hostCells.mpr ⟨i, hp, hb ▸ here⟩),
      hc p (List.mem_of_getElem? hp)⟩ (fun q hq e => ?_) _
    have := here.symm.trans (own q hq e)
    rw [hb] at this
    exact (Option.some.inj (Option.some.inj this)).symm

theorem hostWritten_other (hc : ∀ p ∈ pas, canonPa p = p) {k : Nat} (hk : k ∉ pas) :
    mread (s.hostWritten pas bytes).mem k = mread s.mem k := by
  rw [(hostWritten_committed s pas bytes).mem]
  refine mread_of_none_written (fun q hq e => hk ?_) _
  obtain ⟨i, h, -⟩ := mem_hostCells.mp (mem_of_mem_gather hq)
  have hm := List.mem_of_getElem? h
  rwa [← e, hc _ hm]

/-! ### Pages -/

theorem exec_hostRead_bar (h : s.hostLive = true) {off : Nat} (ho : off < 2 ^ 44) :
    exec (.hostRead fn (bar0Base + off) n) s = .next (s.emit (.hostData ((List.range n).map fun i => s.pageByte fn (off + i)))) := by
  show execHostRead fn (bar0Base + off) n s = _
  unfold execHostRead
  rw [h, if_neg (by decide), if_neg (by unfold confBase bar0Base; omega), if_pos (Nat.le_add_right ..), Nat.add_sub_cancel_left]

theorem exec_hostRead_conf (h : s.hostLive = true) (off : Nat) :
    exec (.hostRead fn (confBase + off) n) s
      = .next (s.emit (.hostData ((List.range n).map fun i => if s.hasConf fn then s.confByte fn (off + i) else 0xFF))) := by
  show execHostRead fn (confBase + off) n s = _
  unfold execHostRead
  rw [h, if_neg (by decide), if_pos (Nat.le_add_right ..), Nat.add_sub_cancel_left]

theorem exec_hostWrite_conf (h : s.hostLive = true) (off : Nat) :
    exec (.hostWrite fn (confBase + off) bytes) s = .next (s.confWrite fn off bytes) := by
  show execHostWrite fn (confBase + off) bytes s = _
  unfold execHostWrite
  rw [h, if_neg (by decide), if_pos (Nat.le_add_right ..), Nat.add_sub_cancel_left]

/-! ### Messages -/

theorem mailLive_hostLive (h : s.mailLive = true) : s.hostLive = true := by
  simp only [mailLive, Bool.and_eq_true] at h; exact h.1.1

theorem exec_fjondanMailbox (off : Nat) (l : List Byte) :
    exec (.fjondanMailbox off l) s = .next (if off < 4096 && s.mailLive then s.mailIn off (l.map some) else s) := rfl

/-- PF0's page leads to the mailbox (R377). -/
theorem exec_hostWrite_mail (h : s.mailLive = true) {off : Nat} (ho : off < 4096) (l : List Byte) :
    exec (.hostWrite 0 (bar0Base + 0x1000 + off) (l.map some)) s = exec (.fjondanMailbox off l) s := by
  rw [exec_fjondanMailbox]
  show execHostWrite 0 (bar0Base + 0x1000 + off) (l.map some) s = _
  unfold execHostWrite
  rw [mailLive_hostLive h, if_neg (by decide), if_neg (by unfold confBase bar0Base; omega), if_pos (by omega),
    show bar0Base + 0x1000 + off - bar0Base = 0x1000 + off by omega]
  have noTable : msixAt 0 (0x1000 + off) = none := by
    rw [msixAt, if_pos rfl, if_pos rfl, if_neg (by simp; omega)]
  simp only [pageAccess, if_true, noTable]
  rw [if_pos (by simp; omega), h, if_pos rfl, if_pos (by simp; omega), Nat.add_sub_cancel_left]

theorem mailIn_mailbox {off : Nat} {l : List Byte} (hl : off + l.length ≤ 4096) (k : Nat) :
    sgetD (s.mailIn off (l.map some)).dev.mailbox k 0
      = if off ≤ k ∧ k < off + l.length then l.getD (k - off) 0 else sgetD s.dev.mailbox k 0 := by
  show sgetD (putBytes s.dev.mailbox off ((l.map some).take (4096 - off))) k 0 = _
  rw [List.take_of_length_le (by simp; omega), sgetD_putBytes, put_some]
  split <;> rfl

/-! ### Doorbells and resets -/

theorem doorbell_of_room {p : Nat} {tail : Word} (h : (s.part p).live = true)
    (hr : (s.part p).sqEn = false ∨ (tail.toNat + 2 ^ 32 - (s.part p).sqHead % 2 ^ 32) % 2 ^ 32 ≤ 2 ^ ((s.part p).sqOrder.toNat % 16)) :
    s.doorbell p tail = s.modPart p fun q => { q with sqTail := tail.toNat, sqSnap := s.hSys } := by
  simp only [doorbell, h, Bool.not_true, Bool.false_eq_true, if_false]
  cases en : (s.part p).sqEn with
  | false => rfl
  | true =>
    have hr := hr.resolve_left (by simp [en])
    rw [if_neg (by simp), if_neg (Nat.not_lt.mpr hr)]

theorem doorbell_of_overrun {p : Nat} {tail : Word} (h : (s.part p).live = true) (en : (s.part p).sqEn = true)
    (hr : 2 ^ ((s.part p).sqOrder.toNat % 16) < (tail.toNat + 2 ^ 32 - (s.part p).sqHead % 2 ^ 32) % 2 ^ 32) :
    s.doorbell p tail = (s.modPart p fun q => { q with sqEn := false }).emit (.irq (p + 1) 2) := by
  simp only [doorbell, h, en, Bool.not_true, Bool.false_eq_true, if_false]
  rw [if_pos hr]

end State
end Sys2Proof.Machine
end

section
/-! PROOF. The obligation about the host port. -/

namespace Sys2Proof.Machine
namespace State
variable {s : State} {p : Nat} {o : Nat}

theorem settleWords_launches (s : State) (p : Nat) : (s.settleWords p).launches = s.launches := by rw [settleWords_eq]; rfl

/-- The vectors an entry has raised, as the frame of the ring has them. -/
theorem raise_eq (e : List DWord) : (if entryIrq e then [0] else []) = if dfld (e.getD 1 0) 16 1 = 1 then [0] else [] := by
  by_cases h : dfld (e.getD 1 0) 16 1 = 1
  · rw [if_pos h, entryIrq, decide_eq_true h, if_pos rfl]
  · rw [if_neg h, entryIrq, decide_eq_false h, if_neg Bool.false_ne_true]

/-- The next entry of `p` at `v`, taken with an outcome and a LAUNCH.ID, leaves `t`. -/
abbrev NextTaken (v : State) (p o ident : Nat) (t : State) : Prop :=
  Taken v p (v.sqEntry p) (if dfld ((v.entry p).getD 1 0) 16 1 = 1 then [0] else []) o ident t

/-- An entry answered with an outcome alone leaves its word, and every launch as it was. -/
theorem finishEntry_answers {v w : State} (hb : Beside p v w) (hl : w.launches = v.launches) (hn : HasNext v p) (hf : v.WordFree (v.sqEntry p)) :
    NextTaken v p o 0 (w.finishEntry p (v.sqEntry p) (entryIrq (v.entry p)) 0 o)
      ∧ (w.finishEntry p (v.sqEntry p) (entryIrq (v.entry p)) 0 o).launches = v.launches := by
  obtain ⟨-, -, -, -, -, words, -⟩ := hn
  obtain ⟨taken, -, launches⟩ := finishEntry_taken (o := o) (ident := 0) hb hf words (by decide) (entryIrq (v.entry p))
  rw [raise_eq] at taken
  exact ⟨taken, launches.trans hl⟩

/-- The same, where the context of the entry consumes a poisoned byte at `a` (R364). -/
theorem consumeCtx_answers {v : State} {a : Nat} (hn : HasNext v p) (hf : v.WordFree (v.sqEntry p)) :
    let t := (v.consumeCtx (entryCtx (v.entry p)) a).finishEntry p (v.sqEntry p) (entryIrq (v.entry p)) 0 3
    NextTaken v p 3 0 t
      ∧ ((v.ctx (entryCtx (v.entry p))).killed = false → (v.ctx (entryCtx (v.entry p))).killing = none →
        ∃ k, (t.ctx (entryCtx (v.entry p))).killing = some k ∧ k.kind = 4)
      ∧ t.launches = v.launches := by
  obtain ⟨-, -, -, -, -, words, -⟩ := hn
  have h := poisoned_taken hf words (entryCtx (v.entry p)) a (entryIrq (v.entry p))
  rw [raise_eq] at h
  exact h

/-- A well-formed entry that is answered with an outcome alone. -/
theorem happens_of_answered (h : Readable (s.settleWords p) p) (hf : (s.settleWords p).WordFree ((s.settleWords p).sqEntry p))
    (he : (s.settleWords p).submitEntry p ((s.settleWords p).sqEntry p) ((s.settleWords p).entry p)
      = (s.settleWords p).finishEntry p ((s.settleWords p).sqEntry p) (entryIrq ((s.settleWords p).entry p)) 0 o) :
    Happens (.submissionEntryTake p) s fun t => NextTaken (s.settleWords p) p o 0 t ∧ t.launches = s.launches := by
  refine happens_of_readable h ?_
  rw [he, ← settleWords_launches s p]
  exact finishEntry_answers (Beside.refl _) rfl h.next hf

/-- An entry that is not submitted: answered, or its context the consumer of an error. -/
theorem occurs_of_malformed (h : HasNext (s.settleWords p) p) (hf : (s.settleWords p).WordFree ((s.settleWords p).sqEntry p))
    (he : (s.settleWords p).takeNext p
      = (s.settleWords p).finishEntry p ((s.settleWords p).sqEntry p) (entryIrq ((s.settleWords p).entry p)) 0 o) :
    Occurs (.submissionEntryTake p) s fun t => NextTaken (s.settleWords p) p o 0 t ∧ t.launches = s.launches := by
  refine ⟨_, exec_submissionEntryTake h, ?_⟩
  rw [he, ← settleWords_launches s p]
  exact finishEntry_answers (Beside.refl _) rfl h hf

theorem occurs_of_poisoned (h : HasNext (s.settleWords p) p) (hf : (s.settleWords p).WordFree ((s.settleWords p).sqEntry p))
    (hp : (s.settleWords p).poisoned ((s.settleWords p).sqEntry p) 64 = true) :
    Occurs (.submissionEntryTake p) s fun t => NextTaken (s.settleWords p) p 3 0 t
      ∧ (((s.settleWords p).ctx (entryCtx ((s.settleWords p).entry p))).killed = false →
        ((s.settleWords p).ctx (entryCtx ((s.settleWords p).entry p))).killing = none →
        ∃ k, (t.ctx (entryCtx ((s.settleWords p).entry p))).killing = some k ∧ k.kind = 4)
      ∧ t.launches = s.launches := by
  refine ⟨_, exec_submissionEntryTake h, ?_⟩
  rw [takeNext, hp, if_pos rfl, ← settleWords_launches s p]
  exact consumeCtx_answers h hf

theorem takeNext_of_bad {v : State} (hp : v.poisoned (v.sqEntry p) 64 = false) (hb : entryBad (v.entry p) = true) :
    v.takeNext p = v.finishEntry p (v.sqEntry p) (entryIrq (v.entry p)) 0 5 := by
  rw [takeNext, hp, hb]; rfl

theorem takeNext_of_outOfRange {v : State} (hp : v.poisoned (v.sqEntry p) 64 = false) (hb : entryBad (v.entry p) = false)
    (hr : outOfRange (v.part p).ctxRange (entryCtx (v.entry p)) = true) :
    v.takeNext p = v.finishEntry p (v.sqEntry p) (entryIrq (v.entry p)) 0 4 := by
  rw [takeNext, hp, hb, hr]; rfl

/-- The next entry's record queued, with the notice it asks for (R40). -/
theorem queued_answers {v : State} {bs : List Byte} {pn : Nat} (hpn : pn = v.partOfCtx (entryCtx (v.entry p))) (hn : HasNext v p)
    (hf : v.WordFree (v.sqEntry p))
    (hb : recordBad (v.part pn) { Launch.absent with record := dwords 32 bs, part := pn, ctx := entryCtx (v.entry p) } = false)
    (hq : v.queueLen pn (Launch.prio { Launch.absent with record := dwords 32 bs, part := pn, ctx := entryCtx (v.entry p) }) < 64) :
    let t := v.submitRead p (v.sqEntry p) (v.entry p) (.got bs)
    NextTaken v p 0 ((v.part pn).nextLaunch % 2 ^ 32) t
      ∧ ∃ k, sget t.launches v.names.launch = some k ∧ k.record = dwords 32 bs ∧ k.part = pn
        ∧ k.ctx = entryCtx (v.entry p) ∧ k.st = .queued ∧ k.ident = (v.part pn).nextLaunch % 2 ^ 32 ∧ k.snapIssuer = (v.part p).sqSnap
        ∧ k.notify = if dfld ((v.entry p).getD 1 0) 17 1 = 1 then some (v.sqEntry p) else none := by
  subst hpn
  obtain ⟨-, -, -, -, -, words, -⟩ := hn
  have h := queued_taken hf words hb hq
  rw [raise_eq] at h
  exact h

/-- A submission that comes to `t` at what the read of the record gives. -/
theorem happens_of_read {r : RingRead} {post : State → Prop} (h : Readable (s.settleWords p) p)
    (hva : entryVa ((s.settleWords p).entry p) % 64 = 0) (hr : ((s.settleWords p).part p).sqRefused = false)
    (he : (s.settleWords p).readIn p (entryCtx ((s.settleWords p).entry p)) ((s.settleWords p).part p).sqSnap
      (entryVa ((s.settleWords p).entry p)) 4 [] = r)
    (hp : post ((s.settleWords p).submitRead p ((s.settleWords p).sqEntry p) ((s.settleWords p).entry p) r)) :
    Happens (.submissionEntryTake p) s post := by
  refine happens_of_readable h ?_
  rw [submitEntry_of_read hva hr, he]
  exact hp

/-- A submission that its record, or the queue it names, turns away with an outcome. -/
theorem happens_of_turned {r : RingRead} (h : Readable (s.settleWords p) p)
    (hf : (s.settleWords p).WordFree ((s.settleWords p).sqEntry p))
    (hva : entryVa ((s.settleWords p).entry p) % 64 = 0) (hr : ((s.settleWords p).part p).sqRefused = false)
    (he : (s.settleWords p).readIn p (entryCtx ((s.settleWords p).entry p)) ((s.settleWords p).part p).sqSnap
      (entryVa ((s.settleWords p).entry p)) 4 [] = r)
    (hp : (s.settleWords p).submitRead p ((s.settleWords p).sqEntry p) ((s.settleWords p).entry p) r
      = (s.settleWords p).finishEntry p ((s.settleWords p).sqEntry p) (entryIrq ((s.settleWords p).entry p)) 0 o) :
    Happens (.submissionEntryTake p) s fun t => NextTaken (s.settleWords p) p o 0 t ∧ t.launches = s.launches :=
  happens_of_answered h hf (by rw [submitEntry_of_read hva hr, he, hp])

/-- A submission whose read uses a poisoned byte (R364). -/
theorem happens_of_poisoned {a : Nat} (h : Readable (s.settleWords p) p)
    (hf : (s.settleWords p).WordFree ((s.settleWords p).sqEntry p))
    (hva : entryVa ((s.settleWords p).entry p) % 64 = 0) (hr : ((s.settleWords p).part p).sqRefused = false)
    (he : (s.settleWords p).readIn p (entryCtx ((s.settleWords p).entry p)) ((s.settleWords p).part p).sqSnap
      (entryVa ((s.settleWords p).entry p)) 4 [] = .poisoned a) :
    Happens (.submissionEntryTake p) s fun t => NextTaken (s.settleWords p) p 3 0 t
      ∧ (((s.settleWords p).ctx (entryCtx ((s.settleWords p).entry p))).killed = false →
        ((s.settleWords p).ctx (entryCtx ((s.settleWords p).entry p))).killing = none →
        ∃ k, (t.ctx (entryCtx ((s.settleWords p).entry p))).killing = some k ∧ k.kind = 4)
      ∧ t.launches = s.launches := by
  refine happens_of_read h hva hr he ?_
  rw [← settleWords_launches s p]
  exact consumeCtx_answers h.next hf

/-! ### Doorbells -/

theorem occurs_sqTail_overrun {tail : Word} (h : (s.part p).live = true) (en : (s.part p).sqEn = true)
    (hr : 2 ^ ((s.part p).sqOrder.toNat % 16) < (tail.toNat + 2 ^ 32 - (s.part p).sqHead % 2 ^ 32) % 2 ^ 32) :
    Occurs (.sqTail p tail) s fun t => (t.part p).sqEn = false ∧ (t.part p).sqTail = (s.part p).sqTail ∧ .irq (p + 1) 2 ∈ t.out := by
  refine ⟨s.doorbell p tail, rfl, ?_⟩
  rw [doorbell_of_overrun h en hr]
  have hp : (s.modPart p fun q => { q with sqEn := false }).part p = { s.part p with sqEn := false } := by
    rw [modPart_part, if_pos rfl]
  exact ⟨(congrArg Part.sqEn hp :), (congrArg Part.sqTail hp :), List.mem_cons_self ..⟩

theorem occurs_sqEn {on : Bool} (h : (s.part p).live = true) :
    Occurs (.sqEn p on) s fun t => t = s.modPart p fun q => { q with sqEn := on } :=
  ⟨s.ringEnable p on, rfl, if_pos h⟩

/-! ### Windows and configuration space as the host sees them -/

variable {fn a n off : Nat} {bytes : List (Option Byte)} {pas : List Nat}

theorem occurs_hostWrite (h : s.hostLive = true) (ha : a < bar0Base) (hp : s.hostPas fn a bytes.length = some pas)
    (home : s.homesReady pas = true) (free : ∀ p ∈ pas, s.lineBusy p = false) (space : s.spaceFor pas = none) (hn : pas.Nodup)
    (hc : ∀ p ∈ pas, canonPa p = p) :
    Occurs (.hostWrite fn a bytes) s fun t => t.sundial = (s.sundial + 1) % 2 ^ 48 ∧ SameRegs s t ∧ t.scratch = s.scratch
      ∧ t.tiles = s.tiles ∧ (∀ i < bytes.length, ∀ p, pas[i]? = some p → t.newest p = (bytes.getD i none).getD (s.newest p))
      ∧ ∀ k, k ∉ pas → mread t.mem k = mread s.mem k := by
  have hcom := s.hostWritten_committed pas bytes
  exact ⟨_, exec_hostWrite h ha hp home free space, hcom.sundial, hcom.regs, hcom.scratch, hcom.tiles,
    fun i hi p hp => hostWritten_newest hn hc hi hp, fun k hk => hostWritten_other hc hk⟩

theorem occurs_hostRead (h : s.hostLive = true) (ha : a < bar0Base) (hp : s.hostPas fn a n = some pas) (home : s.homesReady pas = true) :
    Occurs (.hostRead fn a n) s fun t => t.out = .hostData (pas.map s.newest) :: s.out
      ∧ SameRegs s t ∧ SameBytes s t ∧ (fn = cxlMem → ∀ p ∈ pas, canonPa p / 64 ∈ t.dev.hostCached) :=
  ⟨_, exec_hostRead h ha hp home, hostTold_out, .of_held hostTold_held, .of_held hostTold_held,
    fun hf _ hp => hostTold_cached hf hp⟩

theorem emit_eq (s : State) (o : Out) : s.emit o = { s with out := o :: s.out } := rfl

theorem refuse_eq (s : State) (fn a : Nat) :
    s.refuse fn a = { s with out := .report "Fjondan: host access refused" :: .refused fn a :: s.out } := rfl

/-- What Fjondan is told of a refused access, and that nothing else has happened. -/
def Told (s : State) (fn a : Nat) (t : State) : Prop := .refused fn a ∈ t.out ∧ { t with out := s.out } = s

theorem told_of_out {t : State} {l : List Out} (ht : t = { s with out := l }) (hl : .refused fn a ∈ l) : Told s fn a t :=
  ht ▸ ⟨hl, rfl⟩

theorem occurs_hostWrite_refused (h : s.hostLive = true) (ha : a < bar0Base) (hp : s.hostPas fn a bytes.length = none) :
    Occurs (.hostWrite fn a bytes) s (Told s fn a) :=
  ⟨_, exec_hostWrite_refused h ha hp, told_of_out (s.refuse_eq fn a) (by simp)⟩

theorem occurs_hostRead_refused (h : s.hostLive = true) (ha : a < bar0Base) (hp : s.hostPas fn a n = none) :
    Occurs (.hostRead fn a n) s fun t => Told s fn a t ∧ .hostData (List.replicate n 0xFF) ∈ t.out := by
  refine ⟨_, exec_hostRead_refused h ha hp, ?_⟩
  rw [refuse_eq, emit_eq]
  exact ⟨told_of_out rfl (by simp), by simp⟩

/-- A read that only tells the host bytes. -/
def Answers (s : State) (f : Nat → Byte) (n off : Nat) (t : State) : Prop :=
  t.out = .hostData ((List.range n).map fun i => f (off + i)) :: s.out ∧ { t with out := s.out } = s

theorem occurs_hostRead_bar (h : s.hostLive = true) (ho : off < 2 ^ 44) :
    Occurs (.hostRead fn (bar0Base + off) n) s (Answers s (s.pageByte fn) n off) :=
  ⟨_, exec_hostRead_bar h ho, rfl, rfl⟩

theorem occurs_hostRead_noConf (h : s.hostLive = true) (hc : s.hasConf fn = false) :
    Occurs (.hostRead fn (confBase + off) n) s (Answers s (fun _ => 0xFF) n off) := by
  refine ⟨_, exec_hostRead_conf h off, ?_, rfl⟩
  simp only [hc, Bool.false_eq_true, if_false]; rfl

theorem occurs_hostRead_conf (h : s.hostLive = true) (hc : s.hasConf fn = true) (hn : off + n ≤ 4096) :
    Occurs (.hostRead fn (confBase + off) n) s (Answers s (fun k =>
      if k = 0x0B then 0x12 else if k = 0x0A ∨ k = 0x09 then 0 else sgetD s.dev.config (fn * 4096 + k) 0) n off) := by
  refine ⟨_, exec_hostRead_conf h off, ?_, rfl⟩
  simp only [hc, if_true]
  refine congrArg (· :: s.out) (congrArg Out.hostData (List.map_congr_left fun i hi => ?_))
  exact confByte_of_lt (by have := List.mem_range.mp hi; omega)

theorem exec_hostWrite_noConf (h : s.hostLive = true) (hc : s.hasConf fn = false) :
    exec (.hostWrite fn (confBase + off) bytes) s = .next s := by
  rw [exec_hostWrite_conf h, confWrite, hc]; rfl

theorem occurs_hostWrite_conf (h : s.hostLive = true) (hc : s.hasConf fn = true) :
    Occurs (.hostWrite fn (confBase + off) bytes) s fun t => { t with dev := s.dev } = s
      ∧ { t.dev with config := s.dev.config } = s.dev
      ∧ ∀ f k, k < 4096 → ¬(0x09 ≤ k ∧ k ≤ 0x0B) → sgetD t.dev.config (f * 4096 + k) 0 =
        (if f = fn ∧ off ≤ k then bytes.getD (k - off) none else none).getD (sgetD s.dev.config (f * 4096 + k) 0) := by
  obtain ⟨rest, dev⟩ := confWrite_rest (off := off) (bytes := bytes) hc
  exact ⟨_, exec_hostWrite_conf h off, rest, dev, fun f k hk hk' => confWrite_config hc f k hk hk'⟩

/-! ### Messages and resets -/

theorem occurs_fjondanMailbox {l : List Byte} (h : s.mailLive = true) (hl : off + l.length ≤ 4096) :
    Occurs (.fjondanMailbox off l) s fun t => (∀ i < l.length, sgetD t.dev.mailbox (off + i) 0 = l.getD i 0)
      ∧ (∀ k, ¬(off ≤ k ∧ k < off + l.length) → sgetD t.dev.mailbox k 0 = sgetD s.dev.mailbox k 0)
      ∧ SameRegs s t ∧ SameBytes s t := by
  by_cases ho : off < 4096
  · refine ⟨s.mailIn off (l.map some), by rw [exec_fjondanMailbox, h, decide_eq_true ho]; rfl, fun i hi => ?_, fun k hk => ?_,
      .of_held rfl, .of_held rfl⟩
    · rw [mailIn_mailbox hl, if_pos (by omega), Nat.add_sub_cancel_left]
    · rw [mailIn_mailbox hl, if_neg hk]
  · refine ⟨s, by rw [exec_fjondanMailbox, decide_eq_false ho]; rfl, fun i hi => by omega, fun _ _ => rfl, .of_held rfl, .of_held rfl⟩

/-- A function after its reset: its ring, its window and its interrupt state (R380). -/
def Shut (x : Part) : Prop :=
  x.sqEn = false ∧ x.bar2 = false ∧ x.msix = [] ∧ x.sqBase = 0 ∧ x.sqHead = 0 ∧ x.sqTail = 0 ∧ x.live = true

theorem shut_resetVf {p : Nat} (hl : (s.part p).live = true) : Shut ((s.resetVf p).part p) := by
  rw [resetVf, if_pos hl, modPart_part, if_pos rfl]
  exact ⟨rfl, rfl, rfl, rfl, rfl, rfl, hl⟩

theorem resetVf_other (s : State) {p k : Nat} (hk : k ≠ p) : (s.resetVf p).part k = s.part k := by
  unfold resetVf
  split
  · rw [modPart_part, if_neg hk]
  · rfl

/-- Resets of functions, one after another, leave shut each of them that lives, and what was shut already. -/
theorem shut_of_resets {k : Nat} (l : List Nat) (s : State) (hl : (s.part k).live = true) (hk : k ∈ l ∨ Shut (s.part k)) :
    Shut ((l.foldl (fun s p => s.resetVf p) s).part k) := by
  induction l generalizing s with
  | nil => exact hk.resolve_left (by simp)
  | cons p l ih =>
    by_cases h : k = p
    · subst h
      have shut := shut_resetVf hl
      obtain ⟨-, -, -, -, -, -, live⟩ := id shut
      exact ih _ live (.inr shut)
    · have same := s.resetVf_other h
      have later : k ∈ l ∨ Shut (s.part k) := hk.imp (fun hm => (List.mem_cons.mp hm).resolve_left h) id
      exact ih _ (by rw [same]; exact hl) (by rw [same]; exact later)

/-- All of a state but its partitions is as it was after a reset of functions. -/
theorem resets_rest (l : List Nat) (s : State) : ∃ x, l.foldl (fun s p => s.resetVf p) s = { s with parts := x } := by
  induction l generalizing s with
  | nil => exact ⟨s.parts, rfl⟩
  | cons p l ih =>
    obtain ⟨x, e⟩ := ih (s.resetVf p)
    refine ⟨x, e.trans ?_⟩
    unfold resetVf
    split <;> rfl

/-- A partition that lives has a record. -/
theorem mem_parts_of_live {k : Nat} (hl : (s.part k).live = true) : k ∈ skeys s.parts := by
  cases h : sget s.parts k with
  | none => rw [part, sgetD, h] at hl; cases hl
  | some x => exact List.mem_map.mpr ⟨(k, x), mem_of_sget h, rfl⟩

theorem occurs_conventionalReset (s : State) :
    Occurs .conventionalReset s fun t => (∀ k, (s.part k).live = true → Shut (t.part k)) ∧ t.dev.mailbox = [] ∧ t.dev.msix = []
      ∧ t.dev.config = [] ∧ SameRegs s t ∧ SameBytes s t := by
  obtain ⟨x, e⟩ := resets_rest (skeys s.parts) s.resetPf
  have shut (k : Nat) (hl : (s.part k).live = true) := shut_of_resets (skeys s.parts) s.resetPf hl (.inl (mem_parts_of_live hl))
  rw [e] at shut
  refine ⟨State.modDev { s.resetPf with parts := x } fun d => { d with config := [] }, ?_, shut, rfl, rfl, rfl, .of_held rfl, .of_held rfl⟩
  show Host.Outcome.next (((skeys s.parts).foldl (fun s p => s.resetVf p) s.resetPf).modDev fun d => { d with config := [] }) = _
  rw [e]

end State
end Sys2Proof.Machine

open Sys2Proof.Machine

/-- Settles O60: the windows, configuration space, the submission ring entry by entry, the mailbox, and the resets. -/
theorem hostPort : Obligations.HostPort := by
  refine ⟨fun s fn a bytes => ⟨fun h => ⟨State.exec_hostWrite_dead h, State.exec_hostRead_dead h⟩, fun h ha => ⟨?_, ?_, ?_⟩⟩,
    ?_, ?_, ?_, ?_⟩
  · exact fun pas hp home free space hn hc => State.occurs_hostWrite h ha hp home free space hn hc
  · exact fun pas hp home => State.occurs_hostRead h ha hp home
  · exact fun hp => ⟨State.occurs_hostWrite_refused h ha hp, State.occurs_hostRead_refused h ha hp⟩
  · exact fun s fn off n h => ⟨State.occurs_hostRead_bar h, State.occurs_hostRead_noConf h, State.occurs_hostRead_conf h⟩
  · exact fun s fn off bytes h => ⟨State.exec_hostWrite_noConf h, State.occurs_hostWrite_conf h⟩
  · intro s p off tail on bytes d gap v q pa e next_ c va free now raise taken consumed bad read none_
    refine ⟨fun hl hr => ⟨_, rfl, State.doorbell_of_room hl hr⟩, State.occurs_sqTail_overrun, State.occurs_sqEn,
      fun hn hp hf => State.occurs_of_poisoned hn hf hp, fun hn hp hb hf => ?_, fun hn hp hb hr hf => ?_, fun hn hp hb hr => ?_,
      State.exec_submissionEntryTake_none, fun hm => ?_, fun hm ho => State.exec_hostWrite_mail hm ho bytes, State.occurs_fjondanMailbox⟩
    · exact State.occurs_of_malformed hn hf (State.takeNext_of_bad hp hb)
    · exact State.occurs_of_malformed hn hf (State.takeNext_of_outOfRange hp hb hr)
    · have ready : State.Readable v p := ⟨hn, hp, hb, hr⟩
      refine ⟨fun hva hf => State.happens_of_answered ready hf (State.submitEntry_of_misaligned hva),
        fun hva refused hf => State.happens_of_answered ready hf (State.submitEntry_of_refused hva refused),
        fun hva fresh he hf => State.happens_of_turned ready hf hva fresh he rfl,
        fun hva fresh he => State.happens_of_read ready hva fresh he rfl,
        fun x hva fresh he hf => State.happens_of_poisoned ready hf hva fresh he,
        fun x hva fresh he => State.happens_of_read ready hva fresh he rfl, fun bs hva fresh he => ?_⟩
      exact ⟨fun bad hf => State.happens_of_turned ready hf hva fresh he (State.submitRead_of_bad bad),
        fun good full hf => State.happens_of_turned ready hf hva fresh he (State.submitRead_of_full good full),
        fun good room hf => State.happens_of_read ready hva fresh he (State.queued_answers rfl hn hf good room)⟩
    · rw [State.exec_fjondanMailbox, hm, Bool.and_false]; rfl
  · exact fun s p => ⟨⟨s.resetVf p, rfl, State.shut_resetVf, fun k hk => State.resetVf_other s hk⟩, ⟨s.resetPf, rfl, rfl⟩,
      State.occurs_conventionalReset s⟩
end

section
/-! PROOF. Decoding and encoding agree (R66 to R82): the word holds its fields, each field builder is read back by the
field's accessor, each operand by its specifier, and so each instruction by the candidate of its fields. -/

namespace Sys2Proof.Coding

/-! ### Bits of a concatenation -/

@[simp] theorem extractLsb'_append_low {k m s n : Nat} {x : BitVec k} {y : BitVec m} (h : s + n ≤ m) :
    BitVec.extractLsb' (n := no_index (k + m)) s n (no_index (x ++ y)) = y.extractLsb' s n := by
  ext i hi
  simp only [BitVec.getElem_extractLsb', BitVec.getLsbD_append, if_pos (show s + i < m by omega)]

@[simp] theorem extractLsb'_append_high {k m s n : Nat} {x : BitVec k} {y : BitVec m} (h : m ≤ s) :
    BitVec.extractLsb' (n := no_index (k + m)) s n (no_index (x ++ y)) = x.extractLsb' (s - m) n := by
  ext i hi
  simp only [BitVec.getElem_extractLsb', BitVec.getLsbD_append, if_neg (show ¬ s + i < m by omega),
    show s + i - m = s - m + i by omega]

@[simp] theorem getElem_append_low {k m i : Nat} {x : BitVec k} {y : BitVec m} (h : i < m) (h' : i < k + m) :
    GetElem.getElem (coll := no_index (BitVec (k + m))) (no_index (x ++ y)) i h' = y[i] := by
  rw [BitVec.getElem_append, dif_pos h]

@[simp] theorem getElem_append_high {k m i : Nat} {x : BitVec k} {y : BitVec m} (h : m ≤ i) (h' : i < k + m) :
    GetElem.getElem (coll := no_index (BitVec (k + m))) (no_index (x ++ y)) i h' = x[i - m]'(by omega) := by
  rw [BitVec.getElem_append, dif_neg (by omega)]

/-! ### The word holds its fields (R66) -/

theorem unpack_pack (r : Raw) : unpack (pack r) = r := by
  cases r
  simp [unpack, pack]

theorem pack_unpack (w : DWord) : pack (unpack w) = w := by
  simp only [unpack, pack]
  iterate 8 rw [BitVec.extractLsb'_append_extractLsb'_eq_extractLsb']
  · exact BitVec.extractLsb'_eq_self
  all_goals rfl

theorem dwordOfBytes_bytesOfDword (w : DWord) : dwordOfBytes (bytesOfDword w) = w.toNat := by
  simp [dwordOfBytes, bytesOfDword, List.range_succ, BitVec.extractLsb'_toNat, Nat.shiftRight_eq_div_pow]
  omega


/-! ### Qualifier codes (R68, R75, R84, R118 to R121, R168, R288, R360) -/

@[simp] theorem intTyOf_code (x : IntTy) : intTyOf x.code = x := by cases x <;> rfl
@[simp] theorem condOf_code (x : Cond) : condOf x.code = some x := by cases x <;> rfl
@[simp] theorem ftyOf_code (x : FTy) : ftyOf x.code = some x := by cases x <;> rfl
@[simp] theorem rndOf_code (x : Rnd) : rndOf x.code = x := by cases x <;> rfl
@[simp] theorem fcondOf_code (x : FCond) : fcondOf x.code = x := by cases x <;> rfl
@[simp] theorem sizeOf2_code (x : Size) : sizeOf2 x.code = x := by cases x <;> rfl
@[simp] theorem orderOf_code (x : Order) : orderOf x.code = some x := by cases x <;> rfl
@[simp] theorem scopeOf_code (x : Scope) : scopeOf x.code = x := by cases x <;> rfl
@[simp] theorem dirOf_code (x : Dir) : dirOf x.code = x := by cases x <;> rfl
@[simp] theorem shflModeOf_code (x : ShflMode) : shflModeOf x.code = x := by cases x <;> rfl
@[simp] theorem segOf_code (x : Seg) : segOf x.code = x := by cases x <;> rfl
@[simp] theorem voteFormOf_code (x : VoteForm) : voteFormOf x.code = some x := by cases x <;> rfl
@[simp] theorem laneFormOf_code (x : LaneForm) : laneFormOf x.code = x := by cases x <;> rfl
@[simp] theorem cvtTyOf_code (x : CvtTy) : cvtTyOf x.code = some x := by cases x <;> rfl
@[simp] theorem icScopeOf_code (x : IcScope) : icScopeOf x.code = some x := by cases x <;> rfl
@[simp] theorem tlbScopeOf_code (x : TlbScope) : tlbScopeOf x.code = some x := by cases x <;> rfl
@[simp] theorem rscopeOf_code (x : RScope) : rscopeOf x.code = x := by cases x <;> rfl
@[simp] theorem drainDestOf_code (x : DrainDest) : drainDestOf x.code = some x := by cases x <;> rfl

/-! ### Accessors of a built word: each reads back what its builder laid there (R68, R75) -/

section
variable (op fn : BitVec 6) (dist : BitVec 3) (c : Ctl) (d a b e : BitVec 8) (x : BitVec 18) (md : BitVec 10)
  (ty : IntTy) (sat : Bool) (cond low : BitVec 3) (sz : Size) (ord : Order) (sc : Scope) (dir : Dir) (off : BitVec 11)

@[simp] theorem rawG_ctl : (rawG op fn c d a b x).ctl = c := rfl
@[simp] theorem rawG_b : (rawG op fn c d a b x).b = b := rfl
@[simp] theorem rawG_x : (rawG op fn c d a b x).x = x := rfl
@[simp] theorem rawM_x : (rawM op fn dist d a b x).x = x := rfl
@[simp] theorem rawM_dist : (rawM op fn dist d a b x).dist = dist := rfl

@[simp] theorem rawG_c : (rawG op fn c d a b (xC e md)).c = e := by simp [Raw.c, xC]
@[simp] theorem rawG_md : (rawG op fn c d a b (xC e md)).md = md := by simp [Raw.md, xC]
@[simp] theorem rawM_c : (rawM op fn dist d a b (xC e md)).c = e := by simp [Raw.c, xC]
@[simp] theorem rawM_md : (rawM op fn dist d a b (xC e md)).md = md := by simp [Raw.md, xC]

@[simp] theorem rawG_ty : (rawG op fn c d a b (xC e (mdInt ty sat cond low))).ty = ty := by simp [Raw.ty, mdInt]
@[simp] theorem rawG_sat : (rawG op fn c d a b (xC e (mdInt ty sat cond low))).sat = sat := by simp [Raw.sat, mdInt]
@[simp] theorem rawG_sh : (rawG op fn c d a b (xC e (mdInt ty sat cond low))).sh = low := by simp [Raw.sh, mdInt]
@[simp] theorem mdInt_cond : (mdInt ty sat cond low).extractLsb' 3 3 = cond := by simp [mdInt]

@[simp] theorem rawG_qty (q : BitVec 4) : (rawG op fn c d a (qInt ty sat q) x).qty = ty := by simp [Raw.qty, qInt]
@[simp] theorem rawG_qsat (q : BitVec 4) : (rawG op fn c d a (qInt ty sat q) x).qsat = sat := by simp [Raw.qsat, qInt]
@[simp] theorem rawG_qsh : (rawG op fn c d a (qInt ty sat (0#1 ++ low)) x).qsh = low := by simp [Raw.qsh, qInt]

@[simp] theorem rawG_fty (t r : BitVec 2) (m : FMods) (n : Bool) :
    (rawG op fn c d a b (xC e (mdF t r sat m n))).fty = ftyOf t := by simp [Raw.fty, mdF]
@[simp] theorem rawG_rnd (t : BitVec 2) (r : Rnd) (m : FMods) (n : Bool) :
    (rawG op fn c d a b (xC e (mdF t r.code sat m n))).rnd = r := by simp [Raw.rnd, mdF]
@[simp] theorem rawG_fsat (t r : BitVec 2) (m : FMods) (n : Bool) :
    (rawG op fn c d a b (xC e (mdF t r sat m n))).fsat = sat := by simp [Raw.fsat, mdF]
@[simp] theorem rawG_mods (t r : BitVec 2) (m : FMods) (n : Bool) :
    (rawG op fn c d a b (xC e (mdF t r sat m n))).mods = m := by simp [Raw.mods, mdF]

@[simp] theorem mdF_nega (t r : BitVec 2) (m : FMods) (n : Bool) : (mdF t r sat m n)[4] = m.nega := by simp [mdF]
@[simp] theorem mdF_absa (t r : BitVec 2) (m : FMods) (n : Bool) : (mdF t r sat m n)[3] = m.absa := by simp [mdF]
@[simp] theorem mdF_negc (t r : BitVec 2) (m : FMods) (n : Bool) : (mdF t r sat m n)[0] = n := by simp [mdF]

@[simp] theorem rawG_size_xG : (rawG op fn c d a b (xG sz ord sc off)).size = sz := by simp [Raw.size, xG]
@[simp] theorem rawG_order_xG : (rawG op fn c d a b (xG sz ord sc off)).order = some ord := by simp [Raw.order, xG]
@[simp] theorem rawG_scope_xG : (rawG op fn c d a b (xG sz ord sc off)).scope = sc := by simp [Raw.scope, xG]
@[simp] theorem rawG_off11_xG : (rawG op fn c d a b (xG sz ord sc off)).off11 = off := by simp [Raw.off11, xG]
@[simp] theorem rawG_size_xS : (rawG op fn c d a b (xS sz dir off)).size = sz := by simp [Raw.size, xS]
@[simp] theorem rawG_dir_xS : (rawG op fn c d a b (xS sz dir off)).dir = dir := by simp [Raw.dir, xS]
@[simp] theorem rawG_off11_xS : (rawG op fn c d a b (xS sz dir off)).off11 = off := by simp [Raw.off11, xS]
@[simp] theorem bit8_get (v : Bool) : (bit8 v)[0] = v := by simp [bit8]

@[simp] theorem rawG_off26 (n : BitVec 26) :
    (rawG op fn c d a (n.extractLsb' 18 8) (n.extractLsb' 0 18)).off26 = n := BitVec.extractLsb'_append_extractLsb'
@[simp] theorem rawM_off26 (n : BitVec 26) :
    (rawM op fn dist d a (n.extractLsb' 18 8) (n.extractLsb' 0 18)).off26 = n := BitVec.extractLsb'_append_extractLsb'
@[simp] theorem rawG_joff (n : BitVec 16) :
    (rawG op fn c (n.extractLsb' 8 8) (n.extractLsb' 0 8) b x).joff = n := BitVec.extractLsb'_append_extractLsb'

theorem rawWide_imm34 (n : BitVec 34) : (rawWide fn c d n).imm34 = n := by
  show n.extractLsb' 26 8 ++ n.extractLsb' 18 8 ++ n.extractLsb' 0 18 = n
  iterate 2 rw [BitVec.extractLsb'_append_extractLsb'_eq_extractLsb']
  · exact BitVec.extractLsb'_eq_self
  all_goals rfl
theorem rawWide_imm32 (n : BitVec 32) : (rawWide fn c d (n.zeroExtend 34)).imm32 = n := by
  rw [Raw.imm32, rawWide_imm34]
  exact (BitVec.extractLsb'_setWidth_of_le (by decide)).trans BitVec.extractLsb'_eq_self

end

/-! ### Operands (R70 to R74) -/

theorem opndOf_code {o : Opnd} (h : o.isM = false) : opndOf o.code = some o := by
  cases o with
  | v n | s n | k n | t n | a n | pos n | neg n | fp n => revert n; decide +kernel
  | sp x => cases x <;> decide
  | m n => cases h

section
variable {o d a b e : Opnd} {p : Opnd → Bool} {w : Bool}

/-- An operand that a position takes, where it takes no m register, is read back in a group's stream. -/
theorem opndOf_of (h : p o = true) (not_m : ∀ n, p (.m n) = false := by exact fun _ => rfl) : opndOf o.code = some o := by
  refine opndOf_code ?_
  cases o with
  | m n => rw [not_m n] at h; cases h
  | _ => rfl

theorem opndOf_of_or {q : Opnd → Bool} (h : (p o || q o) = true)
    (not_m : ∀ n, (p (.m n) || q (.m n)) = false := by exact fun _ => rfl) : opndOf o.code = some o :=
  opndOf_of (p := fun o => p o || q o) h not_m

/-- An operand that a position takes, where it takes no v, s or k register, is read back in a matrix stream. -/
theorem mopndOf_of (h : p o = true) (not_v : ∀ n, p (.v n) = false := by exact fun _ => rfl)
    (not_s : ∀ n, p (.s n) = false := by exact fun _ => rfl) (not_k : ∀ n, p (.k n) = false := by exact fun _ => rfl) :
    mopndOf o.code = some o := by
  cases o with
  | v n => rw [not_v n] at h; cases h
  | s n => rw [not_s n] at h; cases h
  | k n => rw [not_k n] at h; cases h
  | t n | a n | pos n | neg n | fp n | m n => clear h; revert n; decide +kernel
  | sp x => clear h; cases x <;> decide

theorem mopndOf_of_or {q : Opnd → Bool} (h : (p o || q o) = true)
    (not_v : ∀ n, (p (.v n) || q (.v n)) = false := by exact fun _ => rfl)
    (not_s : ∀ n, (p (.s n) || q (.s n)) = false := by exact fun _ => rfl)
    (not_k : ∀ n, (p (.k n) || q (.k n)) = false := by exact fun _ => rfl) : mopndOf o.code = some o :=
  mopndOf_of (p := fun o => p o || q o) h not_v not_s not_k

theorem opndOf_of_dstW (h : o.dstW w = true) : opndOf o.code = some o := opndOf_of h (by cases w <;> exact fun _ => rfl)
theorem opndOf_of_srcW (h : o.srcW w = true) : opndOf o.code = some o := opndOf_of h (by cases w <;> exact fun _ => rfl)
theorem opndOf_of_vW (h : o.vW w = true) : opndOf o.code = some o := opndOf_of h (by cases w <;> exact fun _ => rfl)
theorem opndOf_of_sW (h : o.sW w = true) : opndOf o.code = some o := opndOf_of h (by cases w <;> exact fun _ => rfl)
theorem opndOf_of_sW_or_int (h : (o.sW w || o.isInt) = true) : opndOf o.code = some o :=
  opndOf_of_or h (by cases w <;> exact fun _ => rfl)
theorem opndOf_of_vW_or_sW_or_int (h : (o.vW w || o.sW w || o.isInt) = true) : opndOf o.code = some o :=
  opndOf_of_or (p := fun o => o.vW w || o.sW w) h (by cases w <;> exact fun _ => rfl)
theorem opndOf_of_srcW_or_fp (h : (o.srcW w || !w && o.isFp) = true) : opndOf o.code = some o :=
  opndOf_of (p := fun o => o.srcW w || !w && o.isFp) h (by cases w <;> exact fun _ => rfl)

/-- An operand that 0 leaves out is read back where v0, whose specifier is 0, is not taken. -/
theorem optOpnd_of {o : Option Opnd} (h : o.all p = true) (not_m : ∀ n, p (.m n) = false := by exact fun _ => rfl)
    (not_v : ∀ n, p (.v n) = false := by exact fun _ => rfl) : optOpnd (optCode o) = some o := by
  cases o with
  | none => rfl
  | some x =>
    have back : opndOf x.code = some x := opndOf_of h not_m
    have nonzero : x.code ≠ 0 := fun z => by
      have v0 : some (.v 0) = some x := (z ▸ back :)
      cases v0
      rw [Option.all_some, not_v] at h
      cases h
    rw [optCode, optOpnd, if_neg nonzero, back]; rfl

theorem opndOf_c {op fn : BitVec 6} {c : Ctl} {d a b : BitVec 8} {md : BitVec 10} (h : opndOf e.code = some e) :
    opndOf (rawG op fn c d a b (xC e.code md)).c = some e := by rwa [rawG_c]
theorem mopndOf_c {op fn : BitVec 6} {dist : BitVec 3} {d a b : BitVec 8} {md : BitVec 10} (h : mopndOf e.code = some e) :
    mopndOf (rawM op fn dist d a b (xC e.code md)).c = some e := by rwa [rawM_c]

end

section
variable {x y z u : BitVec 8} {d a b e : Opnd}

theorem o1_of {f : Opnd → Instr} (hd : opndOf x = some d) : o1 x f = some (f d) := by rw [o1, hd]; rfl
theorem o2_of {f : Opnd → Opnd → Instr} (hd : opndOf x = some d) (ha : opndOf y = some a) : o2 x y f = some (f d a) := by
  rw [o2, hd]; exact o1_of ha
theorem o3_of {f : Opnd → Opnd → Opnd → Instr} (hd : opndOf x = some d) (ha : opndOf y = some a) (hb : opndOf z = some b) :
    o3 x y z f = some (f d a b) := by rw [o3, hd]; exact o2_of ha hb
theorem o4_of {f : Opnd → Opnd → Opnd → Opnd → Instr} (hd : opndOf x = some d) (ha : opndOf y = some a)
    (hb : opndOf z = some b) (he : opndOf u = some e) : o4 x y z u f = some (f d a b e) := by
  rw [o4, hd]; exact o3_of ha hb he

theorem m1_of {f : Opnd → Instr} (hd : mopndOf x = some d) : m1 x f = some (f d) := by rw [m1, hd]; rfl
theorem m2_of {f : Opnd → Opnd → Instr} (hd : mopndOf x = some d) (ha : mopndOf y = some a) : m2 x y f = some (f d a) := by
  rw [m2, hd]; exact m1_of ha
theorem m3_of {f : Opnd → Opnd → Opnd → Instr} (hd : mopndOf x = some d) (ha : mopndOf y = some a)
    (hb : mopndOf z = some b) : m3 x y z f = some (f d a b) := by rw [m3, hd]; exact m2_of ha hb
theorem m4_of {f : Opnd → Opnd → Opnd → Opnd → Instr} (hd : mopndOf x = some d) (ha : mopndOf y = some a)
    (hb : mopndOf z = some b) (he : mopndOf u = some e) : m4 x y z u f = some (f d a b e) := by
  rw [m4, hd]; exact m3_of ha hb he

/-- A qualifier that is no reserved value, or an operand that may be left out. -/
theorem bind_of {α : Type} {q : Option α} {v : α} {f : α → Option Instr} (h : q = some v) : q.bind f = f v := by rw [h]; rfl
theorem map_of {α : Type} {q : Option α} {v : α} {f : α → Instr} (h : q = some v) : q.map f = some (f v) := by rw [h]; rfl

end

/-! ### The candidate of the fields is the instruction -/

/-- The candidate of a word's fields in the stream its OP belongs to. -/
def candidate (r : Raw) : Option Instr := if streamOp r.op.toNat then candM r else candG r

theorem decodeWord_eq (w : DWord) : decodeWord w = if assigned (unpack w).op.toNat (unpack w).fn.toNat
    then accept (unpack w) (candidate (unpack w)) else .rejected .unassigned := by
  have op : w.extractLsb' 58 6 = (unpack w).op := rfl
  cases hs : streamOp (unpack w).op.toNat <;> cases ha : assigned (unpack w).op.toNat (unpack w).fn.toNat <;>
    simp [decodeWord, decodeG, decodeM, candidate, op, hs, ha]

/-- An instruction's fields, where it has some, stand in the opcode map, and their candidate is the instruction. -/
def ReadsBack (i : Instr) : Prop :=
  ∀ r, fieldsOf i = some r → assigned r.op.toNat r.fn.toNat = true ∧ candidate r = some i

theorem ReadsBack.of {i : Instr} {r : Raw} {o : Option Instr} (hf : fieldsOf i = some r)
    (ha : assigned r.op.toNat r.fn.toNat = true) (hc : candidate r = o) (ho : o = some i) : ReadsBack i :=
  fun _ h => Option.some.inj (hf.symm.trans h) ▸ ⟨ha, hc.trans ho⟩

section
variable {p q r s t u : Bool}
theorem and2 (h : (p && q) = true) : p = true ∧ q = true := by simpa using h
theorem and3 (h : (p && q && r) = true) : p = true ∧ q = true ∧ r = true := by simpa [and_assoc] using h
theorem and4 (h : (p && q && r && s) = true) : p = true ∧ q = true ∧ r = true ∧ s = true := by simpa [and_assoc] using h
theorem and5 (h : (p && q && r && s && t) = true) : p = true ∧ q = true ∧ r = true ∧ s = true ∧ t = true := by
  simpa [and_assoc] using h
theorem and6 (h : (p && q && r && s && t && u) = true) :
    p = true ∧ q = true ∧ r = true ∧ s = true ∧ t = true ∧ u = true := by simpa [and_assoc] using h
end

/-- The operands of TLBINV, as its SCOPE takes them (R360). -/
theorem tlbinv_operands {c : Ctl} {scope : TlbScope} {a b : Option Opnd} (wf : (Instr.tlbinv c scope a b).wf = true) :
    a.all Opnd.isEvenS = true ∧ b.all Opnd.isS = true := by
  obtain ⟨-, h⟩ := and2 wf
  cases scope <;> rcases a with _ | a <;> rcases b with _ | b <;> simp_all

/-- Every well-formed instruction reads back, by its entry in the opcode map (R81): its qualifiers and its operands do. -/
theorem readsBack {i : Instr} (wf : i.wf = true) : ReadsBack i := by
  cases i with
  -- OP 0x00
  | add c ty sat d a b | sub c ty sat d a b | mul c ty sat d a b | mulh c ty d a b | min c ty d a b | max c ty d a b
  | and c ty d a b | or c ty d a b | xor c ty d a b =>
    obtain ⟨hd, ha, hb, -⟩ := and4 wf
    exact .of rfl rfl (o3_of (opndOf_of_dstW hd) (opndOf_of_srcW ha) (opndOf_of_srcW hb)) (by simp [rawInt])
  | mad c ty sat d a b e =>
    obtain ⟨hd, ha, hb, he, -⟩ := and5 wf
    exact .of rfl rfl (o4_of (opndOf_of_dstW hd) (opndOf_of_srcW ha) (opndOf_of_srcW hb) (opndOf_c (opndOf_of_srcW he)))
      (by simp [rawInt])
  | not c ty d a | clz c ty d a | popc c ty d a | brev c ty d a =>
    obtain ⟨hd, ha, -⟩ := and3 wf
    exact .of rfl rfl (o2_of (opndOf_of_dstW hd) (opndOf_of_srcW ha)) (by simp [rawInt])
  | shl c ty d a b | shr c ty d a b | sar c ty d a b | rol c ty d a b | bfe c ty d a b =>
    obtain ⟨hd, ha, hb, -⟩ := and4 wf
    exact .of rfl rfl (o3_of (opndOf_of_dstW hd) (opndOf_of_srcW ha) (opndOf_of hb)) (by simp [rawInt])
  | sel c ty d a b e =>
    obtain ⟨hd, ha, hb, he, -⟩ := and5 wf
    exact .of rfl rfl (o4_of (opndOf_of_dstW hd) (opndOf_of_srcW ha) (opndOf_of_srcW hb) (opndOf_c (opndOf_of_or he)))
      (by simp [rawInt])
  | bfi c ty d a b e =>
    obtain ⟨hd, ha, hb, he, -⟩ := and5 wf
    exact .of rfl rfl (o4_of (opndOf_of_dstW hd) (opndOf_of_srcW ha) (opndOf_of_srcW hb) (opndOf_c (opndOf_of he)))
      (by simp [rawInt])
  | addx c ty d a b | subx c ty d a b | lea c ty sh d a b =>
    obtain ⟨-, hd, ha, hb, -⟩ := and5 wf
    exact .of rfl rfl (o3_of (opndOf_of hd) (opndOf_of ha) (opndOf_of hb)) (by simp [rawInt])
  | mov c ty d a =>
    obtain ⟨hd, ha, -⟩ := and3 wf
    exact .of rfl rfl (o2_of (opndOf_of_dstW hd) (opndOf_of_srcW_or_fp ha)) (by simp [rawInt])
  | leax c ty sh d a b e =>
    obtain ⟨-, hd, ha, hb, he, -⟩ := and6 wf
    exact .of rfl rfl (o4_of (opndOf_of hd) (opndOf_of ha) (opndOf_of hb) (opndOf_c (opndOf_of he))) (by simp [rawInt])
  -- OP 0x01
  | addImm c ty sat d a imm | subImm c ty sat d a imm | mulImm c ty sat d a imm | minImm c ty d a imm | maxImm c ty d a imm
  | andImm c ty d a imm | orImm c ty d a imm | xorImm c ty d a imm | shlImm c ty d a imm | shrImm c ty d a imm
  | sarImm c ty d a imm | rolImm c ty d a imm =>
    obtain ⟨hd, ha, -⟩ := and3 wf
    exact .of rfl rfl (o2_of (opndOf_of_dstW hd) (opndOf_of_srcW ha)) (by simp [rawImm])
  | movImm c ty d imm =>
    obtain ⟨hd, -⟩ := and2 wf
    exact .of rfl rfl (o1_of (opndOf_of_dstW hd)) (by simp [rawImm])
  | leaImm c sh d a imm =>
    obtain ⟨hd, ha, -⟩ := and3 wf
    exact .of rfl rfl (o2_of (opndOf_of hd) (opndOf_of ha)) (by simp [rawImm])
  -- OP 0x02
  | movw c d imm | movwh c d imm =>
    obtain ⟨hd, -⟩ := and2 wf
    exact .of rfl rfl (o1_of (opndOf_of hd)) (by rw [rawWide_imm32]; rfl)
  | movwx c d imm | addwx c d imm =>
    obtain ⟨hd, -⟩ := and2 wf
    exact .of rfl rfl (o1_of (opndOf_of hd)) (by rw [rawWide_imm34]; rfl)
  -- OP 0x03
  | cmp c ty cond d a b =>
    obtain ⟨hd, ha, hb, -⟩ := and4 wf
    exact .of rfl rfl ((bind_of (v := cond) (by simp)).trans (o3_of (opndOf_of hd) (opndOf_of_srcW ha) (opndOf_of_srcW hb)))
      (by simp)
  -- OP 0x04
  | kand c d a b | kor c d a b | kxor c d a b | ktest c d a b =>
    obtain ⟨-, hd, ha, hb⟩ := and4 wf
    exact .of rfl rfl (o3_of (opndOf_of hd) (opndOf_of ha) (opndOf_of hb)) (by simp [rawX])
  | knot c d a =>
    obtain ⟨-, hd, ha⟩ := and3 wf
    exact .of rfl rfl (o2_of (opndOf_of hd) (opndOf_of ha)) (by simp [rawX])
  | kmov c d a | ballot c d a =>
    obtain ⟨-, hd, ha⟩ := and3 wf
    exact .of rfl rfl (o2_of (opndOf_of hd) (opndOf_of_or ha)) (by simp [rawX])
  | execget c d =>
    obtain ⟨-, hd⟩ := and2 wf
    exact .of rfl rfl (o1_of (opndOf_of_or hd)) (by simp [rawX])
  | execset c a =>
    obtain ⟨-, ha⟩ := and2 wf
    exact .of rfl rfl (o1_of (opndOf_of_or ha)) (by simp [rawX])
  -- OP 0x05
  | shfl c mode seg d a b =>
    obtain ⟨-, hd, ha, hb⟩ := and4 wf
    exact .of rfl rfl (o3_of (opndOf_of hd) (opndOf_of ha) (opndOf_of hb)) (by simp [rawX])
  | vote c form d a =>
    obtain ⟨-, hd, ha⟩ := and3 wf
    exact .of rfl rfl ((bind_of (v := form) (by simp [rawX])).trans (o2_of (opndOf_of hd) (opndOf_of ha))) (by simp [rawX])
  | psum c ty sat exc d a | pmax c ty exc d a =>
    obtain ⟨-, -, hd, ha⟩ := and4 wf
    exact .of rfl rfl (o2_of (opndOf_of_vW hd) (opndOf_of_srcW ha)) (by simp [rawX, Raw.ty, Raw.sat])
  | laneid c form d =>
    obtain ⟨-, hd⟩ := and2 wf
    exact .of rfl rfl (o1_of (opndOf_of hd)) (by simp [rawX])
  -- OP 0x06
  | fadd c ty rnd sat md d a b | fsub c ty rnd sat md d a b | fmul c ty rnd sat md d a b | fmin c ty sat md d a b
  | fmax c ty sat md d a b =>
    obtain ⟨hd, ha, hb, -⟩ := and4 wf
    exact .of rfl rfl ((bind_of (v := ty) (by simp [rawF])).trans (o3_of (opndOf_of hd) (opndOf_of ha) (opndOf_of hb)))
      (by simp [rawF])
  | ffma c ty rnd sat md negc d a b e =>
    obtain ⟨hd, ha, hb, he, -⟩ := and5 wf
    exact .of rfl rfl ((bind_of (v := ty) (by simp [rawF])).trans
      (o4_of (opndOf_of hd) (opndOf_of ha) (opndOf_of hb) (opndOf_c (opndOf_of he)))) (by simp [rawF])
  | fcmp c cond md d a b =>
    obtain ⟨hd, ha, hb, -⟩ := and4 wf
    exact .of rfl rfl (o3_of (opndOf_of hd) (opndOf_of ha) (opndOf_of hb)) (by simp [Raw.mods])
  -- OP 0x07
  | frcp c rnd sat nega absa d a | frsq c rnd sat nega absa d a | fexp2 c rnd sat nega absa d a
  | flog2 c rnd sat nega absa d a | fsin c sat nega absa d a | fcos c sat nega absa d a | ftanh c sat nega absa d a =>
    obtain ⟨hd, ha, -⟩ := and3 wf
    exact .of rfl rfl (o2_of (opndOf_of hd) (opndOf_of ha)) (by simp [rawSf])
  -- OP 0x08
  | cvt c dt st rnd d a =>
    obtain ⟨hd, ha, -, -⟩ := and4 wf
    exact .of rfl rfl ((bind_of (v := dt) (by simp [rawX])).trans ((bind_of (v := st) (by simp [rawX])).trans
      (o2_of (opndOf_of_dstW hd) (opndOf_of_srcW_or_fp ha)))) (by simp [rawX])
  | pack c slot d a | unpack c rnd slot d a =>
    obtain ⟨-, hd, ha⟩ := and3 wf
    exact .of rfl rfl (o2_of (opndOf_of hd) (opndOf_of ha)) (by simp [rawX])
  -- OP 0x09, 0x0A, 0x16
  | bra c off | txbegin c off | brx c joff off =>
    exact .of rfl rfl rfl (congrArg some (by simp [rawBr]))
  | call c d off =>
    obtain ⟨-, hd⟩ := and2 wf
    exact .of rfl rfl (o1_of (opndOf_of hd)) (by simp [rawBr])
  | braz c a off | branz c a off =>
    obtain ⟨-, ha⟩ := and2 wf
    exact .of rfl rfl (o1_of (opndOf_of ha)) (by simp [rawBr])
  | join c | regang c | exit c | yield c | nop c | rte c | timerclr c =>
    exact .of rfl rfl rfl rfl
  | ret c a | jmpi c a | trap c a =>
    obtain ⟨-, ha⟩ := and2 wf
    exact .of rfl rfl (o1_of (opndOf_of ha)) (by simp [rawX])
  | calli c d a =>
    obtain ⟨-, hd, ha⟩ := and3 wf
    exact .of rfl rfl (o2_of (opndOf_of hd) (opndOf_of ha)) (by simp [rawX])
  -- OP 0x10
  | lds c sz sx d a off | ldw c sz dir sx d a off =>
    obtain ⟨-, hd, ha, -⟩ := and4 wf
    exact .of rfl rfl (o2_of (opndOf_of_vW hd) (opndOf_of ha)) (by simp)
  | sts c sz d a off | stw c sz dir d a off =>
    obtain ⟨-, hd, ha⟩ := and3 wf
    exact .of rfl rfl (o2_of (opndOf_of_vW_or_sW_or_int hd) (opndOf_of ha)) (by simp)
  | ldss c sz sx d a off | ldws c sz dir sx d a off =>
    obtain ⟨-, hd, ha, -⟩ := and4 wf
    exact .of rfl rfl (o2_of (opndOf_of_sW hd) (opndOf_of ha)) (by simp)
  | stss c sz d a off | stws c sz dir d a off =>
    obtain ⟨-, hd, ha⟩ := and3 wf
    exact .of rfl rfl (o2_of (opndOf_of_sW_or_int hd) (opndOf_of ha)) (by simp)
  -- OP 0x11, 0x12
  | ld c sz ord scope sx d a off =>
    obtain ⟨-, -, hd, ha, -⟩ := and5 wf
    exact .of rfl rfl ((bind_of (v := ord) (by simp)).trans (o2_of (opndOf_of_vW hd) (opndOf_of ha))) (by simp)
  | ldsc c sz ord scope sx d a off =>
    obtain ⟨-, -, hd, ha, -⟩ := and5 wf
    exact .of rfl rfl ((bind_of (v := ord) (by simp)).trans (o2_of (opndOf_of_sW hd) (opndOf_of ha))) (by simp)
  | pref c sz scope a off =>
    obtain ⟨ha, -⟩ := and2 wf
    exact .of rfl rfl ((bind_of (v := .rlx) (by simp)).trans (o1_of (opndOf_of ha))) (by simp)
  | ldt c ord scope d a b off | stt c ord scope d a b off =>
    obtain ⟨-, -, hd, ha, hb⟩ := and5 wf
    exact .of rfl rfl ((bind_of (v := ord) (by simp)).trans (o3_of (opndOf_of hd) (opndOf_of ha) (opndOf_of hb))) (by simp)
  | snap c ord scope newest d a off =>
    obtain ⟨-, -, hd, ha⟩ := and4 wf
    exact .of rfl rfl ((bind_of (v := ord) (by simp)).trans (o2_of (opndOf_of hd) (opndOf_of ha))) (by simp)
  | st c sz ord scope d a off =>
    obtain ⟨-, -, hd, ha⟩ := and4 wf
    exact .of rfl rfl ((bind_of (v := ord) (by simp)).trans (o2_of (opndOf_of_vW hd) (opndOf_of ha))) (by simp)
  | stsc c sz ord scope d a off =>
    obtain ⟨-, -, hd, ha⟩ := and4 wf
    exact .of rfl rfl ((bind_of (v := ord) (by simp)).trans (o2_of (opndOf_of_sW_or_int hd) (opndOf_of ha))) (by simp)
  -- OP 0x13
  | atomAdd c sz ord scope d a b off | atomMin c sz ord scope d a b off | atomMax c sz ord scope d a b off
  | atomMinn c sz ord scope d a b off | atomMaxn c sz ord scope d a b off | atomAnd c sz ord scope d a b off
  | atomOr c sz ord scope d a b off | atomXor c sz ord scope d a b off | atomSwap c sz ord scope d a b off
  | atomCas c sz ord scope d a b off =>
    obtain ⟨-, hd, ha, hb, -⟩ := and5 wf
    exact .of rfl rfl ((bind_of (v := ord) (by simp)).trans (o3_of (opndOf_of_dstW hd) (opndOf_of ha) (opndOf_of_srcW hb)))
      (by simp)
  | atomFadd c ord scope d a b off =>
    obtain ⟨hd, ha, hb, -⟩ := and4 wf
    exact .of rfl rfl ((bind_of (v := ord) (by simp)).trans (o3_of (opndOf_of hd) (opndOf_of ha) (opndOf_of hb))) (by simp)
  -- OP 0x14
  | redAdd c sz ord scope d a off | redMin c sz ord scope d a off | redMax c sz ord scope d a off
  | redMinn c sz ord scope d a off | redMaxn c sz ord scope d a off | redAnd c sz ord scope d a off
  | redOr c sz ord scope d a off | redXor c sz ord scope d a off =>
    obtain ⟨-, -, hd, ha, -⟩ := and5 wf
    exact .of rfl rfl ((bind_of (v := ord) (by simp)).trans (o2_of (opndOf_of_srcW hd) (opndOf_of ha))) (by simp)
  | redFadd c ord scope d a off =>
    obtain ⟨-, hd, ha, -⟩ := and4 wf
    exact .of rfl rfl ((bind_of (v := ord) (by simp)).trans (o2_of (opndOf_of hd) (opndOf_of ha))) (by simp)
  -- OP 0x15
  | txcommit c scope =>
    exact .of rfl rfl (bind_of (v := .rlx) (by simp)) (congrArg some (by simp))
  | fence c ord scope =>
    exact .of rfl rfl (bind_of (v := ord) (by simp)) (congrArg some (by simp))
  | txabort c b =>
    obtain ⟨-, hb⟩ := and2 wf
    exact .of rfl rfl ((bind_of (v := .rlx) (by simp)).trans (o1_of (opndOf_of hb))) (by simp)
  -- OP 0x17
  | binit c d a off | barrd c d a off | bexp c d a off | bwait c d a off =>
    obtain ⟨-, hd, ha⟩ := and3 wf
    exact .of rfl rfl (o2_of (opndOf_of hd) (opndOf_of ha)) (by simp)
  | breg c a off =>
    obtain ⟨-, ha⟩ := and2 wf
    exact .of rfl rfl (o1_of (opndOf_of ha)) (by simp)
  | barr c d a b off =>
    obtain ⟨-, hd, ha, hb⟩ := and4 wf
    exact .of rfl rfl ((bind_of (optOpnd_of hb)).trans (o2_of (opndOf_of hd) (opndOf_of ha))) (by simp)
  | btest c d a b off | trig c d a b off =>
    obtain ⟨-, hd, ha, hb⟩ := and4 wf
    exact .of rfl rfl (o3_of (opndOf_of hd) (opndOf_of ha) (opndOf_of hb)) (by simp)
  -- OP 0x20, 0x33, 0x38
  | accalloc c d a | launch c d a | ctxkill c d a | pmon c clr d a | haltcore c halt d a =>
    obtain ⟨-, hd, ha⟩ := and3 wf
    exact .of rfl rfl (o2_of (opndOf_of hd) (opndOf_of ha)) (by simp [rawX])
  | planeq c d a =>
    obtain ⟨-, hd, ha⟩ := and3 wf
    exact .of rfl rfl (o2_of (opndOf_of hd) (opndOf_code (by cases a with | m n => cases ha | _ => rfl))) (by simp [rawX])
  | accfree c a | timerset c a =>
    obtain ⟨-, ha⟩ := and2 wf
    exact .of rfl rfl (o1_of (opndOf_of ha)) (by simp [rawX])
  | scrl c d a | scrlr c d a =>
    obtain ⟨-, hd, ha⟩ := and3 wf
    exact .of rfl rfl ((bind_of (optOpnd_of hd)).trans (o1_of (opndOf_of ha))) (by simp [rawX])
  | copy c a b | copyx c a b | copyDec c a b | dcflush c a b =>
    obtain ⟨-, ha, hb⟩ := and3 wf
    exact .of rfl rfl (o2_of (opndOf_of ha) (opndOf_of hb)) (by simp [rawX])
  | dtload c acq scope slot a =>
    obtain ⟨-, ha, -⟩ := and3 wf
    exact .of rfl rfl (o1_of (opndOf_of ha)) (by simp [rawX])
  | vacate c d a b =>
    obtain ⟨-, hd, ha, hb⟩ := and4 wf
    exact .of rfl rfl (o3_of (opndOf_of hd) (opndOf_of ha) (opndOf_of hb)) (by simp [rawX])
  | mstart c d a b =>
    obtain ⟨-, hd, ha, hb⟩ := and4 wf
    exact .of rfl rfl (o3_of (opndOf_of hd) (opndOf_of ha) (opndOf_code (by cases b with | m n => cases hb | _ => rfl)))
      (by simp [rawX])
  | mstop c d | timerrd c d =>
    obtain ⟨-, hd⟩ := and2 wf
    exact .of rfl rfl (o1_of (opndOf_of hd)) (by simp [rawX])
  | sysrd c d num =>
    obtain ⟨-, hd⟩ := and2 wf
    have back := opndOf_of (p := fun d => match cregWide num with | some w => d.sW w | none => false) hd
      (by rcases cregWide num with _ | _ | _ <;> exact fun _ => rfl)
    exact .of rfl rfl (o1_of back) (by simp [rawX])
  | syswr c num a =>
    obtain ⟨-, ha⟩ := and2 wf
    have back := opndOf_of (p := fun a => match cregWide num with | some w => a.sW w || a.isInt | none => false) ha
      (by rcases cregWide num with _ | _ | _ <;> exact fun _ => rfl)
    exact .of rfl rfl (o1_of back) (by simp [rawX])
  | icinv c scope =>
    exact .of rfl rfl (map_of (v := scope) (by simp [rawX])) (by simp [rawX])
  | tlbinv c scope a b =>
    obtain ⟨ha, hb⟩ := tlbinv_operands wf
    exact .of rfl rfl ((bind_of (v := scope) (by simp [rawX])).trans ((bind_of (optOpnd_of ha)).trans (map_of (optOpnd_of hb))))
      (by simp [rawX])
  -- OP 0x30
  | mshape dist d a b e =>
    obtain ⟨hd, ha, hb, he⟩ := and4 wf
    exact .of rfl rfl (m4_of (mopndOf_of hd) (mopndOf_of ha) (mopndOf_of hb) (mopndOf_c (mopndOf_of_or he))) (by simp)
  | mldt dist d a b e =>
    obtain ⟨hd, ha, hb, he⟩ := and4 wf
    exact .of rfl rfl (m4_of (mopndOf_of hd) (mopndOf_of ha) (mopndOf_of hb) (mopndOf_c (mopndOf_of_or he))) (by simp)
  | mzero dist d =>
    exact .of rfl rfl (m1_of (mopndOf_of (p := Opnd.isA) wf)) (by simp)
  | mma dist sa sb d a b | mmaPair dist sa sb d a b =>
    obtain ⟨hd, ha, hb⟩ := and3 wf
    exact .of rfl rfl (m3_of (mopndOf_of hd) (mopndOf_of ha) (mopndOf_of hb)) (by simp)
  | msoft dist mask slot d a b e =>
    obtain ⟨hd, ha, hb, he⟩ := and4 wf
    exact .of rfl rfl (m4_of (mopndOf_of hd) (mopndOf_of ha) (mopndOf_of hb) (mopndOf_c (mopndOf_of he))) (by simp)
  | mdrain dist rscope norm guide add dest slot d a b e =>
    obtain ⟨hd, ha, hb, he⟩ := and4 wf
    have back : mopndOf d.code = some d := by
      cases dest with
      | scr => exact mopndOf_of (p := Opnd.isM) hd
      | mem | net => exact mopndOf_of (p := Opnd.isEvenM) hd
    exact .of rfl rfl ((bind_of (v := dest) (by simp)).trans
      (m4_of back (mopndOf_of ha) (mopndOf_of hb) (mopndOf_c (mopndOf_of_or he)))) (by simp)
  | mwait dist d a =>
    obtain ⟨hd, ha⟩ := and2 wf
    exact .of rfl rfl (m2_of (mopndOf_of hd) (mopndOf_of ha)) (by simp)
  | marr dist d a b =>
    obtain ⟨hd, ha, hb⟩ := and3 wf
    exact .of rfl rfl (m3_of (mopndOf_of hd) (mopndOf_of ha) (mopndOf_of hb)) (by simp)
  | msig dist mask =>
    exact .of rfl rfl rfl (congrArg some (by simp))
  | mend dist | mpair dist =>
    exact .of rfl rfl rfl rfl
  | mbra dist off =>
    exact .of rfl rfl rfl (congrArg some (by simp))
  | mloop dist a off =>
    exact .of rfl rfl (m1_of (mopndOf_of (p := Opnd.isM) wf)) (by simp)
  -- OP 0x32
  | mmov dist d imm =>
    have low : ¬ (0x40 : BitVec 8).getLsbD 0 = true := by decide
    exact .of rfl rfl ((if_neg low).trans (m1_of (mopndOf_of (p := Opnd.isM) wf))) (by simp)
  | mmovHi dist d imm =>
    have high : (0x41 : BitVec 8).getLsbD 0 = true := by decide
    exact .of rfl rfl ((if_pos rfl).trans ((if_pos high).trans (m1_of (mopndOf_of (p := Opnd.isM) wf))))
      (by simp [BitVec.extractLsb'_setWidth_of_le])
  | madd dist d a imm =>
    obtain ⟨hd, ha⟩ := and2 wf
    exact .of rfl rfl (m2_of (mopndOf_of hd) (mopndOf_of ha)) (by simp)
  | _ => exact fun r h => nomatch h


/-! ### Decoding and encoding -/

theorem accept_ok_iff {r : Raw} {o : Option Instr} {i : Instr} :
    accept r o = .ok i ↔ o = some i ∧ i.wf = true ∧ fieldsOf i = some r := by
  cases o with
  | none => simp [accept]
  | some j =>
    simp only [accept]
    split
    · split
      · simp only [Decoded.ok.injEq, Option.some.injEq]
        exact ⟨fun h => h ▸ ⟨rfl, ‹_›, ‹_›⟩, fun h => h.1⟩
      · exact ⟨nofun, fun ⟨h, _, f⟩ => absurd (Option.some.inj h ▸ f) ‹_›⟩
    · exact ⟨nofun, fun ⟨h, w, _⟩ => absurd (Option.some.inj h ▸ w) ‹_›⟩

/-- Decoding what encodes a well-formed instruction gives it back. -/
theorem decodeWord_pack {i : Instr} {r : Raw} (wf : i.wf = true) (hf : fieldsOf i = some r) : decodeWord (pack r) = .ok i := by
  obtain ⟨mapped, back⟩ := readsBack wf r hf
  rw [decodeWord_eq, unpack_pack, if_pos mapped, accept_ok_iff]
  exact ⟨back, wf, hf⟩

/-- What a word decodes to is well formed, and has the word's fields. -/
theorem fieldsOf_of_decodeWord {w : DWord} {i : Instr} (h : decodeWord w = .ok i) :
    i.wf = true ∧ fieldsOf i = some (unpack w) := by
  rw [decodeWord_eq] at h
  split at h
  · exact (accept_ok_iff.mp h).2
  · cases h

/-- The decoder reads a doubleword from its eight bytes (R5, R63). -/
theorem decodeTableWord_toNat {w : DWord} {i : Instr} (h : decodeWord w = .ok i) : decodeTableWord 64 w.toNat = some i := by
  have eight : (bytesOfDword w).length = 8 := by simp [bytesOfDword]
  have word : BitVec.ofNat 64 (w.toNat % 2 ^ 64) = w := by rw [Nat.mod_eq_of_lt w.isLt, BitVec.ofNat_toNat, BitVec.setWidth_eq]
  simp only [decodeTableWord, decodeBytes, word, eight, List.take_of_length_le eight.le, dwordOfBytes_bytesOfDword,
    BitVec.ofNat_toNat, BitVec.setWidth_eq, h]
  rfl

end Sys2Proof.Coding

open Sys2Proof Sys2Proof.Coding

/-- Settles O6: fields laid in a word are read back from it, and the candidate of a well-formed instruction's fields is the
instruction; the decoder accepts a candidate only with the word's own fields. -/
theorem decodingAndEncodingAgree : Obligations.DecodingAndEncodingAgree := by
  intro i w
  refine ⟨fun wf he => ?_, fun h => ?_, fun h => ?_, fun h => ?_⟩
  · obtain ⟨r, hf, rfl⟩ := Option.map_eq_some_iff.mp he
    have decoded := decodeWord_pack wf hf
    exact ⟨decoded, decodeTableWord_toNat decoded⟩
  · exact Option.isNone_eq_false_iff.mp h
  · exact Option.isNone_iff_eq_none.mp h
  · obtain ⟨wf, hf⟩ := fieldsOf_of_decodeWord h
    have encoded : encode i = some w := by rw [encode, hf, Option.map_some, pack_unpack]
    exact ⟨wf, encoded, by rw [Machine.isEvent, encoded]; rfl⟩

/-- Settles O2: each word is the one its instruction encodes to, so that O6 decodes it. -/
theorem manualWordsDecode : Obligations.ManualWordsDecode := by
  have reads (i : Instr) (w : DWord) (wf : i.wf = true) (he : encode i = some w) : decodeTableWord 64 w.toNat = some i :=
    ((decodingAndEncodingAgree i w).1 wf he).2
  exact ⟨reads _ 0x1801E00C04080000 (by decide) (by decide), reads _ 0x2401E00003FFFFF0 (by decide) (by decide),
    reads _ 0x1831E01404080C52 (by decide) (by decide), reads _ 0x0171E1124C000180 (by decide) (by decide),
    reads _ 0x0401E00A09000007 (by decide) (by decide), reads _ 0x4808000910025000 (by decide) (by decide),
    reads _ 0x2851E00000000000 (by decide) (by decide), reads _ 0x0C01E18407280110 (by decide) (by decide),
    reads _ 0x2415E40024000006 (by decide) (by decide), reads _ 0xE041E00000000000 (by decide) (by decide)⟩
end

section
/-! PROOF. RTE: what a frame's records restore. -/

namespace Sys2Proof.Machine

/-- The record that a frame holds of slice `i` (R340). -/
def recordIn (frame : List DWord) (i : Nat) : List DWord := (frame.drop (16 + 36 * i)).take 36

namespace State
variable {s : State} {gid : Nat} {frame : List DWord}

/-- Slices without repeats, each changed in its own way. -/
theorem foldl_modSlice_slice (f : Nat → Slice → Slice) (is : List Nat) (hn : is.Nodup) (s : State) {j : Nat} (hj : j ∈ is) :
    (is.foldl (fun s i => s.modSlice gid i (f i)) s).slice gid j = f j (s.slice gid j) := by
  have miss (l : List Nat) (t : State) (h : j ∉ l) :
      (l.foldl (fun s i => s.modSlice gid i (f i)) t).slice gid j = t.slice gid j :=
    foldl_keep _ (fun t : State => t.slice gid j) l t fun t i hi => by
      rw [modSlice_slice, if_neg fun e => h (by rwa [sidOf_inj e])]
  induction is generalizing s with
  | nil => simp at hj
  | cons i is ih =>
    obtain ⟨hnot, hn⟩ := List.nodup_cons.mp hn
    rw [List.foldl_cons]
    rcases List.mem_cons.mp hj with rfl | hj
    · rw [miss is _ hnot, modSlice_slice, if_pos rfl]
    · rw [ih hn _ hj, modSlice_slice, if_neg fun e => hnot (by rwa [← sidOf_inj e])]

/-- A change of slices one by one leaves everything else. -/
theorem foldl_modSlice_rest {β : Type} (i : β → Nat) (f : β → Slice → Slice) (l : List β) (s : State) :
    l.foldl (fun s b => s.modSlice gid (i b) (f b)) s
      = { s with slices := (l.foldl (fun s b => s.modSlice gid (i b) (f b)) s).slices } := by
  induction l generalizing s with
  | nil => rfl
  | cons b l ih => rw [List.foldl_cons, ih]; rfl

/-- The live slices as their records have them (R349 step 3). -/
def recorded (s : State) (gid : Nat) (frame : List DWord) : State :=
  (s.liveSlices gid).foldl (fun v i => v.modSlice gid i fun x => restoreSlice x (recordIn frame i) (s.cycles gid)) s

/-- The number each of the slices `is` takes: the least of those whose recorded gang and place are its own. -/
def regangs (s : State) (gid : Nat) (is : List Nat) : List (Nat × Nat) :=
  let key (i : Nat) := ((s.slice gid i).gang, (s.slice gid i).pc, (s.slice gid i).ix)
  is.map fun i => (i, (is.filter fun j => key j == key i).foldl Nat.min 7)

/-- The live slices back in the gangs their records have them in, at a region entry (R349 steps 3 and 4). -/
def recalled (s : State) (gid : Nat) (frame : List DWord) : State :=
  (((s.recorded gid frame).regangs gid (s.liveSlices gid)).foldl
    (fun v p => v.modSlice gid p.1 fun x => { x with gang := p.2 }) (s.recorded gid frame)).regionEntry gid (s.liveSlices gid)

/-- A recalled slice is as its record has it, but for its gang and its restart copy. -/
theorem recalled_slice {α : Type} (p : Slice → α) (hg : ∀ x n, p { x with gang := n } = p x)
    (hr : ∀ n x, p (saveRestart n x) = p x) {i : Nat} (hi : i ∈ s.liveSlices gid) :
    p ((s.recalled gid frame).slice gid i) = p (restoreSlice (s.slice gid i) (recordIn frame i) (s.cycles gid)) := by
  have recorded : (s.recorded gid frame).slice gid i = _ := foldl_modSlice_slice
    (fun i x => restoreSlice x (recordIn frame i) (s.cycles gid)) (s.liveSlices gid) (s.liveSlices_nodup gid) s hi
  rw [recalled, regionEntry, modGroup_slice, modSlices_proj p (hr _), ← recorded]
  refine foldl_keep _ (fun t : State => p (t.slice gid i)) _ _ fun t q _ => ?_
  rw [modSlice_slice]
  split
  · next e => rw [hg]; simp [slice, e]
  · rfl

/-- Of the rest of the state, recalling slices counts a region entry and no more. -/
theorem recalled_rest : ∃ l, s.recalled gid frame
    = { s with slices := l }.modGroup gid fun g => { g with regions := g.regions + 1 } := by
  unfold recalled regionEntry recorded
  rw [modSlices_rest, foldl_modSlice_rest, foldl_modSlice_rest]
  exact ⟨_, rfl⟩

/-- A frame whose records RTE accepts gives back the slices, frees the slot and returns to L0. -/
theorem returnFrom_of_ok (hs : isSys (s.team (tidOf gid)).core = false) (body : List Byte)
    (h : ∀ i ∈ s.liveSlices gid, recordOk (recordIn frame i) (s.live gid i) = true) :
    s.returnFrom gid frame body
      = ((s.recalled gid frame).modCore (s.team (tidOf gid)).core fun k =>
          { k with frames := k.frames.set (((s.recalled gid frame).group gid).frame.getD 0) none }).modGroup gid
            fun g => { g with frame := none, level := .l0, causeLow := 0 } := by
  refine (if_pos (List.all_eq_true.mpr h)).trans ?_
  exact if_neg (by simp [hs])

/-- A frame with a record that RTE refuses has the context killed for a double trap. -/
theorem returnFrom_of_bad (body : List Byte) {i : Nat} (hi : i ∈ s.liveSlices gid)
    (h : recordOk (recordIn frame i) (s.live gid i) = false) :
    ∃ k : Kill, k.kind = 2 ∧ s.returnFrom gid frame body = s.requestKill (s.team (tidOf gid)).ctx k := by
  have not_all : ¬((s.liveSlices gid).all fun i => recordOk (recordIn frame i) (s.live gid i)) = true := fun all =>
    Bool.false_ne_true (h.symm.trans (List.all_eq_true.mp all i hi))
  exact ⟨_, rfl, if_neg not_all⟩

end State

end Sys2Proof.Machine
end

section
/-! PROOF. RTE as it stands at issue. -/

namespace Sys2Proof.Machine

theorem toNat_bits (x : DWord) (lo len : Nat) : (x.extractLsb' lo len).toNat = x.toNat / 2 ^ lo % 2 ^ len := by
  rw [BitVec.extractLsb'_toNat, Nat.shiftRight_eq_div_pow]

theorem getLsbD_iff (x : DWord) (n : Nat) : x.getLsbD n = true ↔ x.toNat / 2 ^ n % 2 ^ 1 = 1 := by
  simp [BitVec.getLsbD, Nat.testBit_eq_decide_div_mod_eq]

/-- A split-stack entry is the one two doublewords of a record give (R340). -/
def Entry.From (lo hi : Nat) (q : Entry) : Prop :=
  q.join.toNat = lo / 2 ^ 0 % 2 ^ 56 ∧ q.restore.toNat = lo / 2 ^ 56 % 2 ^ 4
    ∧ (hi / 2 ^ 63 % 2 ^ 1 = 0 → q.pend = none)
    ∧ (hi / 2 ^ 63 % 2 ^ 1 = 1 → ∃ p, q.pend = some p ∧ p.pc.toNat = hi / 2 ^ 0 % 2 ^ 56
      ∧ p.path.toNat = lo / 2 ^ 60 % 2 ^ 4 ∧ p.exec.toNat = hi / 2 ^ 59 % 2 ^ 4)

/-- A slice stands ganged where record `r` says, with its masks and split stack (R340, R349 step 3). -/
def Slice.From (r : List DWord) (x : Slice) : Prop :=
  let f (k lo len : Nat) : Nat := (r.getD k 0).toNat / 2 ^ lo % 2 ^ len
  x.pc.toNat = f 0 0 56 ∧ x.ix = f 0 56 4 ∧ x.exec.toNat = f 1 0 4 ∧ x.path.toNat = f 1 4 4
    ∧ x.stack.length = f 1 12 5 ∧ x.st = .ganged
    ∧ ∀ e < f 1 12 5, ∃ q, x.stack.reverse[e]? = some q ∧ q.From (r.getD (4 + 2 * e) 0).toNat (r.getD (5 + 2 * e) 0).toNat

theorem entryOf_from (lo hi : DWord) (age : Nat) : (entryOf lo hi age).From lo.toNat hi.toNat := by
  refine ⟨toNat_bits .., toNat_bits .., fun h => if_neg fun b => ?_, fun h => ⟨_, if_pos ((getLsbD_iff ..).mpr h), ?_⟩⟩
  · rw [getLsbD_iff, h] at b
    exact absurd b (by decide)
  · exact ⟨toNat_bits .., toNat_bits .., toNat_bits ..⟩

theorem restoreSlice_from (x : Slice) (r : List DWord) (age : Nat) : (restoreSlice x r age).From r := by
  refine ⟨toNat_bits .., rfl, toNat_bits .., toNat_bits .., ?_, rfl, fun e he => ⟨_, ?_, entryOf_from _ _ age⟩⟩
  · simp [restoreSlice, dfld, fld]
  · have he : e < dfld (r.getD 1 0) 12 5 := he
    simp only [restoreSlice, List.reverse_reverse, List.getElem?_map, List.getElem?_range he, Option.map_some]

/-- RTE's effect at issue (R349). -/
def rteBody (iss : Iss) (s : State) : Res :=
  let g := s.group iss.gid
  if !s.atLevel iss.gid 1 then .trap s iss.priv
  else if iss.sys && !(s.core iss.cid).sysFrame then .trap s iss.illegal
  else if !s.allPerformed iss.gid then .hold
  else if iss.sys then
    if !(tsLe (s.core iss.cid).frameTs s.hDev) then .hold
    else
    match s.sysFrameBytes iss ((s.core iss.cid).framebase.toNat % 2 ^ 56) 52 [] with
    | .got bs t => .jump ((t.fenceNow iss.gid).returnFrom iss.gid (dwords 52 bs) (t.sysFrameBody iss))
    | .wait => .hold
    | .poisoned pa t => .gone (t.consume iss.tid pa)
    | .bad va => .trap s (State.memCause iss 11 4 va)
  else
    match g.frame with
    | none => .trap s iss.illegal
    | some n =>
      let body := s.scrBytes iss.cid (State.frameAt n) 2560
      .jump ((s.fenceNow iss.gid).returnFrom iss.gid (dwords 304 body) body)

theorem exec_rte (c : Ctl) (s : State) :
    exec (.rte c) s = instr { Meta.system c [] [] with bound := false } s rteBody := rfl

section
variable {s : State} {iss : Iss} {m : Meta}

theorem rteBody_of_low (hl : s.atLevel iss.gid 1 = false) : rteBody iss s = .trap s iss.priv := by
  simp only [rteBody, hl, Bool.not_false, if_true]

theorem rteBody_of_none (hl : s.atLevel iss.gid 1 = true) (hs : iss.sys = false) (hp : s.allPerformed iss.gid = true)
    (hf : (s.group iss.gid).frame = none) : rteBody iss s = .trap s iss.illegal := by
  simp only [rteBody, hl, hs, hp, hf, Bool.not_true, Bool.false_and, Bool.false_eq_true, if_false]

/-- The records of a group's frame in slot `n` of its core's scratchpad (R339, R340). -/
def State.frameDwords (s : State) (iss : Iss) (n : Nat) : List DWord := dwords 304 (s.scrBytes iss.cid (State.frameAt n) 2560)

theorem rteBody_of_frame {n : Nat} (hl : s.atLevel iss.gid 1 = true) (hs : iss.sys = false)
    (hp : s.allPerformed iss.gid = true) (hf : (s.group iss.gid).frame = some n) :
    rteBody iss s = .jump ((s.fenceNow iss.gid).returnFrom iss.gid (s.frameDwords iss n)
      (s.scrBytes iss.cid (State.frameAt n) 2560)) := by
  simp only [rteBody, hl, hs, hp, hf, Bool.not_true, Bool.false_and, Bool.false_eq_true, if_false]
  rfl

/-- What a transfer of control adds leaves registers and bytes. -/
theorem held_of_jumped {old : Nat} {t u : State} (h : Jumped iss old t u) : u.held = t.held := by
  show u.quiet.held = t.quiet.held
  rw [h.rest]

/-- What a transfer of control adds leaves a group's level and frame. -/
theorem home_of_jumped {old : Nat} {t u : State} (h : Jumped iss old t u) :
    (u.group iss.gid).frame = (t.group iss.gid).frame ∧ (u.group iss.gid).level = (t.group iss.gid).level
      ∧ (u.group iss.gid).causeLow = (t.group iss.gid).causeLow := by
  obtain ⟨-, level, frame, cause, -⟩ := Group.mk.inj h.group
  exact ⟨frame, level, cause⟩

/-- What a transfer of control adds leaves a core's frame slots. -/
theorem frames_of_jumped {old : Nat} {t u : State} (h : Jumped iss old t u) (k : Nat) : (u.core k).frames = (t.core k).frames := by
  by_cases hk : k = iss.cid
  · subst hk
    show (u.core iss.cid).quiet.frames = (t.core iss.cid).quiet.frames
    rw [h.core]
  · rw [h.cores k hk]

/-- What a transfer of control adds leaves a slice where its record has it. -/
theorem from_of_jumped {old i : Nat} {t u : State} {r : List DWord} (h : Jumped iss old t u) (h8 : i < 8)
    (hi : (t.slice iss.gid i).From r) : (u.slice iss.gid i).From r := by
  by_cases own : i ∈ iss.slices
  · have e : (u.slice iss.gid i).ungang.From r = (t.slice iss.gid i).ungang.From r := by rw [h.slices i own]
    exact e.mpr hi
  · rwa [h.others iss.gid i h8 fun both => own both.2]

section
variable {i : Instr} {n : Nat} (h : Ready s m iss) (he : exec i s = instr m s rteBody) (hm : m.bound = false)
  (hl : (s.group iss.gid).level ≠ .l0) (hs : iss.sys = false) (hp : s.allPerformed iss.gid = true)
  (hf : (s.group iss.gid).frame = some n)
include h he hm hl hs hp hf

/-- In a handler RTE returns by the records of its group's frame. -/
theorem rte_jumps : ∃ u, exec i s = .next u ∧ Jumped iss (s.slice iss.gid iss.lead).gang
    (((s.issuing m iss).fenceNow iss.gid).returnFrom iss.gid (s.frameDwords iss n)
      (s.scrBytes iss.cid (State.frameAt n) 2560)) u :=
  State.jumps_of_ready h he (rteBody_of_frame (s := s.issuing m iss) (State.atLevel_one.mpr hl) hs hp hf) hm

/-- With sound records the slices stand where they say, the frame's slot is free and the group is back at L0. -/
theorem rte_returns (hsys : isSys (s.team (tidOf iss.gid)).core = false)
    (ok : ∀ i ∈ s.liveSlices iss.gid, recordOk (recordIn (s.frameDwords iss n) i) (s.live iss.gid i) = true) :
    ∃ u, exec i s = .next u ∧ SameRegs s u ∧ SameBytes s u ∧ (u.group iss.gid).frame = none
      ∧ (u.group iss.gid).level = .l0 ∧ (u.group iss.gid).causeLow = 0
      ∧ (u.core (s.team (tidOf iss.gid)).core).frames = (s.core (s.team (tidOf iss.gid)).core).frames.set n none
      ∧ ∀ i ∈ s.liveSlices iss.gid, (u.slice iss.gid i).From (recordIn (s.frameDwords iss n) i) := by
  obtain ⟨u, hu, J⟩ := rte_jumps h he hm hl hs hp hf
  have held : u.held = s.held := (held_of_jumped J).trans (by simp [State.issuing])
  set v := (s.issuing m iss).fenceNow iss.gid with hv
  have slot : (v.group iss.gid).frame = some n := by rw [hv]; simpa [State.fenceNow, State.issuing] using hf
  obtain ⟨l, hr⟩ := v.recalled_rest (gid := iss.gid) (frame := s.frameDwords iss n)
  rw [State.returnFrom_of_ok (s := v) hsys _ ok] at J
  have slot' : ((v.recalled iss.gid (s.frameDwords iss n)).group iss.gid).frame = some n := by
    rw [hr, State.modGroup_group, if_pos rfl]; exact slot
  obtain ⟨frame, level, cause⟩ := home_of_jumped J
  simp only [State.modGroup_group, if_true] at frame level cause
  refine ⟨u, hu, .of_held held, .of_held held, frame, level, cause, ?_, fun i hi => ?_⟩
  · rw [frames_of_jumped J, State.modGroup_core, State.modCore_core, slot', hr]
    exact congrArg Core.frames (if_pos rfl)
  · refine from_of_jumped J (State.liveSlices_lt hi) ?_
    exact (State.recalled_slice (s := v) (Slice.From _) (fun _ _ => rfl) (fun _ _ => rfl) hi).mpr (restoreSlice_from ..)

/-- With a malformed record the context is killed for a double trap. -/
theorem rte_kills {k : Nat} (hk : k ∈ s.liveSlices iss.gid)
    (bad : recordOk (recordIn (s.frameDwords iss n) k) (s.live iss.gid k) = false)
    (h1 : (s.ctx (s.team (tidOf iss.gid)).ctx).killing = none) (h2 : (s.ctx (s.team (tidOf iss.gid)).ctx).killed = false) :
    ∃ u k, exec i s = .next u ∧ (u.ctx (s.team (tidOf iss.gid)).ctx).killing = some k ∧ k.kind = 2 := by
  obtain ⟨u, hu, J⟩ := rte_jumps h he hm hl hs hp hf
  obtain ⟨x, kind, e⟩ := State.returnFrom_of_bad (s := (s.issuing m iss).fenceNow iss.gid) (gid := iss.gid)
    (frame := s.frameDwords iss n) (s.scrBytes iss.cid (State.frameAt n) 2560) hk bad
  refine ⟨u, x, hu, ?_, kind⟩
  have ctxs : u.ctxs = _ := congrArg Prod.snd (State.lots_of_quiet J.rest)
  rw [State.ctx, ctxs, e]
  exact killing_requestKill (s := (s.issuing m iss).fenceNow iss.gid) _ x h2 h1

end
end
end Sys2Proof.Machine
end

section
/-! PROOF. ICINV, DCFLUSH and table walks. -/

namespace Sys2Proof.Machine

variable {s : State} {iss : Iss}

/-! ### ICINV (R84) -/

/-- The cores whose instruction caches ICINV empties. -/
def icinvHit (scope : IcScope) (s : State) (iss : Iss) (cid : Nat) : Bool :=
  match scope with
  | .core => cid == iss.cid
  | .cluster => cid == iss.cid || (!iss.sys && (s.teamsOn cid).any fun x => (s.team x).cluster == (s.team iss.tid).cluster)
  | .context => (s.teamsOn cid).any fun x => (s.team x).ctx == (s.team iss.tid).ctx

/-- A core ICINV reaches: only CONTEXT takes what its sequencer's cache holds. -/
def icinvCore (scope : IcScope) (k : Core) : Core :=
  { k with icache := k.icache.filter fun w => scope != .context && 4096 ≤ w.1 }

/-- What ICINV leaves. -/
def icinvLeaves (scope : IcScope) (s : State) (iss : Iss) : State :=
  { s with cores := s.cores.map fun e => (e.1, if icinvHit scope s iss e.1 then icinvCore scope e.2 else e.2) }

theorem exec_icinv (c : Ctl) (scope : IcScope) (s : State) :
    exec (.icinv c scope) s = instr (.system c [] []) s fun iss s => .done (icinvLeaves scope s iss) := by
  have same (iss : Iss) (s : State) : icinvLeaves scope s iss
      = { s with cores := s.cores.map fun e => if icinvHit scope s iss e.1 then (e.1, icinvCore scope e.2) else e } := by
    unfold icinvLeaves
    congr 1
    refine List.map_congr_left fun e _ => ?_
    split <;> rfl
  simp only [same]
  rfl

theorem icinvLeaves_core (scope : IcScope) (k : Nat) :
    (icinvLeaves scope s iss).core k = if icinvHit scope s iss k then icinvCore scope (s.core k) else s.core k := by
  simp only [State.core, sgetD, icinvLeaves,
    sget_mapVals s.cores (fun k x => if icinvHit scope s iss k then icinvCore scope x else x)]
  cases sget s.cores k with
  | some x => rfl
  | none => split <;> rfl

/-- What ICINV leaves in the caches. -/
theorem icinvLeaves_caches (scope : IcScope) :
    (scope ≠ .context → ∀ w ∈ ((icinvLeaves scope s iss).core iss.cid).icache, 4096 ≤ w.1)
      ∧ (scope = .context → ∀ k, (∃ x ∈ s.teamsOn k, (s.team x).ctx = (s.team iss.tid).ctx) →
        ((icinvLeaves scope s iss).core k).icache = [])
      ∧ (scope = .core → ∀ k, k ≠ iss.cid → (icinvLeaves scope s iss).core k = s.core k) := by
  refine ⟨fun hs w hw => ?_, fun hs k hk => ?_, fun hs k hk => ?_⟩
  · have own : icinvHit scope s iss iss.cid = true := by
      cases scope with
      | context => exact absurd rfl hs
      | _ => simp [icinvHit]
    rw [icinvLeaves_core, if_pos own] at hw
    have := List.of_mem_filter hw
    simp only [Bool.and_eq_true, decide_eq_true_eq] at this
    exact this.2
  · subst hs
    have hit : icinvHit .context s iss k = true := by simpa [icinvHit] using hk
    rw [icinvLeaves_core, if_pos hit]
    simp [icinvCore]
  · subst hs
    rw [icinvLeaves_core, if_neg (by simpa [icinvHit] using hk)]

/-! ### DCFLUSH (R358) -/

theorem bench_flushPages (l : List Nat) : (s.flushPages iss l).2.bench = s.bench := by
  induction l generalizing s with
  | nil => rfl
  | cons va l ih =>
    simp only [State.flushPages]
    (repeat' split) <;> simp only [ih, State.bench_translate]

/-- What DCFLUSH comes to, by what its range does. -/
def dcflushEnds (iss : Iss) : Option (Nat × Tr) × State → Res
  | (none, s) => .done s
  | (some (_, .wait), _) => .hold
  | (some (p, .page), s) => .service s p .read
  | (some (p, .perm), s) => .trap s (State.memCause iss 10 0 p)
  | (some (p, .unbacked), s) => .trap s (State.memCause iss 11 1 p)
  | (some (_, .poison pa), s) => .gone (s.consume iss.tid pa)
  | (some (p, _), s) => .trap s (State.memCause iss 11 2 p)

/-- The pages of DCFLUSH's range. -/
def dcflushPages (a b : Opnd) (s : State) (iss : Iss) : List Nat :=
  let n := (s.rd32 iss.gid iss.lead 0 b).toNat
  pagesOf ((s.rd64 iss.gid iss.lead 0 a).toNat % 2 ^ 56) (if n = 0 then 1 else n)

theorem exec_dcflush (c : Ctl) (a b : Opnd) (s : State) :
    exec (.dcflush c a b) s
      = instr (.system c [] [(a, true), (b, false)]) s fun iss s => dcflushEnds iss (s.flushPages iss (dcflushPages a b s iss)) :=
  rfl

theorem rd64_issuing {m : Meta} {o : Opnd} (h : o.isEvenS = true) (g i l : Nat) :
    (s.issuing m iss).rd64 g i l o = s.rd64 g i l o := by
  cases o with
  | s r => rfl
  | _ => simp [Opnd.isEvenS] at h

theorem wf_dcflush {c : Ctl} {a b : Opnd} (h : (Instr.dcflush c a b).wf = true) : a.isEvenS = true ∧ b.isSI = true := by
  have h : (c.plain && a.isEvenS && b.isSI) = true := h
  simp only [Bool.and_eq_true] at h
  exact ⟨h.1.2, h.2⟩

/-- An instruction that its body holds at issue changes nothing. -/
theorem run_of_hold {m : Meta} {body : Iss → State → Res} (h : Ready s m iss) (hb : body iss (s.issuing m iss) = .hold) :
    s.run m iss body = s := by
  obtain ⟨he, hm⟩ := State.early_of_ready h
  simp only [State.early, State.maskEarly] at he hm
  unfold State.run
  dsimp only
  rw [if_neg (by simpa [hm] using h.acts)]
  simp only [he, Bool.false_eq_true, if_false]
  simp only [State.issuing] at hb
  rw [hb]

/-! ### Table walks (R180) -/

/-- A fill leaves the leaf in the core's cache. -/
theorem fillTlb_caches (cid ctx : Nat) (va : Addr) (e : DWord) (bits : Nat) :
    ∃ t ∈ ((s.fillTlb cid ctx va.toNat e bits).core cid).tlb,
      t.ctx = ctx ∧ t.bits = bits ∧ t.entry = e ∧ t.va.toNat = va.toNat / 2 ^ bits * 2 ^ bits := by
  have room : va.toNat / 2 ^ bits * 2 ^ bits < 2 ^ 56 := (Nat.div_mul_le_self ..).trans_lt va.isLt
  refine ⟨{ ctx := ctx, va := BitVec.ofNat 56 (va.toNat / 2 ^ bits * 2 ^ bits), bits := bits, entry := e }, ?_, rfl, rfl, rfl, ?_⟩
  · have core (u : State) (d : Store (List TlbEntry)) : ({ u with dies := d } : State).core cid = u.core cid := rfl
    simp only [State.fillTlb, apply_ite (fun u : State => u.core cid), core, ite_self, State.modCore_core, if_true]
    split
    · next h => simpa using h
    · simp
  · rw [BitVec.toNat_ofNat, Nat.mod_eq_of_lt room]

theorem walk_leaf {cid ctx bits : Nat} {va : Addr} {kind : AccKind} {e : DWord}
    (ready : s.tablesReady (s.ctx ctx).root va.toNat = true) (leaf : s.walk (s.ctx ctx).root va.toNat = .leaf e bits) :
    exec (.translationWalkDone cid ctx va kind) s = .next (s.fillTlb cid ctx va.toNat e bits) := by
  show execTranslationWalkDone cid ctx va kind s = _
  simp only [execTranslationWalkDone, ready, Bool.not_true, Bool.false_eq_true, if_false, leaf]

theorem walk_fault {cid ctx : Nat} {va : Addr} {kind : AccKind} (fault : s.walk (s.ctx ctx).root va.toNat = .fault) :
    exec (.translationWalkDone cid ctx va kind) s = .next s := by
  show execTranslationWalkDone cid ctx va kind s = _
  simp only [execTranslationWalkDone, fault, ite_self]

end Sys2Proof.Machine
end

section
/-! PROOF. TLBINV. -/

namespace Sys2Proof.Machine

variable {s t u : State} {iss : Iss} {gid : Nat}

/-! ### What an operation that waits for others leaves of the translation caches -/

/-- `t` caches the translations `s` does. -/
structure SameTlbs (s t : State) : Prop where
  core : ∀ k, (t.core k).tlb = (s.core k).tlb
  dies : t.dies = s.dies
  held : ∀ e ∈ t.cores, ∀ x ∈ e.2.tlb, ∃ k, x ∈ (s.core k).tlb ∨ ∃ e ∈ s.cores, x ∈ e.2.tlb

namespace SameTlbs

theorem of_eq (hc : t.cores = s.cores) (hd : t.dies = s.dies) : SameTlbs s t :=
  ⟨fun k => by simp only [State.core, hc], hd, fun e he x hx => ⟨0, .inr ⟨e, hc ▸ he, hx⟩⟩⟩

theorem trans (h : SameTlbs s t) (k : SameTlbs t u) : SameTlbs s u := by
  refine ⟨fun c => (k.core c).trans (h.core c), k.dies.trans h.dies, fun e he x hx => ?_⟩
  obtain ⟨c, hx | ⟨e, he, hx⟩⟩ := k.held e he x hx
  · exact ⟨c, .inl (h.core c ▸ hx)⟩
  · exact h.held e he x hx

theorem modCore (s : State) (c : Nat) {f : Core → Core} (hf : (f (s.core c)).tlb = (s.core c).tlb) :
    SameTlbs s (s.modCore c f) := by
  refine ⟨fun k => ?_, rfl, fun e he x hx => ?_⟩
  · rw [State.modCore_core]
    split
    · next e => rw [hf, e]
    · rfl
  · rcases mem_sput s.cores c _ e he with rfl | he
    · exact ⟨c, .inl (hf ▸ hx)⟩
    · exact ⟨0, .inr ⟨e, he, hx⟩⟩

theorem modSlices (s : State) (g : Nat) (is : List Nat) (f : Slice → Slice) : SameTlbs s (s.modSlices g is f) := by
  rw [State.modSlices_rest]
  exact of_eq rfl rfl

theorem noteIssue (s : State) (iss : Iss) (l : Nat) : SameTlbs s (s.noteIssue iss l) := by
  refine (modCore s iss.cid (f := fun k => if iss.pipe = 0 then { k with pace0 := State.paced s.clock l k.pace0 }
    else { k with pace1 := State.paced s.clock l k.pace1 }) ?_).trans (of_eq rfl rfl)
  split <;> rfl

theorem addOp (s : State) (m : Meta) (iss : Iss) (l : Nat) (b : Bool) (waw : List Hazard) (o : Op) :
    SameTlbs s (s.addOp m iss l b waw o) :=
  (noteIssue s iss l).trans (of_eq rfl rfl)

theorem moveOn (s : State) (m : Meta) (iss : Iss) : SameTlbs s (s.moveOn m iss) := by
  have next : SameTlbs s (s.advance iss) := by
    unfold State.advance
    split
    · exact modSlices ..
    · exact (modSlices ..).trans (modCore _ iss.cid rfl)
  unfold State.moveOn
  split
  · exact next.trans ((modSlices ..).trans (of_eq rfl rfl))
  · exact next

end SameTlbs

/-- `t` has the cores and translation caches of `s`, and of group `gid` no more waits to be restarted. -/
structure OpsOnly (gid : Nat) (s t : State) : Prop where
  cores : t.cores = s.cores
  dies : t.dies = s.dies
  restarts : (t.group gid).restarts = (s.group gid).restarts

namespace OpsOnly

theorem refl (s : State) : OpsOnly gid s s := ⟨rfl, rfl, rfl⟩

theorem trans (h : OpsOnly gid s t) (k : OpsOnly gid t u) : OpsOnly gid s u :=
  ⟨k.cores.trans h.cores, k.dies.trans h.dies, k.restarts.trans h.restarts⟩

theorem modGroup (s : State) {f : Group → Group} (hf : (f (s.group gid)).restarts = (s.group gid).restarts) :
    OpsOnly gid s (s.modGroup gid f) := ⟨rfl, rfl, by rw [State.modGroup_group, if_pos rfl, hf]⟩

/-- An operation that only waits for others goes on or waits. -/
theorem runStages {oid : Nat} {o : Op} {l : List (Nat × Nat)} (ho : s.opOf gid oid = some o) (hs : o.stages = [.awaitOps l])
    (n : Nat) : OpsOnly gid s (s.runStages gid oid n) := by
  have pop : OpsOnly gid s (s.modOp gid oid fun o => { o with stages := o.stages.drop 1 }) := modGroup s rfl
  have popped := State.opOf_modOp s gid oid (fun o => { o with stages := o.stages.drop 1 }) fun _ => rfl
  rw [ho, Option.map_some, hs] at popped
  rcases n with _ | _ | n
  · exact refl s
  · simp only [State.runStages, ho, hs]
    split
    · exact refl s
    · exact pop
  · simp only [State.runStages, ho, hs, popped]
    split
    · exact refl s
    · exact pop

theorem finishOp (s : State) (oid : Nat) : OpsOnly gid s (s.finishOp gid oid) := by
  unfold State.finishOp
  split
  · split
    · exact (modGroup (gid := gid) s rfl).trans (modGroup _ rfl)
    · exact refl s
  · exact refl s

/-- Settling a group whose one operation only waits for others, and of which nothing restarts. -/
theorem settleGroup {o : Op} {l : List (Nat × Nat)} (ho : (s.group gid).ops = [o]) (hs : o.stages = [.awaitOps l])
    (hr : (s.group gid).restarts = []) : OpsOnly gid s (s.settleGroup gid) := by
  have found : s.opOf gid o.oid = some o := by simp [State.opOf, ho]
  have ran : OpsOnly gid s ((s.runStages gid o.oid 16).finishOp gid o.oid) := (runStages found hs 16).trans (finishOp _ _)
  unfold State.settleGroup
  simp only [ho, List.map_cons, List.map_nil, List.foldl_cons, List.foldl_nil, State.tryRestarts, ran.restarts.trans hr]
  split
  · exact ran
  · exact ran.trans (modGroup _ rfl)

end OpsOnly

/-! ### TLBINV (R360) -/

theorem dropTlb_core (hit : TlbEntry → Bool) (k : Nat) :
    ((s.dropTlb hit).core k).tlb = (s.core k).tlb.filter fun x => !hit x := by
  simp only [State.core, sgetD, State.dropTlb,
    sget_mapVals s.cores (fun _ x => { x with tlb := x.tlb.filter fun t => !hit t })]
  cases sget s.cores k <;> rfl

/-- Of the entries dropped none is left in a cache. -/
theorem SameTlbs.dropped {hit : TlbEntry → Bool} (h : SameTlbs (s.dropTlb hit) u) :
    (∀ e ∈ u.cores, ∀ t ∈ e.2.tlb, hit t = false) ∧ (∀ e ∈ u.dies, ∀ t ∈ e.2, hit t = false)
      ∧ ∀ k, ∀ t ∈ (s.core k).tlb, hit t = false → t ∈ (u.core k).tlb := by
  refine ⟨fun e he t ht => ?_, fun e he t ht => ?_, fun k t ht miss => ?_⟩
  · obtain ⟨k, ht | ⟨e, he, ht⟩⟩ := h.held e he t ht
    · rw [dropTlb_core] at ht
      simpa using List.of_mem_filter ht
    · obtain ⟨e, -, rfl⟩ := List.mem_map.mp he
      simpa using List.of_mem_filter ht
  · rw [h.dies] at he
    obtain ⟨e, -, rfl⟩ := List.mem_map.mp he
    simpa using List.of_mem_filter ht
  · rw [h.core, dropTlb_core]
    exact List.mem_filter.mpr ⟨ht, by simp [miss]⟩

/-- The contexts TLBINV names. -/
def tlbinvOwn (scope : TlbScope) (b : Option Opnd) (iss : Iss) (s : State) (x : Nat) : Bool :=
  match scope with
  | .all => s.inPartition (s.cregPart iss) x
  | _ => x == (b.map fun o => (s.rd32 iss.gid iss.lead 0 o).toNat % 4096).getD 0

/-- The cached translations TLBINV removes. -/
def tlbinvHit (scope : TlbScope) (a b : Option Opnd) (iss : Iss) (s : State) (t : TlbEntry) : Bool :=
  tlbinvOwn scope b iss s t.ctx && match scope with
    | .page => t.va.toNat / 2 ^ t.bits == (a.map fun o => (s.rd64 iss.gid iss.lead 0 o).toNat % 2 ^ 56).getD 0 / 2 ^ t.bits
    | _ => true

/-- TLBINV's effect at issue. -/
def tlbinvBody (m : Meta) (scope : TlbScope) (a b : Option Opnd) (iss : Iss) (s : State) : Res :=
  if !s.atLevel iss.gid 1 then .trap s iss.priv
  else .op (s.dropTlb (tlbinvHit scope a b iss s)) (Op.of iss m [.awaitOps (s.openAccesses (tlbinvOwn scope b iss s))])

theorem exec_tlbinv (c : Ctl) (scope : TlbScope) (a b : Option Opnd) (s : State) :
    let m := Meta.systemOp c [] ((a.toList.map fun o => (o, true)) ++ b.toList.map fun o => (o, false))
    exec (.tlbinv c scope a b) s = instr m s (tlbinvBody m scope a b) := rfl

theorem tlbinvBody_of_low {m : Meta} {scope : TlbScope} {a b : Option Opnd} (hl : s.atLevel iss.gid 1 = false) :
    tlbinvBody m scope a b iss s = .trap s iss.priv := by
  simp only [tlbinvBody, hl, Bool.not_false, if_true]

theorem tlbinvBody_of_high {m : Meta} {scope : TlbScope} {a b : Option Opnd} (hl : s.atLevel iss.gid 1 = true) :
    tlbinvBody m scope a b iss s = .op (s.dropTlb (tlbinvHit scope a b iss s))
      (Op.of iss m [.awaitOps (s.openAccesses (tlbinvOwn scope b iss s))]) := by
  simp only [tlbinvBody, hl, Bool.not_true, Bool.false_eq_true, if_false]

/-- An instruction that ends with an operation that only waits for others leaves the caches as its effect `t` does. -/
theorem tlbs_of_await {m : Meta} {body : Iss → State → Res} {l : List (Nat × Nat)} (h : Ready s m iss)
    (hb : body iss (s.issuing m iss) = .op t (Op.of iss m [.awaitOps l])) (hf : m.opFlag = true) (hi : Idle t iss) :
    SameTlbs t (s.run m iss body) := by
  obtain ⟨ops, restarts⟩ := hi
  rw [State.run_of_op h hb hf]
  refine (SameTlbs.addOp t m iss (s.issueL m iss) false (s.overtaken m iss) (Op.of iss m [.awaitOps l])).trans
    (SameTlbs.trans ?_ (SameTlbs.moveOn _ m iss))
  have e (n : Nat) : State.group { t with names := { t.names with op := n } } iss.gid = t.group iss.gid := rfl
  have settled := OpsOnly.settleGroup (gid := iss.gid) (l := l)
    (s := t.addOp m iss (s.issueL m iss) false (s.overtaken m iss) (Op.of iss m [.awaitOps l]))
    (o := { Op.of iss m [.awaitOps l] with oid := t.names.op, olds := (s.overtaken m iss).filter fun h => h.ready.isSome })
    (by simp [State.addOp, State.addHazards, State.noteIssue, e, ops]) rfl
    (by simp [State.addOp, State.addHazards, State.noteIssue, e, restarts])
  exact .of_eq settled.cores settled.dies

/-- TLBINV removes the translations it names, wherever they are cached, and no other from a core's cache. -/
theorem tlbinv_removes {i : Instr} {m : Meta} {scope : TlbScope} {a b : Option Opnd} {gone : TlbEntry → Prop}
    (h : Ready s m iss) (he : exec i s = instr m s (tlbinvBody m scope a b)) (hf : m.opFlag = true) (hi : Idle s iss)
    (hl : (s.group iss.gid).level ≠ .l0) (hg : ∀ t, tlbinvHit scope a b iss (s.issuing m iss) t = true ↔ gone t) :
    ∃ u, exec i s = .next u ∧ SameRegs s u ∧ SameBytes s u ∧ (∀ e ∈ u.cores, ∀ t ∈ e.2.tlb, ¬gone t)
      ∧ (∀ e ∈ u.dies, ∀ t ∈ e.2, ¬gone t) ∧ ∀ k, ∀ t ∈ (s.core k).tlb, ¬gone t → t ∈ (u.core k).tlb := by
  have body := tlbinvBody_of_high (m := m) (scope := scope) (a := a) (b := b)
    (State.atLevel_one.mpr hl : (s.issuing m iss).atLevel iss.gid 1 = true)
  obtain ⟨cores, dies, kept⟩ := (tlbs_of_await h body hf hi).dropped
  have held : (s.run m iss (tlbinvBody m scope a b)).held = s.held := by
    rw [State.run_of_op h body hf]
    simp [State.issuing]
  have miss (t : TlbEntry) : tlbinvHit scope a b iss (s.issuing m iss) t = false ↔ ¬gone t := by
    rw [← hg t, Bool.not_eq_true]
  simp only [miss] at cores dies kept
  exact ⟨_, by rw [he, State.instr_of_ready h], .of_held held, .of_held held, cores, dies, kept⟩

/-! What TLBINV names, by its scope: its operands read at issue as they do before. -/

section
variable {m : Meta} {a b : Opnd} {t : TlbEntry}

theorem tlbinvHit_all : tlbinvHit .all none none iss (s.issuing m iss) t = true ↔ (s.ctx t.ctx).part = (s.team iss.tid).part := by
  simp [tlbinvHit, tlbinvOwn, State.inPartition, State.cregPart, State.ctx, State.team, State.issuing]

theorem tlbinvHit_context (hb : b.isS = true) : tlbinvHit .context none (some b) iss (s.issuing m iss) t = true
    ↔ t.ctx = (s.rd32 iss.gid iss.lead 0 b).toNat % 4096 := by
  simp [tlbinvHit, tlbinvOwn, rd32_issuing (isSI_of_isS hb)]

theorem tlbinvHit_page (ha : a.isEvenS = true) (hb : b.isS = true) :
    tlbinvHit .page (some a) (some b) iss (s.issuing m iss) t = true
      ↔ t.ctx = (s.rd32 iss.gid iss.lead 0 b).toNat % 4096
        ∧ t.va.toNat / 2 ^ t.bits = (s.rd64 iss.gid iss.lead 0 a).toNat % 2 ^ 56 / 2 ^ t.bits := by
  simp [tlbinvHit, tlbinvOwn, rd32_issuing (isSI_of_isS hb), rd64_issuing ha]

end

end Sys2Proof.Machine
end

section
/-! PROOF. RTE, ICINV, TLBINV, DCFLUSH and table walks, assembled. -/

namespace Sys2Proof.Machine

variable {c : Ctl} {s : State} {iss : Iss}

/-- ICINV ends, and has emptied the caches it reaches. -/
theorem icinv_finishes {scope : IcScope} (h : Ready s (.system c [] []) iss) :
    Finishes (.icinv c scope) (.system c [] []) s iss fun t => SameRegs s t ∧ SameBytes s t
      ∧ (scope ≠ .context → ∀ w ∈ (t.core iss.cid).icache, 4096 ≤ w.1)
      ∧ (scope = .context → ∀ k, (∃ x ∈ s.teamsOn k, (s.team x).ctx = (s.team iss.tid).ctx) → (t.core k).icache = [])
      ∧ (scope = .core → ∀ k, k ≠ iss.cid → t.core k = s.core k) :=
  State.finishes_of_ready h (exec_icinv c scope s) rfl rfl
    ⟨.of_held rfl, .of_held rfl, icinvLeaves_caches (s := s.issuing (.system c [] []) iss) scope⟩

/-- DCFLUSH ends, traps or waits by the first page of its range that faults. -/
theorem dcflush_ends {a b : Opnd} (hw : (Instr.dcflush c a b).wf = true) :
    let m : Meta := .system c [] [(a, true), (b, false)]
    Ready s m iss →
    (∀ v, (s.issuing m iss).flushPages iss (dcflushPages a b s iss) = (none, v) →
        Finishes (.dcflush c a b) m s iss fun t => t = v ∧ SameRegs s t ∧ SameBytes s t)
      ∧ ∀ p v, ((s.issuing m iss).flushPages iss (dcflushPages a b s iss) = (some (p, .perm), v) →
          Traps (.dcflush c a b) m s iss (iss.cause 10 0 0 (BitVec.ofNat 64 p)) fun t => t = v)
        ∧ ((s.issuing m iss).flushPages iss (dcflushPages a b s iss) = (some (p, .wait), v) →
          exec (.dcflush c a b) s = .next s) := by
  intro m h
  obtain ⟨ha, hb⟩ := wf_dcflush hw
  have pages : dcflushPages a b (s.issuing m iss) iss = dcflushPages a b s iss := by
    simp only [dcflushPages, rd64_issuing ha, rd32_issuing hb]
  have he := exec_dcflush c a b s
  refine ⟨fun v hv => ?_, fun p v => ⟨fun hv => ?_, fun hv => ?_⟩⟩ <;> rw [← pages] at hv
  · have bench := bench_flushPages (s := s.issuing m iss) (iss := iss) (dcflushPages a b (s.issuing m iss) iss)
    have held := held_of_pair hv (held_flushPages ..)
    rw [hv] at bench
    exact State.finishes_of_ready h he (congrArg (dcflushEnds iss) hv) (congrArg Prod.fst bench)
      ⟨rfl, .of_held (s := s) held, .of_held (s := s) held⟩
  · exact State.traps_of_ready h he (congrArg (dcflushEnds iss) hv) rfl
  · rw [he, State.instr_of_ready h, run_of_hold h (congrArg (dcflushEnds iss) hv)]

end Sys2Proof.Machine

open Sys2Proof.Machine

/-- Settles O45: RTE by the records of its frame, the other instructions by what each leaves of the caches. -/
theorem returnAndCaches : Obligations.ReturnAndCaches := by
  constructor
  · intro c scope tscope a b s iss mr m0 md level
    refine ⟨fun _ h => ⟨fun hl => ?_, fun hl hs hf hp => ?_, fun n hl hs hsys hf hp => ⟨fun ok => ?_, fun i hi bad => ?_⟩⟩,
      fun _ h => icinv_finishes h, fun hw h => dcflush_ends hw h, ?_⟩
    · exact State.traps_of_ready h (exec_rte c s) (rteBody_of_low (s := s.issuing mr iss) (low_of_l0 hl)) rfl
    · exact State.traps_of_ready h (exec_rte c s)
        (rteBody_of_none (s := s.issuing mr iss) (State.atLevel_one.mpr hl) hs hp hf) rfl
    · exact rte_returns h (exec_rte c s) rfl hl hs hp hf hsys ok
    · exact rte_kills h (exec_rte c s) rfl hl hs hp hf hi bad
    · intro oa ob mt cx va gone hw h hi
      refine ⟨fun hl => ?_, fun hl => ?_⟩
      · exact State.traps_of_ready h (exec_tlbinv c tscope oa ob s)
          (tlbinvBody_of_low (s := s.issuing mt iss) (low_of_l0 hl)) rfl
      · refine tlbinv_removes h (exec_tlbinv c tscope oa ob s) rfl hi hl fun t => ?_
        obtain ⟨ha, hb⟩ := Sys2Proof.Coding.tlbinv_operands hw
        cases tscope with
        | all => exact tlbinvHit_all
        | context => exact tlbinvHit_context hb
        | page => exact tlbinvHit_page ha hb
  · intro s cid ctx bits va kind e
    exact ⟨fun ready leaf => ⟨_, walk_leaf ready leaf, fillTlb_caches .., .of_held (held_fillTlb ..), .of_held (held_fillTlb ..)⟩,
      walk_fault⟩
end
